-- ==== Sys2Proof/Word.lean ====
section
/-! DEFINITION. The words of the FS16: bytes, dwords and 64-bit words (R3, R42), and Nat-keyed tables and memories as plain data. -/

namespace Sys2Proof

/-- One byte, the device's smallest addressable unit (R3). -/
abbrev Byte := BitVec 8

/-- A dword: the width of a hardware register (R42). -/
abbrev Word32 := BitVec 32

/-- A 64-bit word: RESULT0, DETAIL and the LO/HI register pairs. -/
abbrev Word64 := BitVec 64

/-- A finite table: entries keyed by number, keys strictly rising. What a key that is not listed holds is said by the reader. -/
abbrev Tab (α : Type) := List (Nat × α)

end Sys2Proof
end

