-- ==== Sys2Proof/Syntax.lean ====
section
/-! DEFINITION. The commands of the block (spec/opcode_table.json), and the data that reach it from outside with them: what a pin, a sensor, a partner, a noise source or a published instruction set brings. -/

namespace Sys2Proof

/-- A register or CSR a base instruction writes (RV64GC and the vector extension follow their published specifications, R17). -/
inductive RegWrite where
  | x (n v : Nat)
  | f (n v : Nat)
  | v (n val : Nat)
  | fcsr (v : Nat)
  | vl (v : Nat)
  | vtype (v : Nat)
  | csr (n v : Nat)
  | reserve (a : Option Nat)
  deriving DecidableEq, Repr

/-- What a base RV64GC or vector instruction does on a tidy core, as its published specification says (R17, R117): `fetch` reads the instruction at the pc and computes it; an effect may also be given: it retires, with its register writes, the byte addresses it loads, its stores and the flags it accrues; or it raises a synchronous exception; or it ends its program's step. -/
inductive TidyEffect where
  | retire (writes : List RegWrite) (loads : List Nat) (stores : List Host.Cell) (nextPc fflags : Nat)
  | trap (cause tval : Nat)
  | stepEnd
  | fetch
  deriving DecidableEq, Repr

/-- Which queue of a large core completes (R102, R130, R269). -/
inductive DescQueue where
  | matrix | sua | move
  deriving DecidableEq, Repr

/-- How the network associated a sum (R281, R282): along the logical tree, or by arrival as a binary tree over operand positions. -/
inductive ArrivalTree where
  | leaf (i : Nat)
  | node (l r : ArrivalTree)
  deriving DecidableEq, Repr

/-- The sums of one request that were combined by arrival: bag, 64-byte flit of the result, and the tree its operands followed. -/
abbrev Arrivals := List (Nat × Nat × ArrivalTree)

/-- What the header and the signature of a firmware image say (R361, R376, R377), in a format that the spec does not lay out: whether it is malformed, the processor type, the version, the root key used, the root keys it revokes, and the signature. The bytes signed are those in host memory. -/
structure FwImage where
  malformed : Bool
  proc : Nat
  version : Nat
  key : Nat
  revokes : Nat
  sigR : List Byte
  sigS : List Byte
  deriving DecidableEq, Repr

/-- What one estimate of the issue governor finds (R311, R314): the energy of the activity counts as module power in milliwatts, the duty at which the slope limiter holds a rise, and the loads of the three domains in watts. The per-event energies are the part's own, and the spec does not give them. -/
structure LoadEstimate where
  e : Nat
  slopeDuty : Nat
  compute : Nat
  memory : Nat
  links : Nat
  deriving DecidableEq, Repr


/-- One reading of the temperature sensors in °C (R327): the hottest junction of each cluster, of the hub, and of each stack. -/
structure Temperatures where
  clusters : List Nat
  hub : Nat
  stackTemps : List Nat
  deriving DecidableEq, Repr

/-- What the SMU's metrology filter delivers for one interval of 125 µs (R335, R337): the energy of each rail group in units of 2^-16 µJ, at the converter's saturation value where it left its range, and the range that was left, if one was: rail B, and voltage in place of current. -/
structure SmuSample where
  energyA : Nat
  energyB : Nat
  outOfLimits : Option (Bool × Bool)
  deriving DecidableEq, Repr

/-- What goes into one frame of the SMU bus (R337, R338, R342): the mean module power of the window in units of 0.1 W, the governor's energy of each job in the window and of everything else, in µJ, and the bits of the attribution slot that reach the SMU in error. -/
structure SmuFrameIn where
  power : Nat
  jobs : List (Nat × Nat)
  other : Nat
  errors : Nat
  deriving DecidableEq, Repr

/-- An SMU image offered at a sealing (R350, R351): its version, its legally relevant part and the rest, and its signature. -/
structure SmuImage where
  version : Nat
  legal : List Byte
  rest : List Byte
  sigR : List Byte
  sigS : List Byte
  deriving DecidableEq, Repr

/-- An error that a unit detects (R398, R402): the unit's page, KIND, the device address of the word or line or 0, the code syndrome; for the accumulator memory the element, as tile × 65,536 + row × 256 + column; the context whose save or restore met it in its own path, if any; and for a router that fails, the job and the address of each request it held or lost (R406). -/
structure ErrorSite where
  page : Nat
  kind : Nat
  address : Nat
  syndrome : Nat
  element : Nat
  path : Option Nat
  lost : List (Nat × Nat)
  deriving DecidableEq, Repr

/-- A request as it arrives at its target (R275, R278, R416): its number, target and requester pages, its device address and length, the job it belongs to, whether it is a write or a control message, and what the target's router measured on its way: its age since it entered the network and the operand pairs combined in flight. -/
structure NetRequest where
  id : Nat
  target : Nat
  requester : Nat
  address : Nat
  bytes : Nat
  job : Option Nat
  write : Bool
  control : Bool
  age : Nat
  /-- The routers that have granted it, by cluster, with its age there. -/
  passed : List (Nat × Nat)
  combines : Nat
  deriving DecidableEq, Repr

/-- The item a sample names (R442, Table 18-9): precise or the oldest in flight, KIND, tidy core, job or 0, TAG, ticket, address and word of the item, the first address it accessed, and the slot category of the wrapping cycle. -/
structure SampleItem where
  precise : Bool
  kind : Nat
  tidy : Nat
  job : Nat
  tag : Nat
  ticket : Nat
  itemAddr : Nat
  itemWord : Nat
  dataAddr : Nat
  category : Nat
  deriving DecidableEq, Repr

/-- How a sampled item ended (R442): completed after a number of core cycles, or discarded. -/
inductive SampleOutcome where
  | completed (latency : Nat)
  | discarded
  deriving DecidableEq, Repr

/-- An identity frame (R450): DEVICE_ID, FS8 or FS16, generations supported (bit 0 Sholo-1, bit 1 Sholo-2), port number, SYS_POSITION and the time-alignment state. -/
structure Identity where
  deviceId : Nat
  fs8 : Bool
  gens : Nat
  port : Nat
  position : Nat
  align : Nat
  deriving DecidableEq, Repr

/-- A transfer that a partner starts toward this module's window (R456, R457). -/
structure Incoming where
  write : Bool
  off : Nat
  len : Nat
  post : Option Nat
  deriving DecidableEq, Repr

/-- How a transfer ends (R457, R458): at the partner with its bytes copied, the partner's window bytes for a READ; refused by a partner check with its code; or, for an incoming transfer, with the bytes that a WRITE has brought. -/
inductive TransferEnd where
  | done (bytes : List Byte)
  | refused (code : Nat)
  | arrived (bytes : List Byte)
  deriving DecidableEq, Repr

/-- What a Sholo transport datagram carries that matters to the port (R461, R462). -/
inductive DatagramKind where
  | identity (ident : Identity)
  | ack (numbers : List Nat)
  | data
  deriving DecidableEq, Repr

/-- A datagram that arrives on an Ethernet port: its source's IPv6 address and UDP port, and its content. -/
structure Datagram where
  addr : Nat
  udp : Nat
  kind : DatagramKind
  deriving DecidableEq, Repr

/-- What a bring-up stage found (Table 20-1): stages 1 and 2, the processors whose image last run, and those whose other image, no longer reads from the boot flash as it was signed, by PROC; stage 4, the clusters whose rails and router came up; stage 6, the slots whose link of the running-sum chain puts out another sum than the stored one (R474). -/
structure StageResult where
  badRun : Nat
  badOther : Nat
  clusters : Nat
  chainFailed : Nat
  deriving DecidableEq, Repr

/-- An access through the JTAG port (Table 16-3): boundary scan; halting, stepping and resuming a tidy core (numbered 8n + m) or a firmware processor; a tidy core's integer, floating-point and vector registers (a vector register by 64-bit lane), CSRs and pc; a firmware processor's registers and memory; and device memory. -/
inductive JtagAccess where
  | boundaryScan
  | haltTidy (tc : Nat)
  | resumeTidy (tc : Nat)
  | stepTidy (tc : Nat)
  | haltProc (proc : Nat)
  | resumeProc (proc : Nat)
  | readReg (tc reg : Nat)
  | writeReg (tc reg value : Nat)
  | readPc (tc : Nat)
  | writePc (tc value : Nat)
  | readMem (address : Nat)
  | writeMem (address : Nat) (byte : Byte)
  | stepProc (proc : Nat)
  | readF (tc reg : Nat)
  | writeF (tc reg value : Nat)
  | readV (tc reg lane : Nat)
  | writeV (tc reg lane value : Nat)
  | readCsr (tc csr : Nat)
  | writeCsr (tc csr value : Nat)
  | readProcReg (proc reg : Nat)
  | writeProcReg (proc reg value : Nat)
  | readProcMem (proc address : Nat)
  | writeProcMem (proc address value : Nat)
  deriving DecidableEq, Repr


/-- The bytes of a page that a read names: where they begin and how many there are (R42). -/
structure Span where
  off : Nat
  len : Nat
  deriving DecidableEq, Repr

/-- What an alignment message says: the hops from its sender to the source, and local device time minus the source's (R87). -/
structure AlignMsg where
  hops : Nat
  offset : Int
  deriving DecidableEq, Repr

/-- The CSR that a csrrw names, and the register that takes its old value (R211). -/
structure CsrSwap where
  rd : Nat
  csr : Nat
  deriving DecidableEq, Repr

/-- How a window record reaches the power core: the bits of it that arrive in error, and the device time at which the window ended (R339). -/
structure WindowArrival where
  errors : Nat
  endAt : Nat
  deriving DecidableEq, Repr

/-- A request on an SMU channel: its time, the channel, and whether the CRC of each of its portions was right (R340). -/
structure SmuCall where
  t : Nat
  channel : Nat
  crcOk : Bool
  deriving DecidableEq, Repr

/-- A datagram whose acknowledgement is overdue: its number, and the time since it was sent (R462). -/
structure Resend where
  number : Nat
  delay : Nat
  deriving DecidableEq, Repr

/-- The commands of the block: one constructor per row of spec/opcode_table.json. Every command carries `t`, the device time at which it takes its place in the serial order of R48. -/
inductive Instr where
  /-- NOP (R478). Completes OK in every serviced state and returns the boot record in RESULT0 and RESULT1. -/
  | nop (t : Nat) (ring : Nat)
  /-- CTX_CREATE (R288). Takes the lowest free context, fixes its profile, makes the issuing function its owner and returns the context number. -/
  | ctxCreate (t : Nat) (ring : Nat)
  /-- CTX_DESTROY (R289). Frees the context's jobs, regions, synchronisation objects and slate positions, after which its page reads FREE. -/
  | ctxDestroy (t : Nat) (ring : Nat)
  /-- CTX_SAVE (R408). Checks a save request, holds the context's cores and starts writing the context image, answering PENDING. -/
  | ctxSave (t : Nat) (ring : Nat)
  /-- CTX_SAVE_DONE (R409). Writes the final record of a save once the image is written, or reports OUT_OF_RANGE or JOB_FAULT. -/
  | ctxSaveDone (t : Nat) (ctx : Nat)
  /-- CTX_RESTORE (R305). Checks the geometry header of an image and answers PENDING or fails with BAD_FORMAT, GEOMETRY_MISMATCH or NO_RESOURCE. -/
  | ctxRestore (t : Nat) (ring : Nat)
  /-- CTX_RESTORE_DONE (R306). Installs the restored state and shape map and writes the final record with CTX_REALISE, CTX_SHAPE_MAP and the TDC_RESTORE increments. -/
  | ctxRestoreDone (t : Nat) (ctx : Nat)
  /-- JOB_DEFINE (R257). Copies a plan into the plan store, checks its header and returns a new JOB_ID in DEFINED. -/
  | jobDefine (t : Nat) (ring : Nat)
  /-- JOB_PLACE (R261). Checks and places the job's tensors, maps regions, copies hot rows, writes the base table and the placement record, and moves the job to PLACED. -/
  | jobPlace (t : Nat) (ring : Nat)
  /-- JOB_QUEUE (R74). Checks the launch condition, takes a launch entry, puts the job in QUEUED and writes an interim PENDING record. -/
  | jobQueue (t : Nat) (ring : Nat)
  /-- JOB_ABORT (R60). Ends a job from DEFINED to DRAINING as ABORTED, with a final JOB_QUEUE completion of JOB_ABORTED if there is one. -/
  | jobAbort (t : Nat) (ring : Nat)
  /-- JOB_RELEASE (R266). Frees a finished job's handle and plan store space and unmaps its regions that are not PERSIST, deferring the unmapping while other jobs of the context run. -/
  | jobRelease (t : Nat) (ring : Nat)
  /-- SEED_REQUEST (R222). Takes 128 bits from the CTR_DRBG as a device-chosen seed, with an optional receipt, or completes with an entropy code. -/
  | seedRequest (t : Nat) (ring : Nat)
  /-- ENTROPY_READ (R245). Checks a request for generator, conditioned or raw bits and queues it, or answers it with an entropy or format code. -/
  | entropyRead (t : Nat) (ring : Nat)
  /-- SET_CAP (R319). Checks a new owner cap and priority order and answers PENDING with effective time S. -/
  | setCap (t : Nat) (ring : Nat)
  /-- SET_PLATFORM_LIMIT (R319). Checks a new platform limit and answers PENDING with S set to the check time. -/
  | setPlatformLimit (t : Nat) (ring : Nat)
  /-- SET_ICE_MODE (R323). Checks an Ice-mode enter, change or leave request and answers PENDING with S under R80. -/
  | setIceMode (t : Nat) (ring : Nat)
  /-- POWER_STATE_SNOWPACK (R332). Starts putting the stacks into self-refresh and the ports into low-power idle to enter SNOWPACK from FROST. -/
  | powerStateSnowpack (t : Nat) (ring : Nat)
  /-- POWER_STATE_FROST (R332). Starts taking the stacks out of self-refresh and the ports back into service to return from SNOWPACK to FROST. -/
  | powerStateFrost (t : Nat) (ring : Nat)
  /-- FW_STAGE (R361). Accepts a firmware image for a processor and answers PENDING while the security core copies and verifies it. -/
  | fwStage (t : Nat) (ring : Nat)
  /-- FW_STAGE_COMPLETE (R361). Finishes verification, writes the image to the staged slot and writes the final record with the first failing code or OK. -/
  | fwStageComplete (t : Nat) (proc : Nat) (image : FwImage)
  /-- FW_ACTIVATE (R362). Checks an activation of a staged image and answers PENDING with S. -/
  | fwActivate (t : Nat) (ring : Nat)
  /-- ACTIVATION_START (R362). At S, with no other activation running, starts an activation, or defers it during an emergency, and puts the processor in RESTARTING. -/
  | activationStart (t : Nat) (proc : Nat)
  /-- ACTIVATION_SELF_CHECK_PASS (R362). The restarted processor passes its self-check, its pages return to IDLE, the rollback floor advances and the final record is OK. -/
  | activationSelfCheckPass (t : Nat) (proc : Nat)
  /-- ACTIVATION_RESTART_TIMEOUT (R362). The restart time passes without a good self-check, so the processor reboots from the old slot and the activation completes BAD_FORMAT with REVERTED. -/
  | activationRestartTimeout (t : Nat) (proc : Nat)
  /-- ACTIVATION_ABANDON (R364). After 60 s of deferral the activation is abandoned with DEFERRED_EMERGENCY, and the image stays staged. -/
  | activationAbandon (t : Nat) (proc : Nat)
  /-- ATTACH (R369). Starts the driver lease with deadline D and moves the module from READY to FROST. -/
  | attach (t : Nat) (ring : Nat)
  /-- LEASE_RENEW (R369). Sets the lease deadline to the check time plus the interval, or ends the host-write stop in FAULTED or DUMPING. -/
  | leaseRenew (t : Nat) (ring : Nat)
  /-- TAKEOVER (R373). Restarts the lease for a new driver in ORPHANED and writes its own completion to its ring. -/
  | takeover (t : Nat) (ring : Nat)
  /-- ORPHAN_RESOLVE_RESUME (R373). Writes the stored completions to their rings, resumes the stopped operations and leaves ORPHANED. -/
  | orphanResolveResume (t : Nat) (ring : Nat)
  /-- ORPHAN_RESOLVE_DISCARD (R373). Aborts every job from QUEUED to DRAINING, discards the stored records and stopped operations, and leaves ORPHANED. -/
  | orphanResolveDiscard (t : Nat) (ring : Nat)
  /-- DETACH (R369). Ends the driver lease and returns the module to READY. -/
  | detach (t : Nat) (ring : Nat)
  /-- UNIT_RESET (R419). Checks a unit reset, puts the unit and its descendants in RESETTING with new epochs and answers PENDING. -/
  | unitReset (t : Nat) (ring : Nat)
  /-- UNIT_RESET_COMPLETE (R419). When every reset unit is IDLE, writes the final record with the new epoch and queues the class-6 record. -/
  | unitResetComplete (t : Nat) (page : Nat)
  /-- MODULE_RESET (R413). A warm reset that ends contexts, jobs, rings, the lease, unlocks and Ice mode and takes the module through RESET to a warm bring-up. -/
  | moduleReset (t : Nat) (ring : Nat)
  /-- KEY_MANAGE_INSTALL (R386). Checks the installation of a wrapped owner key into an EMPTY slot and answers PENDING. -/
  | keyManageInstall (t : Nat) (ring : Nat)
  /-- KEY_MANAGE_REPLACE (R386). Checks the replacement of a slot's key and ADMIN flag and answers PENDING. -/
  | keyManageReplace (t : Nat) (ring : Nat)
  /-- KEY_MANAGE_REVOKE (R386). Checks the revocation of a key slot and answers PENDING. -/
  | keyManageRevoke (t : Nat) (ring : Nat)
  /-- KEY_MANAGE_SET_PASSWORD (R386). Checks a wrapped owner password and answers PENDING before storing its verifier. -/
  | keyManageSetPassword (t : Nat) (ring : Nat)
  /-- KEY_MANAGE_CLEAR_PASSWORD (R386). Checks the deletion of the owner password verifier and answers PENDING. -/
  | keyManageClearPassword (t : Nat) (ring : Nat)
  /-- KEY_MANAGE_COMMIT (R386). Writes the key or password change to the replay-protected region and completes OK within 100 ms. -/
  | keyManageCommit (t : Nat)
  /-- LIFE_STATE (R388). Checks a move to a later life state and answers PENDING. -/
  | lifeState (t : Nat) (ring : Nat)
  /-- LIFE_STATE_COMMIT (R388). Burns and verifies the life-state fuses, ends any unlock and completes OK within 50 ms. -/
  | lifeStateCommit (t : Nat)
  /-- DEBUG_UNLOCK_OWNER (R392). Checks an owner password unlock and answers PENDING while the verifier is computed. -/
  | debugUnlockOwner (t : Nat) (ring : Nat)
  /-- OWNER_VERIFIER_DONE (R392). When the password verifier is computed, opens the OWNER unlock or completes with AUTH_FAIL and counts a failure. -/
  | ownerVerifierDone (t : Nat)
  /-- DEBUG_UNLOCK_CHALLENGE (R393). Obtains a 256-bit vendor challenge nonce from the generator with WAIT_WINDOW set. -/
  | debugUnlockChallenge (t : Nat) (ring : Nat)
  /-- DEBUG_UNLOCK_RESPONSE (R394). Verifies the vendor's signed response to the challenge and opens the VENDOR unlock. -/
  | debugUnlockResponse (t : Nat) (ring : Nat)
  /-- DEBUG_UNLOCK_LOCK (R395). Ends any unlock in force, closing JTAG sessions and clearing LOG_CONTROL. -/
  | debugUnlockLock (t : Nat) (ring : Nat)
  /-- SMU_ACCOUNT_ASSIGN (R346). Sets a context's tenant tag, logged in the SMU and effective at the next attribution interval boundary. -/
  | smuAccountAssign (t : Nat) (ring : Nat)
  /-- SMU_ACCOUNT_LABEL (R346). Sets an account's label, logged in the SMU and effective at the next attribution interval boundary. -/
  | smuAccountLabel (t : Nat) (ring : Nat)
  /-- COUNTER_FREEZE_FREEZE (R438). Schedules a freeze of every counter of every page at S. -/
  | counterFreezeFreeze (t : Nat) (ring : Nat)
  /-- COUNTER_FREEZE_UNFREEZE (R438). Schedules the counters to resume at S. -/
  | counterFreezeUnfreeze (t : Nat) (ring : Nat)
  /-- COUNTER_FREEZE_SNAPSHOT (R438). Schedules a capture of every counter at S for write-out to host memory. -/
  | counterFreezeSnapshot (t : Nat) (ring : Nat)
  /-- COUNTER_FREEZE_SAMPLE_DRAIN (R440). Copies the sample records at the head of the ring to host memory, removes them and returns the count. -/
  | counterFreezeSampleDrain (t : Nat) (ring : Nat)
  /-- DUMP_READ (R427). Checks a read of a range of the held Moraine dump and answers PENDING. -/
  | dumpRead (t : Nat) (ring : Nat)
  /-- DUMP_READ_DONE (R427). Finishes copying the dump bytes to the host and writes the final record with DUMP_BYTES and FATAL_TIME. -/
  | dumpReadDone (t : Nat)
  /-- DUMP_RELEASE (R428). Frees the dump region so that a later fatal error can write a new dump. -/
  | dumpRelease (t : Nat) (ring : Nat)
  /-- RING_ENABLE (R46). Writing ENABLE 1 to a drained ring resets its indices and expected phase and starts fetching. -/
  | ringEnable (t : Nat) (fn ring : Nat)
  /-- RING_DISABLE (R46). Writing ENABLE 0 stops fetching and clears HALTED, and the ring becomes DRAINED once no command awaits a completion. -/
  | ringDisable (t : Nat) (fn ring : Nat)
  /-- SQ_TAIL_DOORBELL (R47). Makes submission entries available up to the new tail, or halts the ring on an out-of-range tail. -/
  | sqTailDoorbell (t : Nat) (fn ring value : Nat) (host : List Host.Cell)
  /-- CQ_HEAD_WRITE (R47). Frees completion slots consumed by the host, or halts the ring on an out-of-range value. -/
  | cqHeadWrite (t : Nat) (fn ring value : Nat)
  /-- RING_WAKE_ARM (R51). Arms a one-shot MSI-X wake, which is sent at once if completions are already waiting. -/
  | ringWakeArm (t : Nat) (fn ring vector : Nat)
  /-- COMPLETION_WRITE (R50). Writes a pending completion record into a free completion-ring slot, last dword last, once room exists. -/
  | completionWrite (t : Nat) (ring : Nat)
  /-- ATTNQ_POP (R58). Removes the head record of a function's attention queue. -/
  | attnqPop (t : Nat) (fn queue : Nat)
  /-- REGISTER_WRITE (R5). A write to a register with no row of its own takes effect by its access code, or is ignored whole and logged. -/
  | registerWrite (t : Nat) (fn page off len data : Nat)
  /-- RC_READ (R6). A read of an RC field returns the value and clears it, keeping any coincident event. -/
  | rcRead (t : Nat) (fn page : Nat) (span : Span)
  /-- LATCHING_LO_READ (R70). A read of a LO register returns the low bits and latches the HI half for the reading function. -/
  | latchingLoRead (t : Nat) (fn page : Nat) (span : Span)
  /-- EMULATED_PAGE_READ (R45). A firmware-served read waits for earlier writes to the page and returns data with the status word of the first failed write. -/
  | emulatedPageRead (t : Nat) (fn page : Nat) (span : Span)
  /-- EMULATED_PAGE_WRITE (R45). A firmware-served write enters the page's 16-entry write queue, or is discarded when the queue is full or the processor is restarting. -/
  | emulatedPageWrite (t : Nat) (fn page off len data : Nat)
  /-- EMULATED_WRITE_APPLY (R45). The serving processor applies the next queued write to its page. -/
  | emulatedWriteApply (t : Nat) (page : Nat)
  /-- EMULATED_READ_TIMEOUT (R44). A firmware-served read not answered within 1 ms returns zero with UNIT_OFFLINE. -/
  | emulatedReadTimeout (t : Nat) (fn page off : Nat)
  /-- BAR2_READ (R41). A host read through BAR2 reaches device memory at BAR2_BASE plus offset, or reads zero and is logged. -/
  | bar2Read (t : Nat) (fn off len : Nat)
  /-- BAR2_WRITE (R41). A host write through BAR2 reaches device memory, or is ignored and logged. -/
  | bar2Write (t : Nat) (fn off : Nat) (bytes : List Byte)
  /-- TIME_DOMAIN_LOCK (R66). The time domain locks after a cold reset and device time starts counting from 0. -/
  | timeDomainLock (t : Nat)
  /-- ALIGN_INTERVAL (R87). The alignment interval expires and the module exchanges timestamped alignment messages on its Sholo ports. -/
  | alignInterval (t : Nat)
  /-- ALIGN_MESSAGE (R87). A received alignment message updates the offset, slew rate and alignment state of a following module. -/
  | alignMessage (t : Nat) (port : Nat) (msg : AlignMsg)
  /-- ALIGN_HOLDOVER (R88). Eight message intervals pass without a message from the source and the module enters HOLDOVER. -/
  | alignHoldover (t : Nat)
  /-- LAUNCH_RELEASE_SEND (R75). The scheduler sends a queued job's release to its units at S minus L, or at C when that is later. -/
  | launchReleaseSend (t : Nat) (job : Nat)
  /-- JOB_LAUNCH (R75). At S the job starts on every unit of its placement, moves to LAUNCHED and frees its launch entry. -/
  | jobLaunch (t : Nat) (job : Nat)
  /-- JOB_DONE (R60). Once a draining job's outputs are written, the job reaches DONE and its final JOB_QUEUE completion is OK. -/
  | jobDone (t : Nat) (job : Nat)
  /-- JOB_FAULT_FINAL (R404). When every unit of a faulted job has stopped, the final completion is written with JOB_FAULT. -/
  | jobFaultFinal (t : Nat) (job : Nat)
  /-- SYNC_CONFIG_WRITE (R85). Sets an object's type, mode and owner, clearing its state on a type change, or is ignored and logged while it is waited on. -/
  | syncConfigWrite (t : Nat) (obj data : Nat)
  /-- SYNC_COUNT_WRITE (R85). Sets a semaphore count or barrier arrivals and evaluates satisfactions. -/
  | syncCountWrite (t : Nat) (obj data : Nat)
  /-- SYNC_EXPECTED_WRITE (R85). Sets a barrier's arrivals per firing, possibly making a firing due, or is ignored and logged. -/
  | syncExpectedWrite (t : Nat) (obj data : Nat)
  /-- SYNC_POST (R83). POST n to an object, adding to a count, setting an event or arriving at a barrier, and satisfying waiters. -/
  | syncPost (t : Nat) (obj data : Nat)
  /-- SYNC_CLEAR (R83). CLEAR an object and clear its OVERFLOW, LATE and OVERRUN flags. -/
  | syncClear (t : Nat) (obj data : Nat)
  /-- BARRIER_FIRING (R84). A due timed barrier fires at F, updating LAST_FIRE, GENERATION, COUNT and FIRE_TIME and satisfying its waiting entries. -/
  | barrierFiring (t : Nat) (obj : Nat)
  /-- TIDY_CORE_INSTRUCTION (R117). A base RV64GC or vector instruction executes on a tidy core, trapping and ending the job on a synchronous exception. -/
  | tidyCoreInstruction (t : Nat) (tc : Nat) (effect : TidyEffect)
  /-- XR_CSR_WRITE (R211). A write to XR_STREAM or XR_STEP takes effect for later instructions of the same tidy core. -/
  | xrCsrWrite (t : Nat) (tc : Nat) (swap : CsrSwap) (rs1 : Nat)
  /-- XM_ISSUE (R101). Presents an engine descriptor to a queue, which accepts it with a ticket or rejects it with a code. -/
  | xmIssue (t : Nat) (tc : Nat) (rd rs1 : Nat)
  /-- XM_WAIT (R110). Stalls until the descriptor with the given ticket and all earlier ones in its queue have completed. -/
  | xmWait (t : Nat) (tc : Nat) (rd rs1 : Nat)
  /-- XM_DONE (R110). Reads the last completed ticket and the depth of the selected queue. -/
  | xmDone (t : Nat) (tc : Nat) (rd rs1 : Nat)
  /-- XS_POST (R86). Posts to a synchronisation object with release semantics, or faults the job if its context does not own the object. -/
  | xsPost (t : Nat) (tc : Nat) (rd rs1 rs2 : Nat)
  /-- XS_CLEAR (R86). Clears a synchronisation object, or faults the job if its context does not own the object. -/
  | xsClear (t : Nat) (tc : Nat) (rd rs1 : Nat)
  /-- XC_CVT (R111). Converts binary32 elements to a narrow format, rounding to nearest even, and packs the results. -/
  | xcCvt (t : Nat) (tc : Nat) (vd vs2 fmt : Nat) (sat : Bool)
  /-- XC_SRND (R112). Converts binary32 elements with stochastic rounding keyed by indigo words. -/
  | xcSrnd (t : Nat) (tc : Nat) (vd vs2 rs1 fmt : Nat) (sat : Bool)
  /-- XR_DRAW (R113). Writes GENERAL indigo words for consecutive logical indices to a vector register. -/
  | xrDraw (t : Nat) (tc : Nat) (vd rs1 : Nat)
  /-- XR_DMASK (R113). Writes a dropout mask formed by comparing DROPOUT indigo words with a threshold. -/
  | xrDmask (t : Nat) (tc : Nat) (vd rs1 rs2 : Nat)
  /-- XR_SLATE (R215). Draws the next vl words of a slate stream and advances its position, or raises a slate exception. -/
  | xrSlate (t : Nat) (tc : Nat) (vd rs1 : Nat)
  /-- XT_DRAW (R196). Presents a token-draw request to the SUA queue as a group descriptor, with a ticket or a rejection code. -/
  | xtDraw (t : Nat) (tc : Nat) (rd rs1 : Nat)
  /-- XD_MOVE (R269). Presents a move request to the data mover, which accepts it with a move ticket or rejects it. -/
  | xdMove (t : Nat) (tc : Nat) (rd rs1 : Nat)
  /-- XD_WAIT (R269). Stalls until the move with the given ticket and all earlier moves have completed. -/
  | xdWait (t : Nat) (tc : Nat) (rd rs1 : Nat)
  /-- MATMUL (R99). Runs a matrix multiply on the array, forming runs, promotions, spills and the partial tree into the tile block. -/
  | matmul (t : Nat) (core : Nat)
  /-- REDUCE (R135). Reduces a tile along rows or columns with MAX, MIN, AND, OR or XOR and writes 256 words. -/
  | reduce (t : Nat) (core : Nat)
  /-- TILE_CLEAR (R128). Sets every element of a tile to zero and its tag to CLASS. -/
  | tileClear (t : Nat) (core : Nat)
  /-- TILE_DRAIN (R131). Captures a tile into a free shadow buffer and starts writing it out to SRAM. -/
  | tileDrain (t : Nat) (core : Nat)
  /-- TILE_LOAD (R128). Loads a tile from SRAM with the tag CLASS. -/
  | tileLoad (t : Nat) (core : Nat)
  /-- TILE_COPY (R128). Copies a tile and its tag to another tile entry. -/
  | tileCopy (t : Nat) (core : Nat)
  /-- CHAIN_ADD (R137). Runs one link of a running-sum chain across cores. -/
  | chainAdd (t : Nat) (core : Nat)
  /-- RUNNING_SUM_HANDOVER (R138). A running sum passes to the next link once that link's CHAIN_ADD holds a shadow buffer, or faults the job on a tag mismatch. -/
  | runningSumHandover (t : Nat) (core : Nat)
  /-- WRITE_OUT_END (R131). A shadow buffer finishes writing out to SRAM and becomes free, completing its drain or reduce. -/
  | writeOutEnd (t : Nat) (core buffer : Nat)
  /-- DESCRIPTOR_COMPLETE (R130). A queued descriptor completes in accepted order once its results have landed. -/
  | descriptorComplete (t : Nat) (core : Nat) (queue : DescQueue)
  /-- SUA_FIELDS (R158). A group descriptor starts on all members and forms every field of the problem from rows. -/
  | suaFields (t : Nat) (core : Nat)
  /-- SUA_SWEEP (R157). A group descriptor starts on all members, checks the problem and performs its sweeps in the selected mode. -/
  | suaSweep (t : Nat) (core : Nat) (whole : Bool)
  /-- CHROMATIC_BEAT (R159). Once every member has finished the previous beat, the units of one colour class are decided from fields formed from rows. -/
  | chromaticBeat (t : Nat) (core : Nat)
  /-- WINDOW_STEP (R163). A sequential window is evaluated, the first flip is committed and the fields are updated by its column. -/
  | windowStep (t : Nat) (core : Nat)
  /-- SYNCHRONOUS_BEAT (R166). Every unit that is not frozen decides from the starting fields, and all states are committed together. -/
  | synchronousBeat (t : Nat) (core : Nat)
  /-- ANNEAL_RUN (R185). A continuous-mode group descriptor starts, checks the problem, runs its steps and writes the states. -/
  | annealRun (t : Nat) (core : Nat) (whole : Bool)
  /-- ANNEAL_STEP (R181). One symplectic Euler step updates all momenta and positions from the fields of the starting positions. -/
  | annealStep (t : Nat) (core : Nat)
  /-- TOKEN_DRAW (R200). A matched token-draw request starts, checks shards and parameters, and writes each sequence's Gumbel-max or greedy winner. -/
  | tokenDraw (t : Nat) (core : Nat)
  /-- COPY (R272). The mover copies COUNT bytes from SRC to DST. -/
  | copy (t : Nat) (core : Nat)
  /-- GATHER (R273). The mover gathers rows, optionally pooling them into bags in the network. -/
  | gather (t : Nat) (core : Nat) (arrivals : Arrivals)
  /-- NET_ADD (R274). A group request sums members' vectors in the network tree and writes the result. -/
  | netAdd (t : Nat) (core : Nat) (arrivals : Arrivals)
  /-- SOURCE_SETTLED (R229). A noise source finishes its 100 µs settling and starts its start-up test. -/
  | sourceSettled (t : Nat) (src : Nat)
  /-- REPETITION_COUNT_FAILURE (R227). The repetition count reaches 41, failing the source's current window. -/
  | repetitionCountFailure (t : Nat) (src : Nat)
  /-- ADAPTIVE_PROPORTION_FAILURE (R227). The adaptive proportion count reaches 796, failing the source's current window. -/
  | adaptiveProportionFailure (t : Nat) (src : Nat)
  /-- ENTROPY_WINDOW_END (R231). A passing window closes, releasing its conditioned bits into the pool and any WAIT_WINDOW output awaiting it. -/
  | entropyWindowEnd (t : Nat) (src : Nat) (raw : List Byte)
  /-- DRBG_INSTANTIATE_DONE (R236). The generator finishes instantiating from a source's pool and serves the held requests. -/
  | drbgInstantiateDone (t : Nat)
  /-- DRBG_RESEED (R233). The generator reseeds from 384 pool bits before its 65,537th request, holding requests if the pool is short. -/
  | drbgReseed (t : Nat)
  /-- GENERATE_REQUEST (R233). The generator serves the next queued generate request in 2 to 4 µs. -/
  | generateRequest (t : Nat)
  /-- ENT_RETEST (R249). Writing RETEST starts a start-up test on every FAILED source, or is ignored and logged. -/
  | entRetest (t : Nat) (data : Nat)
  /-- TEST_PATTERN_SELECT (R247). In FACTORY, replaces a source's raw bits with the test pattern and puts the service in TEST. -/
  | testPatternSelect (t : Nat) (data : Nat)
  /-- TEST_PATTERN_DESELECT (R247). Ends TEST, clears both conditioners and pools and reruns the start-up tests. -/
  | testPatternDeselect (t : Nat) (data : Nat)
  /-- ENT_TEST_HI_WRITE (R247). Writing the high half of the pattern loads the 64-bit test pattern. -/
  | entTestHiWrite (t : Nat) (data : Nat)
  /-- GOVERNOR_ESTIMATE (R311). Every 1 µs the issue governor forms E and sets each cluster's duty from the peak and slope limiters. -/
  | governorEstimate (t : Nat) (load : LoadEstimate)
  /-- CONTROL_PERIOD (R312). Every 100 µs the sustained controller sheds or restores one step, moves operating points and handles boost. -/
  | controlPeriod (t : Nat)
  /-- CAP_TAKES_EFFECT (R320). At S a new cap or platform limit and priority order take effect and a 10 ms settling interval begins. -/
  | capTakesEffect (t : Nat)
  /-- SETTLING_INTERVAL_END (R320). The 10 ms settling interval ends unmet, so the command completes CAP_UNREACHABLE and the previous cap returns. -/
  | settlingIntervalEnd (t : Nat)
  /-- ICE_MODE_TAKES_EFFECT (R323). At S the clusters start moving to the Ice-mode point, or normal control resumes. -/
  | iceModeTakesEffect (t : Nat)
  /-- SMU_WINDOW_RECORD (R339). The power core takes a window record from the SMU bus as the measured value M, if it is valid. The operands are the bits that reach it in error, and the device time at which the window ended. -/
  | smuWindowRecord (t : Nat) (arrival : WindowArrival)
  /-- SMU_ABSENCE_TIMEOUT (R326). 1 ms passes without a valid reading, so the SMU is absent, P becomes 1.25 × E and an emergency begins. -/
  | smuAbsenceTimeout (t : Nat)
  /-- DISTRUST_ENTER (R325). After 500 consecutive disagreeing windows the power core enters estimate-distrust. -/
  | distrustEnter (t : Nat)
  /-- DISTRUST_EXIT (R325). After 10,000 consecutive agreeing windows the power core leaves estimate-distrust. -/
  | distrustExit (t : Nat)
  /-- CAP_OVERRUN (R321). The 10 ms mean of P stays above cap plus g for 10 ms at every floor, raising CAP_OVERRUN and an emergency. -/
  | capOverrun (t : Nat)
  /-- EMERGENCY_CLEAR (R329). 1 s after the last emergency condition clears, the emergency ends and deferred activations proceed. -/
  | emergencyClear (t : Nat)
  /-- SENSOR_SAMPLE (R327). Every 10 µs all temperature sensors are read and the thermal controls of Table 13-5 act. -/
  | sensorSample (t : Nat) (temps : Temperatures)
  /-- SNOWPACK_ENTRY_COMPLETE (R332). Self-refresh and low-power idle are reached, the command completes OK and the module is SNOWPACK. -/
  | snowpackEntryComplete (t : Nat)
  /-- SNOWPACK_EXIT_COMPLETE (R332). 120 ms after the check the command completes OK and the module is FROST. -/
  | snowpackExitComplete (t : Nat)
  /-- SMU_METROLOGY_INTERVAL (R335). Every 125 µs the SMU delivers mean power per rail group and accumulates the energy registers. -/
  | smuMetrologyInterval (t : Nat) (sample : SmuSample)
  /-- SMU_FRAME (R338). Every 100 µs of the SMU's clock a bus frame carries the window record, the attribution slot and the two channel slots. -/
  | smuFrame (t : Nat) (frame : SmuFrameIn)
  /-- ATTRIBUTION_INTERVAL (R343). Every 1 ms the SMU divides the measured energy among the accounts. -/
  | attributionInterval (t : Nat)
  /-- READ_SIGNED (R347). A channel request for a signed reading of an account with a nonce is served and signed. -/
  | readSigned (call : SmuCall) (account nonce : Nat)
  /-- READ_PUBKEY (R348). A channel request returns the SMU's public key. -/
  | readPubkey (call : SmuCall)
  /-- READ_LOG (R340). A channel request returns an SMU event log entry. -/
  | readLog (call : SmuCall) (index : Nat)
  /-- SMU_SEAL_N_ASSERT (R351). The witness pulls SMU_SEAL_N low, starting a sealing with a signed reading. -/
  | smuSealNAssert (t : Nat) (nonce : Nat)
  /-- SEALING_IMAGE_LOAD (R351). A new SMU image is loaded over channel 1, verified and switched in, or the failed attempt is logged. -/
  | sealingImageLoad (t : Nat) (image : SmuImage)
  /-- SMU_SEAL_N_RELEASE (R351). SMU_SEAL_N is released and the sealing ends. -/
  | smuSealNRelease (t : Nat)
  /-- SMU_NV_STORE (R353). Once per second the SMU stores its registers and log in non-volatile memory. -/
  | smuNvStore (t : Nat)
  /-- VSMU33_LOSS (R353). VSMU33 falls below 3.0 V, so the SMU stores its state within its hold-up and stops measuring. -/
  | vsmu33Loss (t : Nat)
  /-- VSMU33_POWER_ON (R353). VSMU33 comes up, and the SMU restores its state, logs the power-on and starts metering. -/
  | vsmu33PowerOn (t : Nat)
  /-- SMU_READ_REQ_GO (R356). Writing GO starts a signed reading of an account for delivery to host memory, or records READING_BUSY or BAD_FORMAT. -/
  | smuReadReqGo (t : Nat) (fn data : Nat)
  /-- SIGNED_READING_WRITTEN (R356). The signed reading is written to host memory and SMU_READ_STATUS is updated. -/
  | signedReadingWritten (t : Nat)
  /-- LOG_COPY (R368). The scheduler core copies the next log record into the host log ring when it has room. -/
  | logCopy (t : Nat)
  /-- LOG_HOST_SIZE_WRITE (R368). Writing LOG_HOST_SIZE enables or disables the host log ring and resets its indices. -/
  | logHostSizeWrite (t : Nat) (data : Nat)
  /-- LEASE_WARNING (R370). 75% of the lease interval passes and a class-4 LEASE_WARNING record is queued. -/
  | leaseWarning (t : Nat)
  /-- LEASE_EXPIRY (R370). Device time passes D without a renewal, the module becomes ORPHANED or stops host writes, and LEASE_EXPIRED is queued. -/
  | leaseExpiry (t : Nat)
  /-- TAKEOVER_LAPSE (R373). A takeover lease passes its D before ORPHAN_RESOLVE, and the lease returns to EXPIRED. -/
  | takeoverLapse (t : Nat)
  /-- CHALLENGE_EXPIRY (R393). A vendor challenge becomes invalid 10 minutes after it was issued. -/
  | challengeExpiry (t : Nat)
  /-- UNLOCK_EXPIRY (R395). An unlock reaches its end time and closes debug, trace and extended counter access. -/
  | unlockExpiry (t : Nat)
  /-- CORRECTED_ERROR (R399). A corrected error is repaired on the read path and counted, with no effect on any bit. -/
  | correctedError (t : Nat) (error : ErrorSite)
  /-- UNCORRECTABLE_ERROR (R403). An uncorrectable error faults the job owning the resource, faults a shared unit or poisons a line. -/
  | uncorrectableError (t : Nat) (error : ErrorSite)
  /-- PATROL_SCRUB (R399). The patrol scrub reads, corrects and rewrites a word, or finds poison. -/
  | patrolScrub (t : Nat) (address : Nat) (corrected : Bool)
  /-- FATAL_ERROR (R423). A fatal cause moves the module to DUMPING, stops all work and queues a class-15 record. -/
  | fatalError (t : Nat) (cause page detail : Nat)
  /-- DUMP_WRITTEN (R423). The Moraine dump is written, a class-14 record is queued and the module enters FAULTED. -/
  | dumpWritten (t : Nat)
  /-- DUMP_WRITE_TIMEOUT (R423). After 2 s without a finished dump, hub hardware writes a minimal dump. -/
  | dumpWriteTimeout (t : Nat)
  /-- SECURITY_WATCHDOG (R422). The security core is silent for 1 s to its hardware watchdog, which is a fatal error. -/
  | securityWatchdog (t : Nat)
  /-- CONTROL_MESSAGE_TIMEOUT (R422). A control message older than 10 µs at an arbiter is a fatal error. -/
  | controlMessageTimeout (t : Nat) (page : Nat)
  /-- SLOT_RETIREMENT (R20). A slot is retired in fuses once any job holding its logical core has ended. -/
  | slotRetirement (t : Nat) (slot : Nat)
  /-- SPARE_SUBSTITUTION (R21). After a self-test, a spare takes the retired core's logical identity and the unit epochs increment. -/
  | spareSubstitution (t : Nat) (core : Nat) (selfTestPass : Bool)
  /-- NETWORK_REQUEST_ARRIVAL (R417). A request reaches its target and is served, or is answered UNIT_RESET or UNIT_OFFLINE. -/
  | networkRequestArrival (t : Nat) (req : NetRequest)
  /-- NETWORK_REPLY_ARRIVAL (R417). A reply reaches its requester and is accepted, discarded or turned into UNIT_RESET by epoch. -/
  | networkReplyArrival (t : Nat) (id : Nat)
  /-- EPOCH_NOTICE (R416). A unit's epoch notice arrives at a port, which learns the new epoch. -/
  | epochNotice (t : Nat) (port page epoch : Nat)
  /-- TRACKING_ENTRY_GRANT (R276). A DRAM request waiting at its source receives a tracking entry and proceeds. -/
  | trackingEntryGrant (t : Nat) (stack : Nat)
  /-- DRAM_REFRESH (R283). A controller refreshes a bank on its own clock, delaying requests to it. -/
  | dramRefresh (t : Nat) (stack waits : Nat)
  /-- COLD_RESET (R413). VAUX33 power-on or SYS_RST_N held low resets everything outside the auxiliary domain and the SMU. -/
  | coldReset (t : Nat)
  /-- HOST_RESET (R413). PERST_N, hot reset or link down resets the module as a warm reset plus configuration space and link retraining. -/
  | hostReset (t : Nat)
  /-- PF_FUNCTION_LEVEL_RESET (R413). A Function Level Reset of the physical function resets as a host reset with the link kept trained. -/
  | pfFunctionLevelReset (t : Nat)
  /-- VF_FUNCTION_LEVEL_RESET (R415). A virtual function reset ends the function's jobs, destroys its contexts, disables its rings and empties its queue. -/
  | vfFunctionLevelReset (t : Nat) (fn : Nat)
  /-- VF_RESET_COMPLETE (R415). A virtual function reset completes and its class-6 record is queued. -/
  | vfResetComplete (t : Nat) (fn : Nat)
  /-- COUNTER_WRAP (R431). A counter wraps modulo 2^48, setting OVF, carrying into a chained counter or taking a sample. -/
  | counterWrap (t : Nat) (page index occurrences : Nat) (item : SampleItem)
  /-- SAMPLE_RECORD_WRITE (R442). When the sampled item completes or is discarded, the sample record enters the 1,024-entry ring. -/
  | sampleRecordWrite (t : Nat) (page : Nat) (outcome : SampleOutcome)
  /-- SAMPLE_POP (R444). Removes the head record of the sample ring, or is ignored and logged during a drain. -/
  | samplePop (t : Nat) (fn data : Nat)
  /-- CNT_SEL_WRITE (R433). Selects a counter's event, enable, chain, sample and context filter, or is ignored and logged. -/
  | cntSelWrite (t : Nat) (fn page index data : Nat)
  /-- CNT_HI_WRITE (R432). Writing a counter's HI half applies it together with the held LO half. -/
  | cntHiWrite (t : Nat) (fn page index data : Nat)
  /-- COUNTER_FREEZE_AT_S (R438). At S every counter freezes, resumes or is captured at its unit's first local edge. -/
  | counterFreezeAtS (t : Nat)
  /-- SNAPSHOT_WRITE_OUT (R439). The counter reader writes the snapshot records to host memory and completes the SNAPSHOT. -/
  | snapshotWriteOut (t : Nat)
  /-- BW_WINDOW_END (R441). A bandwidth window of W ns ends and its IN and OUT byte counts become readable. -/
  | bwWindowEnd (t : Nat) (counts : List (Nat × Nat))
  /-- BW_WINDOW_WRITE (R441). Writing BW_WINDOW discards the window in progress and sets a new length from the next multiple of W. -/
  | bwWindowWrite (t : Nat) (fn data : Nat)
  /-- PCIE_LINK_RETRAIN (R448). The host link retrains at a lower rate or width, keeping the module state. -/
  | pcieLinkRetrain (t : Nat) (gen width : Nat) (flit : Bool)
  /-- SHOLO_TRAINING_COMPLETE (R449). A Sholo port finishes training at the highest common generation and width. -/
  | sholoTrainingComplete (t : Nat) (port gen : Nat) (half : Bool)
  /-- IDENTITY_FRAME (R450). A partner's identity frame is received and the port becomes UP or LOOPBACK. -/
  | identityFrame (t : Nat) (port : Nat) (ident : Identity)
  /-- FLIT_CRC_FAIL (R451). A flit fails its CRC and is replayed from the retransmit buffer. -/
  | flitCrcFail (t : Nat) (port delay : Nat)
  /-- REPLAY_LIMIT_RETRAIN (R451). More than 64 replays within 1 ms start a retrain. -/
  | replayLimitRetrain (t : Nat) (port : Nat)
  /-- SIGNAL_LOSS (R451). 10 µs without signal puts the port in TRAINING and holds its traffic. -/
  | signalLoss (t : Nat) (port : Nat)
  /-- RETRAIN_TIMEOUT (R451). A retrain that has not brought back the same partner within 10 ms detaches the partner. -/
  | retrainTimeout (t : Nat) (port : Nat)
  /-- PORT_ENABLE_WRITE (R452). Writing PORT_CONTROL.ENABLE 0 detaches the partner at once, and writing 1 enables training. -/
  | portEnableWrite (t : Nat) (port data : Nat)
  /-- XQ_CONTROL_ENABLE (R454). Enables or disables a port's transfer ring under the ring rules. -/
  | xqControlEnable (t : Nat) (port data : Nat)
  /-- XQ_TAIL_DOORBELL (R454). Makes transfer descriptors available to a port, or halts the ring on an out-of-range tail. -/
  | xqTailDoorbell (t : Nat) (port value : Nat) (host : List Host.Cell)
  /-- TRANSFER_WRITE (R457). A fetched WRITE descriptor is checked locally and copies local DRAM into the partner's window. -/
  | transferWrite (t : Nat) (port : Nat)
  /-- TRANSFER_READ (R457). A fetched READ descriptor is checked locally and copies from the partner's window into local DRAM. -/
  | transferRead (t : Nat) (port : Nat)
  /-- INCOMING_TRANSFER (R457). The partner checks an arriving transfer against its receive window before any byte moves. -/
  | incomingTransfer (t : Nat) (port : Nat) (xfer : Incoming)
  /-- TRANSFER_COMPLETE (R458). A transfer's bytes become visible, its posts are applied and its completion is written in ring order. -/
  | transferComplete (t : Nat) (port index : Nat) (result : TransferEnd)
  /-- RXW_ENABLE_WRITE (R460). Opens or closes a port's receive window, letting checked incoming transfers finish. -/
  | rxwEnableWrite (t : Nat) (port data : Nat)
  /-- ETH_DATAGRAM (R461). A Sholo transport datagram arrives on an Ethernet port and is accepted from a peer or dropped. -/
  | ethDatagram (t : Nat) (port : Nat) (datagram : Datagram)
  /-- ETH_RESEND_TIMEOUT (R462). A datagram unacknowledged for 20 µs is resent, and after eight resends the peer loses VERIFIED; the transport numbers the datagrams of each peer. -/
  | ethResendTimeout (t : Nat) (port peer : Nat) (resend : Resend)
  /-- LINK_REFCLK_LOSS (R482). Losing LINK_REFCLK for more than 10 µs counts as 10 µs without signal on every port. -/
  | linkRefclkLoss (t : Nat)
  /-- SYS_REFCLK_LOSS (R482). Losing SYS_REFCLK moves the auxiliary domain to an internal oscillator and is a FATAL error of the time base. -/
  | sysRefclkLoss (t : Nat)
  /-- HOST_REFCLK_LOSS (R482). Losing HOST_REFCLK takes the PCI Express link down, which acts as a host reset. -/
  | hostRefclkLoss (t : Nat)
  /-- VIN48_LOSS (R486). A VIN48 group outside 38–62 V for 100 µs drops the converters and acts as a cold reset with VAUX33 kept. -/
  | vin48Loss (t : Nat)
  /-- VIN48_EXCURSION_BEGIN (R486). A VIN48 group enters 38–40 V or 60–62 V, and a WARN record is logged. -/
  | vin48ExcursionBegin (t : Nat) (group : Nat)
  /-- VIN48_EXCURSION_END (R486). A VIN48 group returns within range, and a WARN record is logged. -/
  | vin48ExcursionEnd (t : Nat) (group : Nat)
  /-- VAUX33_LOSS (R486). VAUX33 below 3.0 V disables the converters and causes a cold reset with loss of auxiliary state. -/
  | vaux33Loss (t : Nat)
  /-- HUB_POWER_GOOD (R469). SYS_RST_N is released with VAUX33 in range, and the module goes from RESET to BOOT and starts a cold bring-up. -/
  | hubPowerGood (t : Nat)
  /-- BRINGUP_STAGE_END (R469). A bring-up stage ends, and the next stage starts or the module reaches READY. -/
  | bringupStageEnd (t : Nat) (result : StageResult)
  /-- INPUT_POWER_TIMEOUT (R471). Stage 3 waits more than 10 s for VIN48, so the bring-up fails with INPUT_POWER. -/
  | inputPowerTimeout (t : Nat)
  /-- SMU_WAIT_TIMEOUT (R471). No valid SMU reading arrives within 100 ms, so the rails are enabled with the SMU absent. -/
  | smuWaitTimeout (t : Nat)
  /-- BRINGUP_TIMEOUT (R470). A bring-up passes its bound, excluding holds, and fails with TIMEOUT. -/
  | bringupTimeout (t : Nat)
  /-- DRAM_TRAINING_ATTEMPT (R473). A stack training attempt ends, passing, retrying, or marking the stack FAILED after three tries. -/
  | dramTrainingAttempt (t : Nat) (stack : Nat) (pass : Bool)
  /-- SLOT_SELF_TEST (R474). A slot's start-up self-test ends, passing or retiring the slot. -/
  | slotSelfTest (t : Nat) (slot : Nat) (pass : Bool)
  /-- VIN48_IN_RANGE (R471). VIN48_A and VIN48_B rise into their recommended range, letting bring-up stage 3 proceed and clearing HOLD. -/
  | vin48InRange (t : Nat)
  /-- PERST_N_RELEASE (R477). Release of PERST_N or of a hot reset ends a host reset and starts the warm bring-up or the bring-up from stage 1. -/
  | perstNRelease (t : Nat)
  /-- LOCKOUT_END (R384). Device time reaches LOCKOUT_END, the lockout stops being in force and LOCKED_OUT clears. -/
  | lockoutEnd (t : Nat)
  /-- JTAG_ACCESS (R390). An access through the JTAG port is carried out where Table 16-3 opens it, or is refused and counted in JTAG_DENIED. -/
  | jtagAccess (t : Nat) (access : JtagAccess)
  /-- PARTNER_LOW_POWER (R453). A Sholo partner enters low-power idle, so the port reads LOW_POWER without detaching. -/
  | partnerLowPower (t : Nat) (port : Nat)
  /-- LINK_REFCLK_RETURN (R482). LINK_REFCLK returns within Table 21-1 and the Sholo and Ethernet ports may start training again. -/
  | linkRefclkReturn (t : Nat)
  deriving DecidableEq, Repr

end Sys2Proof
end

