-- ==== Sys2Proof/Decode.lean ====
section
/-! DEFINITION. Decoding. The table of commands gives no row any bits: a command reaches the block as a ring record, a register access, a pin or an event, never as a word of an instruction stream. -/

namespace Sys2Proof

/-- The command that a table word spells: none, because no row of spec/opcode_table.json gives bits. -/
def decodeTableWord (_nbits _w : Nat) : Option Instr := none

end Sys2Proof
end

