-- ==== Sys2Proof/Machine/Bits.lean ====
section
/-! DEFINITION. Bit fields, little-endian byte order (R3), saturating counts, tables and byte memories: the helpers every family uses. -/

namespace Sys2Proof.Machine

/-- Bits [hi:lo] of a number (the bit ranges of R2). -/
def bits (w hi lo : Nat) : Nat := (w >>> lo) % 2 ^ (hi + 1 - lo)

/-- Bit n of a number. -/
def bit (w n : Nat) : Bool := Nat.testBit w n

/-- A Bool as the one-bit number a field table gives it. -/
def b2n (b : Bool) : Nat := if b then 1 else 0

/-- The number whose little-endian bytes are `bs` (R3). -/
def leNat : List Byte → Nat
  | [] => 0
  | b :: bs => b.toNat + 256 * leNat bs

/-- The `n` little-endian bytes of a number (R3). -/
def leBytes : Nat → Nat → List Byte
  | 0, _ => []
  | n + 1, v => BitVec.ofNat 8 v :: leBytes n (v / 256)

/-- The number whose big-endian bytes are `bs` (the published hash functions). -/
def beNat (bs : List Byte) : Nat := leNat bs.reverse

/-- The `n` big-endian bytes of a number. -/
def beBytes (n v : Nat) : List Byte := (leBytes n v).reverse

/-- Addition that saturates at `m`. -/
def satAdd (m a b : Nat) : Nat := if m < a + b then m else a + b

/-- The all-ones value of `n` bits. -/
def ones (n : Nat) : Nat := 2 ^ n - 1

/-- A two's complement reading of the low `n` bits of `w`. -/
def signed (n w : Nat) : Int :=
  let v := w % 2 ^ n
  if v < 2 ^ (n - 1) then (v : Int) else (v : Int) - ((2 ^ n : Nat) : Int)

/-- The `n`-bit two's complement pattern of an integer. -/
def unsigned (n : Nat) (i : Int) : Nat := (i % ((2 ^ n : Nat) : Int)).toNat

/-- Population count of the low `n` bits. -/
def popcount : Nat → Nat → Nat
  | 0, _ => 0
  | n + 1, w => (w % 2) + popcount n (w / 2)

/-- An integer clamped to a range. -/
def clampInt (lo hi x : Int) : Int := if x < lo then lo else if hi < x then hi else x

end Sys2Proof.Machine

namespace Sys2Proof

/-! ### Tables -/

/-- The entry of a table at a key, if listed. -/
def Tab.get? {α : Type} : Tab α → Nat → Option α
  | [], _ => none
  | (k, v) :: t, x => if k = x then some v else Tab.get? t x

/-- The entry of a table at a key, or the value an unlisted key holds. -/
def Tab.getD {α : Type} (t : Tab α) (x : Nat) (d : α) : α := (Tab.get? t x).getD d

/-- The table with the entry at a key set; keys stay strictly rising. -/
def Tab.put {α : Type} : Tab α → Nat → α → Tab α
  | [], x, v => [(x, v)]
  | (k, w) :: t, x, v =>
    if x < k then (x, v) :: (k, w) :: t
    else if x = k then (x, v) :: t
    else (k, w) :: Tab.put t x v

/-- The table without the entry at a key. -/
def Tab.del {α : Type} : Tab α → Nat → Tab α
  | [], _ => []
  | (k, w) :: t, x => if k = x then Tab.del t x else (k, w) :: Tab.del t x

/-- Keys strictly rising: the one form a table has. -/
def Tab.wf {α : Type} : Tab α → Bool
  | [] => true
  | [_] => true
  | (k, _) :: (k', v') :: t => decide (k < k') && Tab.wf ((k', v') :: t)

end Sys2Proof

namespace Sys2Proof.Machine

/-! ### Byte memories

A memory lists only the bytes that differ from zero; an unlisted address reads as zero (DESIGN CHOICE, notes/assumptions/2.md). -/

/-- One byte of a memory. -/
def memRead : List Host.Cell → Nat → Byte
  | [], _ => 0
  | (k, b) :: m, a => if k = a then b else memRead m a

/-- Write one byte, keeping the canonical form: addresses strictly rising, no zero byte listed. -/
def memWrite : List Host.Cell → Nat → Byte → List Host.Cell
  | [], a, b => if b = 0 then [] else [(a, b)]
  | (k, c) :: m, a, b =>
    if a < k then (if b = 0 then (k, c) :: m else (a, b) :: (k, c) :: m)
    else if a = k then (if b = 0 then m else (a, b) :: m)
    else (k, c) :: memWrite m a b

/-- The bytes at `n` consecutive addresses. -/
def memReadRun (m : List Host.Cell) : Nat → Nat → List Byte
  | _, 0 => []
  | a, n + 1 => memRead m a :: memReadRun m (a + 1) n

/-- The `n` bytes at an address, read from the entries of their range alone. -/
def memReadN (m : List Host.Cell) (a n : Nat) : List Byte :=
  memReadRun (m.filter (fun e => decide (a ≤ e.1) && decide (e.1 < a + n))) a n

/-- Write bytes at consecutive addresses. -/
def memWriteN : List Host.Cell → Nat → List Byte → List Host.Cell
  | m, _, [] => m
  | m, a, b :: bs => memWriteN (memWrite m a b) (a + 1) bs

/-- Write bytes at the addresses a list names. -/
def memWriteCells (m : List Host.Cell) (cs : List Host.Cell) : List Host.Cell :=
  cs.foldl (fun m c => memWrite m c.1 c.2) m

/-- The little-endian number of `n` bytes at an address (R3). -/
def memNat (m : List Host.Cell) (a n : Nat) : Nat := leNat (memReadN m a n)

/-- Remove every byte in a range: the range then reads zero. -/
def memZero (m : List Host.Cell) (a n : Nat) : List Host.Cell :=
  m.filter (fun c => decide (c.1 < a ∨ a + n ≤ c.1))

/-- The canonical form of a memory. -/
def Memory.wf : List Host.Cell → Bool
  | [] => true
  | [(_, b)] => decide (b ≠ 0)
  | (k, b) :: (k', b') :: m => decide (b ≠ 0) && decide (k < k') && Memory.wf ((k', b') :: m)

/-- `n` consecutive numbers from `a`. -/
def upFrom : Nat → Nat → List Nat
  | _, 0 => []
  | a, n + 1 => a :: upFrom (a + 1) n

end Sys2Proof.Machine
end

