-- ==== Sys2Proof/Machine/Chacha.lean ====
section
/-! DEFINITION. Randomness for computation: ChaCha8, key derivation, indigo and slate words (R206 to R215). -/

namespace Sys2Proof.Machine

/-- Addition of 32-bit words. -/
def add32 (a b : Nat) : Nat := (a + b) % 2 ^ 32

/-- Left rotation of a 32-bit word by n, 0 < n < 32. -/
def rotl32 (a n : Nat) : Nat := (a <<< n) % 2 ^ 32 ||| (a >>> (32 - n))

/-- The published quarter-round on the words of a state at four places. -/
def quarterRound (st : List Nat) (ia ib ic id : Nat) : List Nat :=
  let a := st.getD ia 0
  let b := st.getD ib 0
  let c := st.getD ic 0
  let d := st.getD id 0
  let a := add32 a b
  let d := rotl32 (d ^^^ a) 16
  let c := add32 c d
  let b := rotl32 (b ^^^ c) 12
  let a := add32 a b
  let d := rotl32 (d ^^^ a) 8
  let c := add32 c d
  let b := rotl32 (b ^^^ c) 7
  (((st.set ia a).set ib b).set ic c).set id d

/-- A column round followed by a diagonal round (R206). -/
def doubleRound (st : List Nat) : List Nat :=
  let st := quarterRound st 0 4 8 12
  let st := quarterRound st 1 5 9 13
  let st := quarterRound st 2 6 10 14
  let st := quarterRound st 3 7 11 15
  let st := quarterRound st 0 5 10 15
  let st := quarterRound st 1 6 11 12
  let st := quarterRound st 2 7 8 13
  quarterRound st 3 4 9 14

/-- The ChaCha8 block of an input state (R206). -/
def chacha8 (st : List Nat) : List Nat :=
  let out := doubleRound (doubleRound (doubleRound (doubleRound st)))
  (out.zip st).map (fun p => add32 p.1 p.2)

/-- "expand 16-byte k" and "expand 32-byte k" (Table 9-1). -/
def chachaConst16 : List Nat := [0x61707865, 0x3120646E, 0x79622D36, 0x6B206574]
def chachaConst32 : List Nat := [0x61707865, 0x3320646E, 0x79622D32, 0x6B206574]

/-- The four words of a 128-bit job seed (R207). -/
def seedWords (seed : Nat) : List Nat := (upFrom 0 4).map (fun k => bits seed (32 * k + 31) (32 * k))

/-- Output words 0 to 7 of the key derivation block (R208): domain 1 is indigo, 2 is slate. -/
def deriveKey (seed h domain : Nat) : List Nat :=
  (chacha8 (chachaConst16 ++ seedWords seed ++ seedWords seed ++ [bits h 31 0, bits h 39 32, domain, 0])).take 8

/-- An indigo or slate block (Table 9-1): key, 64-bit counter and step. -/
def keyedBlock (key : List Nat) (counter step : Nat) : List Nat :=
  chacha8 (chachaConst32 ++ key ++ [bits counter 31 0, bits counter 63 32, bits step 31 0, bits step 63 32])

/-- The indigo consumers of Table 9-2. -/
inductive Consumer where
  | general | sampler | categorical | damping | annealStart | gumbel | compat | sround | dropout
  deriving DecidableEq, Repr

/-- The consumer numbers of Table 9-2. -/
def Consumer.number : Consumer → Nat
  | .general => 0
  | .sampler => 1
  | .categorical => 2
  | .damping => 3
  | .annealStart => 4
  | .gumbel => 5
  | .compat => 6
  | .sround => 7
  | .dropout => 8

/-- The counter of an indigo block (R209). -/
def indigoCounter (c : Consumer) (stream i : Nat) : Nat :=
  bits stream 23 0 * 2 ^ 40 + c.number * 2 ^ 36 + (i % 2 ^ 40) / 16

/-- The indigo word of a consumer, stream, step and logical index (R209). -/
def indigoWord (seed : Nat) (c : Consumer) (stream step i : Nat) : Nat :=
  (keyedBlock (deriveKey seed (bits stream 63 24) 1) (indigoCounter c stream i) step).getD (i % 16) 0

/-- Word p of slate stream s of a job (R214). -/
def slateWord (seed s p : Nat) : Nat :=
  (keyedBlock (deriveKey seed 0 2) (s * 2 ^ 40 + p / 16) 0).getD (p % 16) 0

end Sys2Proof.Machine
end

