-- ==== Sys2Proof/Machine/Numerics.lean ====
section
/-! DEFINITION. Number formats and exact arithmetic: the input formats of Table 4-2, rounding to nearest even, conversions (R91 to R95, R111, R112). Finite values are exact dyadic numbers, so each rounding the spec names happens once and nowhere else. -/

namespace Sys2Proof.Machine

/-- An exact dyadic number m × 2^e. -/
structure Dyadic where
  m : Int
  e : Int
  deriving DecidableEq, Repr

/-- A value of a floating format: NaN, a signed infinity, or a finite value whose sign is kept for zero. -/
inductive FVal where
  | nan
  | inf (neg : Bool)
  | fin (neg : Bool) (mag : Nat) (e : Int)
  deriving DecidableEq, Repr

/-- The exact number a finite value stands for. -/
def FVal.dyadic : FVal → Dyadic
  | .fin neg mag e => ⟨if neg then -(mag : Int) else (mag : Int), e⟩
  | _ => ⟨0, 0⟩

/-- The exact sum of two dyadic numbers. -/
def Dyadic.add (a b : Dyadic) : Dyadic :=
  if a.m = 0 then b
  else if b.m = 0 then a
  else
    let e := min a.e b.e
    ⟨a.m * 2 ^ (a.e - e).toNat + b.m * 2 ^ (b.e - e).toNat, e⟩

/-- The exact product of two dyadic numbers. -/
def Dyadic.mul (a b : Dyadic) : Dyadic := ⟨a.m * b.m, a.e + b.e⟩

/-- The exact negation. -/
def Dyadic.neg (a : Dyadic) : Dyadic := ⟨-a.m, a.e⟩

/-- floor(log2 |x|) of a non-zero dyadic number. -/
def Dyadic.log2 (a : Dyadic) : Int := (Nat.log2 a.m.natAbs : Int) + a.e

/-- Whether a < b, exactly. -/
def Dyadic.lt (a b : Dyadic) : Bool := decide ((a.add b.neg).m < 0)

/-- Whether a and b are the same number. -/
def Dyadic.same (a b : Dyadic) : Bool := decide ((a.add b.neg).m = 0)

/-- floor(x) of a dyadic number. -/
def Dyadic.floor (a : Dyadic) : Int :=
  if 0 ≤ a.e then a.m * 2 ^ a.e.toNat else a.m / 2 ^ (-a.e).toNat

/-- Round a magnitude `m × 2^e` to a multiple of 2^ulp, to nearest with ties to even; with `sticky` a tie goes to the greater magnitude (R122 step 4). The Bool says whether the value changed. -/
def roundMag (m : Nat) (e ulp : Int) (sticky : Bool) : Nat × Bool :=
  if ulp ≤ e then (m * 2 ^ (e - ulp).toNat, false)
  else
    let d := (ulp - e).toNat
    let q := m / 2 ^ d
    let r := m % 2 ^ d
    let half := 2 ^ (d - 1)
    if r < half then (q, decide (r ≠ 0))
    else if half < r then (q + 1, true)
    else if sticky then (q + 1, true)
    else (q + q % 2, true)

/-- Round to `prec` significant bits with no bit below 2^emin: gradual underflow and an unbounded range above (R122 step 4). -/
def Dyadic.round (prec : Nat) (emin : Int) (sticky : Bool) (x : Dyadic) : Dyadic × Bool :=
  if x.m = 0 then (⟨0, 0⟩, false)
  else
    let ulp := max (x.log2 - ((prec : Int) - 1)) emin
    let (q, inexact) := roundMag x.m.natAbs x.e ulp sticky
    (⟨if x.m < 0 then -(q : Int) else (q : Int), ulp⟩, inexact)

/-- A floating format with exponent field width, mantissa width and bias, and which encodings are special. -/
structure Fmt where
  ebits : Nat
  mbits : Nat
  bias : Nat
  /-- All-ones exponents are infinity and NaN (IEEE 754). -/
  ieee : Bool
  /-- Only S.1111.111 is NaN (E4M3). -/
  topNan : Bool
  deriving DecidableEq, Repr

/-- binary32. -/
def fmt32 : Fmt := ⟨8, 23, 127, true, false⟩
/-- binary64. -/
def fmt64 : Fmt := ⟨11, 52, 1023, true, false⟩

/-- The floating formats of Table 4-2 by code; code 5 is INT8. -/
def fmtOf (code : Nat) : Fmt :=
  match code with
  | 0 => ⟨2, 1, 1, false, false⟩
  | 1 => ⟨3, 2, 3, false, false⟩
  | 2 => ⟨2, 3, 1, false, false⟩
  | 3 => ⟨4, 3, 7, false, true⟩
  | 4 => ⟨5, 2, 15, true, false⟩
  | 6 => ⟨8, 7, 127, true, false⟩
  | _ => ⟨5, 10, 15, true, false⟩

/-- The value of an encoding (R91). -/
def Fmt.decode (f : Fmt) (w : Nat) : FVal :=
  let mant := w % 2 ^ f.mbits
  let ex := (w / 2 ^ f.mbits) % 2 ^ f.ebits
  let neg := Nat.testBit w (f.mbits + f.ebits)
  if f.ieee && ex == 2 ^ f.ebits - 1 then (if mant == 0 then .inf neg else .nan)
  else if f.topNan && ex == 2 ^ f.ebits - 1 && mant == 2 ^ f.mbits - 1 then .nan
  else if ex == 0 then .fin neg mant (1 - (f.bias : Int) - f.mbits)
  else .fin neg (2 ^ f.mbits + mant) ((ex : Int) - f.bias - f.mbits)

/-- The least exponent of a bit of the format: its subnormal spacing. -/
def Fmt.emin (f : Fmt) : Int := 1 - (f.bias : Int) - f.mbits

/-- The magnitude bits of the largest finite encoding. -/
def Fmt.maxBits (f : Fmt) : Nat :=
  if f.ieee then (2 ^ f.ebits - 1) * 2 ^ f.mbits - 1
  else if f.topNan then 2 ^ (f.ebits + f.mbits) - 2
  else 2 ^ (f.ebits + f.mbits) - 1

/-- The largest finite value. -/
def Fmt.maxFinite (f : Fmt) : Dyadic := (f.decode f.maxBits).dyadic

/-- The sign bit in its place. -/
def Fmt.sign (f : Fmt) (neg : Bool) : Nat := if neg then 2 ^ (f.mbits + f.ebits) else 0

/-- The magnitude bits of a representable value, not above the largest finite one. -/
def Fmt.encodeMag (f : Fmt) (x : Dyadic) : Nat :=
  if x.m = 0 then 0
  else
    let ex := x.log2 + f.bias
    if ex < 1 then (⟨(x.m.natAbs : Int), x.e - f.emin⟩ : Dyadic).floor.toNat
    else ex.toNat * 2 ^ f.mbits + ((⟨(x.m.natAbs : Int), x.e - (x.log2 - f.mbits)⟩ : Dyadic).floor.toNat - 2 ^ f.mbits)

/-- Round an exact number to a format: the encoding, and whether a finite number gave an infinity (R122 steps 4 and 5). A zero result is +0. -/
def Fmt.rne (f : Fmt) (sticky : Bool) (x : Dyadic) : Nat × Bool :=
  let (r, _) := x.round (f.mbits + 1) f.emin sticky
  let neg := decide (x.m < 0)
  if r.m = 0 then (0, false)
  else if f.maxFinite.lt ⟨(r.m.natAbs : Int), r.e⟩ then (f.sign neg + (2 ^ f.ebits - 1) * 2 ^ f.mbits, true)
  else (f.sign neg + f.encodeMag r, false)

/-- binary32 of an exact number, to nearest even. -/
def rne32 (x : Dyadic) : Nat := (fmt32.rne false x).1

/-- The exact number of a finite binary32 word. -/
def dy32 (w : Nat) : Dyadic := (fmt32.decode w).dyadic

/-- The canonical NaN the engine writes (R122). -/
def qnan32 : Nat := 0x7FC00000

/-- The binary32 infinity of a sign. -/
def inf32 (neg : Bool) : Nat := if neg then 0xFF800000 else 0x7F800000

/-- IEEE 754 binary32 addition, to nearest even, with a zero sum of +0 unless both operands are -0. -/
def f32Add (a b : Nat) : Nat :=
  match fmt32.decode a, fmt32.decode b with
  | .nan, _ => qnan32
  | _, .nan => qnan32
  | .inf s, .inf t => if s == t then inf32 s else qnan32
  | .inf s, _ => inf32 s
  | _, .inf t => inf32 t
  | .fin s m e, .fin t n d =>
    let r := (FVal.fin s m e).dyadic.add (FVal.fin t n d).dyadic
    if r.m = 0 then (if s && t && m == 0 && n == 0 then 0x80000000 else 0) else rne32 r

/-- IEEE 754 binary32 multiplication, to nearest even. -/
def f32Mul (a b : Nat) : Nat :=
  match fmt32.decode a, fmt32.decode b with
  | .nan, _ => qnan32
  | _, .nan => qnan32
  | .inf s, .inf t => inf32 (s != t)
  | .inf s, .fin t n _ => if n == 0 then qnan32 else inf32 (s != t)
  | .fin s m _, .inf t => if m == 0 then qnan32 else inf32 (s != t)
  | .fin s m e, .fin t n d =>
    let r := (FVal.fin s m e).dyadic.mul (FVal.fin t n d).dyadic
    let w := (fmt32.rne false r).1
    if w = 0 then fmt32.sign (s != t) else if r.m = 0 then fmt32.sign (s != t) else w

/-- The sign bit of a binary32 word flipped. -/
def f32Neg (a : Nat) : Nat := a ^^^ 0x80000000

/-- An order key for binary32 words: -infinity < ... < -0 < +0 < ... < +infinity (Table 5-5). -/
def f32Key (w : Nat) : Int := if w < 0x80000000 then (w : Int) else -((w - 0x80000000 : Nat) : Int) - 1

/-- Whether a binary32 word is a NaN. -/
def f32IsNan (w : Nat) : Bool := fmt32.decode w == .nan

/-! ### Conversion to narrow formats (R111, R112) -/

/-- `fflags` bits: NX, UF, OF, DZ, NV (Table 4-13). -/
def ffNX : Nat := 1
def ffUF : Nat := 2
def ffOF : Nat := 4
def ffNV : Nat := 16

/-- Whether a binary32 NaN is signalling. -/
def f32Signalling (w : Nat) : Bool := f32IsNan w && !Nat.testBit w 22

/-- Bits of one element of a format in packed form (R93). -/
def fmtBits (code : Nat) : Nat :=
  match code with
  | 0 => 4
  | 1 => 6
  | 2 => 6
  | 6 => 16
  | 7 => 16
  | _ => 8

/-- The NaN column of Table 4-8. -/
def cvtNan (code w : Nat) : Nat × Nat :=
  match code with
  | 3 => (0x7F, ffNV)
  | 4 => (0x7E, if f32Signalling w then ffNV else 0)
  | 6 => (0x7FC0, if f32Signalling w then ffNV else 0)
  | 7 => (0x7E00, if f32Signalling w then ffNV else 0)
  | _ => (0, ffNV)

/-- The infinity column of Table 4-8. -/
def cvtInf (code : Nat) (sat neg : Bool) : Nat × Nat :=
  let f := fmtOf code
  match code with
  | 3 => if sat then (f.sign neg + 0x7E, ffOF) else (0x7F, ffNV)
  | 5 => (if neg then 0x80 else 0x7F, ffNV)
  | 4 => (f.sign neg + (2 ^ f.ebits - 1) * 2 ^ f.mbits, 0)
  | 6 => (f.sign neg + (2 ^ f.ebits - 1) * 2 ^ f.mbits, 0)
  | 7 => (f.sign neg + (2 ^ f.ebits - 1) * 2 ^ f.mbits, 0)
  | _ => (f.sign neg + f.maxBits, ffOF)

/-- The overflow row of Table 4-8 for a floating format. -/
def cvtOver (code : Nat) (sat neg : Bool) : Nat × Nat :=
  let f := fmtOf code
  match code with
  | 3 => (if sat then f.sign neg + 0x7E else 0x7F, ffOF + ffNX)
  | 0 => (f.sign neg + f.maxBits, ffOF + ffNX)
  | 1 => (f.sign neg + f.maxBits, ffOF + ffNX)
  | 2 => (f.sign neg + f.maxBits, ffOF + ffNX)
  | _ => (f.sign neg + (if sat then f.maxBits else (2 ^ f.ebits - 1) * 2 ^ f.mbits), ffOF + ffNX)

/-- Whether a number rounds, to `prec` bits with no least exponent, below the smallest normal: tininess after rounding. -/
def Fmt.tiny (f : Fmt) (x : Dyadic) : Bool :=
  let r := (x.round (f.mbits + 1) (x.e - 4096) false).1
  decide (x.m ≠ 0) && (⟨(r.m.natAbs : Int), r.e⟩ : Dyadic).lt ⟨1, 1 - (f.bias : Int)⟩

/-- `xc.cvt` of one finite binary32 value (R111): the encoding and the flags. -/
def cvtFinite (code : Nat) (sat neg : Bool) (x : Dyadic) : Nat × Nat :=
  if code = 5 then
    let (q, nx) := roundMag x.m.natAbs x.e 0 false
    let v : Int := if neg then -(q : Int) else (q : Int)
    if v < -128 then (0x80, ffNV) else if 127 < v then (0x7F, ffNV)
    else (unsigned 8 v, if nx then ffNX else 0)
  else
    let f := fmtOf code
    let (r, nx) := x.round (f.mbits + 1) f.emin false
    if f.maxFinite.lt ⟨(r.m.natAbs : Int), r.e⟩ then cvtOver code sat neg
    else (f.sign neg + f.encodeMag r, (if nx then ffNX else 0) + (if nx && f.tiny x then ffUF else 0))

/-- `xc.cvt` of one binary32 word (R111, Table 4-8). -/
def xcCvt (code : Nat) (sat : Bool) (w : Nat) : Nat × Nat :=
  match fmt32.decode w with
  | .nan => cvtNan code w
  | .inf neg => cvtInf code sat neg
  | .fin neg m e => cvtFinite code sat neg (FVal.fin neg m e).dyadic

/-- Whether a finite number lies within the range of a format, so that `xc.srnd` draws for it (R112). -/
def srndInRange (code : Nat) (x : Dyadic) : Bool :=
  if code = 5 then !(x.lt ⟨-128, 0⟩) && !((⟨127, 0⟩ : Dyadic).lt x)
  else !((fmtOf code).maxFinite.lt ⟨(x.m.natAbs : Int), x.e⟩)

/-- The exponent of the spacing of a format at a number: the distance from lo to hi in R112. -/
def srndUlp (code : Nat) (x : Dyadic) : Int :=
  if code = 5 then 0
  else
    let f := fmtOf code
    if x.m = 0 then f.emin else max (x.log2 - f.mbits) f.emin

/-- `xc.srnd` of one binary32 word, given bits [31:8] of its indigo word (R112): the encoding, the flags, and whether it made a draw. -/
def xcSrnd (code : Nat) (sat : Bool) (w u : Nat) : Nat × Nat × Bool :=
  match fmt32.decode w with
  | .nan => let r := cvtNan code w; (r.1, r.2, false)
  | .inf neg => let r := cvtInf code sat neg; (r.1, r.2, false)
  | .fin neg m e =>
    let x := (FVal.fin neg m e).dyadic
    if !srndInRange code x then
      let r := cvtFinite code sat neg x; (r.1, r.2, false)
    else
      let ulp := srndUlp code x
      let mag : Dyadic := ⟨(m : Int), e - ulp⟩
      let lo := mag.floor.toNat
      let rest : Dyadic := mag.add ⟨-(lo : Int), 0⟩
      let pick (q : Nat) : Nat :=
        if code = 5 then unsigned 8 (if neg then -(q : Int) else (q : Int))
        else (fmtOf code).sign neg + (fmtOf code).encodeMag ⟨(q : Int), ulp⟩
      if rest.m = 0 then (pick lo, 0, false)
      else
        let d := (rest.mul ⟨1, 24⟩).floor.toNat
        (pick (if u < d then lo + 1 else lo), ffNX, true)

/-- Pack encodings of `n` bits each from bit 0 upward (R93). -/
def packBits (n : Nat) : List Nat → Nat
  | [] => 0
  | w :: ws => (w % 2 ^ n) + 2 ^ n * packBits n ws

/-- The class of a format code (R94). -/
inductive FmtClass where
  | n | i | h
  deriving DecidableEq, Repr

/-- The class of a format code (R94). -/
def fmtClass (code : Nat) : FmtClass :=
  match code with
  | 5 => .i
  | 6 => .h
  | 7 => .h
  | _ => .n

/-- The value of an element under its format code (R91); INT8 is two's complement. -/
def decodeElem (code w : Nat) : FVal :=
  if code = 5 then
    let v := signed 8 w
    .fin (decide (v < 0)) v.natAbs 0
  else (fmtOf code).decode w

/-- The exact product of two element values (R92). -/
def fvMul (a b : FVal) : FVal :=
  match a, b with
  | .nan, _ => .nan
  | _, .nan => .nan
  | .inf s, .inf t => .inf (s != t)
  | .inf s, .fin t n _ => if n == 0 then .nan else .inf (s != t)
  | .fin s m _, .inf t => if m == 0 then .nan else .inf (s != t)
  | .fin s m e, .fin t n d => .fin (s != t) (m * n) (e + d)

end Sys2Proof.Machine
end

