-- ==== Sys2Proof/Machine/Firn.lean ====
section
/-! DEFINITION. Firn accumulation: runs, promotion, partials, spills and totals (R118 to R126), the reductions of R135 and the additions of R125 and R137. -/

namespace Sys2Proof.Machine

/-- The arithmetic conditions of Table 5-6, with the truncated runs counted (R120). -/
structure AccFlags where
  ofl : Bool := false
  nv : Bool := false
  nanIn : Bool := false
  runTrunc : Bool := false
  iov : Bool := false
  truncRuns : Nat := 0
  deriving DecidableEq, Repr

/-- The conditions of two computations together. -/
def AccFlags.or (a b : AccFlags) : AccFlags :=
  ⟨a.ofl || b.ofl, a.nv || b.nv, a.nanIn || b.nanIn, a.runTrunc || b.runTrunc, a.iov || b.iov, a.truncRuns + b.truncRuns⟩

/-- Whether any flag of Table 5-6 is set. -/
def AccFlags.any (a : AccFlags) : Bool := a.ofl || a.nv || a.nanIn || a.runTrunc || a.iov

/-- One output position count and partial count per shape (Tables 4-1 and 5-2). -/
structure ShapeGeom where
  mt : Nat
  nt : Nat
  q : Nat
  /-- Run length of class N and of class H (Table 5-1; R302 for a restored context). -/
  runN : Nat := 32
  runH : Nat := 8
  deriving DecidableEq, Repr

/-- The native shapes (Tables 4-1 and 5-2). -/
def nativeShape (s : Nat) : ShapeGeom :=
  match s with
  | 0 => { mt := 256, nt := 256, q := 1 }
  | 1 => { mt := 256, nt := 128, q := 1 }
  | 2 => { mt := 128, nt := 128, q := 2 }
  | 3 => { mt := 128, nt := 64, q := 2 }
  | 4 => { mt := 64, nt := 64, q := 4 }
  | _ => { mt := 32, nt := 32, q := 8 }

/-- K_lanes of a native shape (Table 4-1). -/
def shapeLanes (s : Nat) : Nat :=
  match s with
  | 0 => 1
  | 1 => 2
  | 2 => 4
  | 3 => 8
  | 4 => 16
  | _ => 64

/-- A run carried to promotion (Table 5-1). -/
inductive RunVal where
  | nan
  | inf (neg : Bool)
  | val (v : Dyadic) (sticky : Bool)
  deriving DecidableEq, Repr

/-- The special part of a run (R121): its value if a product is special, and the flags it sets. -/
def runSpecial (ps : List (FVal × FVal)) : Option RunVal × AccFlags :=
  let nanOperand := ps.any (fun p => p.1 == .nan || p.2 == .nan)
  let prods := ps.map (fun p => fvMul p.1 p.2)
  let created := ps.any (fun p => fvMul p.1 p.2 == .nan && p.1 != .nan && p.2 != .nan)
  let pinf := prods.any (fun p => p == .inf false)
  let ninf := prods.any (fun p => p == .inf true)
  let fl : AccFlags := { nanIn := nanOperand, nv := created || (pinf && ninf && !nanOperand) }
  if nanOperand || created || (pinf && ninf) then (some .nan, fl)
  else if pinf then (some (.inf false), fl)
  else if ninf then (some (.inf true), fl)
  else (none, fl)

/-- One product truncated toward zero to a multiple of 2^u, and whether bits were lost (R119). -/
def truncTo (u : Int) (p : Dyadic) : Int × Bool :=
  if u ≤ p.e then (p.m * 2 ^ (p.e - u).toNat, false)
  else
    let d := (u - p.e).toNat
    let q := p.m.natAbs / 2 ^ d
    (if p.m < 0 then -(q : Int) else (q : Int), decide (p.m.natAbs % 2 ^ d ≠ 0))

/-- The value of a run (R118 to R121) of class N or H; `sc` is the combined block-scale exponent. -/
def runValue (cls : FmtClass) (sc : Int) (ps : List (FVal × FVal)) : RunVal × AccFlags :=
  match runSpecial ps with
  | (some v, fl) => (v, fl)
  | (none, fl) =>
    let ds := (ps.map (fun p => (fvMul p.1 p.2).dyadic)).filter (fun d => decide (d.m ≠ 0))
    match ds with
    | [] => (.val ⟨0, 0⟩ false, fl)
    | d :: rest =>
      let top := rest.foldl (fun acc x => max acc x.log2) d.log2
      let u := top - (if cls == .n then 41 else 26)
      let ts := ds.map (truncTo u)
      let v := ts.foldl (fun acc t => acc + t.1) 0
      let s := ts.any (fun t => t.2)
      let trunc := s && cls == .n
      (.val ⟨v, u + sc⟩ s, { fl with runTrunc := trunc, truncRuns := if trunc then 1 else 0 })

/-- Promotion of a run into a binary32 partial (R122). -/
def promote (t : Nat) (r : RunVal) : Nat × AccFlags :=
  match fmt32.decode t, r with
  | .nan, _ => (qnan32, {})
  | _, .nan => (qnan32, {})
  | .inf s, .inf u => if s == u then (inf32 s, {}) else (qnan32, { nv := true })
  | .inf s, .val _ _ => (inf32 s, {})
  | .fin _ _ _, .inf u => (inf32 u, {})
  | .fin s m e, .val v sticky =>
    let (w, o) := fmt32.rne sticky ((FVal.fin s m e).dyadic.add v)
    (w, { ofl := o })

/-- An engine addition of two binary32 words (R125). -/
def engineAdd (a b : Nat) : Nat × AccFlags :=
  match fmt32.decode b with
  | .nan => (qnan32, {})
  | .inf s => promote a (.inf s)
  | .fin s m e => promote a (.val (FVal.fin s m e).dyadic false)

/-- tree(p) of Table 5-2 over a list of 1, 2, 4 or 8 partials: neighbours are added until one is left; `fuel` bounds the levels. -/
def treeSum : Nat → List Nat → Nat × AccFlags
  | 0, ps => (ps.headD 0, {})
  | _ + 1, [] => (0, {})
  | _ + 1, [p] => (p, {})
  | fuel + 1, ps =>
    let rec pairs : List Nat → List Nat × AccFlags
      | a :: b :: rest =>
        let (x, f) := engineAdd a b
        let (xs, g) := pairs rest
        (x :: xs, f.or g)
      | xs => (xs, {})
    let (qs, f) := pairs ps
    let (r, g) := treeSum fuel qs
    (r, f.or g)

/-- w + tree(p) rounded to binary64 (R126). -/
def wideAdd (w : Nat) (t : Nat) : Nat × AccFlags :=
  match fmt64.decode w, fmt32.decode t with
  | .nan, _ => (0x7FF8000000000000, {})
  | _, .nan => (0x7FF8000000000000, {})
  | .inf s, .inf u => if s == u then (w, {}) else (0x7FF8000000000000, { nv := true })
  | .inf _, _ => (w, {})
  | _, .inf u => (fmt64.sign u + 2047 * 2 ^ 52, {})
  | .fin s m e, .fin u n d =>
    let (r, o) := fmt64.rne false ((FVal.fin s m e).dyadic.add (FVal.fin u n d).dyadic)
    (r, { ofl := o })

/-- The wide value rounded to binary32 (R126, R122 steps 4 and 5 with s = 0). -/
def wideFinal (w : Nat) : Nat × AccFlags :=
  match fmt64.decode w with
  | .nan => (qnan32, {})
  | .inf s => (inf32 s, {})
  | .fin s m e =>
    let (r, o) := fmt32.rne false (FVal.fin s m e).dyadic
    (r, { ofl := o })

/-- The state of one element while its runs are promoted: partials, wide value, flags. -/
structure ElemAcc where
  parts : List Nat
  wide : Nat
  flags : AccFlags
  deriving DecidableEq, Repr

/-- Fold tree(p) into the wide value. -/
def ElemAcc.fold (a : ElemAcc) : ElemAcc :=
  let (t, f) := treeSum 4 a.parts
  let (w, g) := wideAdd a.wide t
  { parts := a.parts.map (fun _ => 0), wide := w, flags := a.flags.or (f.or g) }

/-- Promote run `r` and spill where R126 says so; `last` is the number of the last run. -/
def ElemAcc.run (q n last r : Nat) (v : RunVal × AccFlags) (a : ElemAcc) : ElemAcc :=
  let (p, f) := promote (a.parts.getD (r % q) 0) v.1
  let a' : ElemAcc := { parts := a.parts.set (r % q) p, wide := a.wide, flags := a.flags.or (v.2.or f) }
  if n ≠ 0 ∧ (r + 1) % 2 ^ n = 0 ∧ r ≠ last then a'.fold else a'

/-- The total of one element of a class N or class H MATMUL (R124, R126). -/
def elementTotal (q n tIn : Nat) (runs : List (RunVal × AccFlags)) : Nat × AccFlags :=
  let start : ElemAcc := { parts := tIn :: List.replicate (q - 1) 0, wide := 0, flags := {} }
  let last := runs.length - 1
  let done := (runs.zipIdx).foldl (fun a v => a.run q n last v.2 v.1) start
  let fin := done.fold
  let (r, f) := wideFinal fin.wide
  (r, fin.flags.or f)

/-- The INT32 total of one element (R123). -/
def intTotal (tIn : Nat) (ps : List (FVal × FVal)) : Nat × AccFlags :=
  let exact := ps.foldl (fun acc p => acc + (fvMul p.1 p.2).dyadic.m) (signed 32 tIn)
  (unsigned 32 exact, { iov := decide (exact < -2 ^ 31 ∨ 2 ^ 31 ≤ exact) })

/-- Cut a list into runs of `n`; `fuel` bounds their number. -/
def chunk {α : Type} (n : Nat) : Nat → List α → List (List α)
  | 0, _ => []
  | _ + 1, [] => []
  | fuel + 1, xs => xs.take n :: chunk n fuel (xs.drop n)

/-- One operand row or column: its element values along k, and its block scale bytes, one per 32 elements, or none (R93, R95). -/
structure OperandRow where
  elems : List FVal
  scales : List Nat
  deriving DecidableEq, Repr

/-- Unpack `k` elements of a format from the little-endian number of the row's bytes (R93): FP6 groups of four are 24-bit words, so element k stands at bit 6k. -/
def unpackElems (code k : Nat) (bytes : List Byte) : List FVal :=
  let w := leNat bytes
  (upFrom 0 k).map (fun i => decodeElem code ((w >>> (i * fmtBits code)) % 2 ^ fmtBits code))

/-- A NaN scale makes its 32 elements NaN (R95). -/
def OperandRow.applyNan (r : OperandRow) : List FVal :=
  r.elems.zipIdx.map (fun e => if r.scales.getD (e.2 / 32) 127 == 0xFF then FVal.nan else e.1)

/-- The total of one element from its two operand rows (R99, R118 to R126). -/
def dotTotal (cls : FmtClass) (g : ShapeGeom) (n tIn : Nat) (a b : OperandRow) : Nat × AccFlags :=
  let ps := a.applyNan.zip b.applyNan
  match cls with
  | .i => intTotal tIn ps
  | _ =>
    let len := if cls == .n then g.runN else g.runH
    let runs := (chunk len ps.length ps).zipIdx.map (fun r =>
      let grp := r.2 * len / 32
      let sc : Int := ((a.scales.getD grp 127 : Nat) : Int) - 127 + (((b.scales.getD grp 127 : Nat) : Int) - 127)
      runValue cls (if cls == .n then sc else 0) r.1)
    elementTotal g.q n tIn runs

/-- How many spill points a descriptor of `runs` runs has (R126, R140: one count per descriptor per spill point). -/
def spillPoints (n runs : Nat) : Nat := if n = 0 then 0 else (runs - 1) / 2 ^ n

/-- One step of a REDUCE function (Table 5-5) over binary32 words. -/
def reduceF32 (fn : Nat) (a b : Nat) : Nat :=
  match fn with
  | 0 => if f32IsNan a || f32IsNan b then qnan32 else if f32Key a < f32Key b then b else a
  | 1 => if f32IsNan a || f32IsNan b then qnan32 else if f32Key b < f32Key a then b else a
  | 2 => a &&& b
  | 3 => a ||| b
  | _ => a ^^^ b

/-- One step of a REDUCE function (Table 5-5) over INT32 words. -/
def reduceInt (fn : Nat) (a b : Nat) : Nat :=
  match fn with
  | 0 => if signed 32 a < signed 32 b then b else a
  | 1 => if signed 32 b < signed 32 a then b else a
  | 2 => a &&& b
  | 3 => a ||| b
  | _ => a ^^^ b

/-- REDUCE over a non-empty list of words (R135). -/
def reduceWords (isInt : Bool) (fn : Nat) : List Nat → Nat
  | [] => 0
  | [w] => if !isInt && (fn == 0 || fn == 1) && f32IsNan w then qnan32 else w
  | w :: ws => ws.foldl (fun a b => if isInt then reduceInt fn a b else reduceF32 fn a b) w

/-- One element of a running-sum chain: x + t (R137). -/
def chainAdd (isInt : Bool) (x t : Nat) : Nat × AccFlags :=
  if isInt then ((x + t) % 2 ^ 32, {}) else engineAdd x t

end Sys2Proof.Machine
end

