-- ==== Sys2Proof/Machine/State.lean ====
section
/-! DEFINITION. The state of the module: every register, queue, table, memory and pin the spec gives it, as plain data. A structure's default values are its reset values. -/

namespace Sys2Proof.Machine

/-! ### Module, units, functions (Organisation; Register Pages) -/

/-- The module states of Table 2-12, in the numbering of MODULE_STATE.STATE (R36). -/
inductive ModState where
  | reset | boot | ready | active | frost | snowpack | orphaned | faulted | dumping
  deriving DecidableEq, Repr

/-- The unit states of UNIT_STATUS.STATE (R34, R61), in register order. -/
inductive UState where
  | offline | resetting | idle | busy | faulted | restarting
  deriving DecidableEq, Repr

/-- What a page's header holds of its own (R34, Table 2-2). The rest is derived: BUSY and HOLDER_CTX from the job that holds the unit, OFFLINE from the bring-up, the geometry and the power state. -/
structure UnitHdr where
  ustate : UState := .idle
  countersRun : Bool := true
  epoch : Nat := 1
  /-- UNIT_EPOCH before its last change, and when it changed (R416). -/
  prev : Nat := 1
  changedAt : Nat := 0
  deriving DecidableEq, Repr

/-- What a function's own root page holds (R36, R38, R41). -/
structure FnView where
  treeGeneration : Nat := 0
  bar2Base : Nat := 0
  /-- log2 of the BAR2 size; 256 MiB by default (R41). -/
  bar2Log2 : Nat := 28
  deriving DecidableEq, Repr

/-! ### Rings and attention (Register Pages, Rings and Replies) -/

/-- A completion the device has still to write; STATUS' ATTN summary, SQ_HEAD, PHASE and DEVICE_TIME join it when it is written (R7, R54, R70). -/
structure Completion where
  code : Nat
  opcode : Nat
  tag : Nat
  final : Bool
  sourcePage : Nat
  sourceEpoch : Nat
  result0 : Nat
  result1 : Nat
  /-- Written to its ring although host writes are stopped (R65). -/
  direct : Bool := false
  deriving DecidableEq, Repr

/-- A command record taken from a ring: the ring, its owning function, its submission index, its 128 bytes as one little-endian number, and whether it has been answered PENDING. -/
structure Cmd where
  ring : Nat
  fn : Nat
  index : Nat
  word : Nat
  interim : Bool := false
  /-- A reset has discarded its completion (R414). -/
  lost : Bool := false
  /-- The page of the unit that produced the result, where that is not the unit in TARGET_PAGE (Table 2-8). -/
  source : Option Nat := none
  deriving DecidableEq, Repr

/-- A ring: its page's registers (Table 2-6) and the completions it holds. -/
structure Ring where
  enable : Bool := false
  halted : Bool := false
  log2Sq : Nat := 6
  log2Cq : Nat := 6
  sqBase : Nat := 0
  cqBase : Nat := 0
  sqTail : Nat := 0
  sqHead : Nat := 0
  cqTail : Nat := 0
  cqHead : Nat := 0
  /-- The phase bit of the present pass through the completion ring (R54). -/
  phase : Bool := true
  vector : Nat := 0
  armed : Bool := false
  owner : Nat := 0
  errCode : Nat := 0
  errIndex : Nat := 0
  /-- Commands answered PENDING whose final record has not been formed. -/
  awaiting : Nat := 0
  /-- Completions formed and not yet written, oldest first (R50). -/
  held : List Completion := []
  deriving DecidableEq, Repr

/-- An attention record (Table 2-10). -/
structure AttnRec where
  cls : Nat
  count : Nat
  code : Nat
  seq : Nat
  sourcePage : Nat
  sourceEpoch : Nat
  detailW : Nat
  time : Nat
  detail : Nat
  deriving DecidableEq, Repr

/-- The attention queue of one function (R57, R58). -/
structure AttnQ where
  records : List AttnRec := []
  nextSeq : Nat := 1
  logDropped : Nat := 0
  lostClasses : Nat := 0
  lostCount : Nat := 0
  deriving DecidableEq, Repr

/-- A queued write to an emulated page (R45). -/
structure EmuWrite where
  fn : Nat
  off : Nat
  data : Nat
  /-- Its place in the order of arrival at the firmware processors. -/
  seq : Nat := 0
  deriving DecidableEq, Repr

/-- The write queue of an emulated page and the code of the first write that failed since the last read (R45). -/
structure EmuPage where
  writes : List EmuWrite := []
  failed : Nat := 0
  deriving DecidableEq, Repr

/-- An MSI-X message sent (R51). -/
structure Msix where
  fn : Nat
  vector : Nat
  deriving DecidableEq, Repr

/-- The answer to the last register or BAR2 read. -/
structure Reply where
  fn : Nat
  page : Nat
  off : Nat
  data : Nat
  /-- The status word of a 64-bit read of an emulated page (R43); zero elsewhere. -/
  status : Nat
  /-- The Poisoned bit of the completion (R401). -/
  poisoned : Bool := false
  deriving DecidableEq, Repr

/-! ### Device time, launch and synchronisation -/

/-- ALIGN_STATE (Table 3-2), in register order. -/
inductive AlignState where
  | freeRun | acquiring | aligned | holdover
  deriving DecidableEq, Repr

/-- The time base page and what alignment keeps (R66, R71, R87, R88). -/
structure TimeBase where
  running : Bool := false
  enable : Bool := false
  source : Bool := false
  allowStep : Bool := false
  log2Interval : Nat := 10
  alignState : AlignState := .freeRun
  sourcePort : Nat := 0x1F
  /-- Hops toward the source over that port, as its messages give them (R87). -/
  sourceHops : Nat := 0
  offset : Int := 0
  rate : Int := 0
  steps : Nat := 0
  /-- Consecutive messages with |OFFSET| at most 20 ns. -/
  smallRun : Nat := 0
  /-- Time from hub power-good to the lock of the time domain, in ns. -/
  lockOffset : Nat := 0
  lastMessage : Nat := 0
  lastExchange : Nat := 0
  deriving DecidableEq, Repr

/-- TYPE of a synchronisation object (Table 3-9), in register order. -/
inductive SyncType where
  | unused | semaphore | event | timedBarrier
  deriving DecidableEq, Repr

/-- A synchronisation object (Table 3-8). -/
structure SyncObj where
  type : SyncType := .unused
  autoClear : Bool := false
  rearm : Bool := false
  owner : Nat := 0x7F
  setFired : Bool := false
  overflow : Bool := false
  late : Bool := false
  overrun : Bool := false
  count : Nat := 0
  expected : Nat := 1
  fireTime : Nat := 0
  period : Nat := 0
  lastFire : Nat := 0
  generation : Nat := 0
  /-- A of R84 while a firing is due. -/
  due : Option Nat := none
  /-- LO halves written and waiting for their HI half (R85). -/
  fireLo : Nat := 0
  periodLo : Nat := 0
  deriving DecidableEq, Repr

/-- The CONDITION of a launch entry (Table 3-4), in register order. -/
inductive LaunchCond where
  | immediate | atTime | onSync | atTimeAndSync
  deriving DecidableEq, Repr

/-- A launch entry: one QUEUED job (R73 to R77). -/
structure Launch where
  job : Nat
  cond : LaunchCond
  waitSync : Nat
  waitCount : Nat
  launchTime : Nat
  checkTime : Nat
  /-- The barrier generation whose firing the entry awaits. -/
  firing : Nat
  /-- Still waiting on its object (WAITERS). -/
  waiting : Bool
  /-- The device time at which the synchronisation term of C became true. -/
  condTime : Option Nat
  /-- FIRE_TIME of the awaited firing, once it is known. -/
  fireTime : Nat
  /-- The device time at which the unit terms of C (units free, no earlier entry sharing one) became true. -/
  freeAt : Option Nat
  /-- The device time C of R75, once every term is true. -/
  c : Option Nat
  /-- The release has been sent to the units. -/
  sent : Bool
  /-- C was taken later because the module was ORPHANED (R78). -/
  held : Bool := false
  deriving DecidableEq, Repr

/-! ### Commands in progress -/

/-- Where the final record of a command answered PENDING goes (R49). -/
structure Pend where
  ring : Nat
  opcode : Nat
  tag : Nat
  page : Nat
  deriving DecidableEq, Repr

/-! ### Contexts and jobs (Reproducibility Profiles; Memory, Network and Placement) -/

/-- CTX_STATE.STATE (Table 12-8), in register order. -/
inductive CtxState where
  | free | idle | running | saving | restoring
  deriving DecidableEq, Repr

/-- One shape code of a context's shape map (R300): the FS16 shape run, and the geometry its association follows. -/
structure ShapeEntry where
  /-- 0 UNUSED, 1 NATIVE, 2 EMULATED, 3 SUBSTITUTED (Table 12-8). -/
  realise : Nat
  /-- FS16 shape run for the code; 0 for EMULATED and UNUSED. -/
  shape : Nat
  /-- The code runs on the array partitioned as shape 0 (R301). -/
  emulated : Bool := false
  geom : ShapeGeom
  deriving DecidableEq, Repr

/-- A slate stream of a context (R214, Table 9-4). -/
structure Slate where
  pos : Nat := 0
  touched : Bool := false
  deriving DecidableEq, Repr

/-- A persistent allocation of a context (R262). -/
structure PersistAlloc where
  key : Nat
  size : Nat
  place : Nat
  firstRegion : Nat
  regions : Nat
  mode : Nat
  target : Nat
  fallback : Bool
  deriving DecidableEq, Repr

/-- A context (R287 to R307). -/
structure Ctx where
  cstate : CtxState := .free
  throughput : Bool := false
  owner : Nat := 0
  geomCores : Nat := 0
  fromFs8 : Bool := false
  log2Rows : Nat := 0
  log2Cols : Nat := 0
  /-- The shape map by shape code; a code not listed is not VALID. -/
  shapes : Tab ShapeEntry := []
  tdcTotal : Nat := 0
  tdcIssue : Nat := 0
  tdcSlate : Nat := 0
  tdcFloat : Nat := 0
  tdcNet : Nat := 0
  tdcRestore : Nat := 0
  jobSelect : Nat := 0
  slate : Tab Slate := []
  persist : List PersistAlloc := []
  /-- The SRAM contents of its last image, saved or restored, at their device addresses (R19). -/
  shareData : List Host.Cell := []
  /-- Tenant tag of the SMU's attribution (R341). -/
  tenant : Nat := 0
  deriving DecidableEq, Repr

/-- Job states (Table 2-13). -/
inductive JobState where
  | defined | placed | queued | launched | running | draining | done | faulted | aborted
  deriving DecidableEq, Repr

/-- Where JOB_PLACE put a tensor (Table 11-7). -/
structure TensorPlace where
  base : Nat
  mode : Nat
  target : Nat
  reused : Bool
  fallback : Bool
  firstRegion : Nat
  regions : Nat
  deriving DecidableEq, Repr

/-- A replicated row (R267): bytes of `tensor` at `addr`, kept at `replica`. -/
structure HotRow where
  addr : Nat
  bytes : Nat
  replica : Nat
  deriving DecidableEq, Repr

/-- The progress of one step of a plan (R260): not started, running on a core with the tidy cores still in it (none left once it has ended). -/
structure StepRun where
  core : Option Nat := none
  tidyLeft : Nat := 0
  deriving DecidableEq, Repr

/-- A job (R60, R73, R79, R257, R261). -/
structure Job where
  ctx : Nat
  jstate : JobState
  plan : List Byte
  cores : Nat
  tensors : List TensorPlace := []
  hotRows : List HotRow := []
  seed : Nat := 0
  /-- The bound streams and the tidy core, 8n + m, of each; none when SLATE_USED is 0 (R216, R220). -/
  slateBind : Tab Nat := []
  /-- The tidy core that each shared stream served last in the job (R216). -/
  slateLast : Tab Nat := []
  steps : List StepRun := []
  tdc : Nat := 0
  /-- S, t_req, LATE and HELD_ORPHANED (R75, R79). -/
  startS : Nat := 0
  tReq : Nat := 0
  late : Bool := false
  held : Bool := false
  doneSync : Option Nat := none
  pend : Option Pend := none
  /-- The ring of its JOB_QUEUE, for the job table of a dump (R425). -/
  ring : Option Nat := none
  /-- The final code of a job that has faulted and whose units have still to stop (R404). -/
  faultCode : Option Nat := none
  /-- Job tag of the SMU's attribution (R341). -/
  jobTag : Nat := 0
  deriving DecidableEq, Repr

/-! ### Large cores -/

/-- A descriptor, token-draw request or move request in a queue: its ticket, issuer, 512-bit word, and how far it has come. -/
structure Desc where
  ticket : Nat
  tidy : Nat
  word : Nat
  /-- A token-draw request of `xt.draw`, which carries no OP (R196). -/
  token : Bool := false
  /-- Its number among the group requests of its mask that this core accepted in the job (R155). -/
  ordinal : Nat := 0
  started : Bool := false
  landed : Bool := false
  /-- The device address it was read from. -/
  addr : Nat := 0
  deriving DecidableEq, Repr

/-- What a shadow buffer is doing (R131, R137). -/
inductive ShadowUse where
  | drain | reduce | chainSend | chainWait
  deriving DecidableEq, Repr

/-- One of the four shadow buffers: its use, the descriptor it serves and the words it holds (R131). -/
structure Shadow where
  use : ShadowUse
  ticket : Nat
  word : Nat
  isInt : Bool
  /-- Rows and columns of its words (R303). -/
  rows : Nat
  cols : Nat
  words : Tab Nat
  /-- Destination bytes that a tidy core has stored to since the capture: undefined after the write-out (R132). -/
  dirty : List Nat := []
  deriving DecidableEq, Repr

/-- The SUA page of a large core (R171). -/
structure Sua where
  conflict : Bool := false
  demoted : Bool := false
  stale : Bool := false
  clamped : Bool := false
  inexact : Bool := false
  conflictI : Nat := 0xFFFFFFFF
  conflictJ : Nat := 0xFFFFFFFF
  demotions : Nat := 0
  staleCount : Nat := 0
  evals : Nat := 0
  discards : Nat := 0
  tableIndex : Nat := 0
  deriving DecidableEq, Repr

/-- A large core: queues, tickets, tiles, shadow set, and its three engine pages (R98 to R140, R171, R269). -/
structure Core where
  matrixQ : List Desc := []
  suaQ : List Desc := []
  moveQ : List Desc := []
  nextTicket : Nat := 1
  nextMove : Nat := 1
  lastDoneM : Nat := 0
  lastDoneS : Nat := 0
  lastDoneMove : Nat := 0
  /-- Issuers whose descriptors were accepted last in the job (R103, R271). -/
  lastIssuerM : Option Nat := none
  lastIssuerS : Option Nat := none
  firstNetAdd : Option Nat := none
  lastNetAdd : Option Nat := none
  /-- Group requests accepted in the job, by mask, for the SUA queue and for NET_ADD (R155, R274). -/
  groupCount : Tab Nat := []
  netCount : Tab Nat := []
  rejects : Nat := 0
  rejectCode : Nat := 0
  rejectTidy : Nat := 0
  rejectTag : Nat := 0
  issuerM : Nat := 0
  issuerS : Nat := 0
  unbound : Bool := true
  /-- Non-zero tile words, keyed by tile × 65,536 + row × 256 + column. -/
  tiles : Tab Nat := []
  /-- Class tags: bit t set when tile t is INT32 (R100). -/
  tileInt : Nat := 0
  /-- Elements of the tiles that an uncorrectable error struck while no job held the core: they are cleared at the next release (Table 17-2). -/
  badWords : List Nat := []
  /-- Context whose job held the core last (R133). -/
  lastCtx : Option Nat := none
  /-- Shape entry and tile of the descriptor that occupied the array last, from which a change of either is counted (R97, R435). -/
  lastArray : Option (Nat × Nat) := none
  /-- Context and job that hold the core. -/
  job : Option Nat := none
  spill : Nat := 0
  accOf : Bool := false
  accNv : Bool := false
  accNanIn : Bool := false
  accTrunc : Bool := false
  accIov : Bool := false
  flagTiles : Nat := 0
  flagTag : Nat := 0
  flagTagValid : Bool := false
  truncRuns : Nat := 0
  spills : Nat := 0
  shadow : Tab Shadow := []
  sua : Sua := {}
  deriving DecidableEq, Repr

/-- TC_STATE (Table 4-13), in register order. -/
inductive TidyState where
  | idle | running | waitEngine | waitSync | trapped
  deriving DecidableEq, Repr

/-- What a stalled tidy core waits for: a ticket of the matrix queue or SUA queue, or a move (R110, R269). -/
structure TidyWait where
  move : Bool
  ticket : Nat
  rd : Nat
  deriving DecidableEq, Repr

/-- A tidy core: the architectural state of RV64GC and the vector extension, the custom CSRs, and its page (R17, R114, R116). -/
structure Tidy where
  tstate : TidyState := .idle
  pc : Nat := 0
  /-- x1 to x31; x0 reads zero. -/
  x : Tab Nat := []
  f : Tab Nat := []
  /-- v0 to v31, 2,048 bits each. -/
  v : Tab Nat := []
  fcsr : Nat := 0
  vl : Nat := 0
  vtype : Nat := 0
  csrs : Tab Nat := []
  xrStream : Nat := 0
  xrStep : Nat := 0
  /-- A load reservation (the A extension). -/
  reservation : Option Nat := none
  /-- Positions of the slate streams bound to this core in the running job (R216). -/
  slate : Tab Nat := []
  fflags : Nat := 0
  trapCause : Nat := 0
  trapPc : Nat := 0
  trapTval : Nat := 0
  wait : Option TidyWait := none
  /-- Halted through JTAG, and the single steps it may still take (R390, R395). -/
  halted : Bool := false
  steps : Nat := 0
  deriving DecidableEq, Repr

/-- A group descriptor that runs: its members in order, member 0's word, and what it has done so far (R155 to R188). -/
structure GroupRun where
  members : List Nat
  word : Nat
  token : Bool
  /-- Sweeps or steps completed. -/
  sweep : Nat := 0
  /-- The next class of a chromatic sweep, or the next unit position of a window. -/
  beat : Nat := 0
  /-- The regions of its problem, and among them those it writes, as device addresses and lengths (R172, R173). -/
  guarded : List (Nat × Nat) := []
  outs : List (Nat × Nat) := []
  /-- Something else has written one of its regions: its results are undefined (R172). -/
  disturbed : Bool := false
  flips : Nat := 0
  evals : Nat := 0
  discards : Nat := 0
  stale : Nat := 0
  demotions : Nat := 0
  clamped : Nat := 0
  conflictI : Nat := 0xFFFFFFFF
  conflictJ : Nat := 0xFFFFFFFF
  wallHits : Nat := 0
  momSat : Nat := 0
  signChanges : Nat := 0
  deriving DecidableEq, Repr

/-! ### Memory, placement and the network -/

/-- A region table entry (Table 11-2). -/
structure Region where
  mode : Nat := 0
  target : Nat := 0
  base : Nat := 0
  owner : Nat := 0x7F
  readOnly : Bool := false
  persist : Bool := false
  deriving DecidableEq, Repr

/-- Regions of a released job that wait under R266. -/
structure DeferredUnmap where
  ctx : Nat
  regions : List Nat
  deriving DecidableEq, Repr

/-- Request tracking of one stack (R275, R276): entries in use by source (0 to 15 cores, 16 the hub), the peak and waits since last read, and the waiting sources, oldest first. -/
structure Track where
  used : Tab Nat := []
  waiting : List Nat := []
  peak : Nat := 0
  waits : Nat := 0
  deriving DecidableEq, Repr

/-- HBM_STATUS.STATE (Table 11-14), in register order. -/
inductive HbmState where
  | training | active | selfRefresh | failed
  deriving DecidableEq, Repr

/-- A DRAM controller and stack (R286, R473). -/
structure Dram where
  hstate : HbmState := .training
  temp : Nat := 0
  hotRefresh : Bool := false
  refreshes : Nat := 0
  refreshWaits : Nat := 0
  attempts : Nat := 0
  deriving DecidableEq, Repr

/-- A merge window of an owner's port: the core and the line, and when it opened (R280). -/
structure Merge where
  core : Nat
  line : Nat
  opened : Nat
  deriving DecidableEq, Repr

/-- A cluster router (R280, R285). -/
structure Router where
  merged : Nat := 0
  combines : Nat := 0
  maxAge : Nat := 0
  ctlMax : Nat := 0
  deriving DecidableEq, Repr

/-- A request in the network (R275, R416, R417): its number, target and requester pages, the epochs it carries, the stacks whose tracking entries it holds and awaits, and once its target's port has answered, the code and the source's epoch. -/
structure NetReq where
  id : Nat
  target : Nat
  targetEpoch : Nat
  requester : Nat
  requesterEpoch : Nat
  address : Nat
  job : Option Nat
  entries : List Nat := []
  wants : List Nat := []
  reply : Option (Nat × Nat) := none
  deriving DecidableEq, Repr

/-! ### Geometry (Organisation) -/

/-- The geometry page and its fuses (R18 to R24). -/
structure Geometry where
  /-- Slot of each present logical core, in order; its length is N (R18). -/
  slots : List Nat := [0, 1, 2, 3, 5, 6, 7, 8, 10, 11, 12, 13, 15, 16, 17, 18]
  retired : Nat := 0
  pendingRetire : Nat := 0
  spareIn : Nat := 0
  /-- Logical cores offline under R22. -/
  offline : Nat := 0
  generation : Nat := 0
  /-- Cores whose substitute has still to receive its SRAM contents (R19). -/
  restoreDue : Nat := 0
  deriving DecidableEq, Repr

/-! ### Firmware processors, log and lease (Firmware Processors and the Driver Lease) -/

/-- How far an FW_STAGE or FW_ACTIVATE of a processor has come (R361, R362). -/
inductive FwPhase where
  | staging | waiting | deferred | restarting
  deriving DecidableEq, Repr

/-- An FW_STAGE or FW_ACTIVATE checked and not yet completed. -/
structure FwOp where
  cmd : Cmd
  phase : FwPhase
  /-- S of R80 for an activation. -/
  s : Nat
  /-- When the deferral, or the restart, began. -/
  since : Nat
  deriving DecidableEq, Repr

/-- An image in a slot of the boot flash: its version and the root key that signed it (R376, R377). -/
structure FlashImage where
  version : Nat := 1
  key : Nat := 0
  deriving DecidableEq, Repr

/-- A firmware processor (R357 to R365). -/
structure Proc where
  restarting : Bool := false
  /-- Halted through JTAG (R390, R395). -/
  halted : Bool := false
  waiting : List Cmd := []
  /-- The image last run, of version 1 under root key 0 at reset (DESIGN CHOICE, notes/assumptions/21.md), and what the other slot of the boot flash holds (R376). -/
  image : FlashImage := {}
  other : Option FlashImage := none
  /-- The version staged in the other slot. -/
  staged : Option Nat := none
  /-- Root keys that the staged image revokes. -/
  stagedRevokes : Nat := 0
  op : Option FwOp := none
  restarts : Nat := 0
  reverts : Nat := 0
  deriving DecidableEq, Repr

/-- A log record (Table 15-5). -/
structure LogRec where
  seq : Nat
  time : Nat
  proc : Nat
  level : Nat
  point : Nat
  code : Nat
  data : Nat
  deriving DecidableEq, Repr

/-- The log ring and its copy in host memory (R366 to R368). -/
structure LogRing where
  records : List LogRec := []
  seq : Nat := 0
  dropped : Nat := 0
  traceEn : Nat := 0
  hostBase : Nat := 0
  hostLog2 : Nat := 0
  hostTail : Nat := 0
  hostHead : Nat := 0
  /-- SEQ of the next record to copy. -/
  nextCopy : Nat := 1
  deriving DecidableEq, Repr

/-- A cluster control core's page and its error-report buffer (R375, Table 15-3). -/
structure Ccc where
  errq : List LogRec := []
  dropped : Nat := 0
  restarts : Nat := 0
  deriving DecidableEq, Repr

/-- LEASE_STATE.LEASE (Table 15-7), in register order. -/
inductive LeaseStatus where
  | none | held | expired | takenOver
  deriving DecidableEq, Repr

/-- The driver lease and the completion store (R369 to R373). -/
structure Lease where
  status : LeaseStatus := .none
  warned : Bool := false
  interval : Nat := 500
  deadline : Nat := 0
  setAt : Nat := 0
  expiries : Nat := 0
  store : List (Nat × Completion) := []
  resultCode : Nat := 0
  resultRing : Nat := 0
  resultValid : Bool := false
  /-- Ring of the TAKEOVER in force. -/
  takeRing : Option Nat := none
  /-- The lease expired in SNOWPACK (Table 2-12). -/
  fromSnowpack : Bool := false
  deriving DecidableEq, Repr

/-! ### Security core (Keys, Life States and Field Lock) -/

/-- State of an owner key slot (R378), in register order. -/
inductive SlotState where
  | empty | transport | inUse
  deriving DecidableEq, Repr

/-- An owner key slot (R378, R382). -/
structure KeySlot where
  sstate : SlotState := .empty
  admin : Bool := false
  key : Nat := 0
  last : Nat := 0
  reserve : Nat := 0
  deriving DecidableEq, Repr

/-- Unlock level (R392, R394), in register order. -/
inductive UnlockLevel where
  | none | owner | vendor
  deriving DecidableEq, Repr

/-- A KEY_MANAGE change being written to the protected region (R386): its OP, slot and ADMIN flag, and the block that was wrapped, as a number. -/
structure KeyChange where
  cmd : Cmd
  op : Nat
  slot : Nat
  admin : Bool
  /-- The unwrapped block: the new key, or the password's bytes. -/
  block : Nat
  deriving DecidableEq, Repr

/-- The security core's store, fuses and page (R376 to R396). Fuse contents that the spec leaves to each part (identity, salt, transport key) read zero at reset (DESIGN CHOICE, notes/assumptions/15.md). -/
structure Security where
  /-- Fuse pairs of PROVISIONED, FIELD, RETURN: two bits each (R387). -/
  lifeFuses : Nat := 0
  slots : Tab KeySlot := [(0, { sstate := .transport, admin := true })]
  deviceId : Nat := 0
  salt : Nat := 0
  transportKey : Nat := 0
  fails : Nat := 0
  level : Nat := 0
  total : Nat := 0
  lockoutEnd : Nat := 0
  /-- Length of the lockout begun last. -/
  lockoutLen : Nat := 0
  unlock : UnlockLevel := .none
  unlockEnd : Nat := 0
  verifier : Option Nat := none
  nonce : Nat := 0
  chalSeq : Nat := 0
  /-- A lockout that was in force at a loss of VAUX33 begins again when power returns (R384). -/
  lockoutAgain : Bool := false
  chalValid : Bool := false
  /-- The challenge was invalidated by a class-3 record (R241). -/
  chalVoided : Bool := false
  chalTime : Nat := 0
  ctrSelect : Nat := 0
  rollSelect : Nat := 0
  /-- Rollback floor and fused epoch by processor; an unlisted floor is version 1, the first image's (DESIGN CHOICE, notes/assumptions/21.md). -/
  floors : Tab Nat := []
  fusedEpochs : Tab Nat := []
  rootRevoked : Nat := 0
  jtagDenied : Nat := 0
  /-- KEY_MANAGE and LIFE_STATE commands that await their commit, oldest first. -/
  keyChanges : List KeyChange := []
  lifeChanges : List (Cmd × Nat) := []
  /-- OWNER unlocks being verified: the command, the password and the minutes. -/
  ownerUnlocks : List (Cmd × List Byte × Nat) := []
  /-- What the last JTAG access returned. -/
  jtagReply : Nat := 0
  deriving DecidableEq, Repr

/-! ### Entropy source (Physical Entropy Source) -/

/-- State of a noise source (Table 10-7), in register order. -/
inductive SrcState where
  | off | startup | standby | active | failed
  deriving DecidableEq, Repr

/-- A noise source with its tests, conditioner and pool (R225 to R231). -/
structure NoiseSrc where
  sstate : SrcState := .startup
  settled : Bool := false
  /-- The number of the adaptive-proportion window in progress. -/
  window : Nat := 0
  /-- A test has failed in the window in progress. -/
  windowFailed : Bool := false
  /-- Windows passed in, and attempts failed of, the start-up test in progress. -/
  passRun : Nat := 0
  attempts : Nat := 0
  /-- The start-up test in progress is a retest (R249). -/
  retest : Bool := false
  /-- The repetition count test: the last sample and how often it has repeated. -/
  lastSample : Option Bool := none
  runLength : Nat := 0
  /-- The conditioner's S (R230). -/
  lfsr : Nat := 0
  /-- The verified pool: its length in bits, and the bits, oldest in bit 0. -/
  poolLen : Nat := 0
  pool : Nat := 0
  /-- ENTROPY_SEQ of the last delivery before the window in progress began. -/
  seqAtWindow : Nat := 0
  rctFails : Nat := 0
  aptFails : Nat := 0
  deriving DecidableEq, Repr

/-- ENT_STATUS.SERVICE (Table 10-7), in register order. -/
inductive EntService where
  | notReady | ready | holding | fault | test
  deriving DecidableEq, Repr

/-- Who asked for generator output (R222, R241, R244). -/
inductive EntKind where
  | seed | read | challenge
  deriving DecidableEq, Repr

/-- A request held, or generated and awaiting its window (R236, R240). -/
structure EntReq where
  kind : EntKind
  cmd : Cmd
  len : Nat
  wait : Bool
  dest : Nat
  out : Option (List Byte) := none
  deriving DecidableEq, Repr

/-- The working state of the CTR_DRBG (R232): Key, and V as a big-endian number. -/
structure Drbg where
  key : List Byte := List.replicate 32 0
  v : Nat := 0
  deriving DecidableEq, Repr

/-- The entropy source's service, generator and page (R232 to R249). -/
structure Entropy where
  service : EntService := .notReady
  activeSrc : Nat := 0
  src0 : NoiseSrc := {}
  src1 : NoiseSrc := {}
  /-- The generator; none when it is not instantiated. -/
  gen : Option Drbg := none
  /-- The generator must be instantiated afresh before its next delivery (R248). -/
  renew : Bool := false
  genCount : Nat := 0
  reseeds : Nat := 0
  /-- The last ENTROPY_SEQ delivered, and N of the latest active-source failure. -/
  seq : Nat := 0
  suspect : Nat := 0xFFFFFFFFFFFFFFFF
  queue : List EntReq := []
  readyTime : Nat := 0
  /-- Time since hub power-good before which a RETEST is ignored (R249). -/
  retestFrom : Nat := 0
  testSelect : Bool := false
  testSource : Nat := 0
  testLo : Nat := 0
  pattern : Nat := 0
  /-- Samples of the pattern that TAP 1 and TAP 2 have delivered, and the conditioner of the TAP 1 stream. -/
  tapRaw : Nat := 0
  tapCond : Nat := 0
  tapLfsr : Nat := 0
  deriving DecidableEq, Repr

/-! ### Faults and the Moraine dump (Errors, Resets and the Moraine Dump) -/

/-- Corrected errors coalesced for one unit and KIND in one second (R402). -/
structure CeRun where
  page : Nat
  kind : Nat
  since : Nat
  count : Nat
  address : Nat
  context : Nat
  syndrome : Nat
  deriving DecidableEq, Repr

/-- A fatal error whose dump is being written (R423). -/
structure Fatal where
  cause : Nat
  time : Nat
  prev : Nat
  /-- A dump was already held: nothing new is written (R424). -/
  later : Bool
  /-- Its fault record (Table 17-3), as a number. -/
  record : Nat
  /-- Fatal errors since the one whose dump is being written. -/
  laterFatals : Nat := 0
  deriving DecidableEq, Repr

/-- The held Moraine dump (R424, R425): the fields of its header, SECTIONS_VALID, the seven running versions, the bytes captured of each section whose layout the spec gives, trailing zeros left out, and the index of the free bytes of the others (notes/assumptions/4.md). -/
structure Dump where
  cause : Nat
  prev : Nat
  time : Nat
  minimal : Bool
  mirrored : Bool
  unpowered : Bool
  laterFatals : Nat
  deviceId : Nat
  valid : Nat
  versions : List Nat
  sections : Tab (List Byte)
  openKey : Nat
  deriving DecidableEq, Repr

/-- A DUMP_READ in progress, with the dump it reads (R427). -/
structure DumpRead where
  pend : Pend
  dump : Dump
  offset : Nat
  bytes : Nat
  dest : Nat
  deriving DecidableEq, Repr

/-- A CTX_SAVE or CTX_RESTORE in progress: its context, record and cores (R305, R409). -/
structure CtxOp where
  ctx : Nat
  cmd : Cmd
  cores : Nat
  restore : Bool
  deriving DecidableEq, Repr

/-- A UNIT_RESET in progress (R419). -/
structure UnitResetOp where
  page : Nat
  oldEpoch : Nat
  pend : Pend
  deriving DecidableEq, Repr

/-- A host write stopped under R371, and the final record that follows it. -/
structure StoppedWrite where
  pend : Pend
  addr : Nat
  bytes : List Byte
  code : Nat
  r0 : Nat
  r1 : Nat
  deriving DecidableEq, Repr

/-- Error handling, resets in progress and the dump region. -/
structure Faults where
  stopped : List StoppedWrite := []
  ce : List CeRun := []
  fatal : Option Fatal := none
  dump : Option Dump := none
  dumpReads : List DumpRead := []
  unitResets : List UnitResetOp := []
  /-- Virtual functions whose Function Level Reset is in progress. -/
  vfResets : List Nat := []
  deriving DecidableEq, Repr

/-! ### Power and heat (Power and Thermal Control) -/

/-- One estimate of the issue governor: its time, E and the controlled power P in milliwatts (R311), and the loads per domain in watts (R334). -/
structure PSample where
  time : Nat
  e : Nat
  p : Nat
  compute : Nat
  memory : Nat
  links : Nat
  deriving DecidableEq, Repr

/-- A SET_CAP or SET_PLATFORM_LIMIT that awaits its final record (R319, R320). -/
structure CapOp where
  cmd : Cmd
  platform : Bool
  watts : Nat
  prio : Nat
  /-- Its own S; none while that is the next return to FROST. -/
  ownS : Option Nat
  /-- When the command before it ended. -/
  readyAt : Nat := 0
  /-- In its settling interval. -/
  started : Bool := false
  /-- The lowest 1 ms mean of P in the interval, in milliwatts. -/
  lowest : Nat := 0
  prevWatts : Nat := 0
  prevPrio : Nat := 0
  deriving DecidableEq, Repr

/-- A SET_ICE_MODE that awaits its final record (R323). -/
structure IceOp where
  cmd : Cmd
  enable : Bool
  point : Nat
  s : Nat
  started : Bool := false
  /-- Nothing of it remains but its final record: a disable that has taken effect, or an enable that a later command of Ice mode has superseded. -/
  ended : Bool := false
  deriving DecidableEq, Repr

/-- A POWER_STATE that awaits its final record (R332). -/
structure PowerOp where
  cmd : Cmd
  toSnowpack : Bool
  check : Nat
  deriving DecidableEq, Repr

/-- The power core, the issue governor and the power page (R308 to R334). -/
structure Power where
  /-- Highest sustained point 12 in place of 15 (Table 0-1). -/
  part140 : Bool := false
  cap : Nat := 1200
  platform : Nat := 1200
  /-- PRIO_FIRST, PRIO_SECOND, PRIO_THIRD as PWR_CAP shows them. -/
  prio : Nat := 0x24
  /-- The clusters' common sustained point, and each cluster's point. -/
  common : Nat := 0
  points : Tab Nat := []
  ctlDuty : Nat := 16
  memK : Nat := 16
  linkK : Nat := 16
  peakDuty : Nat := 16
  peakRaised : Nat := 0
  slopeDuty : Nat := 16
  /-- The thermal controls of Table 13-5: clusters under the 95 °C control, and its point and duty limits by cluster. -/
  thermOn : Nat := 0
  thermPoint : Tab Nat := []
  thermDuty : Tab Nat := []
  stackHot : Bool := false
  hubHot : Bool := false
  thermMem : Nat := 16
  thermLink : Nat := 16
  clamp : Bool := false
  /-- Episodes in progress: bit 4 × cause + cluster (R316). -/
  episodes : Nat := 0
  thrCap : Nat := 0
  thrPeak : Nat := 0
  thrSlope : Nat := 0
  thrThermal : Nat := 0
  thrIce : Nat := 0
  /-- E and M in milliwatts. -/
  e : Nat := 0
  m : Nat := 0
  /-- The estimates of the last 10 ms, newest first. -/
  samples : List PSample := []
  lastPeriod : Nat := 0
  /-- The 1 ms power and temperature records of the last 10 s, oldest first, each as a number of 16 bytes, and the time of the last one (R425). -/
  trail : List Nat := []
  trailAt : Nat := 0
  ice : Bool := false
  icePoint : Nat := 0
  capOps : List CapOp := []
  iceOps : List IceOp := []
  powerOps : List PowerOp := []
  distrust : Bool := false
  disagree : Nat := 0
  agree : Nat := 0
  entries : Nat := 0
  smuAbsent : Bool := false
  /-- SEQ of the last valid record; none before the first and while the SMU is absent (R339). -/
  smuSeq : Option Nat := none
  lastValid : Nat := 0
  feedValid : Bool := false
  feedOverrange : Bool := false
  overSince : Option Nat := none
  overrun : Bool := false
  emergencySince : Option Nat := none
  clearSince : Option Nat := none
  junctions : Tab Nat := []
  hubTemp : Nat := 0
  boostEn : Bool := true
  /-- The sustained controller sheds the step from boost in this control period (R317). -/
  boostHeld : Bool := false
  deriving DecidableEq, Repr

/-! ### Sealed Metering Unit -/

/-- What an entry of the SMU's event log records (R352). -/
inductive SmuEvent where
  | assign | label | overrange | powerOn | sealing | sealFailed
  deriving DecidableEq, Repr

/-- An entry of the SMU's event log: what happened, two particulars, ENERGY_TOTAL at that moment, and for a sealing the digest of the log it replaced. -/
structure SmuEntry where
  event : SmuEvent
  a : Nat
  b : Nat
  total : Nat
  digest : List Byte := []
  deriving DecidableEq, Repr

/-- The registers and the log that the SMU keeps in its non-volatile store (R353). -/
structure SmuRegs where
  /-- Energy of each rail group since the first sealing, in units of 2^-16 µJ (R335). -/
  accA : Nat := 0
  accB : Nat := 0
  /-- µJ divided among the accounts so far. -/
  attributed : Nat := 0
  energy : Tab Nat := []
  labels : Tab Nat := []
  /-- Values at the end of the last completed attribution interval. -/
  total : Nat := 0
  totalA : Nat := 0
  totalB : Nat := 0
  smuTime : Nat := 0
  powerOns : Nat := 1
  unattrib : Nat := 0
  overranges : Nat := 0
  readingSeq : Nat := 0
  /-- UNATTRIB_INTERVALS and the overranges logged when each account was read last. -/
  unattribRead : Tab Nat := []
  overrangeRead : Tab Nat := []
  /-- A module in service has been sealed once (DESIGN CHOICE, notes/assumptions/40.md). -/
  sealCount : Nat := 1
  version : Nat := 1
  lrDigest : List Byte := List.replicate 48 0
  log : List SmuEntry := []
  deriving DecidableEq, Repr

/-- An account change that a SMU_ACCOUNT has asked for (R346). -/
structure SmuChange where
  cmd : Cmd
  label : Bool
  ctx : Nat
  account : Nat
  value : Nat
  logged : Bool := false
  deriving DecidableEq, Repr

/-- The operations that a channel request names (R340). -/
inductive SmuQuery where
  | signed (account nonce : Nat)
  | pubkey
  | log (index : Nat)
  deriving DecidableEq, Repr

/-- The reply to a channel request: none is served on channel 0 during a sealing (R340, R351). -/
inductive SmuReply where
  | reading (bytes : List Byte)
  | pubkey (xy : Nat)
  | entry (e : Option SmuEntry)
  | unavailable
  deriving DecidableEq, Repr

/-- A channel request that has arrived whole: its channel, what it asks, and whether the hub's page asked it (R340, R356). -/
structure SmuAsk where
  chan : Nat
  ask : SmuQuery
  page : Bool := false
  deriving DecidableEq, Repr

/-- The request being served: its reply, and the portions of 12 bytes that the frames have still to carry. -/
structure SmuServed where
  ask : SmuAsk
  reply : SmuReply
  left : Nat
  deriving DecidableEq, Repr

/-- The SMU and its page (R335 to R356). -/
structure Smu where
  powered : Bool := true
  regs : SmuRegs := {}
  nv : SmuRegs := {}
  /-- The registers as they stood at the last valid window record: the page keeps them while the SMU is absent (R354). -/
  shown : SmuRegs := {}
  /-- SEQ of the last window record, that record's 160 bits, and whether a rail has left its range in the window in progress (R337, R338). -/
  seq : Nat := 0
  record : Nat := 0
  overWindow : Bool := false
  /-- Of the attribution interval in progress: frames, a slot B that did not arrive valid, and the sums by account (R343). -/
  frames : Nat := 0
  missed : Bool := false
  weights : Tab Nat := []
  changes : List SmuChange := []
  /-- Attribution intervals since the last UNATTRIBUTED record (R355). -/
  sinceUnattrib : Nat := 0
  sealNonce : Nat := 0
  /-- Requests that wait, the one being served, and the last reply that each channel has carried whole (R340). -/
  asks : List SmuAsk := []
  served : Option SmuServed := none
  replies : Tab SmuReply := []
  /-- The signed reading that channel 0 has carried for the page. -/
  fetched : Option (List Byte) := none
  /-- The page: account selected, nonce, host address, and the reading in progress with its account and nonce (R356). -/
  acctSelect : Nat := 0
  nonce : Nat := 0
  readAddr : Nat := 0
  reading : Option (Nat × Nat) := none
  readCode : Nat := 0
  deriving DecidableEq, Repr

/-! ### Counters (Performance Counters and Sampling) -/

/-- A counter: CNT_SEL, its value, and the LO half written and held for the HI half (R429, R432). -/
structure Counter where
  sel : Nat := 0x7F000000
  value : Nat := 0
  /-- A LO write that awaits its HI write (R432). -/
  lo : Option Nat := none
  deriving DecidableEq, Repr

/-- The counter window of a page, and the sample its unit has in flight, as the record of Table 18-9 (R429, R443). -/
structure CntWin where
  counters : Tab Counter := []
  ovf : Nat := 0
  sample : Option Nat := none
  /-- On a large core's page, by slot: slot-units counted as retired or wasted whose cycles have still to pass (R436). -/
  owed : Tab Nat := []
  deriving DecidableEq, Repr

/-- A FREEZE, UNFREEZE or SNAPSHOT that awaits S: the command, OP and S (R438). -/
structure FreezeOp where
  cmd : Cmd
  op : Nat
  s : Nat
  deriving DecidableEq, Repr

/-- Occurrences of an event on a page in the command being run: how many, the context of the job they belong to, and the item that made them (R430, R435, R442). -/
structure Occ where
  page : Nat
  event : Nat
  n : Nat
  ctx : Option Nat
  item : SampleItem
  deriving DecidableEq, Repr

/-- The counter reader (R437 to R444). -/
structure Reader where
  frozen : Bool := false
  freezeTime : Nat := 0
  ops : List FreezeOp := []
  /-- Freezes and unfreezes that took effect at S and await their final record. -/
  applied : List FreezeOp := []
  /-- The SAMPLE_DRAIN that waits at its first host write (R440). -/
  drain : Option Cmd := none
  /-- The SNAPSHOT captured at S and not yet written out, with its records of 128 bytes. -/
  captured : Option (FreezeOp × List Nat) := none
  samples : List Nat := []
  lost : Nat := 0
  period : Nat := 0x10000
  /-- W, the start of the first window of that length, the last completed window's end, and its IN and OUT bytes by port index; no end while none of that length has completed. -/
  bwWindow : Nat := 1000000
  bwFrom : Nat := 0
  bwEnd : Option Nat := none
  bwCounts : Tab (Nat × Nat) := []
  bwSelect : Nat := 0
  /-- Bytes read from and written to each stack in the window in progress. -/
  traffic : Tab (Nat × Nat) := []
  deriving DecidableEq, Repr

/-! ### Links (Host Interface, Sholo Links and Ethernet) -/

/-- The host interface page (R465), with the physical link as trained: 6.0, sixteen lanes, flit mode (DESIGN CHOICE, notes/assumptions/50.md). -/
structure HostIf where
  gen : Nat := 6
  width : Nat := 16
  flit : Bool := true
  retrains : Nat := 0
  corrected : Nat := 0
  uncorrected : Nat := 0
  vfEnabled : Nat := 0
  sysPosition : Nat := 0
  deriving DecidableEq, Repr

/-- PORT_STATUS.STATE (Table 19-12), in register order. -/
inductive PortState where
  | disabled | training | discovery | up | lowPower | loopback
  deriving DecidableEq, Repr

/-- An entry of an Ethernet port's peer table (R461, R462). -/
structure Peer where
  addr : Nat := 0
  udp : Nat := 0
  valid : Bool := false
  verified : Bool := false
  ident : Option Identity := none
  lastId : Option Nat := none
  /-- Resends of each datagram that awaits acknowledgement, by its number (R462). -/
  resends : Tab Nat := []
  deriving DecidableEq, Repr

/-- A transfer descriptor fetched from a port's ring: its index, its 64 bytes as a number, and once it has ended its code (R455, R458). -/
structure Xfer where
  index : Nat
  word : Nat
  fin : Option Nat := none
  deriving DecidableEq, Repr

/-- An incoming transfer that has passed its checks (R456, R457). -/
structure Inbound where
  id : Nat
  write : Bool
  off : Nat
  len : Nat
  post : Option Nat
  deriving DecidableEq, Repr

/-- A transfer ring and its completion ring (R454). -/
structure XferRing where
  enable : Bool := false
  halted : Bool := false
  log2Sq : Nat := 6
  log2Cq : Nat := 6
  sqBase : Nat := 0
  cqBase : Nat := 0
  sqTail : Nat := 0
  sqHead : Nat := 0
  cqTail : Nat := 0
  cqHead : Nat := 0
  phase : Bool := true
  vector : Nat := 0
  armed : Bool := false
  /-- Descriptors fetched whose completions have not been written, in ring order. -/
  xfers : List Xfer := []
  /-- Codes of descriptors that were waiting in the ring when their partner was lost, by index (Table 19-8). -/
  doomed : Tab Nat := []
  deriving DecidableEq, Repr

/-- A Sholo port, 0 to 17, or an Ethernet port, 18 and 19 (R449 to R467). -/
structure Port where
  pstate : PortState := .disabled
  gen : Nat := 0
  half : Bool := false
  enable : Bool := true
  gen2En : Bool := true
  /-- Identity frame of the partner, while UP, LOOPBACK or in a retrain; and the DEVICE_ID of the last partner. -/
  partner : Option Identity := none
  lastId : Option Nat := none
  /-- The identity frame last sent from the port (R450). -/
  sent : Option Identity := none
  /-- Sholo-2 trainings that have failed in a row. -/
  gen2Fails : Nat := 0
  /-- Start of the retrain in progress. -/
  retrainAt : Option Nat := none
  /-- Times of the replays of the last 1 ms. -/
  replayTimes : List Nat := []
  /-- LOW_POWER because the partner entered SNOWPACK. -/
  partnerLow : Bool := false
  replays : Nat := 0
  retrains : Nat := 0
  maxDelay : Nat := 0
  xferCtx : Nat := 0x7F
  rxwEnable : Bool := false
  rxwCtx : Nat := 0x7F
  rxwFirst : Nat := 0
  rxwCount : Nat := 0
  xq : XferRing := {}
  inbound : List Inbound := []
  nextInbound : Nat := 0
  /-- The code sent to the partner for the last incoming transfer checked or ended. -/
  answer : Nat := 0
  /-- Ethernet: own IPv6 address and UDP port, PEER_SELECT, the peers, and the counts of Table 19-13. -/
  ipv6 : Nat := 0
  udp : Nat := 0
  peerSelect : Nat := 0
  peers : Tab Peer := []
  dropped : Nat := 0
  retransmits : Nat := 0
  deriving DecidableEq, Repr

/-! ### Bring-up and supplies (Power-Up and Bring-Up; Package, Supplies and Ratings) -/

/-- The boot record and what bring-up keeps (R469 to R479). -/
structure Boot where
  stage : Nat := 0
  hold : Bool := false
  warm : Bool := false
  failReason : Nat := 0
  elapsedMs : Nat := 0
  stacksFailed : Nat := 0
  retiredNow : Nat := 0
  clustersUp : Nat := 0
  logicalCores : Nat := 0
  /-- When the bring-up started (hub power-good, or the release of reset), and the time spent in holds. -/
  startAt : Nat := 0
  holdSince : Nat := 0
  holdTotal : Nat := 0
  /-- Stage 3 waits for the SMU (R471). -/
  smuWait : Bool := false
  smuWaitSince : Nat := 0
  /-- The previous reset followed a thermal trip (R472). -/
  tripped : Bool := false
  /-- The cluster rails are off (R328, R471, R485). -/
  railsOff : Bool := false
  /-- Processors whose image was verified in stage 2, by PROC (R376, R475). -/
  images : Nat := 0x7F
  /-- Slots tested in stage 6. -/
  tested : Nat := 0
  deriving DecidableEq, Repr

/-- The supplies, reference clocks and pins the module sees (R482 to R486). -/
structure Pins where
  hubPower : Bool := true
  vin48 : Bool := true
  excursion : Nat := 0
  vsmu33 : Bool := true
  linkRef : Bool := true
  sysRef : Bool := true
  hostRef : Bool := true
  perst : Bool := false
  thermTrip : Bool := false
  sealN : Bool := false
  deriving DecidableEq, Repr

/-! ### The whole state -/

/-- Why a step would stop with a fault. -/
inductive Fault where
  /-- Raised by no command: every behaviour the spec gives is a next state (safe). -/
  | none
  deriving DecidableEq, Repr

/-- Why a command is refused. -/
inductive Refusal where
  /-- Raised by an arm of Dispatch whose command has no meaning yet: safe, the machine stops. -/
  | notModelled (mnemonic : String)
  deriving DecidableEq, Repr

/-- The device: everything but the queue of waiting commands. -/
structure Dev where
  /-- Device time (R66); before the time domain locks, nanoseconds since hub power-good. -/
  now : Nat := 0
  reply : Option Reply := none
  free : Nat := 0
  hostMem : List Host.Cell := []
  devMem : List Host.Cell := []
  modState : ModState := .boot
  prevState : Nat := 0
  transitions : Nat := 0
  units : Tab UnitHdr := []
  views : Tab FnView := []
  rings : Tab Ring := []
  attnqs : Tab AttnQ := []
  emu : Tab EmuPage := []
  /-- Writes that have arrived at firmware-served pages. -/
  emuSeq : Nat := 0
  msix : List Msix := []
  hiLatch : Tab Nat := []
  time : TimeBase := {}
  syncs : Tab SyncObj := []
  launches : List Launch := []
  lateLaunches : Nat := 0
  ctxs : Tab Ctx := []
  jobs : Tab Job := []
  nextJob : Nat := 1
  cores : Tab Core := []
  tidies : Tab Tidy := []
  groups : Tab GroupRun := []
  regions : Tab Region := []
  deferred : List DeferredUnmap := []
  ctxOps : List CtxOp := []
  /-- Contexts with a save in progress when the module left ORPHANED to FROST: such a save starts nothing in FROST (Table 2-12). -/
  frostSaves : List Nat := []
  poison : List Nat := []
  /-- Region and stack of each share of a stack that a reset poisoned, and the lines of them written since (R420). -/
  badShares : List (Nat × Nat) := []
  goodLines : List Nat := []
  tracks : Tab Track := []
  drams : Tab Dram := []
  routers : Tab Router := []
  merges : List Merge := []
  netReqs : List NetReq := []
  learned : Tab Nat := []
  regionIndex : Nat := 0
  trackStack : Nat := 0
  placing : Bool := false
  geom : Geometry := {}
  procs : Tab Proc := []
  fwSelect : Nat := 0
  log : LogRing := {}
  cccs : Tab Ccc := []
  lease : Lease := {}
  sec : Security := {}
  ent : Entropy := {}
  flt : Faults := {}
  pwr : Power := {}
  smu : Smu := {}
  cnts : Tab CntWin := []
  /-- Occurrences noted by the command being run; empty between commands. -/
  occ : List Occ := []
  reader : Reader := {}
  hostIf : HostIf := {}
  ports : Tab Port := []
  boot : Boot := {}
  pins : Pins := {}
  deriving DecidableEq, Repr

/-- The module: the device and the commands that wait for it, first in, first out. -/
structure State where
  pending : List Instr := []
  dev : Dev := {}
  deriving DecidableEq, Repr

/-- The machine right after reset. -/
def State.reset : State := {}

end Sys2Proof.Machine
end

