-- ==== Sys2Proof/Machine/Crypto.lean ====
section
/-! DEFINITION. The published algorithms the security core uses: SHA-256, HMAC-SHA-256, PBKDF2, SHA-384 (FIPS 180-4, FIPS 198-1, SP 800-132), AES-256 and its key wrap (FIPS 197, SP 800-38F). R377 to R394 cite them by name. -/

namespace Sys2Proof.Machine

/-- The round constants of SHA-256. -/
def sha256K : List Nat :=
  [0x428A2F98, 0x71374491, 0xB5C0FBCF, 0xE9B5DBA5, 0x3956C25B, 0x59F111F1, 0x923F82A4, 0xAB1C5ED5,
   0xD807AA98, 0x12835B01, 0x243185BE, 0x550C7DC3, 0x72BE5D74, 0x80DEB1FE, 0x9BDC06A7, 0xC19BF174] ++
  [0xE49B69C1, 0xEFBE4786, 0x0FC19DC6, 0x240CA1CC, 0x2DE92C6F, 0x4A7484AA, 0x5CB0A9DC, 0x76F988DA,
   0x983E5152, 0xA831C66D, 0xB00327C8, 0xBF597FC7, 0xC6E00BF3, 0xD5A79147, 0x06CA6351, 0x14292967] ++
  [0x27B70A85, 0x2E1B2138, 0x4D2C6DFC, 0x53380D13, 0x650A7354, 0x766A0ABB, 0x81C2C92E, 0x92722C85,
   0xA2BFE8A1, 0xA81A664B, 0xC24B8B70, 0xC76C51A3, 0xD192E819, 0xD6990624, 0xF40E3585, 0x106AA070] ++
  [0x19A4C116, 0x1E376C08, 0x2748774C, 0x34B0BCB5, 0x391C0CB3, 0x4ED8AA4A, 0x5B9CCA4F, 0x682E6FF3,
   0x748F82EE, 0x78A5636F, 0x84C87814, 0x8CC70208, 0x90BEFFFA, 0xA4506CEB, 0xBEF9A3F7, 0xC67178F2]

/-- The initial hash of SHA-256. -/
def sha256H : List Nat :=
  [0x6A09E667, 0xBB67AE85, 0x3C6EF372, 0xA54FF53A, 0x510E527F, 0x9B05688C, 0x1F83D9AB, 0x5BE0CD19]

/-- The round constants of SHA-384. -/
def sha512K : List Nat :=
  [0x428A2F98D728AE22, 0x7137449123EF65CD, 0xB5C0FBCFEC4D3B2F, 0xE9B5DBA58189DBBC,
   0x3956C25BF348B538, 0x59F111F1B605D019, 0x923F82A4AF194F9B, 0xAB1C5ED5DA6D8118,
   0xD807AA98A3030242, 0x12835B0145706FBE, 0x243185BE4EE4B28C, 0x550C7DC3D5FFB4E2,
   0x72BE5D74F27B896F, 0x80DEB1FE3B1696B1, 0x9BDC06A725C71235, 0xC19BF174CF692694] ++
  [0xE49B69C19EF14AD2, 0xEFBE4786384F25E3, 0x0FC19DC68B8CD5B5, 0x240CA1CC77AC9C65,
   0x2DE92C6F592B0275, 0x4A7484AA6EA6E483, 0x5CB0A9DCBD41FBD4, 0x76F988DA831153B5,
   0x983E5152EE66DFAB, 0xA831C66D2DB43210, 0xB00327C898FB213F, 0xBF597FC7BEEF0EE4,
   0xC6E00BF33DA88FC2, 0xD5A79147930AA725, 0x06CA6351E003826F, 0x142929670A0E6E70] ++
  [0x27B70A8546D22FFC, 0x2E1B21385C26C926, 0x4D2C6DFC5AC42AED, 0x53380D139D95B3DF,
   0x650A73548BAF63DE, 0x766A0ABB3C77B2A8, 0x81C2C92E47EDAEE6, 0x92722C851482353B,
   0xA2BFE8A14CF10364, 0xA81A664BBC423001, 0xC24B8B70D0F89791, 0xC76C51A30654BE30,
   0xD192E819D6EF5218, 0xD69906245565A910, 0xF40E35855771202A, 0x106AA07032BBD1B8] ++
  [0x19A4C116B8D2D0C8, 0x1E376C085141AB53, 0x2748774CDF8EEB99, 0x34B0BCB5E19B48A8,
   0x391C0CB3C5C95A63, 0x4ED8AA4AE3418ACB, 0x5B9CCA4F7763E373, 0x682E6FF3D6B2B8A3,
   0x748F82EE5DEFB2FC, 0x78A5636F43172F60, 0x84C87814A1F0AB72, 0x8CC702081A6439EC,
   0x90BEFFFA23631E28, 0xA4506CEBDE82BDE9, 0xBEF9A3F7B2C67915, 0xC67178F2E372532B] ++
  [0xCA273ECEEA26619C, 0xD186B8C721C0C207, 0xEADA7DD6CDE0EB1E, 0xF57D4F7FEE6ED178,
   0x06F067AA72176FBA, 0x0A637DC5A2C898A6, 0x113F9804BEF90DAE, 0x1B710B35131C471B,
   0x28DB77F523047D84, 0x32CAAB7B40C72493, 0x3C9EBE0A15C9BEBC, 0x431D67C49C100D4C,
   0x4CC5D4BECB3E42B6, 0x597F299CFC657E2A, 0x5FCB6FAB3AD6FAEC, 0x6C44198C4A475817]

/-- The initial hash of SHA-384. -/
def sha384H : List Nat :=
  [0xCBBB9D5DC1059ED8, 0x629A292A367CD507, 0x9159015A3070DD17, 0x152FECD8F70E5939,
   0x67332667FFC00B31, 0x8EB44A8768581511, 0xDB0C2E0D64F98FA7, 0x47B5481DBEFA4FA4]

/-- Right rotation of a `w`-bit word: the word written twice, shifted. -/
def rotr (w a n : Nat) : Nat := Nat.mod (Nat.shiftRight (Nat.lor a (Nat.shiftLeft a w)) n) (Nat.pow 2 w)

/-- The rotation amounts that tell SHA-256 and SHA-512 apart. -/
structure ShaParams where
  w : Nat
  s0 : Nat × Nat × Nat
  s1 : Nat × Nat × Nat
  t0 : Nat × Nat × Nat
  t1 : Nat × Nat × Nat
  k : List Nat
  deriving DecidableEq, Repr

/-- SHA-256. -/
def sha256P : ShaParams := ⟨32, (2, 13, 22), (6, 11, 25), (7, 18, 3), (17, 19, 10), sha256K⟩
/-- SHA-512, of which SHA-384 is the truncation. -/
def sha512P : ShaParams := ⟨64, (28, 34, 39), (14, 18, 41), (1, 8, 7), (19, 61, 6), sha512K⟩

/-- The message schedule: `ws` holds the words so far, newest first, sixteen at the least. -/
def shaSchedule (p : ShaParams) : Nat → List Nat → List Nat
  | 0, ws => ws
  | n + 1, ws =>
    match ws with
    | _ :: w2 :: _ :: _ :: _ :: _ :: w7 :: _ :: _ :: _ :: _ :: _ :: _ :: _ :: w15 :: w16 :: _ =>
      let a := rotr p.w w15 p.t0.1 ^^^ rotr p.w w15 p.t0.2.1 ^^^ (w15 >>> p.t0.2.2)
      let b := rotr p.w w2 p.t1.1 ^^^ rotr p.w w2 p.t1.2.1 ^^^ (w2 >>> p.t1.2.2)
      shaSchedule p n (((w16 + a + w7 + b) % 2 ^ p.w) :: ws)
    | _ => ws

/-- One round over the eight working variables. -/
def shaRound (p : ShaParams) (st : List Nat) (kw : Nat × Nat) : List Nat :=
  match st with
  | [a, b, c, d, e, f, g, h] =>
    let s1 := rotr p.w e p.s1.1 ^^^ rotr p.w e p.s1.2.1 ^^^ rotr p.w e p.s1.2.2
    let ch := (e &&& f) ^^^ ((e ^^^ (2 ^ p.w - 1)) &&& g)
    let t1 := h + s1 + ch + kw.1 + kw.2
    let s0 := rotr p.w a p.s0.1 ^^^ rotr p.w a p.s0.2.1 ^^^ rotr p.w a p.s0.2.2
    let mj := (a &&& b) ^^^ (a &&& c) ^^^ (b &&& c)
    [(t1 + s0 + mj) % 2 ^ p.w, a, b, c, (d + t1) % 2 ^ p.w, e, f, g]
  | _ => st

/-- The words of a block, big-endian. -/
def shaWords (n : Nat) : Nat → List Byte → List Nat
  | 0, _ => []
  | k + 1, bs => beNat (bs.take n) :: shaWords n k (bs.drop n)

/-- Compress one block into a hash. -/
def shaBlock (p : ShaParams) (h : List Nat) (block : List Byte) : List Nat :=
  let w0 := (shaWords (p.w / 8) 16 block).reverse
  let ws := (shaSchedule p (p.k.length - 16) w0).reverse
  let st := (p.k.zip ws).foldl (shaRound p) h
  (h.zip st).map (fun x => (x.1 + x.2) % 2 ^ p.w)

/-- Compress every block. -/
def shaBlocks (p : ShaParams) : Nat → List Nat → List Byte → List Nat
  | 0, h, _ => h
  | n + 1, h, bs => shaBlocks p n (shaBlock p h (bs.take (2 * p.w))) (bs.drop (2 * p.w))

/-- The padded message: 0x80, zeros, and the bit length. -/
def shaPad (blk lenBytes : Nat) (m : List Byte) : List Byte :=
  let z := (blk - (m.length + 1 + lenBytes) % blk) % blk
  m ++ [0x80] ++ List.replicate z 0 ++ beBytes lenBytes (8 * m.length)

/-- SHA-256. -/
def sha256 (m : List Byte) : List Byte :=
  let pm := shaPad 64 8 m
  (shaBlocks sha256P (pm.length / 64) sha256H pm).flatMap (beBytes 4)

/-- SHA-384. -/
def sha384 (m : List Byte) : List Byte :=
  let pm := shaPad 128 16 m
  ((shaBlocks sha512P (pm.length / 128) sha384H pm).flatMap (beBytes 8)).take 48

/-- Exclusive or of two byte strings. -/
def xorBytes (a b : List Byte) : List Byte := (a.zip b).map (fun p => p.1 ^^^ p.2)

/-- HMAC-SHA-256. -/
def hmac256 (key m : List Byte) : List Byte :=
  let k0 := if key.length > 64 then sha256 key else key
  let k := k0 ++ List.replicate (64 - k0.length) 0
  let ipad := k.map (fun b => b ^^^ 0x36)
  let opad := k.map (fun b => b ^^^ 0x5C)
  sha256 (opad ++ sha256 (ipad ++ m))

/-- The iterations of one PBKDF2 block: the running value and the exclusive or so far. -/
def pbkdf2Iter (pw : List Byte) : Nat → List Byte → List Byte → List Byte
  | 0, _, acc => acc
  | n + 1, u, acc => let u' := hmac256 pw u; pbkdf2Iter pw n u' (xorBytes acc u')

/-- PBKDF2-HMAC-SHA-256 with a 32-byte output: one block (R386). -/
def pbkdf2 (pw salt : List Byte) (iterations : Nat) : List Byte :=
  let u := hmac256 pw (salt ++ [0, 0, 0, 1])
  pbkdf2Iter pw (iterations - 1) u u

/-! ### AES-256 -/

/-- Multiplication by x in the AES field. -/
def gfDouble (a : Nat) : Nat := if a < 128 then 2 * a else (2 * a) % 256 ^^^ 0x1B

/-- The AES S-box in rows of 32 entries, entry 0 of a row in its low byte. -/
def aesSboxRows : List Nat :=
  [0xc072a49cafa2d4adf04759fa7dc982ca76abd7fe2b670130c56f6bf27b777c63,
   0x75b227ebe28012079a059618c323c7041531d871f1e5a534ccf73f362693fdb7,
   0xcf584c4a39becb6a5bb1fc20ed00d153842fe329b3d63b52a05a6e1b1a2c8309,
   0xd2f3ff1021dab6bcf5389d928f40a351a89f3c507f02f94585334d43fbaaefd0,
   0xdb0b5ede14b8ee4688902a22dc4f816073195d643d7ea7c41744975fec130ccd,
   0x08ae7a65eaf4566ca94ed58d6d37c8e779e4959162acd3c25c2406490a3a32e0,
   0x9e1dc186b95735610ef6034866b53e708a8bbd4b1f74dde8c6b4a61c2e2578ba,
   0x16bb54b00f2d99416842e6bf0d89a18cdf2855cee9871e9b948ed9691198f8e1]

/-- The inverse S-box, in the same form. -/
def aesInvSboxRows : List Nat :=
  [0xcbe9dec444438e3487ff2f9b8239e37cfbd7f3819ea340bf38a53630d56a0952,
   0x25d18b6d49a25b76b224d92866a12e084ec3fa420b954cee3d23c2a632947b54,
   0x849d8da75746155edab9edfd5048706c92b6655dcc5ca4d41698688664f6f872,
   0x6b8a130103bdafc1020f3fca8f1e2cd00645b3b80558e4f70ad3bc8c00abd890,
   0x6edf751ce837f9e28535ade72274ac9673e6b4f0cecff297eadc674f4111913a,
   0xf45acd78fec0db9a2079d2c64b3e56fc1bbe18aa0e62b76f89c5291d711af147,
   0xef9cc9939f7ae52d0d4ab519a97f51605fec8027591012b131c7078833a8dd1f,
   0x7d0c2155631469e126d677ba7e042b17619953833cbbebc8b0f52aae4d3be0a0]

/-- The AES S-box and its inverse. -/
def aesSbox (a : Nat) : Nat := (aesSboxRows.getD (a / 32) 0 >>> (8 * (a % 32))) % 256
def aesInvSbox (a : Nat) : Nat := (aesInvSboxRows.getD (a / 32) 0 >>> (8 * (a % 32))) % 256

/-! A word of the key schedule is four bytes of one number and a state is sixteen, byte 0 in the low bits. -/

/-- The S-box on each byte of a word. -/
def aesSubWord (w : Nat) : Nat :=
  aesSbox (w % 256) + aesSbox (w / 2 ^ 8 % 256) * 2 ^ 8 + aesSbox (w / 2 ^ 16 % 256) * 2 ^ 16 + aesSbox (w / 2 ^ 24 % 256) * 2 ^ 24

/-- The AES-256 key schedule, `n` more words after the eight of the key; words newest first. -/
def aesExpand : Nat → Nat → Nat → List Nat → List Nat
  | 0, _, _, ws => ws
  | n + 1, i, rcon, ws =>
    match ws with
    | prev :: _ :: _ :: _ :: _ :: _ :: _ :: old :: _ =>
      let t :=
        if i % 8 = 0 then aesSubWord (prev / 2 ^ 8 + prev % 2 ^ 8 * 2 ^ 24) ^^^ rcon
        else if i % 8 = 4 then aesSubWord prev
        else prev
      aesExpand n (i + 1) (if i % 8 = 0 then gfDouble rcon else rcon) ((old ^^^ t) :: ws)
    | _ => ws

/-- Round keys from the words of the schedule, last word first; so the last round comes first. -/
def aesKeysOf : Nat → List Nat → List Nat
  | 0, _ => []
  | n + 1, ws =>
    match ws with
    | d :: c :: b :: a :: rest => (a + b * 2 ^ 32 + c * 2 ^ 64 + d * 2 ^ 96) :: aesKeysOf n rest
    | _ => []

/-- The fifteen round keys of AES-256, last round first. -/
def aesRoundKeys (key : List Byte) : List Nat :=
  let k := leNat key
  aesKeysOf 15 (aesExpand 52 8 1 ((upFrom 0 8).map (fun i => k / 2 ^ (32 * i) % 2 ^ 32)).reverse)

/-- The inverse S-box after the inverse of ShiftRows, on a column-major state: byte i comes from the byte of its row that i's column took. -/
def aesInvSubShift (st : Nat) : Nat :=
  (upFrom 0 16).foldl (fun a i => a + aesInvSbox (st / 2 ^ (8 * (4 * ((i / 4 + 4 - i % 4) % 4) + i % 4)) % 256) * 2 ^ (8 * i)) 0

/-- `gfDouble` on each byte of a state. -/
def aesDouble (x : Nat) : Nat :=
  ((x &&& 0x7F7F7F7F7F7F7F7F7F7F7F7F7F7F7F7F) * 2) ^^^ (((x >>> 7) &&& 0x01010101010101010101010101010101) * 0x1B)

/-- Each byte of a state replaced by the one 1, 2 or 3 places on in its column. -/
def aesRot1 (x : Nat) : Nat := ((x >>> 8) &&& 0x00FFFFFF00FFFFFF00FFFFFF00FFFFFF) ||| ((x &&& 0x000000FF000000FF000000FF000000FF) <<< 24)
def aesRot2 (x : Nat) : Nat := aesRot1 (aesRot1 x)
def aesRot3 (x : Nat) : Nat := ((x &&& 0x00FFFFFF00FFFFFF00FFFFFF00FFFFFF) <<< 8) ||| ((x >>> 24) &&& 0x000000FF000000FF000000FF000000FF)

/-- The inverse of MixColumns: the coefficients 14, 11, 13 and 9, from each byte's double, fourfold and eightfold. -/
def aesInvMix (x : Nat) : Nat :=
  let x2 := aesDouble x
  let x4 := aesDouble x2
  let x8 := aesDouble x4
  (x8 ^^^ x4 ^^^ x2) ^^^ aesRot1 (x8 ^^^ x2 ^^^ x) ^^^ aesRot2 (x8 ^^^ x4 ^^^ x) ^^^ aesRot3 (x8 ^^^ x)

/-- The rounds of decryption after the first key: all but the last mix the columns. -/
def aesRounds : List Nat → Nat → Nat
  | [], st => st
  | [rk], st => aesInvSubShift st ^^^ rk
  | rk :: rk' :: rks, st => aesRounds (rk' :: rks) (aesInvMix (aesInvSubShift st ^^^ rk))

/-- AES-256 decryption of one block, with the round keys, last round first. -/
def aesDecrypt (rks : List Nat) (block : List Byte) : List Byte :=
  leBytes 16 (aesRounds (rks.drop 1) (leNat block ^^^ rks.headD 0))

/-- The unwrapping steps of SP 800-38F KW, counting `t` down to 1 over `n` 8-byte blocks. -/
def kwSteps (rks : List Nat) (n : Nat) : Nat → List Byte → List (List Byte) → List Byte × List (List Byte)
  | 0, a, rs => (a, rs)
  | t + 1, a, rs =>
    let i := t % n
    let b := aesDecrypt rks (xorBytes a (beBytes 8 (t + 1)) ++ rs.getD i [])
    kwSteps rks n t (b.take 8) (rs.set i (b.drop 8))

/-- The key unwrap of SP 800-38F (KW): the block, or none when its integrity check fails (R385). -/
def kwUnwrap (kek wrapped : List Byte) : Option (List Byte) :=
  let rec blocks : Nat → List Byte → List (List Byte)
    | 0, _ => []
    | k + 1, bs => bs.take 8 :: blocks k (bs.drop 8)
  let n := wrapped.length / 8 - 1
  let r := kwSteps (aesRoundKeys kek) n (6 * n) (wrapped.take 8) (blocks n (wrapped.drop 8))
  if r.1 = List.replicate 8 0xA6 then some r.2.flatten else none

/-! ### AES-256 encryption, and the CTR_DRBG of SP 800-90A over it (R232) -/

/-- ShiftRows after the S-box, on a column-major state. -/
def aesSubShift (st : Nat) : Nat :=
  (upFrom 0 16).foldl (fun a i => a + aesSbox (st / 2 ^ (8 * (4 * ((i / 4 + i % 4) % 4) + i % 4)) % 256) * 2 ^ (8 * i)) 0

/-- MixColumns: the coefficients 2, 3, 1 and 1. -/
def aesMix (x : Nat) : Nat :=
  let x2 := aesDouble x
  x2 ^^^ aesRot1 (x2 ^^^ x) ^^^ aesRot2 x ^^^ aesRot3 x

/-- The rounds of encryption after the first key: all but the last mix the columns. -/
def aesForward : List Nat → Nat → Nat
  | [], st => st
  | [rk], st => aesSubShift st ^^^ rk
  | rk :: rk' :: rks, st => aesForward (rk' :: rks) (aesMix (aesSubShift st) ^^^ rk)

/-- AES-256 encryption of one block, with the round keys, first round first. -/
def aesEncrypt (rks : List Nat) (block : List Byte) : List Byte := leBytes 16 (aesForward (rks.drop 1) (leNat block ^^^ rks.headD 0))

/-- The round keys of encryption. -/
def aesKeys (key : List Byte) : List Nat := (aesRoundKeys key).reverse

/-- The chaining function BCC over whole blocks. -/
def drbgBcc (rks : List Nat) : Nat → List Byte → List Byte → List Byte
  | 0, c, _ => c
  | n + 1, c, bs => drbgBcc rks n (aesEncrypt rks (xorBytes c (bs.take 16))) (bs.drop 16)

/-- Three blocks of encryption under one key, each of the block before. -/
def drbgChain (rks : List Nat) (x : List Byte) : List Byte :=
  let a := aesEncrypt rks x
  let b := aesEncrypt rks a
  a ++ b ++ aesEncrypt rks b

/-- The derivation function Block_Cipher_df for 48 bytes. -/
def drbgDf (input : List Byte) : List Byte :=
  let s := beBytes 4 input.length ++ beBytes 4 48 ++ input ++ [0x80]
  let s := s ++ List.replicate ((16 - s.length % 16) % 16) 0
  let rks := aesKeys ((upFrom 0 32).map (BitVec.ofNat 8))
  let temp := (upFrom 0 3).flatMap (fun i => let m := beBytes 4 i ++ List.replicate 12 0 ++ s; drbgBcc rks (m.length / 16) (List.replicate 16 0) m)
  drbgChain (aesKeys (temp.take 32)) (temp.drop 32)

/-- The state of a CTR_DRBG: Key, and V as a big-endian number. -/
def Drbg.blocks (g : Drbg) (n : Nat) : List Byte :=
  let rks := aesKeys g.key
  (upFrom 1 n).flatMap (fun i => aesEncrypt rks (beBytes 16 (g.v + i)))

/-- CTR_DRBG_Update, after `n` blocks of output, with 48 bytes of provided data. -/
def Drbg.update (g : Drbg) (n : Nat) (provided : List Byte) : Drbg :=
  let v := g.v + n
  let t := xorBytes (({ g with v } : Drbg).blocks 3) provided
  { key := t.take 32, v := beNat (t.drop 32) }

/-- Instantiation, and reseeding, from seed material. -/
def Drbg.seeded (g : Drbg) (material : List Byte) : Drbg := g.update 0 (drbgDf material)

/-- A generate request of `n` bytes with no additional input. -/
def Drbg.generate (g : Drbg) (n : Nat) : List Byte × Drbg :=
  let k := (n + 15) / 16
  ((g.blocks k).take n, g.update k (List.replicate 48 0))

/-- The ASCII bytes of a string. -/
def ascii (s : String) : List Byte := s.toList.map (fun c => BitVec.ofNat 8 c.toNat)

end Sys2Proof.Machine
end

