-- ==== Sys2Proof/Config.lean ====
section
/-! DEFINITION. What the spec leaves open or places outside itself, as constants with no body: nothing can be proved about a value of one. -/

namespace Sys2Proof

/-- Free values: what a location, register or result holds where the spec says it is undefined (R132, R134, R161, R173, R409, R460). Each use applies it to a fresh number (notes/assumptions/3.md). -/
opaque Config.freeWord : Nat → BitVec 64

/-- Bytes of a structure whose layout the spec does not state, by structure, entry and byte (R425; notes/assumptions/4.md). -/
opaque Config.freeByte : Nat → Nat → Nat → BitVec 8

/-- Whether (r, s) is an ECDSA P-384 signature of a message's SHA-384 digest under one of the vendor's keys: 0 to 3 the root keys, 4 the debug key (R376, R394). The keys are the vendor's, so the relation is open (notes/assumptions/6.md). -/
opaque Config.vendorSigned : Nat → List Byte → List Byte → List Byte → Bool

/-- Whether (r, s) is an ECDSA P-384 signature of a message under one of the two metrology authority keys fused into the SMU (R351; notes/assumptions/6.md). -/
opaque Config.authoritySigned : Nat → List Byte → List Byte → List Byte → Bool

/-- The SMU's ECDSA P-384 signature, r then s, of a digest under its private key (R347; notes/assumptions/6.md). -/
opaque Config.smuSign : List Byte → Nat → BitVec 768

/-- The SMU's public key for a generated key pair (R348). -/
opaque Config.smuPublicKey : Nat → BitVec 768

end Sys2Proof
end

