-- ==== Sys2Proof/Machine/Units.lean ====
section
/-! DEFINITION. The units of the module and their pages: Table 1-5, Table 2-4 and the page indices of the two BAR0 layouts (R25, R36, R39, R40). -/

namespace Sys2Proof.Machine

/-- A unit: a block with a register page (Table 1-5, Table 2-4). -/
inductive UnitId where
  | root | geom | hub | hostIf | sec | pwr | sched | launch | timeBase | sync | counter | dir | entropy | smu
  | eth (e : Nat) | sholo (k : Nat) | cluster (c : Nat) | ccc (c : Nat) | ctx (n : Nat) | router (c : Nat)
  | core (n : Nat) | me (n : Nat) | sua (n : Nat) | acc (n : Nat) | tidy (n m : Nat) | dram (h : Nat)
  | ring (r : Nat) | attnq (f : Nat)
  deriving DecidableEq, Repr

/-- The page index of a unit in the physical function's BAR0. Context, ring and attention queue pages have the fixed indices of R39; the others are assigned at bring-up, and this assignment is a DESIGN CHOICE (notes/assumptions/5.md). -/
def UnitId.page : UnitId → Nat
  | .root => 0
  | .geom => 1
  | .hub => 2
  | .hostIf => 3
  | .sec => 4
  | .pwr => 5
  | .sched => 6
  | .launch => 7
  | .timeBase => 8
  | .sync => 9
  | .counter => 0xA
  | .dir => 0xB
  | .entropy => 0xC
  | .smu => 0xD
  | .eth e => 0x10 + e
  | .sholo k => 0x20 + k
  | .cluster c => 0x38 + c
  | .ccc c => 0x3C + c
  | .ctx n => 0x40 + n
  | .router c => 0x80 + c
  | .core n => 0x100 + 16 * n
  | .me n => 0x100 + 16 * n + 1
  | .sua n => 0x100 + 16 * n + 2
  | .acc n => 0x100 + 16 * n + 3
  | .tidy n m => 0x100 + 16 * n + 4 + m
  | .dram h => 0x200 + h
  | .ring r => 0x1000 + r
  | .attnq f => 0x1100 + f

/-- The unit with a page index in the physical function's BAR0, if the index is one of R39's. -/
def unitOf (p : Nat) : Option UnitId :=
  if p = 0 then some .root
  else if p = 1 then some .geom
  else if p = 2 then some .hub
  else if p = 3 then some .hostIf
  else if p = 4 then some .sec
  else if p = 5 then some .pwr
  else if p = 6 then some .sched
  else if p = 7 then some .launch
  else if p = 8 then some .timeBase
  else if p = 9 then some .sync
  else if p = 0xA then some .counter
  else if p = 0xB then some .dir
  else if p = 0xC then some .entropy
  else if p = 0xD then some .smu
  else if p < 0x10 then none
  else if p < 0x12 then some (.eth (p - 0x10))
  else if p < 0x20 then none
  else if p < 0x32 then some (.sholo (p - 0x20))
  else if p < 0x38 then none
  else if p < 0x3C then some (.cluster (p - 0x38))
  else if p < 0x40 then some (.ccc (p - 0x3C))
  else if p < 0x80 then some (.ctx (p - 0x40))
  else if p < 0x84 then some (.router (p - 0x80))
  else if p < 0x100 then none
  else if p < 0x200 then
    let n := (p - 0x100) / 16
    let k := (p - 0x100) % 16
    if k = 0 then some (.core n)
    else if k = 1 then some (.me n)
    else if k = 2 then some (.sua n)
    else if k = 3 then some (.acc n)
    else if k < 12 then some (.tidy n (k - 4))
    else none
  else if p < 0x220 then some (.dram (p - 0x200))
  else if p < 0x1000 then none
  else if p < 0x1100 then some (.ring (p - 0x1000))
  else if p < 0x1120 then some (.attnq (p - 0x1100))
  else none

/-- TYPE of a unit's page (Table 2-4). -/
def UnitId.type : UnitId → Nat
  | .root => 0x0001
  | .geom => 0x0002
  | .hub => 0x0003
  | .cluster _ => 0x0004
  | .core _ => 0x0005
  | .me _ => 0x0010
  | .sua _ => 0x0011
  | .acc _ => 0x0012
  | .tidy _ _ => 0x0013
  | .router _ => 0x0020
  | .dram _ => 0x0021
  | .hostIf => 0x0030
  | .ring _ => 0x0031
  | .attnq _ => 0x0032
  | .ctx _ => 0x0033
  | .sholo _ => 0x0040
  | .eth _ => 0x0041
  | .sec => 0x0050
  | .pwr => 0x0051
  | .sched => 0x0052
  | .ccc _ => 0x0053
  | .launch => 0x0060
  | .timeBase => 0x0061
  | .sync => 0x0062
  | .counter => 0x0063
  | .dir => 0x0064
  | .entropy => 0x0065
  | .smu => 0x0070

/-- INSTANCE of a unit's page: the logical number for a large core and its children (R25). -/
def UnitId.inst : UnitId → Nat
  | .eth e => e
  | .sholo k => k
  | .cluster c => c
  | .ccc c => c
  | .ctx n => n
  | .router c => c
  | .core n => n
  | .me n => n
  | .sua n => n
  | .acc n => n
  | .tidy n _ => n
  | .dram h => h
  | .ring r => r
  | .attnq f => f
  | _ => 0

/-- The firmware processor that serves an emulated page (Table 2-4): 0 security, 1 power, 2 scheduler, 3 + c cluster control core c; none on a hardware page. -/
def UnitId.server : UnitId → Option Nat
  | .ctx _ => some 2
  | .sec => some 0
  | .pwr => some 1
  | .sched => some 2
  | .ccc c => some (3 + c)
  | .smu => some 0
  | _ => none

/-- Whether a unit's page is emulated (R42, R43). -/
def UnitId.emulated (u : UnitId) : Bool := u.server.isSome

/-- The cluster a logical core's unit stands under; `geo` lists the cluster of each present logical core (R18, R22). -/
def coreCluster (geo : List Nat) (n : Nat) : Nat := geo.getD n (n / 4)

/-- The parent of a unit in the physical function's tree (Table 1-5). -/
def UnitId.parent (geo : List Nat) : UnitId → Option UnitId
  | .root => none
  | .hub => some .root
  | .cluster _ => some .root
  | .smu => some .root
  | .geom => some .root
  | .hostIf => some .hub
  | .sholo _ => some .hub
  | .eth _ => some .hub
  | .sec => some .hub
  | .pwr => some .hub
  | .sched => some .hub
  | .launch => some .hub
  | .timeBase => some .hub
  | .entropy => some .hub
  | .sync => some .hub
  | .counter => some .hub
  | .dir => some .hub
  | .ccc c => some (.cluster c)
  | .router c => some (.cluster c)
  | .dram h => some (.cluster (h / 8))
  | .core n => some (.cluster (coreCluster geo n))
  | .me n => some (.core n)
  | .sua n => some (.core n)
  | .acc n => some (.core n)
  | .tidy n _ => some (.core n)
  | .ring _ => some .hostIf
  | .attnq _ => some .hostIf
  | .ctx _ => some .sched

/-- The children of a unit in the physical function's view, in sibling order, with `geo` the cluster of each present logical core (Table 1-5, R36). -/
def UnitId.children (geo : List Nat) : UnitId → List UnitId
  | .root => [.hub, .cluster 0, .cluster 1, .cluster 2, .cluster 3, .smu, .geom]
  | .hub => [.hostIf] ++ (upFrom 0 18).map .sholo ++ [.eth 0, .eth 1, .sec, .pwr, .sched, .launch, .timeBase, .entropy, .sync, .counter, .dir]
  | .cluster c => [.ccc c, .router c] ++ (upFrom (8 * c) 8).map .dram ++ ((upFrom 0 geo.length).filter (fun n => coreCluster geo n == c)).map .core
  | .hostIf => (upFrom 0 256).map .ring ++ (upFrom 0 32).map .attnq
  | .sched => (upFrom 0 64).map .ctx
  | .core n => [.me n, .sua n, .acc n] ++ (upFrom 0 8).map (.tidy n)
  | _ => []

/-- Every descendant of a unit, the unit itself first; the tree of Table 1-5 is at most three deep below any unit. -/
def UnitId.subtree (geo : List Nat) (u : UnitId) : List UnitId :=
  let one (v : UnitId) : List UnitId := v :: v.children geo
  let two (v : UnitId) : List UnitId := v :: (v.children geo).flatMap one
  u :: (u.children geo).flatMap two

/-- Whether `anc` is the unit or a group above it. -/
def UnitId.under (geo : List Nat) (anc u : UnitId) : Bool :=
  u == anc || u.parent geo == some anc || ((u.parent geo).bind (UnitId.parent geo)) == some anc
    || (((u.parent geo).bind (UnitId.parent geo)).bind (UnitId.parent geo)) == some anc

end Sys2Proof.Machine
end

