-- ==== Sys2Proof/Machine/Ops.lean ====
section
/-! DEFINITION. The named operations that every family shares: the clock, unit headers, module states, attention records, the log, completions, and free values. -/

namespace Sys2Proof.Machine

/-- What a command answers. -/
abbrev Out := Host.Outcome State Fault Refusal

/-! ### Result codes (Table 0-5) -/

def cOk : Nat := 0x000
def cPending : Nat := 0x001
def cIllegal : Nat := 0x010
def cBadFormat : Nat := 0x011
def cOutOfRange : Nat := 0x012
def cNoResource : Nat := 0x013
def cAuthFail : Nat := 0x020
def cAuthStale : Nat := 0x021
def cAuthLockout : Nat := 0x022
def cEntNotReady : Nat := 0x030
def cEntFault : Nat := 0x031
def cUnitReset : Nat := 0x040
def cUnitOffline : Nat := 0x041
def cJobFault : Nat := 0x050
def cJobAborted : Nat := 0x051
def cCapUnreachable : Nat := 0x060
def cDeferredEmergency : Nat := 0x061
def cGeometryMismatch : Nat := 0x070
def cColourConflict : Nat := 0x071
def cLeaseExpired : Nat := 0x080
def cDeviceFatal : Nat := 0x0F0

/-- The launch lead L of R75, in ticks. -/
def launchLead : Nat := 2000

/-- 64-bit wrap. -/
def w64 (n : Nat) : Nat := n % 2 ^ 64

/-! ### Codes of register fields -/

/-- MODULE_STATE.STATE (R36). -/
def ModState.code : ModState → Nat
  | .reset => 0
  | .boot => 1
  | .ready => 2
  | .active => 3
  | .frost => 4
  | .snowpack => 5
  | .orphaned => 6
  | .faulted => 7
  | .dumping => 8

/-- UNIT_STATUS.STATE (R34). -/
def UState.code : UState → Nat
  | .offline => 0
  | .resetting => 1
  | .idle => 2
  | .busy => 3
  | .faulted => 4
  | .restarting => 5

/-! ### The clock -/

/-- The device time a read returns: 0 until the time domain has locked (R66). -/
def Dev.deviceTime (d : Dev) : Nat := if d.time.running then d.now else 0

/-- Time since hub power-good, in ns. -/
def Dev.sincePower (d : Dev) : Nat := d.now + (if d.time.running then d.time.lockOffset else 0)

/-- The effective time S of a timed command checked at the present time (R80). -/
def Dev.effective (d : Dev) (t : Nat) : Nat := max t (d.now + launchLead)

/-! ### Jobs -/

/-- LAUNCHED, RUNNING or DRAINING. -/
def JobState.running? : JobState → Bool
  | .launched => true
  | .running => true
  | .draining => true
  | _ => false

/-- QUEUED to DRAINING. -/
def JobState.live? : JobState → Bool
  | .queued => true
  | js => js.running?

/-- DONE, FAULTED or ABORTED. -/
def JobState.over? : JobState → Bool
  | .done => true
  | .faulted => true
  | .aborted => true
  | _ => false

/-- Some job satisfies a predicate. -/
def Dev.anyJob (d : Dev) (p : Job → Bool) : Bool := d.jobs.any (fun e => p e.2)

/-- Some job is QUEUED to DRAINING. -/
def Dev.anyLive (d : Dev) : Bool := d.anyJob (fun j => j.jstate.live?)

/-- Some job is LAUNCHED, RUNNING or DRAINING. -/
def Dev.anyRunning (d : Dev) : Bool := d.anyJob (fun j => j.jstate.running?)

/-- Some context is saved or restored, but for a save that the module took over from ORPHANED into FROST. -/
def Dev.saving (d : Dev) : Bool := d.ctxs.any (fun e => (e.2.cstate == .saving || e.2.cstate == .restoring) && !d.frostSaves.contains e.1)

/-- The module has the work that makes it ACTIVE (Table 2-12). -/
def Dev.working (d : Dev) : Bool := d.anyRunning || d.saving

/-- Update a job, if it exists. -/
def Dev.updJob (d : Dev) (id : Nat) (f : Job → Job) : Dev :=
  match d.jobs.get? id with
  | none => d
  | some j => { d with jobs := d.jobs.put id (f j) }

/-- A context; one never created is FREE. -/
def Dev.ctx (d : Dev) (n : Nat) : Ctx := d.ctxs.getD n {}

/-- Update a context. -/
def Dev.updCtx (d : Dev) (n : Nat) (f : Ctx → Ctx) : Dev := { d with ctxs := d.ctxs.put n (f (d.ctx n)) }

/-- The cores named by a mask, in number order. -/
def maskCores (m : Nat) : List Nat := (upFrom 0 16).filter (fun n => bit m n)

/-! ### Module states -/

/-- Park every cluster at point 0: its clock is gated in READY and FROST (R331). -/
def Power.park (p : Power) : Power := { p with common := 0, points := [] }

/-- Move the module along Table 2-12: PREVIOUS and TRANSITIONS follow (R36, R59). While the power core restarts the operating points hold (R330). -/
def Dev.move (d : Dev) (m : ModState) : Dev :=
  let d := if (m == .ready || m == .frost) && !d.pwr.ice && !(d.procs.getD 1 {}).restarting then { d with pwr := d.pwr.park } else d
  { d with modState := m, prevState := d.modState.code, transitions := (d.transitions + 1) % 2 ^ 16 }

/-- FROST and ACTIVE follow the work in progress (Table 2-12). -/
def Dev.settle (d : Dev) : Dev :=
  match d.modState with
  | .frost => if d.working then { d.move .active with frostSaves := [] } else d
  | .active => if d.working then d else d.move .frost
  | _ => d

/-- The issue duty of a cluster in sixteenths: the least of its four sources (R314, Table 13-5). -/
def Dev.issueDuty (d : Dev) (c : Nat) : Nat :=
  min (min d.pwr.ctlDuty d.pwr.peakDuty) (min d.pwr.slopeDuty (if d.pwr.clamp then 2 else d.pwr.thermDuty.getD c 16))

/-! ### Units -/

/-- The cluster of each present logical core (R18, R22). -/
def Dev.geo (d : Dev) : List Nat := d.geom.slots.map (· / 5)

/-- The number of present logical cores, N. -/
def Dev.nCores (d : Dev) : Nat := d.geom.slots.length

/-- A unit's own header. -/
def Dev.hdr (d : Dev) (p : Nat) : UnitHdr := d.units.getD p {}

/-- UNIT_EPOCH of a page. -/
def Dev.epoch (d : Dev) (p : Nat) : Nat := (d.hdr p).epoch

/-- The epoch after one reset (Table 2-2): wraps from 0xFFFF to 1. -/
def nextEpoch (e : Nat) : Nat := if e = 0xFFFF then 1 else e + 1

/-- Update a unit's header. -/
def Dev.updHdr (d : Dev) (p : Nat) (f : UnitHdr → UnitHdr) : Dev := { d with units := d.units.put p (f (d.hdr p)) }

/-- A large core's queues, tiles and pages. -/
def Dev.core (d : Dev) (n : Nat) : Core := d.cores.getD n {}

/-- Update a large core. -/
def Dev.updCore (d : Dev) (n : Nat) (f : Core → Core) : Dev := { d with cores := d.cores.put n (f (d.core n)) }

/-- A tidy core, keyed 8n + m. -/
def Dev.tidy (d : Dev) (k : Nat) : Tidy := d.tidies.getD k {}

/-- Update a tidy core. -/
def Dev.updTidy (d : Dev) (k : Nat) (f : Tidy → Tidy) : Dev := { d with tidies := d.tidies.put k (f (d.tidy k)) }

/-- A firmware processor. -/
def Dev.proc (d : Dev) (p : Nat) : Proc := d.procs.getD p {}

/-- Update a firmware processor. -/
def Dev.updProc (d : Dev) (p : Nat) (f : Proc → Proc) : Dev := { d with procs := d.procs.put p (f (d.proc p)) }

/-- The logical core a unit belongs to, if any. -/
def UnitId.coreOf : UnitId → Option Nat
  | .core n => some n
  | .me n => some n
  | .sua n => some n
  | .acc n => some n
  | .tidy n _ => some n
  | _ => none

/-- Whether a unit is in the physical function's tree (R25, R36). -/
def Dev.present (d : Dev) (u : UnitId) : Bool :=
  match u.coreOf with
  | some n => decide (n < d.nCores)
  | none => true

/-- The bring-up stage from which a unit is up (Table 20-1; notes/assumptions/7.md). -/
def UnitId.upFromStage : UnitId → Nat
  | .root => 0
  | .geom => 0
  | .hub => 0
  | .hostIf => 0
  | .ring _ => 0
  | .attnq _ => 0
  | .timeBase => 0
  | .entropy => 0
  | .sec => 2
  | .smu => 2
  | .pwr => 3
  | .sched => 3
  | .ctx _ => 3
  | .ccc _ => 3
  | .launch => 4
  | .sync => 4
  | .counter => 4
  | .dir => 4
  | .sholo _ => 4
  | .eth _ => 4
  | .cluster _ => 4
  | .router _ => 5
  | .dram _ => 6
  | .core _ => 8
  | .me _ => 8
  | .sua _ => 8
  | .acc _ => 8
  | .tidy _ _ => 8

/-- The cluster whose failure to come up takes a unit with it (R475). -/
def UnitId.clusterOf : UnitId → Option Nat
  | .cluster c => some c
  | .ccc c => some c
  | .router c => some c
  | .dram h => some (h / 8)
  | _ => none

/-- Whether a unit is OFFLINE: not yet brought up (R479), offline under R22 or R475, its cluster's rails off (R328), or a stack that failed its training (R473). -/
def Dev.offline (d : Dev) (u : UnitId) : Bool :=
  decide (d.boot.stage < u.upFromStage)
  || (match u with
      | .ccc _ => d.boot.railsOff && decide (4 ≤ d.boot.stage)
      | _ => false)
  || (match u.coreOf with
      | some n => bit d.geom.offline n || d.boot.railsOff
      | none => false)
  || (match u.clusterOf with
      | some c => decide (5 ≤ d.boot.stage) && !bit d.boot.clustersUp c
      | none => false)
  || (match u with
      | .dram h => bit d.boot.stacksFailed h
      | _ => false)

/-- The context that holds a large core: its job's, or that of a save or restore, which holds its cores as a job would (R409). -/
def Dev.coreHolder (d : Dev) (n : Nat) : Option Nat :=
  match (d.core n).job with
  | some id => (d.jobs.get? id).map (·.ctx)
  | none => (d.ctxOps.find? (fun o => bit o.cores n)).map (·.ctx)

/-- The context whose job holds a unit, if any (HOLDER_CTX). -/
def Dev.holder (d : Dev) (u : UnitId) : Option Nat := u.coreOf.bind d.coreHolder

/-- Whether a firmware processor has a command in hand. -/
def Dev.procServing (d : Dev) (p : Nat) : Bool := !(d.proc p).waiting.isEmpty

/-- Whether a port moves a transfer. -/
def Dev.portServing (d : Dev) (p : Nat) : Bool :=
  let g := d.ports.getD p {}
  !g.inbound.isEmpty || g.xq.xfers.any (fun x => x.fin.isNone)

/-- Whether a unit that no job holds is serving a request (Table 2-14). Which requests count is DEDUCED (notes/assumptions/73.md): a request of the network held at the unit, a write queued for its page, a command, reading or transfer in progress at it. -/
def Dev.serving (d : Dev) (u : UnitId) : Bool :=
  d.netReqs.any (fun q => q.target == u.page) || !(d.emu.getD u.page {}).writes.isEmpty
  || (match u with
      | .entropy => !d.ent.queue.isEmpty
      | .eth e => d.portServing (18 + e)
      | .sholo k => d.portServing k
      | .dram h => (d.tracks.getD h {}).used.any (fun e => e.2 != 0)
      | .sec => d.procServing 0 || d.procs.any (fun e => e.2.op.isSome) || !d.sec.keyChanges.isEmpty || !d.sec.lifeChanges.isEmpty || !d.sec.ownerUnlocks.isEmpty || !d.flt.dumpReads.isEmpty
      | .pwr => d.procServing 1 || !d.pwr.capOps.isEmpty || !d.pwr.iceOps.isEmpty || !d.pwr.powerOps.isEmpty
      | .sched => d.procServing 2 || !d.ctxOps.isEmpty
      | .ccc c => d.procServing (3 + c)
      | .smu => d.smu.reading.isSome || !d.smu.changes.isEmpty
      | .counter => !d.reader.ops.isEmpty || !d.reader.applied.isEmpty || d.reader.captured.isSome || d.reader.drain.isSome
      | .dir => d.placing
      | _ => false)

/-- UNIT_STATUS.STATE of a unit (R34, R61). -/
def Dev.unitState (d : Dev) (u : UnitId) : UState :=
  if d.offline u then .offline
  else
    match (d.hdr u.page).ustate with
    | .idle => if (d.holder u).isSome || d.serving u then .busy else .idle
    | us => us

/-- Whether a unit's unit-specific registers act (R35). -/
def Dev.unitActs (d : Dev) (u : UnitId) : Bool := d.unitState u != .offline && d.unitState u != .resetting

/-- Whether a host access to a unit-specific register acts: the host reaches nothing in RESET. -/
def Dev.hostOpen (d : Dev) (u : UnitId) : Bool := d.modState != .reset && d.unitActs u

/-- Increment a unit's epoch (R29). -/
def Dev.bumpEpoch (d : Dev) (u : UnitId) : Dev := d.updHdr u.page (fun h => { h with epoch := nextEpoch h.epoch, prev := h.epoch, changedAt := d.now })

/-! ### The tree (R36, R38) -/

/-- A function's own root page. -/
def Dev.view (d : Dev) (f : Nat) : FnView := d.views.getD f {}

/-- A change of the tree in one view: its TREE_GENERATION increments (R38). -/
def Dev.bumpTree (d : Dev) (f : Nat) : Dev := { d with views := d.views.put f { d.view f with treeGeneration := ((d.view f).treeGeneration + 1) % 2 ^ 32 } }

/-- A change of the tree in the physical function's view. -/
def Dev.treeChanged (d : Dev) : Dev := d.bumpTree 0

/-- Whether a function exists: the physical function, and the virtual functions that configuration space has enabled (R445). -/
def Dev.fnActs (d : Dev) (fn : Nat) : Bool := decide (fn < 32) && (fn == 0 || decide (fn ≤ d.hostIf.vfEnabled))

/-! ### Free values -/

/-- A free 64-bit value, and the device with the next one due. -/
def Dev.takeFree (d : Dev) : Nat × Dev := ((Config.freeWord d.free).toNat, { d with free := d.free + 1 })

/-! ### Memories -/

/-- The 64-byte line of an address. -/
def lineOf (a : Nat) : Nat := a / 64

/-- The lines that `n` bytes at `a` touch. -/
def linesOf (a n : Nat) : List Nat := if n = 0 then [] else upFrom (a / 64) ((a + n - 1) / 64 - a / 64 + 1)

/-- Bytes of a share, and of a region. -/
def shareBytes : Nat := 0x18000000
def regionBytes : Nat := 2 ^ 30
/-- DRAM regions (Table 11-1). -/
def regionCount : Nat := 1535
/-- The device address of Ln's share: it belongs to the core in service, whichever slot serves it (R16). -/
def shareBase (n : Nat) : Nat := 0x100000000000 + n * 0x40000000

/-- Whether a range lies wholly inside Ln's share. -/
def inShare (n a len : Nat) : Bool := decide (shareBase n ≤ a) && decide (a + len ≤ shareBase n + shareBytes)

/-- The region of a DRAM address. -/
def regionOf (a : Nat) : Nat := a / regionBytes

/-- A region table entry. -/
def Dev.region (d : Dev) (r : Nat) : Region := d.regions.getD r {}

/-- The fold of R254: the exclusive or of the k-bit chunks of a number. -/
def foldChunks : Nat → Nat → Nat → Nat
  | 0, _, _ => 0
  | fuel + 1, k, t => if t = 0 then 0 else (t % 2 ^ k) ^^^ foldChunks fuel k (t / 2 ^ k)

/-- The stack of an address in a region (R254). -/
def Region.stackOf (r : Region) (a : Nat) : Nat :=
  let spread (k : Nat) : Nat :=
    let g := a % regionBytes / 4096
    (g ^^^ foldChunks 18 k (g / 2 ^ k)) % 2 ^ k
  if r.mode = 1 then spread 5 else if r.mode = 2 then 8 * r.target + spread 3 else r.target

/-- The offset of an address within its stack (R254): a region's granules lie in address order in each stack from the region's base, which counts units of 32 MiB. -/
def Region.stackOffset (r : Region) (a : Nat) : Nat :=
  let off := a % regionBytes
  let spread (k : Nat) : Nat := off / 4096 / 2 ^ k * 4096 + off % 4096
  r.base * 2 ^ 25 + (if r.mode = 1 then spread 5 else if r.mode = 2 then spread 3 else off)

/-- The stack of a DRAM address. -/
def Dev.stackOf (d : Dev) (a : Nat) : Nat := (d.region (regionOf a)).stackOf a

/-- Whether a line lies in a share of a stack that a reset poisoned (R420). -/
def Dev.inBadShare (d : Dev) (l : Nat) : Bool := d.badShares.any (fun p => p.1 == regionOf (64 * l) && p.2 == d.stackOf (64 * l))

/-- Whether a line is poisoned (R400, R420). -/
def Dev.linePoisoned (d : Dev) (l : Nat) : Bool := d.poison.contains l || (d.inBadShare l && !d.goodLines.contains l)

/-- Whether any line of a range is poisoned (R400). -/
def Dev.poisoned (d : Dev) (a n : Nat) : Bool :=
  d.poison.any (fun l => decide (a / 64 ≤ l ∧ l * 64 < a + n)) || (!d.badShares.isEmpty && (linesOf a n).any d.linePoisoned)

/-- The poisoned lines that start in a range, in address order. -/
def Dev.poisonedIn (d : Dev) (a n : Nat) : List Nat :=
  if d.badShares.isEmpty then d.poison.filter (fun l => decide (a ≤ 64 * l ∧ 64 * l < a + n)) else (linesOf a n).filter (fun l => decide (a ≤ 64 * l) && d.linePoisoned l)

/-- Add a line to a sorted list of poisoned lines. -/
def lineInsert (l : Nat) : List Nat → List Nat
  | [] => [l]
  | k :: ks => if l < k then l :: k :: ks else if l = k then k :: ks else k :: lineInsert l ks

/-- Poison a line (R400). -/
def Dev.poisonLine (d : Dev) (l : Nat) : Dev := { d with poison := lineInsert l d.poison }

/-- Every whole line in a range has been written: its poison clears (R400). -/
def Dev.cleanLines (d : Dev) (a n : Nat) : Dev :=
  let whole (l : Nat) : Bool := decide (a ≤ l * 64 ∧ l * 64 + 64 ≤ a + n)
  { d with
    poison := d.poison.filter (fun l => !whole l)
    goodLines := if d.badShares.isEmpty then d.goodLines else ((linesOf a n).filter (fun l => whole l && d.inBadShare l)).foldl (fun ls l => lineInsert l ls) d.goodLines }

/-- Whether two ranges meet. -/
def rangesMeet (a n b m : Nat) : Bool := decide (a < b + m) && decide (b < a + n)

/-- Write bytes of device memory: a write of a whole line clears its poison, a partial write leaves it (R400), and it ends the merge windows of its lines (R280). -/
def Dev.writeDev (d : Dev) (a : Nat) (bs : List Byte) : Dev :=
  ({ d with devMem := memWriteN d.devMem a bs, merges := d.merges.filter (fun m => !rangesMeet (64 * m.line) 64 a bs.length) } : Dev).cleanLines a bs.length

/-- Write bytes whose source was poisoned, in part or not: every destination line a poisoned source line maps to becomes poisoned (R400). -/
def Dev.writeDevPoison (d : Dev) (a : Nat) (bs : List Byte) (bad : List Nat) : Dev :=
  bad.foldl (fun d l => d.poisonLine l) (d.writeDev a bs)

/-- Bytes of device memory that are undefined: free values. -/
def Dev.freeBytes (d : Dev) (a n : Nat) : Dev :=
  (upFrom 0 ((n + 7) / 8)).foldl (fun d i =>
    let (w, d) := d.takeFree
    d.writeDev (a + 8 * i) (leBytes (min 8 (n - 8 * i)) w)) d

/-- A write to a region of a running group descriptor by anything but itself leaves that descriptor's results undefined (R172). `self` is the group that writes. A tidy core's load reservation on a written line is lost (notes/assumptions/30.md). -/
def Dev.disturb (d : Dev) (self : Option Nat) (a n : Nat) : Dev :=
  { d with
    groups := d.groups.map (fun g => if self ≠ some g.1 && g.2.guarded.any (fun r => rangesMeet r.1 r.2 a n) then (g.1, { g.2 with disturbed := true }) else g)
    tidies := d.tidies.map (fun e => if e.2.reservation.any (fun r => rangesMeet (64 * (r / 64)) 64 a n) then (e.1, { e.2 with reservation := none }) else e) }

/-- Write bytes of device memory beside the running group descriptors. -/
def Dev.storeDev (d : Dev) (a : Nat) (bs : List Byte) : Dev := (d.writeDev a bs).disturb none a bs.length

/-- The first poisoned line of a list of ranges, as a device address. -/
def Dev.firstPoison (d : Dev) (rs : List (Nat × Nat)) : Option Nat :=
  (rs.findSome? (fun r => if d.poisoned r.1 r.2 then (linesOf r.1 r.2).find? d.linePoisoned else none)).map (fun l => 64 * l)

/-- Read bytes of device memory. -/
def Dev.readDev (d : Dev) (a n : Nat) : List Byte := memReadN d.devMem a n

/-- Write bytes of host memory. -/
def Dev.writeHost (d : Dev) (a : Nat) (bs : List Byte) : Dev := { d with hostMem := memWriteN d.hostMem a bs }

/-- Zero a range of device memory and clear its poison; a region that is zeroed whole holds no poisoned share of a stack. -/
def Dev.zeroDev (d : Dev) (a n : Nat) : Dev :=
  let d := { d with devMem := memZero d.devMem a n, badShares := d.badShares.filter (fun p => !decide (a ≤ p.1 * regionBytes ∧ (p.1 + 1) * regionBytes ≤ a + n)) }
  d.cleanLines a n

/-! ### Attention (R57, R58) -/

/-- The attention queue of a function. -/
def Dev.attnq (d : Dev) (f : Nat) : AttnQ := d.attnqs.getD f {}

/-- The entries of an attention queue, and those a class-1 record may take. -/
def attnCapacity : Nat := 1024
def attnLogCapacity : Nat := 768

/-- Store a record at the tail: it takes the next SEQ. -/
def AttnQ.store (q : AttnQ) (r : AttnRec) : AttnQ :=
  { q with records := q.records ++ [{ r with seq := q.nextSeq }], nextSeq := (q.nextSeq + 1) % 2 ^ 32 }

/-- Drop a record of class 2 or above: its class bit and the count of ATTN_LOST. -/
def AttnQ.lose (q : AttnQ) (r : AttnRec) : AttnQ :=
  { q with lostClasses := q.lostClasses ||| 2 ^ r.cls, lostCount := satAdd 0xFFFF q.lostCount 1 }

/-- Whether a queued record is identical in CLASS, CODE and SOURCE_PAGE. -/
def AttnRec.same (a b : AttnRec) : Bool := a.cls == b.cls && a.code == b.code && a.sourcePage == b.sourcePage

/-- Queue a record (R57): class 1 has 768 places, class 3 is never coalesced, any other class coalesces. -/
def AttnQ.queue (q : AttnQ) (r : AttnRec) : AttnQ :=
  if r.cls = 1 then
    if q.records.length < attnCapacity && (q.records.filter (fun x => x.cls == 1)).length < attnLogCapacity then q.store r
    else { q with logDropped := satAdd 0xFFFFFFFF q.logDropped 1 }
  else if r.cls ≠ 3 && q.records.any (fun x => x.same r) then
    { q with records := q.records.map (fun x => if x.same r then { x with count := satAdd 255 x.count 1 } else x) }
  else if q.records.length < attnCapacity then q.store r
  else q.lose r

/-- Queue a record in the physical function's queue, and in the virtual function's that it concerns (R57). -/
def Dev.raiseFor (d : Dev) (fn cls code page detailW detail : Nat) : Dev :=
  let r : AttnRec := { cls, count := 1, code, seq := 0, sourcePage := page, sourceEpoch := d.epoch page, detailW := detailW % 2 ^ 32, time := d.deviceTime, detail := w64 detail }
  let d := { d with attnqs := d.attnqs.put 0 ((d.attnq 0).queue r) }
  if fn = 0 then d else { d with attnqs := d.attnqs.put fn ((d.attnq fn).queue r) }

/-- Queue a record that concerns no virtual function. -/
def Dev.raise (d : Dev) (cls code page detailW detail : Nat) : Dev := d.raiseFor 0 cls code page detailW detail

/-- The pending classes of a queue, one bit each (R58). -/
def AttnQ.pendingMask (q : AttnQ) : Nat := q.records.foldl (fun m r => m ||| 2 ^ r.cls) q.lostClasses

/-- The highest bit set in a mask of classes; 0 when none is. -/
def highestClass (m : Nat) : Nat := if m = 0 then 0 else Nat.log2 m

/-- The ATTN summary that a function sees (R7, R58). -/
def Dev.attnSummary (d : Dev) (fn : Nat) : Nat := highestClass (d.attnq fn).pendingMask

/-- The status word of R7 for a function. -/
def Dev.statusWord (d : Dev) (fn code : Nat) : Nat := d.attnSummary fn * 4096 + code

/-! ### The log ring (R366 to R368) -/

/-- Records the log ring holds. -/
def logCapacity : Nat := 65536

/-- LEVEL of a log record (Table 15-5). -/
def lvError : Nat := 0
def lvWarn : Nat := 1
def lvInfo : Nat := 2

/-- The page of a firmware processor (Table 15-1). -/
def procPage (p : Nat) : Nat :=
  if p = 0 then UnitId.sec.page
  else if p = 1 then UnitId.pwr.page
  else if p = 2 then UnitId.sched.page
  else (UnitId.ccc (p - 3)).page

/-- Put a record into the log ring; a full ring overwrites its oldest record, which LOG_DROPPED counts. -/
def LogRing.push (l : LogRing) (r : LogRec) : LogRing :=
  if l.records.length < logCapacity then { l with records := l.records ++ [r], seq := l.seq + 1 }
  else { l with records := l.records.drop 1 ++ [r], seq := l.seq + 1, dropped := satAdd 0xFFFFFFFF l.dropped 1 }

/-- Write a log record of a processor about an event of time `time`; a record of level ERROR also queues a class-1 record (R366, R491). -/
def Dev.logAt (d : Dev) (time proc level point code data : Nat) : Dev :=
  let seq := d.log.seq + 1
  let d := { d with log := d.log.push { seq, time, proc, level, point, code, data } }
  if level = lvError then d.raise 1 0x303 (procPage proc) (proc + 65536 * (point % 65536)) seq else d

/-- Write a log record about an event of the present time. -/
def Dev.log' (d : Dev) (proc level point code data : Nat) : Dev := d.logAt d.deviceTime proc level point code data

/-- Write a log record; a cluster control core that restarts leaves it in its buffer of 256, or counts it dropped (Table 15-3). -/
def Dev.logRec (d : Dev) (proc level point code data : Nat) : Dev :=
  if 3 ≤ proc && (d.proc proc).restarting then
    let c := d.cccs.getD (proc - 3) {}
    let c' :=
      if c.errq.length < 256 then { c with errq := c.errq ++ [{ seq := 0, time := d.deviceTime, proc, level, point, code, data }] }
      else { c with dropped := satAdd 0xFFFF c.dropped 1 }
    { d with cccs := d.cccs.put (proc - 3) c' }
  else d.log' proc level point code data

/-! ### Fault records (R402) -/

/-- The cluster that a unit stands under. -/
def Dev.clusterOfUnit (d : Dev) (u : UnitId) : Option Nat :=
  match u.coreOf with
  | some n => some (coreCluster d.geo n)
  | none => u.clusterOf

/-- The processor that reports an error of a unit: its cluster's control core, else the security core (notes/assumptions/14.md). -/
def Dev.errorProc (d : Dev) (page : Nat) : Nat :=
  match (unitOf page).bind d.clusterOfUnit with
  | some c => 3 + c
  | none => 0

/-- SEVERITY of a fault record (Table 17-1). -/
def sevCe : Nat := 0
def sevJob : Nat := 1
def sevShared : Nat := 2
def sevFatal : Nat := 3

/-- A fault record (Table 17-3), as the first 32 DATA bytes of its log record. -/
def Dev.faultData (d : Dev) (time page kind sev ctx address job syndrome count : Nat) : Nat :=
  w64 time + 2 ^ 64 * (page % 65536) + 2 ^ 80 * d.epoch page + 2 ^ 96 * (kind % 256) + 2 ^ 104 * sev + 2 ^ 112 * (ctx % 128)
  + 2 ^ 128 * w64 address + 2 ^ 192 * (job % 2 ^ 32) + 2 ^ 224 * (syndrome % 65536) + 2 ^ 240 * min count 0xFFFF

/-- The POINT of a fault record. -/
def pointFault : Nat := 0x0E00

/-- The result code that a fault record's log record concerns. -/
def sevCode (sev : Nat) : Nat :=
  if sev = sevJob then cJobFault else if sev = sevShared then cUnitOffline else if sev = sevFatal then cDeviceFatal else 0

/-- Write a fault record into the log ring. -/
def Dev.logFault (d : Dev) (page kind sev ctx address job syndrome : Nat) : Dev :=
  d.logRec (d.errorProc page) lvError pointFault (sevCode sev) (d.faultData d.deviceTime page kind sev ctx address job syndrome 1)

/-- Log the coalesced corrected errors that satisfy a predicate, one record each (R402). -/
def Dev.logCe (d : Dev) (p : CeRun → Bool) : Dev :=
  (d.flt.ce.filter p).foldl (fun d x => d.logRec (d.errorProc x.page) lvInfo pointFault 0 (d.faultData x.since x.page x.kind sevCe x.context x.address 0 x.syndrome x.count))
    { d with flt := { d.flt with ce := d.flt.ce.filter (fun x => !p x) } }

/-- Log the corrected errors whose second has passed. -/
def Dev.flushCe (d : Dev) : Dev := d.logCe (fun x => decide (x.since + 1000000000 ≤ d.deviceTime))

/-! ### Rings and completions (R47 to R51, R54, R65, R372) -/

/-- A ring's page. -/
def Dev.ring (d : Dev) (r : Nat) : Ring := d.rings.getD r {}

/-- Update a ring. -/
def Dev.updRing (d : Dev) (r : Nat) (f : Ring → Ring) : Dev := { d with rings := d.rings.put r (f (d.ring r)) }

/-- Whether the device writes no record into host memory: ORPHANED, or FAULTED or DUMPING with the lease expired (R65, R371). -/
def Dev.hostStopped (d : Dev) : Bool :=
  match d.modState with
  | .orphaned => true
  | .faulted => d.lease.status == .expired || d.lease.status == .takenOver
  | .dumping => d.lease.status == .expired || d.lease.status == .takenOver
  | _ => false

/-- Records the completion store holds (R372). -/
def storeCapacity : Nat := 65536

/-- Whether the completion store is full while host writes are stopped (R372). -/
def Dev.storeFull (d : Dev) : Bool := d.hostStopped && decide (storeCapacity ≤ d.lease.store.length)

/-- Form a completion: it waits at its ring until it is written, or enters the completion store while host writes are stopped; one that finds the store full waits at its ring (R50, R65, R372). -/
def Dev.complete (d : Dev) (ring : Nat) (c : Completion) : Dev :=
  if d.hostStopped && !c.direct && decide (d.lease.store.length < storeCapacity) then
    { d with lease := { d.lease with store := d.lease.store ++ [(ring, c)] } }
  else d.updRing ring (fun r => { r with held := r.held ++ [c] })

/-- DRAINED (Table 2-6, R372). -/
def Dev.drained (d : Dev) (r : Nat) : Bool :=
  let g := d.ring r
  !g.enable && (d.modState == .orphaned || (g.awaiting == 0 && g.held.isEmpty))

end Sys2Proof.Machine
end

