-- ==== Sys2Proof/Machine/Events.lean ====
section
/-! DEFINITION. Counting: the counter windows, the events of Table 18-3 to Table 18-5, what the clock adds to them, the top-down slots of large cores, and precise samples (R429 to R436, R442, R443). -/

namespace Sys2Proof.Machine

/-! ### Windows and events (R429, R433, R435) -/

/-- Whether a unit's page has a counter window. -/
def UnitId.hasWindow (u : UnitId) : Bool := !u.emulated && !([0x0001, 0x0002, 0x0031, 0x0032].contains u.type)

/-- Events of Table 18-3 to Table 18-5 by page type with their Max per cycle, those of every page first. -/
def eventTable (type : Nat) : List (Nat × Nat) :=
  [(1, 1), (2, 2), (3, 8), (4, 1)] ++
  (if type = 0x0005 then
     (upFrom 0 16).map (fun k => (0x100 + k, if k < 4 then 1 else if k < 8 then 1024 else 8)) ++ [(0x110, 1), (0x111, 1), (0x112, 2048), (0x113, 1)]
   else if type = 0x0010 then [(0x200, 1), (0x201, 131072), (0x202, 1), (0x203, 2), (0x204, 6400)]
   else if type = 0x0012 then [(0x280, 1), (0x281, 1), (0x282, 1)]
   else if type = 0x0011 then [(0x300, 1024), (0x301, 1024), (0x302, 1024), (0x303, 1), (0x304, 1), (0x305, 32768), (0x306, 64), (0x307, 256)]
   else if type = 0x0013 then [(0x380, 2), (0x381, 1), (0x382, 1), (0x383, 1), (0x384, 1), (0x385, 1), (0x8380, 1), (0x8381, 2), (0x8382, 1)]
   else if type = 0x0020 then [(0x400, 16), (0x401, 16), (0x402, 16), (0x403, 16), (0x8400, 16)]
   else if type = 0x0021 then [(0x480, 64), (0x481, 64), (0x482, 1), (0x483, 1)]
   else if type = 0x0060 then [(0x580, 1), (0x581, 1)]
   else if type = 0x0062 then [(0x500, 1), (0x501, 1), (0x502, 1), (0x503, 1)]
   else [])

/-- The event numbers of a page type. -/
def eventsOf (type : Nat) : List Nat := (eventTable type).map (·.1)

/-- Max per cycle of an event of a page type. -/
def eventMax (type ev : Nat) : Nat := (((eventTable type).find? (fun e => e.1 == ev)).map (·.2)).getD 1

/-- Events whose occurrences depend on what the model leaves to timing: they come with COUNTER_WRAP alone (notes/assumptions/78.md). -/
def timedEvents : List Nat := [0x113, 0x306, 0x385, 0x400, 0x401, 0x8380, 0x8381, 0x8382, 0x8400]

/-- Page types that can sample (R442). -/
def canSample (type : Nat) : Bool := [0x0005, 0x0010, 0x0011, 0x0013].contains type

/-- Fields of CNT_SEL (Table 18-2). -/
def Counter.event (c : Counter) : Nat := bits c.sel 15 0
def Counter.enabled (c : Counter) : Bool := bit c.sel 16
def Counter.chain (c : Counter) : Bool := bit c.sel 17
def Counter.sampling (c : Counter) : Bool := bit c.sel 18
def Counter.filter (c : Counter) : Nat := bits c.sel 30 24

/-- Whether CTX_FILTER passes an occurrence of a context's job, or of none. -/
def Counter.passes (c : Counter) (ctx : Option Nat) : Bool := c.filter == 0x7F || ctx == some c.filter

/-- A page's counter window. -/
def Dev.cnt (d : Dev) (p : Nat) : CntWin := d.cnts.getD p {}

/-- Update a page's counter window. -/
def Dev.updCnt (d : Dev) (p : Nat) (f : CntWin → CntWin) : Dev := { d with cnts := d.cnts.put p (f (d.cnt p)) }

/-- A counter of a window. -/
def CntWin.counter (w : CntWin) (n : Nat) : Counter := w.counters.getD n {}

/-- Set a counter of a window. -/
def CntWin.set (w : CntWin) (n : Nat) (c : Counter) : CntWin := { w with counters := w.counters.put n c }

/-- The unit of a page with a counter window that acts: present, and neither OFFLINE nor RESETTING. -/
def Dev.windowUnit (d : Dev) (p : Nat) : Option UnitId :=
  match unitOf p with
  | none => none
  | some u => if d.present u && u.hasWindow && d.unitActs u then some u else none

/-! ### Samples (R442, R443) -/

/-- Entries of the sample ring (R443). -/
def sampleCapacity : Nat := 1024

/-- A sample is not stored. -/
def Reader.lose (r : Reader) : Reader := { r with lost := satAdd 0xFFFFFFFF r.lost 1 }

/-- No item. -/
def noItem : SampleItem := { precise := false, kind := 3, tidy := 0, job := 0, tag := 0, ticket := 0, itemAddr := 0, itemWord := 0, dataAddr := 0, category := 0 }

/-- The sample record of an item (Table 18-9), but for LATENCY. -/
def Dev.sampleWord (d : Dev) (p event : Nat) (x : SampleItem) : Nat :=
  let ctx := match d.jobs.get? x.job with
    | some j => j.ctx
    | none => 0x7F
  let core := ((unitOf p).bind UnitId.coreOf).getD 0
  w64 d.deviceTime + 2 ^ 64 * p + 2 ^ 80 * d.epoch p + 2 ^ 96 * event + 2 ^ 112 * ctx + 2 ^ 119 * b2n x.precise + 2 ^ 120 * (x.kind % 4) + 2 ^ 122 * (x.tidy % 8)
  + 2 ^ 128 * (x.job % 2 ^ 32) + 2 ^ 160 * (x.tag % 65536) + 2 ^ 176 * (x.ticket % 65536) + 2 ^ 192 * w64 x.itemAddr + 2 ^ 256 * (x.itemWord % 2 ^ 32)
  + 2 ^ 288 * core + 2 ^ 320 * w64 x.dataAddr + 2 ^ 416 * (x.category % 4)

/-- A record enters the ring, or is lost when the ring is full. -/
def Reader.store (r : Reader) (word latency : Nat) : Reader :=
  if r.samples.length < sampleCapacity then { r with samples := r.samples ++ [word + 2 ^ 384 * min latency 0xFFFFFFFF] } else r.lose

/-- A page's sample in flight ends, LATENCY being the item's, or all ones when it was discarded. -/
def Dev.sampleStore (d : Dev) (p latency : Nat) : Dev :=
  match (d.cnt p).sample with
  | none => d
  | some word => { d.updCnt p (fun w => { w with sample := none }) with reader := d.reader.store word latency }

/-- Whether the item that a sample names still waits in its core's queues: a descriptor or request by its ticket, a move by its own. -/
def Dev.sampleWaits (d : Dev) (p word : Nat) : Bool :=
  match (unitOf p).bind UnitId.coreOf with
  | none => false
  | some n =>
    let c := d.core n
    let ticket := bits word 191 176
    match bits word 121 120 with
    | 1 => (c.matrixQ ++ c.suaQ).any (fun x => x.ticket == ticket)
    | 2 => c.moveQ.any (fun x => x.ticket == ticket)
    | _ => false

/-- Samples in flight whose items are discarded with the queues of core `n` (R442). -/
def Dev.discardSamples (d : Dev) (n : Nat) : Dev :=
  (d.cnts.filter (fun e => (unitOf e.1).bind UnitId.coreOf == some n)).foldl (fun d e =>
    match e.2.sample with
    | some word => if d.sampleWaits e.1 word then d.sampleStore e.1 0xFFFFFFFF else d
    | none => d) d

/-! ### Counting (R430, R431) -/

/-- A counter of a page wraps: into its chained partner, or with its OVF bit, and with a sample where SAMPLE is set. -/
def Dev.wrapped (d : Dev) (p n beyond : Nat) (x : SampleItem) : Dev :=
  let w := d.cnt p
  let c := w.counter n
  let next := w.counter (n + 1)
  if n % 2 = 0 ∧ next.chain then
    let v := next.value + 1
    let w := w.set n { c with value := beyond % 2 ^ 48 }
    let w := if next.enabled then { w.set (n + 1) { next with value := v % 2 ^ 48 } with ovf := if v = 2 ^ 48 then w.ovf ||| 2 ^ (n + 1) else w.ovf } else w
    d.updCnt p (fun _ => w)
  else
    let w := { w with ovf := w.ovf ||| 2 ^ n }
    if c.sampling then
      let w := w.set n { c with value := (2 ^ 48 - d.reader.period + beyond) % 2 ^ 48 }
      if w.sample.isSome then { d.updCnt p (fun _ => w) with reader := d.reader.lose }
      else d.updCnt p (fun _ => { w with sample := some (d.sampleWord p c.event x) })
    else d.updCnt p (fun _ => w.set n { c with value := beyond % 2 ^ 48 })

/-- Whether a counter counts occurrences of its event for itself (R430, R431). -/
def Dev.counts (d : Dev) (p n : Nat) : Bool :=
  let c := (d.cnt p).counter n
  (d.windowUnit p).isSome && decide (n < 8) && c.enabled && !(n % 2 == 1 && c.chain) && c.event != 0 && (d.hdr p).countersRun

/-- A counter that counts adds occurrences of its event (R430, R431). -/
def Dev.addTo (d : Dev) (p n occurrences : Nat) (x : SampleItem) : Dev :=
  if occurrences = 0 ∨ d.counts p n = false then d
  else
    let v := ((d.cnt p).counter n).value + occurrences
    if v < 2 ^ 48 then d.updCnt p (fun w => w.set n { w.counter n with value := v }) else d.wrapped p n (v - 2 ^ 48) x

/-- Every counter of a page that selects an event, and whose filter passes the context, adds its occurrences. -/
def Dev.countEvent (d : Dev) (p ev occurrences : Nat) (ctx : Option Nat) (x : SampleItem) : Dev :=
  (upFrom 0 8).foldl (fun d n =>
    let c := (d.cnt p).counter n
    if c.event = ev ∧ c.passes ctx = true then d.addTo p n occurrences x else d) d

/-! ### Occurrences in a command -/

/-- The context of the job that holds a page's core. -/
def Dev.pageCtx (d : Dev) (p : Nat) : Option Nat :=
  ((unitOf p).bind UnitId.coreOf).bind (fun n => (d.core n).job.bind (fun id => (d.jobs.get? id).map (·.ctx)))

/-- Note occurrences that belong to a context's job, or to none, where the page counts at all. -/
def Dev.noteFor (d : Dev) (ctx : Option Nat) (p ev n : Nat) (x : SampleItem := noItem) : Dev :=
  { d with occ := if n != 0 && (d.cnts.get? p).isSome then d.occ ++ [⟨p, ev, n, ctx, x⟩] else d.occ }

/-- Note occurrences on a page of a core, for the job that holds it. -/
def Dev.note (d : Dev) (p ev n : Nat) (x : SampleItem := noItem) : Dev := d.noteFor (d.pageCtx p) p ev n x

/-- Note slot-units of slot s of core n as retired (k = 0) or wasted (k = 1) (R436). -/
def Dev.noteSlot (d : Dev) (n s k units : Nat) (x : SampleItem := noItem) : Dev := d.note (UnitId.core n).page (0x100 + 4 * s + k) units x

/-- Count one note. Slot-units that were retired or wasted are owed to the cycles that follow (R436). -/
def Dev.countOcc (d : Dev) (o : Occ) : Dev :=
  if d.reader.frozen then d
  else
    let s := (o.event - 0x100) / 4
    let owes := (unitOf o.page).any (fun u => u.type == 0x0005) && decide (0x104 ≤ o.event) && decide (o.event < 0x110) && decide ((o.event - 0x100) % 4 < 2)
    let d := if owes then d.updCnt o.page (fun w => { w with owed := w.owed.put s (w.owed.getD s 0 + o.n) }) else d
    d.countEvent o.page o.event o.n o.ctx o.item

/-- Count what a command noted. -/
def Dev.tally (d : Dev) : Dev :=
  let e := d.occ.foldl Dev.countOcc d
  { d with cnts := e.cnts, reader := e.reader, occ := [] }

/-! ### The clock (Table 1-7, Table 3-3, Table 13-1) -/

/-- Core clock in MHz of an operating point (Table 13-1). -/
def pointMHz (k : Nat) : Nat := ([600, 675, 725, 800, 875, 925, 1000, 1075, 1125, 1200, 1275, 1325, 1400, 1475, 1525, 1600, 1750] : List Nat).getD k 0

/-- The clock of a cluster: gated in READY and FROST outside Ice (R331). -/
def Dev.clusterMHz (d : Dev) (c : Nat) : Nat :=
  if (d.modState == .ready || d.modState == .frost) && !d.pwr.ice then 0 else pointMHz (d.pwr.points.getD c 0)

/-- The clock of a unit, in MHz. -/
def Dev.unitMHz (d : Dev) (u : UnitId) : Nat :=
  match u with
  | .cluster c => d.clusterMHz c
  | .core n => d.clusterMHz (coreCluster d.geo n)
  | .me n => d.clusterMHz (coreCluster d.geo n)
  | .sua n => d.clusterMHz (coreCluster d.geo n)
  | .acc n => d.clusterMHz (coreCluster d.geo n)
  | .tidy n _ => d.clusterMHz (coreCluster d.geo n)
  | .dram _ => 1000
  | .timeBase => 1000
  | .entropy => 100
  | .hostIf => if 5 ≤ d.hostIf.gen then 1000 else if d.hostIf.gen = 4 then 500 else 250
  | .sholo k => if (d.ports.getD k {}).gen = 2 then 1750 else 875
  | .eth _ => 1250
  | _ => 2000

/-- Cycles of a clock between two times. -/
def cyclesIn (mhz from' till : Nat) : Nat := mhz * till / 1000 - mhz * from' / 1000

/-- Whether a descriptor occupies the array: a MATMUL or TILE_LOAD (Table 5-3) that has run and not completed. -/
def Desc.onArray (x : Desc) : Bool := (x.started || x.landed) && (x.word % 256 == 1 || x.word % 256 == 5)

/-- The descriptor that occupies a core's array. -/
def Core.arrayDesc (c : Core) : Option Desc := c.matrixQ.find? Desc.onArray

/-- The oldest item in flight on a core, which an occurrence without an owner is sampled as (R442). -/
def Dev.oldestItem (d : Dev) (n category : Nat) : SampleItem :=
  let c := d.core n
  match c.matrixQ ++ c.suaQ, c.moveQ with
  | x :: _, _ => { noItem with kind := 1, tidy := x.tidy, job := c.job.getD 0, tag := bits x.word 127 112, ticket := x.ticket, itemAddr := x.addr, itemWord := x.word % 2 ^ 32, category }
  | [], x :: _ => { noItem with kind := 2, tidy := x.tidy, job := c.job.getD 0, tag := bits x.word 127 112, ticket := x.ticket, itemAddr := x.addr, itemWord := x.word % 2 ^ 32, category }
  | [], [] => { noItem with category }

/-- Slot-units of a slot in a core cycle (R436). -/
def slotUnits (s : Nat) : Nat := if s = 0 then 1 else if s = 1 then 1024 else 8

/-- The category of a slot in a cycle in which no unit of it is retired or wasted otherwise (Table 18-6). The matrix slot is retired while the array is occupied, starved at the front with an empty queue, and else held at the back. The sampler waits at the back behind a request, and the load and store slots have none ready. -/
def Core.slotCategory (c : Core) (s : Nat) : Nat :=
  match s with
  | 0 => if c.arrayDesc.isSome then 0 else if c.matrixQ.isEmpty then 2 else 3
  | 1 => if c.suaQ.isEmpty then 2 else 3
  | _ => 2

/-- The four slots of core n over some cycles: those owed to units retired or wasted before, and the rest in the present category (R436). An idle slot belongs to no job. -/
def Dev.slotCycles (d : Dev) (n cycles : Nat) : Dev :=
  let p := (UnitId.core n).page
  (upFrom 0 4).foldl (fun d s =>
    let k := (d.core n).slotCategory s
    let owed := (d.cnt p).owed.getD s 0
    let units := slotUnits s * cycles
    let d := d.updCnt p (fun w => { w with owed := w.owed.put s (owed - units) })
    d.countEvent p (0x100 + 4 * s + k) (units - owed) (if k = 2 then none else d.pageCtx p) (d.oldestItem n k)) d

/-- Whether a core's matrix queue waits for a shadow buffer: its next descriptor needs one, and none is free (R131). -/
def Core.shadowWait (c : Core) : Bool :=
  (c.matrixQ.find? (fun x => !x.started && !x.landed)).any (fun x => [2, 4, 6, 7].contains (x.word % 256)) && (upFrom 0 4).all (fun b => (c.shadow.get? b).isSome)

/-- What the cycles of a page's unit add: its clock and device time, the slots of a core, issue duty, waits of tidy cores, and full tracking (R430, R435, R436). -/
def Dev.pageCycles (d : Dev) (from' till p : Nat) : Dev :=
  match unitOf p with
  | none => d
  | some u =>
    let cycles := cyclesIn (d.unitMHz u) from' till
    let ctx := d.pageCtx p
    let item := match u.coreOf with | some n => d.oldestItem n 0 | none => noItem
    let d := d.countEvent p 1 cycles ctx item
    let d := d.countEvent p 2 (till - from') none item
    match u with
    | .core n => (d.slotCycles n cycles).countEvent p 0x110 (cycles * (16 - d.issueDuty (coreCluster d.geo n)) / 16) ctx item
    | .acc n => if (d.core n).shadowWait then d.countEvent p 0x282 cycles ctx item else d
    | .tidy n m => if (d.tidy (8 * n + m)).wait.isSome then d.countEvent p 0x384 cycles ctx item else d
    | .dram h => if 65536 ≤ (((d.tracks.getD h {}).used.map (·.2)).sum) then d.countEvent p 0x483 cycles none item else d
    | _ => d

/-- The cycles between two times: every window counts its own, but while the counters are frozen (R430, R438). -/
def Dev.cycles (d : Dev) (from' till : Nat) : Dev :=
  if d.reader.frozen || decide (till ≤ from') then d
  else
    let e := d.cnts.foldl (fun d e => d.pageCycles from' till e.1) d
    { d with cnts := e.cnts, reader := e.reader }

/-! ### Freeze and capture at S (R438, R439) -/

/-- The snapshot record of a page (R439). -/
def Dev.snapRecord (d : Dev) (p : Nat) (u : UnitId) (w : CntWin) : Nat :=
  p + 2 ^ 16 * u.type + 2 ^ 32 * d.epoch p + 2 ^ 48 * w.ovf + 2 ^ 56 * b2n (d.unitState u == .resetting) + 2 ^ 57 * b2n d.reader.frozen
  + ((upFrom 0 8).map (fun n => 2 ^ (64 + 32 * n) * (w.counter n).sel)).sum + ((upFrom 0 8).map (fun n => 2 ^ (512 + 64 * n) * (w.counter n).value)).sum

/-- The records of a snapshot taken now, in page order. -/
def Dev.snapshot (d : Dev) : List Nat :=
  d.cnts.filterMap (fun e =>
    match unitOf e.1 with
    | none => none
    | some u => if (upFrom 0 8).any (fun n => (e.2.counter n).enabled) && d.unitState u != .offline then some (d.snapRecord e.1 u e.2) else none)

/-- The operation whose S comes first. -/
def earliest : List FreezeOp → Option FreezeOp
  | [] => none
  | x :: xs =>
    match earliest xs with
    | none => some x
    | some y => if y.s < x.s then some y else some x

/-- A freeze, unfreeze or capture takes effect at its S (R438). -/
def Dev.freezeEffect (d : Dev) (o : FreezeOp) : Dev :=
  let r := { d.reader with ops := d.reader.ops.erase o }
  if o.op = 2 then { d with reader := { r with captured := some (o, d.snapshot) } }
  else { d with reader := { r with frozen := o.op == 0, freezeTime := o.s, applied := r.applied ++ [o] } }

/-- The clock runs from a time to now, each operation that falls due taking effect at its S before that cycle's occurrences; `fuel` bounds them. -/
def Dev.elapseOps : Nat → Nat → Dev → Dev
  | 0, from', d => d.cycles from' d.now
  | fuel + 1, from', d =>
    match earliest d.reader.ops with
    | some o => if o.s ≤ d.now then elapseOps fuel (max from' o.s) ((d.cycles from' o.s).freezeEffect o) else d.cycles from' d.now
    | none => d.cycles from' d.now

/-- The clock runs from a time to now; only the counters see it. -/
def Dev.elapse (d : Dev) (from' : Nat) : Dev :=
  let e := elapseOps d.reader.ops.length from' d
  { d with cnts := e.cnts, reader := e.reader }

/-! ### Running a command -/

/-- Run a command's effect at device time `n`: the clock is the wrapper's alone, FROST or ACTIVE follows from what the effect left, and the counters count what it did. -/
def State.runAt (s : State) (n : Nat) (f : Dev → Dev) : Out :=
  .next { pending := s.pending, dev := ({ (f ({ s.dev with now := n } : Dev)).settle with now := n } : Dev).tally }

end Sys2Proof.Machine
end

