-- ==== Sys2Proof/Machine/Clock.lean ====
section
/-! DEFINITION. What the clock does by itself: the lease's deadlines and the end of an unlock take effect at their own time, before any later command (R367, R370 to R373, R395, R433). -/

namespace Sys2Proof.Machine

/-! ### The lease (R369 to R373) -/

/-- Update the lease. -/
def Dev.updLease (d : Dev) (f : Lease → Lease) : Dev := { d with lease := f d.lease }

/-- A class-4 record (R370, R373). -/
def Dev.class4 (d : Dev) (code : Nat) : Dev := d.raise 4 code UnitId.sched.page 0 d.lease.deadline

/-- 75% of the interval has passed since the command that set D (R370). -/
def Dev.leaseWarning (d : Dev) : Dev :=
  let l := d.lease
  if (l.status == .held || l.status == .takenOver) && !l.warned && decide (l.setAt + 750000 * l.interval ≤ d.now) then
    (d.class4 0x001).updLease (fun l => { l with warned := true })
  else d

/-- The completions held under R50 move into the completion store, ring by ring, as far as it has room (R372). -/
def Dev.storeHeld (d : Dev) : Dev :=
  (d.rings.map (·.1)).foldl (fun d r =>
    let held := (d.ring r).held
    let room := storeCapacity - d.lease.store.length
    let mine := held.filter (fun x => !x.direct)
    let d := d.updLease (fun l => { l with store := l.store ++ (mine.take room).map (fun x => (r, x)) })
    d.updRing r (fun g => { g with held := held.filter (fun x => x.direct) ++ mine.drop room })) d

/-- Device time has passed D with no renewal (R370, R371, R372). -/
def Dev.leaseExpiry (d : Dev) : Dev :=
  let l := d.lease
  if l.status = .held ∧ l.deadline < d.now then
    let d := (d.class4 cLeaseExpired).updLease (fun l => { l with status := .expired, expiries := satAdd 0xFFFFFFFF l.expiries 1, fromSnowpack := d.modState == .snowpack })
    let d := if d.modState = .frost ∨ d.modState = .active ∨ d.modState = .snowpack then d.move .orphaned else d
    if d.hostStopped then d.storeHeld else d
  else d

/-- D of a takeover's lease has passed before ORPHAN_RESOLVE: the takeover lapses (R373). -/
def Dev.takeoverLapse (d : Dev) : Dev :=
  let l := d.lease
  if l.status = .takenOver ∧ l.deadline < d.now then
    (d.class4 cLeaseExpired).updLease (fun l => { l with status := .expired, expiries := satAdd 0xFFFFFFFF l.expiries 1, takeRing := none })
  else d

/-! ### The end of an unlock (R367, R395, R433) -/

/-- Update the security core's store. -/
def Dev.updSec (d : Dev) (f : Security → Security) : Dev := { d with sec := f d.sec }

/-- The life state: the last state whose fuse pair has a fuse burned (R387). -/
def Security.life (s : Security) : Nat :=
  if bits s.lifeFuses 5 4 ≠ 0 then 3 else if bits s.lifeFuses 3 2 ≠ 0 then 2 else if bits s.lifeFuses 1 0 ≠ 0 then 1 else 0

/-- Whether the life state opens TRACE records and extended counter events (Table 16-3). -/
def Security.traceOpen (s : Security) : Bool :=
  decide (s.life ≤ 1) || (s.life == 2 && s.unlock != .none) || s.unlock == .vendor

/-- Whether LOG_CONTROL can be written: where Table 16-3 opens it, and only while an OWNER or VENDOR unlock is in force (R367; notes/assumptions/43.md). -/
def Security.logOpen (s : Security) : Bool := s.traceOpen && s.unlock != .none

/-- The access to extended counter events closes: selects that hold an extended event or SAMPLE return to their reset value, the values stay (R433). -/
def Dev.closeExtended (d : Dev) : Dev :=
  if d.sec.traceOpen then d
  else
    { d with cnts := d.cnts.map (fun (e : Nat × CntWin) =>
        (e.1, { e.2 with counters := e.2.counters.map (fun (c : Nat × Counter) =>
          if 0x8000 ≤ c.2.event || c.2.sampling then (c.1, { c.2 with sel := 0x7F000000 }) else c) })) }

/-- Log a WARN record of the security core about an unlock. -/
def Dev.warnUnlock (d : Dev) (point data : Nat) : Dev := d.logRec 0 lvWarn point 0 data

/-- An unlock ends: LOG_CONTROL returns to zero, extended counter events close, JTAG sessions close, and what JTAG halted resumes (R367, R395, R433). -/
def Dev.endUnlock (d : Dev) : Dev :=
  if d.sec.unlock = .none then d
  else
    let d := { d with
      log := { d.log with traceEn := 0 }
      tidies := d.tidies.map (fun (x : Nat × Tidy) => (x.1, { x.2 with halted := false, steps := 0 }))
      procs := d.procs.map (fun (x : Nat × Proc) => (x.1, { x.2 with halted := false })) }
    ((d.updSec (fun s => { s with unlock := .none, unlockEnd := 0, jtagReply := 0 })).closeExtended).warnUnlock 2 0

/-! ### Deadlines -/

/-- Do something that fell due at time `x`, as of then. -/
def Dev.atTime (d : Dev) (x : Nat) (f : Dev → Dev) : Dev := { f { d with now := x } with now := d.now }

/-- Do it if it has fallen due. -/
def Dev.whenDue (d : Dev) (x : Nat) (f : Dev → Dev) : Dev := if x ≤ d.now then d.atTime x f else d

/-- What the lease timer has done by now: it warns at 75% of the interval, and the lease expires, or a takeover lapses, at the first tick past D (R370, R373). -/
def Dev.leaseDue (d : Dev) : Dev :=
  let d := d.whenDue (d.lease.setAt + 750000 * d.lease.interval) Dev.leaseWarning
  (d.whenDue (d.lease.deadline + 1) Dev.leaseExpiry).whenDue (d.lease.deadline + 1) Dev.takeoverLapse

/-- The unlock in force ends at its time (R395). -/
def Dev.unlockDue (d : Dev) : Dev := if d.sec.unlock = .none then d else d.whenDue d.sec.unlockEnd Dev.endUnlock

/-- What has fallen due by now. -/
def Dev.deadlines (d : Dev) : Dev := d.leaseDue.unlockDue

/-- The device when the clock has reached `t`, or now where `t` has passed: device time never decreases (R66). -/
def State.clockAt (s : State) (t : Nat) : Dev := { s.dev with now := max s.dev.now t }

/-- The device as a command of time `t` finds it: the counters have counted the cycles up to then, and what fell due has taken effect. -/
def State.dueAt (s : State) (t : Nat) : Dev := ((s.clockAt t).elapse s.dev.now).deadlines

/-- Run a command's effect at time `t`, after what fell due by then. -/
def State.run (s : State) (t : Nat) (f : Dev → Dev) : Out := s.runAt (max s.dev.now t) (fun _ => f (s.dueAt t))

end Sys2Proof.Machine
end

