-- ==== Sys2Proof/Machine/Network.lean ====
section
/-! DEFINITION. The network: the epochs that ports have learned, paths through the routers, and the request tracking of the stacks (R254, R275, R276, R406, R416). -/

namespace Sys2Proof.Machine

/-! ### Epochs (R416) -/

/-- The bound of R279 within which a control message reaches its destination, in ns. -/
def messageBound : Nat := 1000

/-- The epoch that a unit had at a time. -/
def Dev.epochAt (d : Dev) (page time : Nat) : Nat :=
  let h := d.hdr page
  if time < h.changedAt then h.prev else h.epoch

/-- The epoch of a unit as a port had learned it by a time: the notice of its last change has arrived, or the bound of R279 has passed. -/
def Dev.learnedEpoch (d : Dev) (port page time : Nat) : Nat :=
  let h := d.hdr page
  let notice := match d.learned.get? (65536 * port + page) with
    | some a => decide (h.changedAt ≤ a) && decide (a ≤ time)
    | none => false
  if notice || decide (h.changedAt + messageBound ≤ time) then h.epoch else h.prev

/-! ### Paths (R406) -/

/-- Whether the router of a unit's cluster is FAULTED, which stops all traffic of its cluster. -/
def Dev.routerDown (d : Dev) (u : UnitId) : Bool :=
  match d.clusterOfUnit u with
  | some c => (d.hdr (UnitId.router c).page).ustate == .faulted
  | none => false

/-- The code with which a request for a unit that carries its present epoch is answered, where it is turned away. -/
def Dev.reachCode (d : Dev) (u : UnitId) : Option Nat :=
  if d.routerDown u || d.unitState u == .offline || d.unitState u == .faulted then some cUnitOffline
  else if d.unitState u = .resetting then some cUnitReset
  else none

/-- Whether an address is DRAM. -/
def isDram (a : Nat) : Bool := decide (a < regionCount * regionBytes)

/-- The distinct stacks that a DRAM range touches. Of each region, 64 consecutive granules hold every stack of its group. -/
def Dev.stacksOf (d : Dev) (a n : Nat) : List Nat :=
  let granule (r k : Nat) : Nat := max a (r * regionBytes) / 4096 + k
  let last := (a + n - 1) / 4096
  let rs := if n = 0 then [] else upFrom (a / regionBytes) ((a + n - 1) / regionBytes - a / regionBytes + 1)
  let all := rs.flatMap (fun r => ((upFrom 0 64).filter (fun k => decide (granule r k ≤ last) && decide (granule r k * 4096 / regionBytes = r))).map (fun k => d.stackOf (granule r k * 4096)))
  all.foldl (fun l h => if l.contains h then l else l ++ [h]) []

/-- The stacks that answer no request. -/
def Dev.stacksDown (d : Dev) : List Nat := (upFrom 0 32).filter (fun h => (d.reachCode (.dram h)).isSome)

/-- The unit that answers for an address in place of serving it, and its code: core `n` reaches its own share directly, anything else over its cluster's router. -/
def Dev.pathFault (d : Dev) (n : Option Nat) (a len : Nat) : Option Nat :=
  if len = 0 ∨ n.any (fun k => inShare k a len) then none
  else if n.any (fun k => d.routerDown (.core k)) then some cUnitOffline
  else if isDram a then
    let down := d.stacksDown
    if down.isEmpty then none else ((d.stacksOf a len).find? down.contains).bind (fun h => d.reachCode (.dram h))
  else d.reachCode (.core ((a - shareBase 0) / 0x40000000))

/-! ### Routers (R281, R285) -/

/-- Update a router's page. -/
def Dev.updRouter (d : Dev) (c : Nat) (f : Router → Router) : Dev := { d with routers := d.routers.put c (f (d.routers.getD c {})) }

/-- The cluster that an address lies in: its stack's, or that of the core whose share holds it. -/
def Dev.homeCluster (d : Dev) (a : Nat) : Nat := if isDram a then d.stackOf a / 8 else coreCluster d.geo ((a - shareBase 0) / 0x40000000)

/-- Where the operand pairs of a tree meet: a pair whose operands all come from one cluster at its router, any other at the router of the destination's cluster, `dest` (notes/assumptions/76.md). The first part is the cluster of a subtree that lies in one. -/
def combineAt (cluster : Nat → Nat) (dest : Nat) : ArrivalTree → Option Nat × List Nat
  | .leaf i => (some (cluster i), [])
  | .node l r =>
    let a := combineAt cluster dest l
    let b := combineAt cluster dest r
    match a.1, b.1 with
    | some x, some y => if x = y then (some x, x :: (a.2 ++ b.2)) else (none, dest :: (a.2 ++ b.2))
    | _, _ => (none, dest :: (a.2 ++ b.2))

/-- Count the operand pairs that the routers combine for a tree (RTR_COMBINES), for a context's job. -/
def Dev.countCombines (d : Dev) (ctx : Option Nat) (cluster : Nat → Nat) (dest : Nat) (t : ArrivalTree) : Dev :=
  (combineAt cluster dest t).2.foldl (fun d c =>
    (d.updRouter c (fun r => { r with combines := satAdd 0xFFFFFFFF r.combines 1 })).noteFor ctx (UnitId.router c).page 0x403 1) d

/-! ### Traffic of the stacks (R435, R441) -/

/-- The pieces of a range that lie in one granule each: address and length. -/
def granulePieces (a n : Nat) : List (Nat × Nat) :=
  (upFrom (a / 4096) (if n = 0 then 0 else (a + n - 1) / 4096 - a / 4096 + 1)).map (fun g =>
    let lo := max a (4096 * g)
    (lo, min (a + n) (4096 * g + 4096) - lo))

/-- Count the bytes of an access to DRAM at the stack interfaces it passes: in the bandwidth window, and as events for a context's job. -/
def Dev.stackTraffic (d : Dev) (ctx : Option Nat) (a n : Nat) (write : Bool) : Dev :=
  if !isDram a then d
  else
    (granulePieces a n).foldl (fun d x =>
      let h := d.stackOf x.1
      let old := d.reader.traffic.getD h (0, 0)
      let new := if write then (old.1, old.2 + x.2) else (old.1 + x.2, old.2)
      ({ d with reader := { d.reader with traffic := d.reader.traffic.put h new } } : Dev).noteFor ctx (UnitId.dram h).page (if write then 0x481 else 0x480) x.2) d

/-! ### Request tracking (R275, R276) -/

/-- The source of a request in a stack's tracking: 0 to 15 a logical core, 16 the hub. -/
def trackSource (requester : Nat) : Nat := ((unitOf requester).bind UnitId.coreOf).getD 16

/-- The logical cores in service. -/
def Dev.inService (d : Dev) : Nat := ((upFrom 0 d.nCores).filter (fun n => !bit d.geom.offline n)).length

/-- Entries reserved for a source, and those that all share. -/
def trackReserved (s : Nat) : Nat := if s = 16 then 1024 else 2048
def Dev.trackShared (d : Dev) : Nat := 65536 - 2048 * d.inService - 1024

/-- A stack's tracking. -/
def Dev.track (d : Dev) (h : Nat) : Track := d.tracks.getD h {}

/-- Entries in use. -/
def Track.inUse (x : Track) : Nat := (x.used.map (·.2)).sum

/-- Shared entries in use: what each source holds beyond its reserve. -/
def Track.sharedUse (x : Track) : Nat := (x.used.map (fun e => e.2 - trackReserved e.1)).sum

/-- Whether a source has a reserved entry left, and whether it can take an entry at all. -/
def Track.reserve (x : Track) (s : Nat) : Bool := decide (x.used.getD s 0 < trackReserved s)
def Dev.canTrack (d : Dev) (x : Track) (s : Nat) : Bool := x.reserve s || decide (x.sharedUse < d.trackShared)

/-- Take an entry for a source. -/
def Track.take (x : Track) (s : Nat) : Track :=
  let x := { x with used := x.used.put s (x.used.getD s 0 + 1) }
  { x with peak := max x.peak x.inUse }

/-- Free an entry of a source. -/
def Track.free (x : Track) (s : Nat) : Track := { x with used := x.used.put s (x.used.getD s 0 - 1) }

/-- Update a stack's tracking. -/
def Dev.updTrack (d : Dev) (h : Nat) (f : Track → Track) : Dev := { d with tracks := d.tracks.put h (f (d.track h)) }

/-- The accesses of one row to a DRAM range, each of which takes its entry and frees it within the step: the peak of every stack they touch (R275; notes/assumptions/76.md), and their bytes. -/
def Dev.trackPass (d : Dev) (ctx : Option Nat) (a n : Nat) (write : Bool) : Dev :=
  if isDram a then
    ({ d with tracks := (d.stacksOf a n).foldl (fun t h => let x := t.getD h {}; t.put h { x with peak := max x.peak (min 65536 (x.inUse + 1)) }) d.tracks } : Dev).stackTraffic ctx a n write
  else d

end Sys2Proof.Machine
end

