-- ==== Sys2Proof/Machine/Commands.lean ====
section
/-! DEFINITION. Command records and their checks: the layout of Table 2-7, the order of Table 2-9, authentication, and the answers a command gives (R49, R52 to R56, R62, R358, R379 to R384). -/

namespace Sys2Proof.Machine

/-! ### Fields of a command record (Table 2-7) -/

/-- Bits [hi:lo] of the dword (or word) at a byte offset of the record. -/
def Cmd.fld (c : Cmd) (off hi lo : Nat) : Nat := bits c.word (off * 8 + hi) (off * 8 + lo)

def Cmd.opcode (c : Cmd) : Nat := c.fld 0 15 0
def Cmd.auth (c : Cmd) : Bool := c.fld 0 16 16 == 1
def Cmd.version (c : Cmd) : Nat := c.fld 0 31 24
def Cmd.tag (c : Cmd) : Nat := c.fld 4 31 0
def Cmd.target (c : Cmd) : Nat := c.fld 8 15 0
def Cmd.targetEpoch (c : Cmd) : Nat := c.fld 8 31 16
def Cmd.ctx (c : Cmd) : Nat := c.fld 0x0C 6 0
def Cmd.job (c : Cmd) : Nat := c.fld 0x10 31 0
def Cmd.keySlot (c : Cmd) : Nat := c.fld 0x60 2 0
def Cmd.authCounter (c : Cmd) : Nat := c.fld 0x68 63 0
def Cmd.mac (c : Cmd) : Nat := c.fld 0x70 127 0
/-- The 64 operand bytes, from 0x18. -/
def Cmd.operands (c : Cmd) : Nat := c.fld 0x18 511 0
/-- A dword and a 64-bit word of the record. -/
def Cmd.dw (c : Cmd) (off : Nat) : Nat := c.fld off 31 0
def Cmd.qw (c : Cmd) (off : Nat) : Nat := c.fld off 63 0
/-- Bytes of the record. -/
def Cmd.bytes (c : Cmd) (off n : Nat) : List Byte := leBytes n (c.word >>> (off * 8))

/-- What an opcode's row of Table 2-11 and its chapter require of a record. -/
structure CmdSpec where
  opcode : Nat
  pfOnly : Bool := false
  critical : Bool := false
  states : List ModState
  /-- Operand bits that are not reserved, with bit 0 at offset 0x18. -/
  mask : Nat := 0
  noTarget : Bool := false
  noCtx : Bool := false
  noJob : Bool := false
  /-- The processor that executes it, if one does (Table 15-1). -/
  proc : Option Nat := none
  /-- ADMIN slot required (Table 16-1). -/
  admin : Bool := false
  /-- Whether each operand of which the chapter states a value holds it: for a command that needs ADMIN, the check that comes before it (R55). -/
  stated : Cmd → Bool := fun _ => true

/-- The code of a command on a slot without ADMIN (R55, R380). -/
def CmdSpec.noAdminCode (sp : CmdSpec) (c : Cmd) : Nat := if sp.stated c then cIllegal else cBadFormat

/-- A field mask within the operands: bits [hi:lo] at a byte offset of the record. -/
def opBits (off hi lo : Nat) : Nat := ones (hi + 1 - lo) <<< ((off - 0x18) * 8 + lo)

/-- The bits of a record that are not reserved: the header, the operands of `mask`, and for a critical command its authentication fields (R52, R53). -/
def recordMask (mask : Nat) (critical : Bool) : Nat :=
  (ones 17 ||| (0xFF <<< 24)) ||| (ones 64 <<< 32) ||| (ones 7 <<< 96) ||| (ones 32 <<< 128)
  ||| (mask <<< 192)
  ||| (if critical then (7 <<< 768) ||| (ones 192 <<< 832) else 0)

/-- Whether a page index names a page that a function can see; virtual functions number pages as R40 does. The answer is the page in the physical function's numbering. -/
def Dev.viewPage (d : Dev) (fn p : Nat) : Option Nat :=
  if fn = 0 then
    match unitOf p with
    | some u => if d.present u then some p else none
    | none => none
  else if p = 0 then some 0
  else if 0x40 ≤ p ∧ p < 0x80 then
    let c := d.ctx (p - 0x40)
    if c.cstate != .free && c.owner == fn then some p else none
  else if 0x100 ≤ p ∧ p < 0x200 then
    if (d.ring (p - 0x100)).owner == fn then some (p - 0x100 + 0x1000) else none
  else if p = 0x200 then some (0x1100 + fn)
  else none

/-- Whether a context is owned by a function (R62, R289). -/
def Dev.ctxOwned (d : Dev) (fn n : Nat) : Bool :=
  decide (n < 64) && (d.ctx n).cstate != .free && (d.ctx n).owner == fn

/-- A job that a command names: a live handle of its CONTEXT, owned by the issuing function (R62). -/
def Dev.namedJob (d : Dev) (c : Cmd) : Option Job :=
  match d.jobs.get? c.job with
  | some j => if j.ctx == c.ctx && d.ctxOwned c.fn c.ctx then some j else none
  | none => none

/-! ### Authentication (R379 to R384) -/

/-- A key slot. -/
def Dev.keySlot (d : Dev) (n : Nat) : KeySlot := d.sec.slots.getD n {}

/-- The key of a slot: K_T for a TRANSPORT slot (R379). -/
def Security.slotKey (s : Security) (k : KeySlot) : List Byte := leBytes 32 (if k.sstate = .transport then s.transportKey else k.key)

/-- CK_s of R379. -/
def Security.commandKey (s : Security) (n : Nat) (k : KeySlot) : List Byte :=
  hmac256 (s.slotKey k) (ascii "FLOSTAN-CMD" ++ leBytes 16 s.deviceId ++ [BitVec.ofNat 8 n])

/-- AUTH_MAC of a record: the first 16 bytes of the HMAC over bytes 0x00 to 0x6F (R53, R379). -/
def Security.macOf (s : Security) (n : Nat) (k : KeySlot) (c : Cmd) : Nat :=
  leNat ((hmac256 (s.commandKey n k) (leBytes 112 c.word)).take 16)

/-- Whether a critical record's tag verifies; an EMPTY slot has none (R380). -/
def Dev.macOk (d : Dev) (c : Cmd) : Bool :=
  let k := d.keySlot c.keySlot
  k.sstate != .empty && d.sec.macOf c.keySlot k c == c.mac

/-- The class-1 record that names a command (R491). -/
def Dev.logCmd (d : Dev) (c : Cmd) (code : Nat) : Dev :=
  d.raiseFor c.fn 1 code (0x1000 + c.ring) (c.opcode + 65536 * c.index) (c.tag + (if c.auth then c.keySlot * 2 ^ 32 else 0))

/-- Length of a lockout at level n, in ticks (R384). -/
def lockoutTicks (n : Nat) : Nat := (min (2 ^ (n - 1)) 60) * 1000000000

/-- An authentication failure (R383, R384): counted, logged, and from the sixteenth on it begins a lockout where none is in force. -/
def Dev.authFailure (d : Dev) (c : Cmd) (code : Nat) : Dev :=
  let fails := satAdd 31 d.sec.fails 1
  let d := { d with sec := { d.sec with fails, total := satAdd 0xFFFF d.sec.total 1 } }
  let d := d.logCmd c code
  if 16 ≤ fails && decide (d.sec.lockoutEnd ≤ d.deviceTime) then
    let level := satAdd 15 d.sec.level 1
    let len := lockoutTicks level
    let fin := d.deviceTime + len
    let d := { d with sec := { d.sec with level, lockoutEnd := fin, lockoutLen := len } }
    d.raise 1 cAuthLockout UnitId.sec.page level fin
  else d

/-- Whether a lockout is in force (R384). -/
def Dev.lockedOut (d : Dev) : Bool := decide (d.deviceTime < d.sec.lockoutEnd)

/-- The failure count and the lockout level return to 0 (R383). -/
def Dev.authPassed (d : Dev) : Dev := { d with sec := { d.sec with fails := 0, level := 0 } }

/-- A counter accepted at step 5: the slot's last counter, and its reserve mark when the counter passes it (R56, R382). -/
def Dev.acceptCounter (d : Dev) (c : Cmd) : Dev :=
  let k := d.keySlot c.keySlot
  let k := { k with last := c.authCounter, reserve := if k.reserve < c.authCounter then w64 (c.authCounter + 65536) else k.reserve }
  { d with sec := { d.sec with slots := d.sec.slots.put c.keySlot k } }

/-! ### Answers -/

/-- Whether a command's completion is written although the module is ORPHANED: a LEASE_RENEW or an ORPHAN_RESOLVE on the ring of the TAKEOVER in force (R65). -/
def Dev.onTakeRing (d : Dev) (c : Cmd) : Bool :=
  d.modState == .orphaned && d.lease.status == .takenOver && d.lease.takeRing == some c.ring && (c.opcode == 0x0061 || c.opcode == 0x0063)

/-- The unit that produced a command's result (Table 2-8). DEDUCED (notes/assumptions/18.md): the unit in TARGET_PAGE, the root for the module, unless the command names another. The page index is the physical function's also in a record for a virtual function: the spec does not say which numbering SOURCE_PAGE follows there (DESIGN CHOICE, notes/assumptions/72.md). -/
def Dev.sourceOf (d : Dev) (c : Cmd) : Nat := c.source.getD ((d.viewPage c.fn c.target).getD 0)

/-- The completion of a command. -/
def Dev.completion (d : Dev) (c : Cmd) (code : Nat) (final : Bool) (r0 r1 : Nat) : Completion :=
  let page := d.sourceOf c
  { code, opcode := c.opcode, tag := c.tag, final, sourcePage := page, sourceEpoch := d.epoch page, result0 := w64 r0, result1 := w64 r1, direct := d.onTakeRing c }

/-- Complete a command: the one record of a command answered at once, or the final record of one answered PENDING. ILLEGAL_IN_STATE at any step is logged first (R62, R491). A command that a reset has discarded has no completion (R414), and in DUMPING no final record of a command answered PENDING is written (R423). -/
def Dev.answer (d : Dev) (c : Cmd) (code r0 r1 : Nat) : Dev :=
  if c.lost || (c.interim && d.modState == .dumping) then d
  else
  let d := if code = cIllegal then d.logCmd c code else d
  let d := if c.interim then d.updRing c.ring (fun r => { r with awaiting := r.awaiting - 1 }) else d
  d.complete c.ring (d.completion c code true r0 r1)

/-- As `answer`, for a record that is written to its ring although host writes are stopped (R65). -/
def Dev.answerDirect (d : Dev) (c : Cmd) (code r0 r1 : Nat) : Dev :=
  d.complete c.ring { d.completion c code true r0 r1 with direct := true }

/-- Answer a command PENDING: an interim record, unless it has been answered PENDING already (R358). -/
def Dev.answerPending (d : Dev) (c : Cmd) (r0 r1 : Nat) : Dev :=
  if c.interim then d
  else
    (d.updRing c.ring (fun r => { r with awaiting := r.awaiting + 1 })).complete c.ring (d.completion c cPending false r0 r1)

/-- A command that completes later with its one record (R49): its ring waits for it as for a final record. -/
def Dev.awaitRecord (d : Dev) (c : Cmd) : Dev :=
  if c.interim then d else d.updRing c.ring (fun r => { r with awaiting := r.awaiting + 1 })

/-- Where the final record of a command answered PENDING goes. -/
def Dev.pendOf (d : Dev) (c : Cmd) : Pend := { ring := c.ring, opcode := c.opcode, tag := c.tag, page := d.sourceOf c }

/-- The final record of a command answered PENDING (R49); none is written in DUMPING (R423). -/
def Dev.finish (d : Dev) (p : Pend) (code r0 r1 : Nat) : Dev :=
  if d.modState = .dumping then d
  else (d.updRing p.ring (fun r => { r with awaiting := r.awaiting - 1 })).complete p.ring
    { code, opcode := p.opcode, tag := p.tag, final := true, sourcePage := p.page, sourceEpoch := d.epoch p.page, result0 := w64 r0, result1 := w64 r1 }

/-- The final record of a command that was kept whole. -/
def Dev.finishCmd (d : Dev) (c : Cmd) (code r0 r1 : Nat) : Dev := d.answer { c with interim := true } code r0 r1

/-- A command answered PENDING that gets no final record (R373, R414). -/
def Dev.dropPend (d : Dev) (ring : Nat) : Dev := d.updRing ring (fun r => { r with awaiting := r.awaiting - 1 })

/-! ### Fetching (R47, R48, R50, R372) -/

/-- Opcodes of Table 2-11. -/
def knownOpcodes : List Nat :=
  [0x0001, 0x0010, 0x0011, 0x0012, 0x0013, 0x0020, 0x0021, 0x0022, 0x0023, 0x0024, 0x0030, 0x0031, 0x0040, 0x0041, 0x0042, 0x0043,
   0x0050, 0x0051, 0x0060, 0x0061, 0x0062, 0x0063, 0x0064, 0x0070, 0x0071, 0x0080, 0x0081, 0x0082, 0x0090, 0x00A0, 0x00C0, 0x00C1]

/-- Whether a ring's completion ring has no free slot (R50). -/
def Ring.cqFull (g : Ring) : Bool := (g.cqTail + 1) % 2 ^ g.log2Cq == g.cqHead

/-- Whether the device may fetch from a ring: enabled, not halted, an entry available, room for completions, and the module not in RESET (R47, R50, R62). -/
def Dev.canFetch (d : Dev) (g : Ring) : Bool :=
  g.enable && !g.halted && g.sqHead != g.sqTail && !g.cqFull && d.modState != .reset

/-- The command record at a ring's SQ_HEAD, if the device may fetch it (R52, R372). -/
def Dev.headCmd (d : Dev) (r : Nat) : Option Cmd :=
  let g := d.ring r
  if d.canFetch g then
    let c : Cmd := { ring := r, fn := g.owner, index := g.sqHead, word := memNat d.hostMem (g.sqBase + 128 * g.sqHead) 128 }
    if d.storeFull && c.opcode != 0x0062 && c.opcode != 0x0063 then none else some c
  else none

/-- The record at SQ_HEAD has been taken. -/
def Dev.advanceHead (d : Dev) (r : Nat) : Dev := d.updRing r (fun g => { g with sqHead := (g.sqHead + 1) % 2 ^ g.log2Sq })

/-- Complete the unknown opcodes that stand at a ring's head: BAD_FORMAT at step 1 (R55). -/
def Dev.fetchUnknown : Nat → Nat → Dev → Dev
  | 0, _, d => d
  | n + 1, r, d =>
    match d.headCmd r with
    | none => d
    | some c =>
      if knownOpcodes.contains c.opcode then d
      else fetchUnknown n r ((d.advanceHead r).answer c cBadFormat 0 0)

/-! ### Checks (Table 2-9) -/

/-- Step 1: the record is well formed for its opcode. -/
def Cmd.formed (c : Cmd) (sp : CmdSpec) : Bool :=
  (c.word &&& recordMask sp.mask sp.critical) == c.word
  && c.version == 1 && c.auth == sp.critical
  && (!sp.noTarget || c.target == 0) && (!sp.noCtx || c.ctx == 0x7F) && (!sp.noJob || c.job == 0)

/-- Step 2: legal under Table 2-11; `cond` is the row's further condition, with the code of its failure. -/
def Dev.legal (d : Dev) (c : Cmd) (sp : CmdSpec) (cond : Option Nat) : Option Nat :=
  if sp.pfOnly && c.fn != 0 then some cIllegal
  else if !sp.states.contains d.modState then some cIllegal
  else cond

/-- Steps 6 and 7: the target unit; one that took a shared error answers as an offline one to all but UNIT_RESET (R406). -/
def Dev.targetCheck (d : Dev) (c : Cmd) : Option Nat :=
  match (d.viewPage c.fn c.target).bind unitOf with
  | none => some cUnitOffline
  | some u =>
    if d.unitState u = .offline || (d.unitState u = .faulted && c.opcode != 0x0070) then some cUnitOffline
    else if d.unitState u = .resetting || (c.targetEpoch != 0 && c.targetEpoch != d.epoch u.page) then some cUnitReset
    else none

/-- Steps 1 to 7 of Table 2-9: the code that stops a command, if one does, with the effects of its authentication. -/
def Dev.preCheck (d : Dev) (c : Cmd) (sp : CmdSpec) (cond : Option Nat) : Dev × Option Nat :=
  if !c.formed sp then (d, some cBadFormat)
  else
    match d.legal c sp cond with
    | some code => (d, some code)
    | none =>
      if sp.critical then
        if d.lockedOut then (d, some cAuthLockout)
        else if !d.macOk c then (d.authFailure c cAuthFail, some cAuthFail)
        else if c.authCounter ≤ (d.keySlot c.keySlot).last then (d.authFailure c cAuthStale, some cAuthStale)
        else
          let d := d.acceptCounter c
          let d := if sp.opcode = 0x0082 && c.fld 0x18 0 0 == 0 && decide (c.fld 0x18 1 0 < 3) then d else d.authPassed
          (d, d.targetCheck c)
      else (d, d.targetCheck c)

/-- Entries of a processor's queue of waiting commands (R358). -/
def waitCapacity : Nat := 256

/-- Whether a command must wait for its processor: it restarts, or a debugger has halted it (R358, R390). -/
def Dev.procBusy (d : Dev) (p : Nat) : Bool := (d.proc p).restarting || (d.proc p).halted || !(d.proc p).waiting.isEmpty

/-- The processor that the PROC field of FW_STAGE or FW_ACTIVATE names. -/
def fwProc (c : Cmd) : Nat := c.fld 0x18 2 0

/-- An FW_STAGE that has been checked leaves nothing staged for its processor, also while it waits (R360). -/
def Dev.unstage (d : Dev) (c : Cmd) : Dev :=
  if c.opcode = 0x0050 ∧ fwProc c < 7 then d.updProc (fwProc c) (fun q => { q with staged := none, stagedRevokes := 0 }) else d

/-- Step 8 by its processor, or the wait for it (R358, R380). An operand that does not hold the value stated for it is found before a missing ADMIN (R55). -/
def Dev.stepEight (d : Dev) (c : Cmd) (sp : CmdSpec) (body : Cmd → Dev → Dev) : Dev :=
  match sp.proc with
  | none => body c d
  | some p =>
    if d.procBusy p then
      if (d.proc p).waiting.length < waitCapacity then
        (((d.answerPending c 0 0).unstage c).updProc p (fun q => { q with waiting := q.waiting ++ [{ c with interim := true }] }))
      else d.answer c cNoResource 0 0
    else if sp.admin && !(d.keySlot c.keySlot).admin then d.answer c (sp.noAdminCode c) 0 0
    else body c d

/-- The command that waits first for a processor that has returned, when it is one of the row's (R358). -/
def Dev.waitingHead (d : Dev) (sp : CmdSpec) (ring : Nat) (mine : Cmd → Bool) : Option (Nat × Cmd) :=
  match sp.proc with
  | none => none
  | some p =>
    if (d.proc p).restarting || (d.proc p).halted then none
    else
      match (d.proc p).waiting with
      | c :: _ => if c.ring == ring && c.opcode == sp.opcode && mine c then some (p, c) else none
      | [] => none

/-- A ring command's row: the next command of ring `ring`, when it carries the row's opcode and is `mine`, is checked and executed. A command that waited for its processor is checked again under step 2 (R358). Where no such command stands there, nothing happens (notes/assumptions/8.md). -/
def Dev.ringCmd (d : Dev) (ring : Nat) (spec : Cmd → CmdSpec) (mine : Cmd → Bool) (cond : Cmd → Option Nat) (body : Cmd → Dev → Dev) : Dev :=
  match d.waitingHead (spec { ring, fn := 0, index := 0, word := 0 }) ring mine with
  | some (p, c) =>
    let d := d.updProc p (fun q => { q with waiting := q.waiting.drop 1 })
    match d.legal c (spec c) (cond c) with
    | some code => d.answer c code 0 0
    | none => if (spec c).admin && !(d.keySlot c.keySlot).admin then d.answer c ((spec c).noAdminCode c) 0 0 else body c d
  | none =>
    match d.headCmd ring with
    | none => d
    | some c =>
      if c.opcode == (spec c).opcode && mine c then
        let d := d.advanceHead ring
        let d :=
          match d.preCheck c (spec c) (cond c) with
          | (d, some code) => d.answer c code 0 0
          | (d, none) => d.stepEight c (spec c) body
        d.fetchUnknown 65536 ring
      else d

/-- Every command of the opcode is the row's. -/
def anyForm : Cmd → Bool := fun _ => true

/-- A row of a sub-operation: the record carries that sub-operation, or one that is not defined, which every row of the family answers alike. -/
def isForm (field : Cmd → Nat) (op defined : Nat) : Cmd → Bool := fun c => field c == op || decide (defined ≤ field c)

/-- Every module state in which rings are serviced. -/
def allStates : List ModState := [.boot, .ready, .active, .frost, .snowpack, .orphaned, .faulted, .dumping]

end Sys2Proof.Machine
end

