-- ==== Sys2Proof/Machine/Rings.lean ====
section
/-! DEFINITION. Rings and attention queues: the ring page's registers (Table 2-6), completions, the attention queue page, and NOP (R46 to R51, R54, R57, R58, R478, R491). -/

namespace Sys2Proof.Machine

/-! ### Logged accesses (R491) -/

/-- DETAIL_W of a register or BAR2 cause. -/
def accessFields (fn off len : Nat) (write : Bool) : Nat :=
  off % 4096 + 4096 * (Nat.log2 len) + 65536 * fn + (if write then 2 ^ 21 else 0)

/-- The virtual function that owns the ring or the context of a page; 0 where none does (R57). -/
def Dev.pageOwner (d : Dev) (page : Nat) : Nat :=
  match unitOf page with
  | some (.ring r) => (d.ring r).owner
  | some (.ctx n) => if (d.ctx n).cstate = .free then 0 else (d.ctx n).owner
  | _ => 0

/-- Log a register write that is ignored, with the code of its cause; the record also enters the queue of the virtual function that made the write or whose ring or context the page is (R57, R491). -/
def Dev.refuse (d : Dev) (fn page off len data code : Nat) : Dev :=
  d.raiseFor (if fn = 0 then d.pageOwner page else fn) 1 code page (accessFields fn off len true) data

/-! ### The ring page -/

/-- Whether a function may access a ring's page (R36, R40). -/
def Dev.ringVisible (d : Dev) (fn r : Nat) : Bool := decide (r < 256) && d.fnActs fn && (fn == 0 || (d.ring r).owner == fn) && d.hostOpen (.ring r)

/-- Write RING_CONTROL with ENABLE 1: ignored and logged while the ring is not DRAINED; otherwise the four indices go to 0 and the expected phase to 1. HALTED stays: only ENABLE 0 clears it (Table 2-6). -/
def Dev.ringEnable (d : Dev) (fn r data : Nat) : Dev :=
  if d.drained r then
    d.updRing r (fun g => { g with enable := true, sqTail := 0, sqHead := 0, cqTail := 0, cqHead := 0, phase := true })
  else d.refuse fn (0x1000 + r) 0x040 4 data cIllegal

/-- Write 0 to ENABLE: fetching stops and HALTED clears. -/
def Dev.ringDisable (d : Dev) (r : Nat) : Dev := d.updRing r (fun g => { g with enable := false, halted := false })

/-- Halt a ring with an error (R47). -/
def Ring.halt (g : Ring) (code index : Nat) : Ring := { g with halted := true, errCode := code, errIndex := index }

/-- Write SQ_TAIL, the doorbell, with INDEX in bits [15:0] (R47). -/
def Dev.sqTail (d : Dev) (fn r data : Nat) : Dev :=
  let g := d.ring r
  let value := data % 65536
  if !g.enable then d.refuse fn (0x1000 + r) 0x058 4 data cIllegal
  else if 2 ^ g.log2Sq ≤ value then d.updRing r (fun g => g.halt cOutOfRange value)
  else (d.updRing r (fun g => { g with sqTail := value })).fetchUnknown 65536 r

/-- Write CQ_HEAD (R47). -/
def Dev.cqHead (d : Dev) (r value : Nat) : Dev :=
  let g := d.ring r
  if 2 ^ g.log2Cq ≤ value then d.updRing r (fun g => g.halt cOutOfRange value)
  else (d.updRing r (fun g => { g with cqHead := value })).fetchUnknown 65536 r

/-- Send a ring's wake message: ARMED clears (R51). -/
def Dev.wake (d : Dev) (r : Nat) : Dev :=
  let g := d.ring r
  { d.updRing r (fun g => { g with armed := false }) with msix := d.msix ++ [{ fn := g.owner, vector := g.vector }] }

/-- Write RING_WAKE (R51, R447, R371). -/
def Dev.ringWake (d : Dev) (fn r data : Nat) : Dev :=
  let vector := bits data 10 0
  if bit data 16 then
    if (d.ring r).owner ≠ 0 ∧ 63 < vector then
      (d.updRing r (fun g => { g with vector, armed := false })).refuse fn (0x1000 + r) 0x068 4 data cOutOfRange
    else
      let d := d.updRing r (fun g => { g with vector, armed := true })
      let g := d.ring r
      if g.cqTail != g.cqHead && !d.hostStopped then d.wake r else d
  else d.updRing r (fun g => { g with vector, armed := false })

/-- The 64 bytes of a completion record as it is written (Table 2-8). -/
def Dev.completionBytes (d : Dev) (r : Nat) (g : Ring) (c : Completion) : List Byte :=
  leBytes 64
    (d.statusWord g.owner c.code + 2 ^ 16 * c.opcode + 2 ^ 32 * c.tag
      + 2 ^ 64 * (g.sqHead + 2 ^ 16 * r + (if c.final then 2 ^ 24 else 0) + (if g.phase then 2 ^ 31 else 0))
      + 2 ^ 96 * (c.sourcePage + 2 ^ 16 * c.sourceEpoch)
      + 2 ^ 128 * c.result0 + 2 ^ 192 * c.result1 + 2 ^ 256 * d.deviceTime)

/-- Write one completion into the ring's free slot: host memory, CQ_TAIL, the phase on a wrap, and the wake message (R50, R51, R54). -/
def Dev.writeCompletion (d : Dev) (r : Nat) (c : Completion) (rest : List Completion) : Dev :=
  let g := d.ring r
  let d := d.writeHost (g.cqBase + 64 * g.cqTail) (d.completionBytes r g c)
  let tail := (g.cqTail + 1) % 2 ^ g.log2Cq
  let d := d.updRing r (fun g => { g with held := rest, cqTail := tail, phase := if tail = 0 then !g.phase else g.phase })
  if g.armed && !d.hostStopped then d.wake r else d

/-- Take the first element that satisfies a predicate out of a list. -/
def takeFirst {α : Type} (p : α → Bool) : List α → Option (α × List α)
  | [] => none
  | x :: xs => if p x then some (x, xs) else (takeFirst p xs).map (fun e => (e.1, x :: e.2))

/-- Write the next held completion of a ring, when a slot is free and the record may go to host memory (R50, R65). -/
def Dev.completionWrite (d : Dev) (r : Nat) : Dev :=
  let g := d.ring r
  if g.cqFull then d
  else
    match takeFirst (fun c => c.direct || !d.hostStopped) g.held with
    | none => d
    | some (c, rest) => (d.writeCompletion r c rest).fetchUnknown 65536 r

/-! ### The attention queue page (R58) -/

/-- Pop the head record of a function's queue. -/
def Dev.attnPop (d : Dev) (f : Nat) : Dev :=
  let q := d.attnq f
  { d with attnqs := d.attnqs.put f { q with records := q.records.drop 1 } }

/-! ### NOP (R478) -/

/-- ENT_STATUS.SERVICE, as the boot record carries it, is given by the entropy source; the rest of Table 20-4 is the boot record's. -/
def Dev.bootRecord (d : Dev) (service : Nat) : Nat × Nat :=
  let b := d.boot
  (b.stage + (if b.hold then 16 else 0) + (if b.warm then 32 else 0) + (if d.flt.dump.isSome then 64 else 0)
      + 2 ^ 8 * b.failReason + 2 ^ 12 * service + 2 ^ 16 * b.elapsedMs + 2 ^ 32 * b.stacksFailed,
   b.retiredNow + 2 ^ 20 * b.clustersUp + 2 ^ 24 * b.logicalCores)

/-! ### The rows -/

/-- RING_ENABLE (R46). -/
def execRingEnable (t fn ring : Nat) (s : State) : Host.Outcome State Fault Refusal :=
  s.run t (fun d => if d.ringVisible fn ring then d.ringEnable fn ring 1 else d)

/-- RING_DISABLE (R46). -/
def execRingDisable (t fn ring : Nat) (s : State) : Host.Outcome State Fault Refusal :=
  s.run t (fun d => if d.ringVisible fn ring then d.ringDisable ring else d)

/-- SQ_TAIL_DOORBELL (R47), with the bytes the host has stored in its memory before it. -/
def execSqTailDoorbell (t fn ring value : Nat) (host : List Host.Cell) (s : State) : Host.Outcome State Fault Refusal :=
  s.run t (fun d =>
    let d := { d with hostMem := memWriteCells d.hostMem host }
    if d.ringVisible fn ring then d.sqTail fn ring value else d)

/-- CQ_HEAD_WRITE (R47). -/
def execCqHeadWrite (t fn ring value : Nat) (s : State) : Host.Outcome State Fault Refusal :=
  s.run t (fun d => if d.ringVisible fn ring then d.cqHead ring (value % 65536) else d)

/-- RING_WAKE_ARM (R51): a write of RING_WAKE with ARMED set. -/
def execRingWakeArm (t fn ring vector : Nat) (s : State) : Host.Outcome State Fault Refusal :=
  s.run t (fun d => if d.ringVisible fn ring then d.ringWake fn ring (vector % 2048 + 2 ^ 16) else d)

/-- COMPLETION_WRITE (R50). -/
def execCompletionWrite (t ring : Nat) (s : State) : Host.Outcome State Fault Refusal :=
  s.run t (fun d => d.completionWrite ring)

/-- ATTNQ_POP (R58): a function's own queue, or any queue through the physical function's BAR0. -/
def execAttnqPop (t fn queue : Nat) (s : State) : Host.Outcome State Fault Refusal :=
  s.run t (fun d => if d.fnActs fn && (fn == 0 || fn == queue) && decide (queue < 32) && d.hostOpen (.attnq queue) then d.attnPop queue else d)

end Sys2Proof.Machine
end

