-- ==== Sys2Proof/Machine/Sync.lean ====
section
/-! DEFINITION. Synchronisation objects, launch entries and the time base (R66 to R88). -/

namespace Sys2Proof.Machine

/-! ### Launch entries: the terms of C (R75, R77, R78) -/

/-- Whether two jobs need a unit in common: a large core, or a slate stream bound in the same context (R75, R216). -/
def Job.shares (a b : Job) : Bool :=
  (a.cores &&& b.cores) != 0 || (a.ctx == b.ctx && a.slateBind.any (fun s => b.slateBind.any (fun r => r.1 == s.1)))

/-- Cores that saves and restores hold (R409). -/
def Dev.opCores (d : Dev) : Nat := d.ctxOps.foldl (fun m o => m ||| o.cores) 0

/-- No core of a job is offline: one whose slot has been retired waits for its substitute (R20, R22). -/
def Dev.coresUp (d : Dev) (j : Job) : Bool := (maskCores j.cores).all (fun n => !d.offline (.core n))

/-- Every unit of a job is in service, and free of other jobs in LAUNCHED to DRAINING and of saves and restores. -/
def Dev.unitsFree (d : Dev) (id : Nat) (j : Job) : Bool :=
  d.coresUp j && (j.cores &&& d.opCores) == 0 && !d.jobs.any (fun e => e.1 != id && e.2.jstate.running? && j.shares e.2)

/-- The unit terms of an entry's C hold: units free, and no entry before it in check order shares a unit. -/
def Dev.entryFree (d : Dev) (before : List Launch) (e : Launch) : Bool :=
  match d.jobs.get? e.job with
  | none => false
  | some j =>
    d.unitsFree e.job j
      && before.all (fun x => match d.jobs.get? x.job with
          | none => true
          | some k => !j.shares k)

/-- The job's own condition (R75): the device time at which its term became true. -/
def Launch.condAt (e : Launch) : Option Nat :=
  match e.cond with
  | .immediate => some e.checkTime
  | .atTime => some e.checkTime
  | _ => e.condTime

/-- An entry's C, once every term is true. -/
def Launch.settleC (e : Launch) : Launch :=
  match e.c, e.condAt, e.freeAt with
  | none, some a, some b => { e with c := some (max e.checkTime (max a b)) }
  | _, _, _ => e

/-- Evaluate the terms of C of every entry, in check order. An entry whose release has been sent keeps its C while its cores stay in service. -/
def Dev.evalEntries (d : Dev) : List Launch → List Launch → List Launch
  | _, [] => []
  | before, e :: es =>
    let e' :=
      if e.sent && (d.jobs.get? e.job).all d.coresUp then e
      else if d.entryFree before e then ({ e with freeAt := some (e.freeAt.getD d.now) } : Launch).settleC
      else { e with freeAt := none, c := none, held := false, sent := false }
    e' :: Dev.evalEntries d (before ++ [e]) es

/-- Evaluate every launch entry. -/
def Dev.evalLaunches (d : Dev) : Dev := { d with launches := d.evalEntries [] d.launches }

/-- t_req of R75. -/
def Launch.tReq (e : Launch) (barrier : Bool) : Nat :=
  match e.cond with
  | .immediate => 0
  | .atTime => e.launchTime
  | .onSync => if barrier then e.fireTime else 0
  | .atTimeAndSync => if barrier then max e.launchTime e.fireTime else e.launchTime

/-- A synchronisation object. -/
def Dev.sync (d : Dev) (i : Nat) : SyncObj := d.syncs.getD i {}

/-- Update a synchronisation object. -/
def Dev.updSync (d : Dev) (i : Nat) (f : SyncObj → SyncObj) : Dev := { d with syncs := d.syncs.put i (f (d.sync i)) }

/-- t_req of an entry. -/
def Dev.entryReq (d : Dev) (e : Launch) : Nat := e.tReq ((d.sync e.waitSync).type == .timedBarrier)

/-- S of R75, once C is known. -/
def Dev.entryS (d : Dev) (e : Launch) : Option Nat := e.c.map (fun c => max (d.entryReq e) (c + launchLead))

/-- The launch entry of a job. -/
def Dev.entryOf (d : Dev) (job : Nat) : Option Launch := d.launches.find? (fun e => e.job == job)

/-- NEXT_RELEASE: the earliest determined S not yet reached (R81). -/
def Dev.nextRelease (d : Dev) : Nat :=
  d.launches.foldl (fun m e => match d.entryS e with
    | some x => if d.now < x then min m x else m
    | none => m) (ones 64)

/-! ### Satisfactions (R83, R84) -/

/-- WAITERS of an object. -/
def Dev.waiters (d : Dev) (i : Nat) : Nat :=
  (d.launches.filter (fun e => e.waiting && e.waitSync == i)).length

/-- Count a satisfaction of a semaphore or event: GENERATION and LAST_FIRE (Table 3-8). -/
def SyncObj.satisfied (o : SyncObj) (now : Nat) : SyncObj := { o with generation := (o.generation + 1) % 2 ^ 32, lastFire := now }

/-- Serve the waiters of a semaphore, oldest first: one that cannot be served blocks those after it. -/
def serveSemaphore (i now : Nat) : SyncObj → List Launch → SyncObj × List Launch
  | o, [] => (o, [])
  | o, e :: es =>
    if e.waiting && e.waitSync == i then
      if e.waitCount ≤ o.count then
        let r := serveSemaphore i now ({ o with count := o.count - e.waitCount }.satisfied now) es
        (r.1, { e with waiting := false, condTime := some now } :: r.2)
      else (o, e :: es)
    else
      let r := serveSemaphore i now o es
      (r.1, e :: r.2)

/-- Serve the waiters of an event: all of them, or the oldest alone with AUTO_CLEAR. -/
def serveEvent (i now : Nat) : SyncObj → List Launch → SyncObj × List Launch
  | o, [] => (o, [])
  | o, e :: es =>
    if e.waiting && e.waitSync == i && o.setFired then
      let o' := ({ o with setFired := !o.autoClear } : SyncObj).satisfied now
      let r := serveEvent i now o' es
      (r.1, { e with waiting := false, condTime := some now } :: r.2)
    else
      let r := serveEvent i now o es
      (r.1, e :: r.2)

/-- A barrier whose COUNT is at or above EXPECTED is due from `a` on, unless it is due already or has fired without REARM (R84). -/
def SyncObj.reach (o : SyncObj) (a : Nat) : SyncObj :=
  if o.due.isNone && decide (o.expected ≤ o.count) && !(o.setFired && !o.rearm) then { o with due := some a } else o

/-- The entries that await a barrier's due firing: their term of C is true from A, and t_req is the FIRE_TIME in force. -/
def awaitDue (i : Nat) (o : SyncObj) (es : List Launch) : List Launch :=
  match o.due with
  | none => es
  | some a =>
    es.map (fun e =>
      if e.waiting && e.waitSync == i && e.firing == (o.generation + 1) % 2 ^ 32 then
        { e with condTime := some a, fireTime := o.fireTime }
      else e)

/-- Evaluate an object's satisfactions at time `now`, then the launch entries. -/
def Dev.evalSync (d : Dev) (i : Nat) : Dev :=
  let o := d.sync i
  let d :=
    match o.type with
    | .unused => d
    | .semaphore =>
      let (o, es) := serveSemaphore i d.now o d.launches
      { d with syncs := d.syncs.put i o, launches := es }
    | .event =>
      let (o, es) := serveEvent i d.now o d.launches
      { d with syncs := d.syncs.put i o, launches := es }
    | .timedBarrier =>
      let o := o.reach d.now
      { d with syncs := d.syncs.put i o, launches := awaitDue i o d.launches }
  d.evalLaunches

/-- POST n, or ARRIVE n, on an object of a type (Table 3-7, R84). A barrier's COUNT saturates at 0xFFFF_FFFF as a semaphore's does: the table states saturation for a semaphore alone (DESIGN CHOICE, notes/assumptions/72.md). -/
def SyncObj.post (o : SyncObj) (n : Nat) : SyncObj :=
  match o.type with
  | .unused => o
  | .semaphore => { o with count := satAdd 0xFFFFFFFF o.count n, overflow := o.overflow || decide (0xFFFFFFFF < o.count + n) }
  | .event => { o with setFired := true }
  | .timedBarrier =>
    if o.setFired && !o.rearm then { o with overrun := true }
    else { o with count := satAdd 0xFFFFFFFF o.count n }

/-- CLEAR on an object of a type (Table 3-7). -/
def SyncObj.clear (o : SyncObj) : SyncObj :=
  match o.type with
  | .unused => o
  | .semaphore => { o with count := 0 }
  | .event => { o with setFired := false }
  | .timedBarrier => { o with count := 0, setFired := false }

/-- Whether POST n saturates a semaphore or overruns a barrier (Table 18-5). -/
def SyncObj.overflows (o : SyncObj) (n : Nat) : Bool :=
  match o.type with
  | .semaphore => decide (0xFFFFFFFF < o.count + n)
  | .timedBarrier => o.setFired && !o.rearm
  | _ => false

/-- POST n on an object, from any source; `ctx` is the context of the job that posts, if one does. -/
def Dev.syncPost (d : Dev) (i n : Nat) (ctx : Option Nat := none) : Dev :=
  (((d.updSync i (fun o => o.post n)).evalSync i).noteFor ctx UnitId.sync.page 0x500 1).noteFor ctx UnitId.sync.page 0x503 (b2n ((d.sync i).overflows n))

/-- CLEAR on an object, from any source. -/
def Dev.syncClear (d : Dev) (i : Nat) (ctx : Option Nat := none) : Dev := ((d.updSync i SyncObj.clear).evalSync i).noteFor ctx UnitId.sync.page 0x500 1

/-- A due barrier fires at F (R84). -/
def SyncObj.fire (o : SyncObj) (a : Nat) : SyncObj :=
  let f := max o.fireTime a
  let late := o.late || (o.fireTime != 0 && decide (o.fireTime < a + launchLead))
  let o := { o with lastFire := f, generation := (o.generation + 1) % 2 ^ 32, late, due := none }
  if o.rearm then
    ({ o with count := o.count - o.expected, fireTime := if o.fireTime = 0 then 0 else w64 (o.fireTime + o.period) } : SyncObj).reach f
  else { o with setFired := true }

/-- Fire a barrier that is due, once F has come: the entries that await the firing are satisfied. -/
def Dev.barrierFire (d : Dev) (i : Nat) : Dev :=
  let o := d.sync i
  match o.type, o.due with
  | .timedBarrier, some a =>
    if d.now < max o.fireTime a then d
    else
      let o' := o.fire a
      let es := d.launches.map (fun e =>
        if e.waiting && e.waitSync == i && e.firing == o'.generation then
          { e with waiting := false, condTime := some (e.condTime.getD a), fireTime := o.fireTime }
        else e)
      let d := { d with syncs := d.syncs.put i o', launches := awaitDue i o' es }
      (d.evalLaunches.noteFor none UnitId.sync.page 0x501 1).noteFor none UnitId.sync.page 0x502 (b2n (o.fireTime != 0 && decide (o.fireTime < a + launchLead)))
  | _, _ => d

/-! ### The synchronisation window (R85) -/

/-- Log a write of the synchronisation window that is ignored. -/
def Dev.refuseSync (d : Dev) (fn i off data code : Nat) : Dev :=
  d.refuse fn UnitId.sync.page off 4 (data + 2 ^ 32 * i) code

/-- Whether an object is waited on, or a job of its owner is QUEUED to DRAINING (R85). -/
def Dev.syncBusy (d : Dev) (i : Nat) : Bool :=
  d.waiters i != 0 || d.anyJob (fun j => j.jstate.live? && j.ctx == (d.sync i).owner)

/-- SYNC_CONFIG.TYPE. -/
def syncTypeOf : Nat → SyncType
  | 0 => .unused
  | 1 => .semaphore
  | 2 => .event
  | _ => .timedBarrier

def SyncType.code : SyncType → Nat
  | .unused => 0
  | .semaphore => 1
  | .event => 2
  | .timedBarrier => 3

/-- Write SYNC_CONFIG. A write that changes TYPE also drops a firing that is due: R85 lists COUNT, the flags and GENERATION alone (DESIGN CHOICE, notes/assumptions/72.md). -/
def Dev.syncConfig (d : Dev) (fn i data : Nat) : Dev :=
  let owner := bits data 14 8
  if d.syncBusy i then d.refuseSync fn i 0 data cIllegal
  else if 64 ≤ owner ∧ owner ≠ 0x7F then d.refuseSync fn i 0 data cOutOfRange
  else
    let ty := syncTypeOf (bits data 1 0)
    let d := d.updSync i (fun o =>
      let o := if o.type = ty then o else { o with count := 0, setFired := false, overflow := false, late := false, overrun := false, generation := 0, due := none }
      { o with type := ty, autoClear := bit data 2, rearm := bit data 3, owner })
    d.evalSync i

/-- Write SYNC_COUNT. -/
def Dev.syncCount (d : Dev) (i data : Nat) : Dev := (d.updSync i (fun o => { o with count := data % 2 ^ 32 })).evalSync i

/-- Write SYNC_EXPECTED. -/
def Dev.syncExpected (d : Dev) (fn i data : Nat) : Dev :=
  if d.syncBusy i then d.refuseSync fn i 0x0C data cIllegal
  else if data % 65536 = 0 then d.refuseSync fn i 0x0C data cOutOfRange
  else (d.updSync i (fun o => { o with expected := data % 65536 })).evalSync i

/-- Write SYNC_POST: a write of 0 is ignored; POST on an UNUSED object is logged (R83). -/
def Dev.syncPostWrite (d : Dev) (fn i data : Nat) : Dev :=
  if data % 2 ^ 32 = 0 then d
  else if (d.sync i).type = .unused then d.refuseSync fn i 0x10 data cIllegal
  else d.syncPost i (data % 2 ^ 32)

/-- Write SYNC_CLEAR: CLEAR, and OVERFLOW, LATE and OVERRUN clear. -/
def Dev.syncClearWrite (d : Dev) (fn i data : Nat) : Dev :=
  if !bit data 0 then d
  else if (d.sync i).type = .unused then d.refuseSync fn i 0x14 data cIllegal
  else (d.syncClear i).updSync i (fun o => { o with overflow := false, late := false, overrun := false })

/-- Write a dword of an object's slot (Table 3-8); a 64-bit register takes effect with its HI half. -/
def Dev.syncWrite (d : Dev) (fn i off data : Nat) : Dev :=
  let lo := data % 2 ^ 32
  if off = 0x00 then d.syncConfig fn i lo
  else if off = 0x08 then d.syncCount i lo
  else if off = 0x0C then d.syncExpected fn i lo
  else if off = 0x10 then d.syncPostWrite fn i lo
  else if off = 0x14 then d.syncClearWrite fn i lo
  else if off = 0x18 then d.updSync i (fun o => { o with fireLo := lo })
  else if off = 0x1C then (d.updSync i (fun o => { o with fireTime := o.fireLo + 2 ^ 32 * lo })).evalSync i
  else if off = 0x20 then d.updSync i (fun o => { o with periodLo := lo })
  else if off = 0x24 then d.updSync i (fun o => { o with period := o.periodLo + 2 ^ 32 * lo })
  else d

/-- Read a dword of an object's slot (Table 3-9). -/
def Dev.syncRead (d : Dev) (i off : Nat) : Nat :=
  let o := d.sync i
  if off = 0x00 then o.type.code + 4 * b2n o.autoClear + 8 * b2n o.rearm + 256 * o.owner
  else if off = 0x04 then d.waiters i + 2 ^ 16 * b2n o.setFired + 2 ^ 17 * b2n o.overflow + 2 ^ 18 * b2n o.late + 2 ^ 19 * b2n o.overrun
  else if off = 0x08 then o.count
  else if off = 0x0C then o.expected
  else if off = 0x18 then o.fireTime % 2 ^ 32
  else if off = 0x1C then o.fireTime / 2 ^ 32
  else if off = 0x20 then o.period % 2 ^ 32
  else if off = 0x24 then o.period / 2 ^ 32
  else if off = 0x28 then o.lastFire % 2 ^ 32
  else if off = 0x2C then o.lastFire / 2 ^ 32
  else if off = 0x30 then o.generation
  else 0

/-! ### The time base (R66, R71, R87, R88) -/

def AlignState.code : AlignState → Nat
  | .freeRun => 0
  | .acquiring => 1
  | .aligned => 2
  | .holdover => 3

/-- Change ALIGN_STATE; leaving ALIGNED is logged (R88, R491). -/
def Dev.setAlign (d : Dev) (a : AlignState) : Dev :=
  let was := d.time.alignState
  let d := { d with time := { d.time with alignState := a } }
  if was = .aligned && a != .aligned then d.raise 1 0x304 UnitId.timeBase.page a.code d.deviceTime else d

/-- ALIGN_STATE that ENABLE and SOURCE alone decide (Table 3-2). ENABLE 0 also clears ALIGN_OFFSET, ALIGN_RATE and SOURCE_PORT, whose values the table states for a source alone (DESIGN CHOICE, notes/assumptions/72.md). -/
def Dev.alignConfigured (d : Dev) : Dev :=
  let tb := d.time
  if !tb.enable then
    ({ d with time := { tb with smallRun := 0, sourcePort := 0x1F, sourceHops := 0, offset := 0, rate := 0 } }).setAlign .freeRun
  else if tb.source then
    ({ d with time := { tb with smallRun := 0, sourcePort := 0x1F, sourceHops := 0, offset := 0, rate := 0 } }).setAlign .aligned
  else if tb.alignState = .freeRun then
    ({ d with time := { tb with lastMessage := d.now } }).setAlign .acquiring
  else d

/-- Write ALIGN_CONTROL: ignored whole and logged when LOG2_INTERVAL lies outside 6 to 14. -/
def Dev.alignControl (d : Dev) (fn data : Nat) : Dev :=
  let n := bits data 7 4
  if n < 6 || 14 < n then d.refuse fn UnitId.timeBase.page 0x04C 4 data cOutOfRange
  else
    let wasSource := d.time.enable && d.time.source
    let d := { d with time := { d.time with enable := bit data 0, source := bit data 1, allowStep := bit data 2, log2Interval := n } }
    let d := if wasSource && d.time.enable && !d.time.source then ({ d with time := { d.time with lastMessage := d.now } }).setAlign .acquiring else d
    d.alignConfigured

/-- Eight message intervals, in ticks (R71, R88). -/
def TimeBase.eightIntervals (tb : TimeBase) : Nat := 8 * 2 ^ tb.log2Interval * 1000

/-- Whether a port that brings messages over `hops` links goes before the port followed now: fewer hops toward the source, or as many and a number no higher (R87). -/
def TimeBase.prefers (tb : TimeBase) (port hops : Nat) : Bool := port == tb.sourcePort || decide (hops < tb.sourceHops) || (hops == tb.sourceHops && decide (port < tb.sourcePort))

/-- Whether the module takes an alignment message from a port: it follows another module, and no port that goes before this one has brought a message within eight intervals (R87; notes/assumptions/11.md). -/
def Dev.alignTakes (d : Dev) (port hops : Nat) : Bool :=
  let tb := d.time
  tb.running && tb.enable && !tb.source && decide (port < 18) && (d.ports.getD port {}).pstate == .up
    && (tb.sourcePort == 0x1F || tb.prefers port hops || decide (tb.lastMessage + tb.eightIntervals ≤ d.now))

/-- Whether a message makes the module step forward to its source's time (R88). -/
def Dev.alignSteps (d : Dev) (port hops : Nat) (offset : Int) : Bool :=
  d.alignTakes port hops && d.time.allowStep && decide (offset < -1000000) && !d.anyLive

/-- An alignment message: OFFSET, the slew of at most 500 ppm toward the source, the one forward step, and ALIGNED after eight small offsets (R87, R88). The rate is that which would remove the offset in one message interval, limited to 500 ppm (notes/assumptions/11.md). A message that ends HOLDOVER leaves the module ACQUIRING: the spec names no state (DESIGN CHOICE, notes/assumptions/72.md). -/
def Dev.alignMessage (d : Dev) (port hops : Nat) (offset : Int) : Dev :=
  let tb := d.time
  if !d.alignTakes port hops then d
  else
    let off := clampInt (-(2 ^ 31 - 1)) (2 ^ 31 - 1) offset
    let step := d.alignSteps port hops offset
    let small := decide (-20 ≤ off) && decide (off ≤ 20)
    let run := if small then tb.smallRun + 1 else 0
    let ppm := clampInt (-500) 500 (-(off * 1000) / ((2 ^ tb.log2Interval : Nat) : Int))
    let d := { d with time := { tb with
      sourcePort := port, sourceHops := hops, offset := off, rate := if step then 0 else ppm, smallRun := min run 8, lastMessage := if step then d.now + offset.natAbs else d.now
      steps := if step then satAdd 0xFFFF tb.steps 1 else tb.steps } }
    if 8 ≤ run then d.setAlign .aligned
    else if tb.alignState = .aligned then d
    else d.setAlign .acquiring

/-- Eight intervals without a message from the source (R88): HOLDOVER, and the last rate stays. -/
def Dev.alignHoldover (d : Dev) : Dev :=
  let tb := d.time
  if tb.enable && !tb.source && (tb.alignState == .aligned || tb.alignState == .acquiring) && decide (tb.lastMessage + tb.eightIntervals ≤ d.now) then
    ({ d with time := { tb with smallRun := 0 } }).setAlign .holdover
  else d

/-- TIME_STATUS (Table 3-2). -/
def TimeBase.status (tb : TimeBase) : Nat :=
  b2n tb.running + 2 * tb.alignState.code + 8 * b2n (tb.enable && tb.source) + 256 * tb.sourcePort

/-! ### The rows -/

/-- Whether the window shows an object's slot. -/
def Dev.syncOpen (d : Dev) (obj : Nat) : Bool := decide (obj < 16384) && d.hostOpen .sync

/-- SYNC_CONFIG_WRITE (R85). -/
def execSyncConfigWrite (t obj data : Nat) (s : State) : Host.Outcome State Fault Refusal :=
  s.run t (fun d => if d.syncOpen obj then d.syncWrite 0 obj 0x00 data else d)

/-- SYNC_COUNT_WRITE (R85). -/
def execSyncCountWrite (t obj data : Nat) (s : State) : Host.Outcome State Fault Refusal :=
  s.run t (fun d => if d.syncOpen obj then d.syncWrite 0 obj 0x08 data else d)

/-- SYNC_EXPECTED_WRITE (R85). -/
def execSyncExpectedWrite (t obj data : Nat) (s : State) : Host.Outcome State Fault Refusal :=
  s.run t (fun d => if d.syncOpen obj then d.syncWrite 0 obj 0x0C data else d)

/-- SYNC_POST (R83): a host write through the window. -/
def execSyncPost (t obj data : Nat) (s : State) : Host.Outcome State Fault Refusal :=
  s.run t (fun d => if d.syncOpen obj then d.syncWrite 0 obj 0x10 data else d)

/-- SYNC_CLEAR (R83): a host write through the window. -/
def execSyncClear (t obj data : Nat) (s : State) : Host.Outcome State Fault Refusal :=
  s.run t (fun d => if d.syncOpen obj then d.syncWrite 0 obj 0x14 data else d)

/-- BARRIER_FIRING (R84). -/
def execBarrierFiring (t obj : Nat) (s : State) : Host.Outcome State Fault Refusal :=
  s.run t (fun d => d.barrierFire obj)

/-- TIME_DOMAIN_LOCK (R66): device time starts from 0. -/
def execTimeDomainLock (t : Nat) (s : State) : Host.Outcome State Fault Refusal :=
  let locks := !s.dev.time.running && s.dev.modState != .reset
  s.runAt (if locks then 0 else max s.dev.now t)
    (fun _ => let d := s.dueAt t; if locks then { d with time := { d.time with running := true, lockOffset := d.now } } else d)

/-- Whether some Sholo port can carry alignment messages: none is UP while the ports are in low-power idle (R332). -/
def Dev.someSholoUp (d : Dev) : Bool := (upFrom 0 18).any (fun p => (d.ports.getD p {}).pstate == .up)

/-- ALIGN_INTERVAL (R87): the module exchanges alignment messages on its Sholo ports; what they bring is ALIGN_MESSAGE. -/
def execAlignInterval (t : Nat) (s : State) : Host.Outcome State Fault Refusal :=
  s.run t (fun d => if d.time.running && d.time.enable && d.someSholoUp then { d with time := { d.time with lastExchange := d.now } } else d)

/-- ALIGN_MESSAGE (R87, R88): `msg.offset` is local minus source, and a step sets device time to the source's. -/
def execAlignMessage (t port : Nat) (msg : AlignMsg) (s : State) : Host.Outcome State Fault Refusal :=
  let n := max s.dev.now t
  s.runAt (if (s.dueAt t).alignSteps port msg.hops msg.offset then n + msg.offset.natAbs else n) (fun _ => (s.dueAt t).alignMessage port msg.hops msg.offset)

/-- ALIGN_HOLDOVER (R88). -/
def execAlignHoldover (t : Nat) (s : State) : Host.Outcome State Fault Refusal :=
  s.run t (fun d => d.alignHoldover)

end Sys2Proof.Machine
end

