-- ==== Sys2Proof/Machine/Jobs.lean ====
section
/-! DEFINITION. Jobs and memory grants: plans, the address map, regions, steps, release, faults and the ends of a job (R60, R73 to R79, R133, R134, R217, R250 to R268, R403 to R407). -/

namespace Sys2Proof.Machine

/-! ### The address map (R250, R251) -/

/-- Regions that a range touches. -/
def regionsOf (a len : Nat) : List Nat := if len = 0 then [] else upFrom (a / regionBytes) ((a + len - 1) / regionBytes - a / regionBytes + 1)

/-- Whether a range lies in DRAM regions that satisfy a predicate. -/
def Dev.inRegions (d : Dev) (a len : Nat) (p : Region → Bool) : Bool :=
  decide (a + len ≤ regionCount * regionBytes) && (regionsOf a len).all (fun r => (d.region r).mode != 0 && p (d.region r))

/-! ### Plans (R258 to R260) -/

/-- A number in a plan. -/
def planNat (p : List Byte) (off n : Nat) : Nat := leNat ((p.drop off).take n)

def planCores (p : List Byte) : Nat := planNat p 4 2
def planTensors (p : List Byte) : Nat := planNat p 8 2
def planSteps (p : List Byte) : Nat := planNat p 10 2
def planLog2Runs (p : List Byte) : Nat := planNat p 12 4 % 16
def planHotMib (p : List Byte) : Nat := bits (planNat p 12 4) 9 4
def planTensorTable (p : List Byte) : Nat := planNat p 0x10 8
def planStepTable (p : List Byte) : Nat := planNat p 0x18 8
def planBaseTable (p : List Byte) : Nat := planNat p 0x20 8
/-- Byte n of ISSUERS. -/
def planIssuer (p : List Byte) (n : Nat) : Nat := planNat p (0x28 + n) 1
/-- The randomness block (Table 9-5). -/
def planSeed (p : List Byte) : Nat := planNat p 0x40 16
def planSlateUsed (p : List Byte) : Bool := bit (planNat p 0x50 4) 0
def planSlateAddr (p : List Byte) : Nat := planNat p 0x58 8

/-- A tensor descriptor (Table 11-5). -/
structure TensorDesc where
  place : Nat
  readOnly : Bool
  persist : Bool
  target : Nat
  reserved : Nat
  key : Nat
  rowBytes : Nat
  size : Nat
  offset : Nat
  hotList : Nat
  hotCount : Nat

/-- Tensor descriptor `i` of a plan. -/
def planTensor (p : List Byte) (i : Nat) : TensorDesc :=
  let w := planNat p (planTensorTable p + 32 * i) 32
  { place := bits w 2 0, readOnly := bit w 3, persist := bit w 4, target := bits w 9 5, reserved := bits w 15 10 + bits w 63 43
    key := bits w 31 16, rowBytes := bits w 42 32, size := bits w 127 64, offset := bits w 191 128, hotList := bits w 223 192, hotCount := bits w 255 224 }

/-- A step entry (Table 11-6). -/
structure StepDesc where
  home : Nat
  floating : Bool
  reserved : Nat
  tidyMask : Nat
  code : Nat
  entry : Nat
  arg0 : Nat
  arg1 : Nat

/-- Step entry `i` of a plan. -/
def planStep (p : List Byte) (i : Nat) : StepDesc :=
  let w := planNat p (planStepTable p + 32 * i) 32
  { home := bits w 3 0, floating := bit w 4, reserved := bits w 7 5 + bits w 63 32, tidyMask := bits w 15 8, code := bits w 31 16
    entry := bits w 127 64, arg0 := bits w 191 128, arg1 := bits w 255 192 }

/-- A well-formed tensor descriptor (R259). -/
def TensorDesc.ok (x : TensorDesc) (planLen cores : Nat) : Bool :=
  x.reserved == 0 && decide (x.place < 5) && decide (0 < x.size)
  && x.rowBytes % 64 == 0 && decide (x.rowBytes ≤ 1024)
  && (match x.place with
      | 0 => decide (x.target < 16) && bit cores x.target && x.offset % 64 == 0
      | 1 => decide (x.target < 16) && bit cores x.target && x.offset == 0
      | 2 => x.target == 0 && x.offset == 0
      | 3 => decide (x.target < 4) && x.offset == 0
      | _ => x.offset == 0)
  && (if x.hotCount = 0 then x.hotList == 0
      else x.readOnly && x.rowBytes != 0 && x.hotList % 4 == 0 && decide (x.hotList + 4 * x.hotCount ≤ planLen))

/-- A well-formed step entry (R260). -/
def StepDesc.ok (x : StepDesc) (cores tensors : Nat) : Bool :=
  x.reserved == 0 && bit cores x.home && x.tidyMask != 0 && decide (x.code < tensors) && x.entry % 4 == 0

/-- A well-formed plan header, tensor table and step table (R257, R258). -/
def planOk (p : List Byte) : Bool :=
  let len := p.length
  planNat p 0 4 == 1 && planNat p 4 4 == planCores p && planCores p != 0
  && decide (planTensors p ≤ 4096) && decide (1 ≤ planSteps p)
  && decide (planNat p 12 4 < 1024) && decide (planHotMib p ≤ 32)
  && planTensorTable p % 32 == 0 && planStepTable p % 32 == 0 && planBaseTable p % 64 == 0
  && (upFrom 0 16).all (fun n => !bit (planIssuer p n) 3 && !bit (planIssuer p n) 7)
  && planNat p 0x38 8 == 0
  && decide (planTensorTable p + 32 * planTensors p ≤ len) && decide (planStepTable p + 32 * planSteps p ≤ len)
  && (upFrom 0 (planTensors p)).all (fun i => (planTensor p i).ok len (planCores p))
  && (upFrom 0 (planSteps p)).all (fun i => (planStep p i).ok (planCores p) (planTensors p))

/-- The first share offset of the hot-row region (R267). -/
def planHotBase (p : List Byte) : Nat := shareBytes - planHotMib p * 0x100000

/-! ### Grants (R251) -/

/-- Whether a range touches a replica of the job. -/
def Job.inReplica (j : Job) (a len : Nat) : Bool := j.hotRows.any (fun r => decide (r.replica < a + len) && decide (a < r.replica + r.bytes))

/-- Whether a range lies in the memory granted to a job, for a read or a write. -/
def Dev.granted (d : Dev) (j : Job) (a len : Nat) (write : Bool) : Bool :=
  ((maskCores j.cores).any (fun n => inShare n a len && !d.offline (.core n)) && !(write && j.inReplica a len))
  || d.inRegions a len (fun r => r.owner == j.ctx && !(write && r.readOnly))

/-- Where a job's read of an address is served: from its replica for a byte of a replicated row (R268). -/
def Job.redirect (j : Job) (a : Nat) : Nat :=
  match j.hotRows.find? (fun r => decide (r.addr ≤ a) && decide (a < r.addr + r.bytes)) with
  | some r => r.replica + (a - r.addr)
  | none => a

/-- Bytes that a job reads. -/
def Dev.jobRead (d : Dev) (j : Job) (a n : Nat) : List Byte := (upFrom a n).map (fun x => memRead d.devMem (j.redirect x))

/-- Whether a job's read meets a poisoned line. -/
def Dev.jobPoison (d : Dev) (j : Job) (a n : Nat) : Bool := (linesOf a n).any (fun l => d.linePoisoned (j.redirect (64 * l) / 64))

/-- The first poisoned line that a job's read of a range would meet: its device address. -/
def Dev.jobPoisonLine (d : Dev) (j : Job) (a n : Nat) : Option Nat :=
  (((linesOf a n).map (fun l => j.redirect (64 * l) / 64)).find? d.linePoisoned).map (fun l => 64 * l)

/-! ### Slots of the cores (R18 to R22, R24) -/

/-- `n` fields of the geometry page change: MAP_GENERATION increments for each (Table 1-4; notes/assumptions/19.md). -/
def Geometry.changed (g : Geometry) (n : Nat) : Geometry := { g with generation := (g.generation + n) % 65536 }

/-- The logical core that a slot serves. -/
def Dev.coreInSlot (d : Dev) (slot : Nat) : Option Nat := (upFrom 0 d.nCores).find? (fun n => d.geom.slots.getD n 20 == slot)

/-- The spare slot of a cluster, and whether it can still stand in (R19, R22). -/
def spareSlot (c : Nat) : Nat := 5 * c + 4
def Geometry.spareFree (g : Geometry) (c : Nat) : Bool := !bit g.spareIn c && !bit g.retired (spareSlot c)

/-- Set a bit of a mask. -/
def setBit (m n : Nat) : Nat := m ||| 2 ^ n

/-- Fields of the geometry page that the retirement of a slot changes: RETIRED, PENDING where it was pending, OFFLINE of the core it served, SPARE_LOST for a spare. -/
def Dev.retireFields (d : Dev) (slot : Nat) : Nat :=
  1 + b2n (bit d.geom.pendingRetire slot) + b2n (slot % 5 == 4)
    + (match d.coreInSlot slot with
       | some n => b2n (!bit d.geom.offline n)
       | none => 0)

/-- Retire a slot in fuses: the core it served goes offline until a spare takes its identity (R20, R22); the tree changes (R38). SPARE_IN_SERVICE stays set when the spare that stands in is itself retired, until the next bring-up: Table 1-4 leaves it open (DESIGN CHOICE, notes/assumptions/72.md). -/
def Dev.burnSlot (d : Dev) (slot : Nat) : Dev :=
  let g := d.geom
  let off := match d.coreInSlot slot with
    | some n => setBit g.offline n
    | none => g.offline
  ({ d with geom := { g with retired := setBit g.retired slot, pendingRetire := if bit g.pendingRetire slot then g.pendingRetire - 2 ^ slot else g.pendingRetire, offline := off }.changed (d.retireFields slot) } : Dev).treeChanged

/-- Whether the firmware that retires a slot runs: the security core, and the control core of the slot's cluster (Table 15-3). -/
def Dev.mayRetire (d : Dev) (slot : Nat) : Bool := !(d.proc 0).restarting && !(d.proc (3 + slot / 5)).restarting

/-- A retirement that waited for the job that held a core takes effect (R20). -/
def Dev.retirePending (d : Dev) (n : Nat) : Dev :=
  let slot := d.geom.slots.getD n 20
  if bit d.geom.pendingRetire slot && d.mayRetire slot then d.burnSlot slot else d

/-- Whether jobs run: they go on in ORPHANED, and stop at a fatal error (R371, R423). -/
def Dev.jobsRun (d : Dev) : Bool := d.modState == .frost || d.modState == .active || d.modState == .orphaned

/-! ### Ends of a job -/

/-- Clear a large core's accumulator and tidy cores for a job of another context (R133, R407). -/
def Dev.clearCore (d : Dev) (n : Nat) : Dev :=
  let d := d.updCore n (fun c => { c with tiles := [], tileInt := 0, shadow := [], spill := 0 })
  (upFrom 0 8).foldl (fun d m =>
    d.updTidy (8 * n + m) (fun x => { x with x := [], f := [], v := [], fcsr := 0, vl := 0, vtype := 0, csrs := [], xrStream := 0, xrStep := 0, reservation := none })) d

/-- The destination rows of a shadow buffer's write-out: address and length of each (R128, R135). -/
def Shadow.dests (b : Shadow) : List (Nat × Nat) :=
  let addr := bits b.word 191 128
  match b.use with
  | .drain => (upFrom 0 b.rows).map (fun i => (addr + i * bits b.word 287 256, 4 * b.cols))
  | .reduce => [(addr, 1024)]
  | _ => []

/-- Stop a core's engines for a job that has ended early: what has not started is discarded, write-outs in progress leave their destinations undefined, and so does a running group descriptor its state, field and statistics regions (R134, R173). -/
def Dev.stopCore (d : Dev) (n : Nat) : Dev :=
  let c := d.core n
  let d := d.discardSamples n
  let d := c.shadow.foldl (fun d b => b.2.dests.foldl (fun d x => if inShare n x.1 x.2 then d.freeBytes x.1 x.2 else d) d) d
  let d := d.updCore n (fun c => { c with matrixQ := [], suaQ := [], moveQ := [], shadow := [] })
  let running := d.groups.filter (fun g => g.2.members.contains n)
  let d := { d with groups := d.groups.filter (fun g => !g.2.members.contains n) }
  let d := running.foldl (fun d g => g.2.outs.foldl (fun d r => d.freeBytes r.1 r.2) d) d
  (upFrom 0 8).foldl (fun d m =>
    d.updTidy (8 * n + m) (fun x => { x with tstate := if x.tstate = .trapped then .trapped else .idle, wait := none, slate := [] })) d

/-- Release a core that a job holds; its slot's pending retirement takes effect (R20). -/
def Dev.freeCore (d : Dev) (id n : Nat) : Dev :=
  if (d.core n).job = some id then (d.updCore n (fun c => { c with job := none, unbound := true })).retirePending n else d

/-- Release the cores that a job holds. -/
def Dev.freeCores (d : Dev) (id : Nat) (mask : Nat) : Dev := (maskCores mask).foldl (fun d n => d.freeCore id n) d

/-- Unmap regions (R266). -/
def Dev.unmap (d : Dev) (rs : List Nat) : Dev := { d with regions := d.regions.filter (fun e => !rs.contains e.1) }

/-- Carry out the deferred unmappings whose context has no job LAUNCHED to DRAINING (R266). -/
def Dev.flushDeferred (d : Dev) : Dev :=
  let busy (c : Nat) : Bool := d.anyJob (fun j => j.ctx == c && j.jstate.running?)
  let due := d.deferred.filter (fun x => !busy x.ctx)
  due.foldl (fun d x => d.unmap x.regions) ({ d with deferred := d.deferred.filter (fun x => busy x.ctx) } : Dev)

/-- RESULT0 and RESULT1 of the final JOB_QUEUE completion (R79). -/
def Job.finals (j : Job) : Nat × Nat :=
  (j.startS, b2n j.late + 2 * b2n j.held + (if j.late then 2 ^ 32 * min (j.startS - j.tReq) 0xFFFFFFFF else 0))

/-- Write a job's final JOB_QUEUE completion, if one is owed. -/
def Dev.jobFinal (d : Dev) (id code : Nat) : Dev :=
  match d.jobs.get? id with
  | none => d
  | some j =>
    match j.pend with
    | none => d
    | some p => (d.finish p code j.finals.1 j.finals.2).updJob id (fun j => { j with pend := none })

/-- The function that owns a job's context. -/
def Dev.jobFn (d : Dev) (j : Job) : Nat := (d.ctx j.ctx).owner

/-- The class-7 record of R404. -/
def Dev.class7 (d : Dev) (id : Nat) (kind byte code page detail : Nat) : Dev :=
  let fn := match d.jobs.get? id with
    | some j => d.jobFn j
    | none => 0
  d.raiseFor fn 7 code page (kind + 256 * (byte % 256) + 65536 * (id % 65536)) detail

/-- A job faults (R402 to R404): its fault record is logged when KIND is one of Table 17-2, it moves to FAULTED, its units stop, and a class-7 record is queued; a second error of a faulted job adds its records alone (R405). After a fatal error no job changes state (R423). -/
def Dev.faultJob (d : Dev) (id kind byte code page detail : Nat) (syndrome : Nat := 0) : Dev :=
  match d.jobs.get? id with
  | none => d
  | some j =>
    let d := if kind ≤ 0x0B && (j.jstate.running? || j.jstate == .faulted) then d.logFault page kind sevJob j.ctx detail id syndrome else d
    if j.jstate.running? && d.jobsRun then
      let d := d.updJob id (fun j => { j with jstate := .faulted, faultCode := some (if kind = 0x0F then code else cJobFault) })
      let d := (maskCores j.cores).foldl (fun d n => d.stopCore n) d
      (d.class7 id kind byte code page detail).flushDeferred.evalLaunches
    else if j.jstate = .faulted then d.class7 id kind byte code page detail
    else d

/-- The final completion of a faulted job, once its units have stopped (R404). -/
def Dev.jobFaultFinal (d : Dev) (id : Nat) : Dev :=
  match d.jobs.get? id with
  | none => d
  | some j =>
    match j.faultCode with
    | none => d
    | some code =>
      let d := (d.jobFinal id code).updJob id (fun j => { j with faultCode := none })
      (d.freeCores id j.cores).evalLaunches

/-- End a job as JOB_ABORT does (R60); `write` is whether its final completion is written. A waiter that it blocked on its object is then the oldest (R83). -/
def Dev.abortJob (d : Dev) (id : Nat) (write : Bool) : Dev :=
  match d.jobs.get? id with
  | none => d
  | some j =>
    let waited := (d.entryOf id).bind (fun e => if e.waiting then some e.waitSync else none)
    let d := { d with launches := d.launches.filter (fun e => e.job != id) }
    let d := match waited with
      | some i => d.evalSync i
      | none => d
    let d := if j.jstate.running? then (maskCores j.cores).foldl (fun d n => d.stopCore n) d else d
    let d := d.updJob id (fun j => { j with jstate := .aborted, faultCode := none })
    let d :=
      if write then d.jobFinal id cJobAborted
      else match j.pend with
        | some p => (d.dropPend p.ring).updJob id (fun j => { j with pend := none })
        | none => d
    (d.freeCores id j.cores).flushDeferred.evalLaunches

/-- Free a job's handle, plan store space and regions (R266). -/
def Dev.releaseJob (d : Dev) (id : Nat) : Dev :=
  let d := d.jobFaultFinal id
  match d.jobs.get? id with
  | none => d
  | some j =>
    let rs := (j.tensors.filter (fun x => x.mode != 0 && !x.reused)).flatMap (fun x => upFrom x.firstRegion x.regions)
    let rs := rs.filter (fun r => !(d.region r).persist)
    let d := { d with jobs := d.jobs.del id, deferred := d.deferred ++ [({ ctx := j.ctx, regions := rs } : DeferredUnmap)] }
    d.flushDeferred

/-! ### Timing-dependent choices (R294) -/

/-- The causes of Table 12-2. -/
inductive TdcCause where
  | issue | slate | float | net

/-- Count a timing-dependent choice of a job. -/
def Dev.countTdc (d : Dev) (id : Nat) (cause : TdcCause) : Dev :=
  match d.jobs.get? id with
  | none => d
  | some j =>
    let d := d.updJob id (fun j => { j with tdc := satAdd 0xFFFFFFFE j.tdc 1 })
    d.updCtx j.ctx (fun c =>
      let c := { c with tdcTotal := w64 (c.tdcTotal + 1) }
      match cause with
      | .issue => { c with tdcIssue := satAdd 0xFFFFFFFF c.tdcIssue 1 }
      | .slate => { c with tdcSlate := satAdd 0xFFFFFFFF c.tdcSlate 1 }
      | .float => { c with tdcFloat := satAdd 0xFFFFFFFF c.tdcFloat 1 }
      | .net => { c with tdcNet := satAdd 0xFFFFFFFF c.tdcNet 1 })

/-! ### Steps (R260, R263, R264) -/

/-- Whether a step has been started, and whether it has ended. -/
def StepRun.started (r : StepRun) : Bool := r.core.isSome
def StepRun.ended (r : StepRun) : Bool := r.core.isSome && r.tidyLeft == 0

/-- Whether a core is running a step of a job. -/
def Job.coreBusy (j : Job) (n : Nat) : Bool := j.steps.any (fun r => r.core == some n && r.tidyLeft != 0)

/-- The step a free core runs next: in step-table order, its own, and in THROUGHPUT any FLOATING one. -/
def Job.nextStep (j : Job) (throughput : Bool) (n : Nat) : Option Nat :=
  (upFrom 0 j.steps.length).find? (fun i =>
    !(j.steps.getD i {}).started && ((planStep j.plan i).home == n || (throughput && (planStep j.plan i).floating)))

/-- Start a step on a core: each tidy core of TIDY_MASK begins at ENTRY, with ARGS in a0 and a1. -/
def Dev.startStep (d : Dev) (id n i : Nat) : Dev :=
  match d.jobs.get? id with
  | none => d
  | some j =>
    let st := planStep j.plan i
    let base := match j.tensors[st.code]? with
      | some x => x.base
      | none => 0
    let d := d.updJob id (fun j => { j with steps := j.steps.set i ({ core := some n, tidyLeft := st.tidyMask } : StepRun) })
    let d := if st.home = n then d else d.countTdc id .float
    ((upFrom 0 8).filter (fun m => bit st.tidyMask m)).foldl (fun d m =>
      d.updTidy (8 * n + m) (fun x => { x with pc := w64 (base + st.entry), x := (x.x.put 10 st.arg0).put 11 st.arg1, tstate := .running, wait := none })) d

/-- Start the next step on every free core of a job, in core order. -/
def Dev.startSteps (d : Dev) (id : Nat) : Dev :=
  match d.jobs.get? id with
  | none => d
  | some j =>
    (maskCores j.cores).foldl (fun d n =>
      match d.jobs.get? id with
      | none => d
      | some j =>
        if j.coreBusy n then d
        else
          match j.nextStep (d.ctx j.ctx).throughput n with
          | none => d
          | some i => d.startStep id n i) d

/-- A tidy core has ended its part of a step; the job drains when its last step has ended (R60, R260). -/
def Dev.endStep (d : Dev) (id n m : Nat) : Dev :=
  let d := d.updTidy (8 * n + m) (fun x => { x with tstate := .idle, wait := none })
  let d := d.updJob id (fun j => { j with steps := j.steps.map (fun r => if r.core = some n && r.tidyLeft != 0 then { r with tidyLeft := r.tidyLeft &&& (255 - 2 ^ m) } else r) })
  let d := d.startSteps id
  d.updJob id (fun j => if j.jstate = .running && j.steps.all StepRun.ended then { j with jstate := .draining } else j)

/-! ### Release (R75, R76, R79, R217) -/

/-- The SRAM contents of a substitute, as its context's last image holds them, at the start of the first job that uses it (R19; notes/assumptions/74.md). -/
def Dev.fillSubstitute (d : Dev) (ctx n : Nat) : Dev :=
  if bit d.geom.restoreDue n then
    { d with
      devMem := memWriteCells d.devMem ((d.ctx ctx).shareData.filter (fun c => inShare n c.1 1))
      geom := { d.geom with restoreDue := d.geom.restoreDue - 2 ^ n } }
  else d

/-- The start of a job on one core of its placement: clearing under R133, R398 and R407, a substitute's SRAM contents, the bound issuers, LOG2_RUNS and the counts of the job. TC_TRAP_* keep what an earlier exception left, until the next one: the spec does not say when they clear (DESIGN CHOICE, notes/assumptions/72.md). -/
def Dev.launchCore (d : Dev) (id : Nat) (j : Job) (n : Nat) : Dev :=
  let d := if (d.core n).lastCtx = some j.ctx then d else d.clearCore n
  let d := (d.updCore n (fun c => { c with tiles := c.badWords.foldl (fun t k => t.del k) c.tiles, badWords := [] })).fillSubstitute j.ctx n
  let iss := planIssuer j.plan n
  let d := d.updCore n (fun c =>
    { c with
      job := some id, lastCtx := some j.ctx, spill := planLog2Runs j.plan
      issuerM := iss % 8, issuerS := bits iss 6 4, unbound := (d.ctx j.ctx).throughput
      lastIssuerM := none, lastIssuerS := none, firstNetAdd := none, lastNetAdd := none, groupCount := [], netCount := []
      accOf := false, accNv := false, accNanIn := false, accTrunc := false, accIov := false, flagTiles := 0, flagTag := 0, flagTagValid := false
      sua := { tableIndex := c.sua.tableIndex } })
  (upFrom 0 8).foldl (fun d m => d.updTidy (8 * n + m) (fun x => { x with fflags := 0, tstate := .idle, wait := none, slate := [] })) d

/-- A job starts at S on every unit of its placement and moves to LAUNCHED. -/
def Dev.launchJob (d : Dev) (e : Launch) (j : Job) (s : Nat) : Dev :=
  let tReq := d.entryReq e
  let late := tReq != 0 && decide (tReq < s)
  let d := { d with
    launches := d.launches.filter (fun x => x.job != e.job)
    lateLaunches := if late then satAdd 0xFFFFFFFF d.lateLaunches 1 else d.lateLaunches }
  let d := d.updJob e.job (fun j => { j with jstate := .launched, startS := s, tReq, late, held := e.held, jobTag := (d.ctx j.ctx).tenant, steps := (upFrom 0 (planSteps j.plan)).map (fun _ => {}) })
  let d := (maskCores j.cores).foldl (fun d n => d.launchCore e.job j n) d
  let d := j.slateBind.foldl (fun d b => d.updTidy b.2 (fun x => { x with slate := x.slate.put b.1 ((d.ctx j.ctx).slate.getD b.1 {}).pos })) d
  ((d.startSteps e.job).evalLaunches.noteFor (some j.ctx) UnitId.launch.page 0x580 1).noteFor (some j.ctx) UnitId.launch.page 0x581 (b2n late)

/-- Whether the launch scheduler may release (R78, R423). -/
def Dev.releases (d : Dev) : Bool := d.modState == .frost || d.modState == .active

/-- Send the release of an entry at S − L, or at C when that is later (R75). -/
def Dev.sendRelease (d : Dev) (job : Nat) : Dev :=
  match d.entryOf job with
  | none => d
  | some e =>
    match d.entryS e with
    | none => d
    | some s =>
      if d.releases && decide (s ≤ d.now + launchLead) then
        { d with launches := d.launches.map (fun x => if x.job = job then { x with sent := true } else x) }
      else d

/-- Start the job of an entry whose release has been sent, at S (R75). -/
def Dev.jobLaunch (d : Dev) (job : Nat) : Dev :=
  match d.entryOf job, d.jobs.get? job with
  | some e, some j =>
    match d.entryS e with
    | none => d
    | some s => if e.sent && d.jobsRun && decide (s ≤ d.now) then d.launchJob e j s else d
  | _, _ => d

/-- Whether nothing of a job is still in progress on its cores: queues and shadow buffers empty. -/
def Dev.coresDrained (d : Dev) (mask : Nat) : Bool :=
  (maskCores mask).all (fun n =>
    let c := d.core n
    c.matrixQ.isEmpty && c.suaQ.isEmpty && c.moveQ.isEmpty && c.shadow.isEmpty)

/-- A draining job whose outputs are written reaches DONE (R60, R217, R73). -/
def Dev.jobDone (d : Dev) (id : Nat) : Dev :=
  match d.jobs.get? id with
  | none => d
  | some j =>
    if d.jobsRun && j.jstate == .draining && d.coresDrained j.cores then
      let d := j.slateBind.foldl (fun d b =>
        let p := (d.tidy b.2).slate.getD b.1 0
        d.updCtx j.ctx (fun c =>
          let old := c.slate.getD b.1 {}
          if p = old.pos then c else { c with slate := c.slate.put b.1 { old with pos := p } })) d
      let d := (maskCores j.cores).foldl (fun d n =>
        (upFrom 0 8).foldl (fun d m => d.updTidy (8 * n + m) (fun x => { x with slate := [], tstate := .idle })) d) d
      let d := d.updJob id (fun j => { j with jstate := .done })
      let d := (d.freeCores id j.cores).jobFinal id cOk
      let d := match j.doneSync with
        | some o => d.syncPost o 1
        | none => d
      d.flushDeferred.evalLaunches
    else d

/-! ### JOB_QUEUE (R73, R74) -/

/-- CONDITION of Table 3-4. -/
def condOf : Nat → LaunchCond
  | 0 => .immediate
  | 1 => .atTime
  | 2 => .onSync
  | _ => .atTimeAndSync

/-- Step 1 of R74: fields consistent with CONDITION and with the type of WAIT_SYNC. -/
def Dev.queueConsistent (d : Dev) (c : Cmd) : Bool :=
  let cond := c.fld 0x18 1 0
  let reject := c.fld 0x18 2 2 == 1
  let ws := c.fld 0x1C 13 0
  let wc := c.fld 0x1C 31 16
  let o := d.sync ws
  let onSync := cond == 2 || cond == 3
  (if onSync then
     (match o.type with
      | .unused => false
      | .event => wc == 0
      | _ => wc != 0)
   else ws == 0 && wc == 0)
  && (cond == 1 || cond == 3 || c.qw 0x20 == 0)
  && !(reject && (cond == 0 || (cond == 2 && !(o.type == .timedBarrier && o.fireTime != 0))))

/-- t_known of R74. -/
def Dev.queueKnown (d : Dev) (c : Cmd) : Nat :=
  let cond := c.fld 0x18 1 0
  let o := d.sync (c.fld 0x1C 13 0)
  let f := if o.type = .timedBarrier then o.fireTime else 0
  if cond = 1 then c.qw 0x20 else if cond = 2 then f else max (c.qw 0x20) f

/-- The code that stops JOB_QUEUE at step 8, if one does (R74). -/
def Dev.queueCheck (d : Dev) (c : Cmd) : Option Nat :=
  let cond := c.fld 0x18 1 0
  let onSync := cond == 2 || cond == 3
  let timed := cond == 1 || cond == 3
  let wrong (i : Nat) : Bool := (d.sync i).owner != c.ctx
  if !d.queueConsistent c then some cBadFormat
  else if (onSync && wrong (c.fld 0x1C 13 0)) || (c.fld 0x28 14 14 == 1 && wrong (c.fld 0x28 13 0)) then some cIllegal
  else if timed && decide (d.now + 2 ^ 44 < c.qw 0x20) then some cOutOfRange
  else if c.fld 0x18 2 2 == 1 && decide (d.queueKnown c < d.now + launchLead) then some cOutOfRange
  else if 4096 ≤ d.launches.length then some cNoResource
  else none

/-- The launch entry of a JOB_QUEUE that passes. -/
def Dev.queueEntry (d : Dev) (c : Cmd) : Launch :=
  let cond := condOf (c.fld 0x18 1 0)
  let ws := c.fld 0x1C 13 0
  let wc := c.fld 0x1C 31 16
  { job := c.job, cond, waitSync := ws, waitCount := wc, launchTime := c.qw 0x20, checkTime := d.now
    firing := ((d.sync ws).generation + wc) % 2 ^ 32
    waiting := cond == .onSync || cond == .atTimeAndSync
    condTime := none, fireTime := 0, freeAt := none, c := none, sent := false }

/-- Step 8 of JOB_QUEUE: an entry is taken, the job is QUEUED, and the interim record carries S when it is determined (R74, R79). -/
def Dev.jobQueue (c : Cmd) (d : Dev) : Dev :=
  match d.queueCheck c with
  | some code => d.answer c code 0 0
  | none =>
    let e := d.queueEntry c
    let d := { d with launches := d.launches ++ [e] }
    let done := if c.fld 0x28 14 14 = 1 then some (c.fld 0x28 13 0) else none
    let p := d.pendOf c
    let d := d.updJob c.job (fun j => { j with jstate := .queued, pend := some p, ring := some c.ring, doneSync := done, held := false, late := false, startS := 0 })
    let d := if e.waiting then d.evalSync e.waitSync else d.evalLaunches
    let s := match d.entryOf c.job with
      | some e => (d.entryS e).getD 0
      | none => 0
    d.answerPending c s 0

/-- The further condition of a command that names a job in some states (R62, Table 2-11). -/
def Dev.jobCond (d : Dev) (c : Cmd) (p : JobState → Bool) : Option Nat :=
  match d.namedJob c with
  | some j => if p j.jstate then none else some cIllegal
  | none => some cIllegal

/-- JOB_QUEUE's row of Table 2-11 and Table 3-4. -/
def specJobQueue : CmdSpec :=
  { opcode := 0x0022, states := [.frost, .active], mask := opBits 0x18 2 0 ||| opBits 0x1C 13 0 ||| opBits 0x1C 31 16 ||| opBits 0x20 63 0 ||| opBits 0x28 14 0 }

/-- JOB_QUEUE: the job PLACED, and its context not in save or restore. -/
def Dev.jobQueueCond (d : Dev) (c : Cmd) : Option Nat :=
  match d.jobCond c (fun js => js == .placed) with
  | some code => some code
  | none => if (d.ctx c.ctx).cstate == .saving || (d.ctx c.ctx).cstate == .restoring then some cIllegal else none

/-- JOB_ABORT's row of Table 2-11. -/
def specJobAbort : CmdSpec := { opcode := 0x0023, states := [.frost, .active, .snowpack] }

/-- JOB_RELEASE's row of Table 2-11. -/
def specJobRelease : CmdSpec := { opcode := 0x0024, states := [.frost, .active, .snowpack, .faulted], proc := some 2 }

/-! ### The rows -/

/-- JOB_QUEUE (R74). -/
def execJobQueue (t ring : Nat) (s : State) : Host.Outcome State Fault Refusal :=
  s.run t (fun d => d.ringCmd ring (fun _ => specJobQueue) anyForm d.jobQueueCond Dev.jobQueue)

/-- JOB_ABORT (R60). -/
def execJobAbort (t ring : Nat) (s : State) : Host.Outcome State Fault Refusal :=
  s.run t (fun d => d.ringCmd ring (fun _ => specJobAbort) anyForm (fun c => d.jobCond c (fun js => !js.over?))
    (fun c d => (d.abortJob c.job true).answer c cOk 0 0))

/-- JOB_RELEASE (R266). -/
def execJobRelease (t ring : Nat) (s : State) : Host.Outcome State Fault Refusal :=
  s.run t (fun d => d.ringCmd ring (fun _ => specJobRelease) anyForm (fun c => d.jobCond c JobState.over?)
    (fun c d => (d.releaseJob c.job).answer c cOk 0 0))

/-- LAUNCH_RELEASE_SEND (R75). -/
def execLaunchReleaseSend (t job : Nat) (s : State) : Host.Outcome State Fault Refusal :=
  s.run t (fun d => d.sendRelease job)

/-- JOB_LAUNCH (R75). -/
def execJobLaunch (t job : Nat) (s : State) : Host.Outcome State Fault Refusal :=
  s.run t (fun d => d.jobLaunch job)

/-- JOB_DONE (R60). -/
def execJobDone (t job : Nat) (s : State) : Host.Outcome State Fault Refusal :=
  s.run t (fun d => d.jobDone job)

/-- JOB_FAULT_FINAL (R404). -/
def execJobFaultFinal (t job : Nat) (s : State) : Host.Outcome State Fault Refusal :=
  s.run t (fun d => if d.jobsRun then d.jobFaultFinal job else d)

end Sys2Proof.Machine
end

