-- ==== Sys2Proof/Machine/Placement.lean ====
section
/-! DEFINITION. Defining and placing jobs: the plan store, the region allocator, hot rows, the base table and the placement record (R253 to R268). -/

namespace Sys2Proof.Machine

/-! ### The plan store (R255, R257) -/

/-- 64 KiB units of the plan store that a plan takes. -/
def planUnits (p : List Byte) : Nat := (p.length + 65535) / 65536

/-- Free units of the plan store. -/
def Dev.planFree (d : Dev) : Nat := 4096 - d.jobs.foldl (fun n e => n + planUnits e.2.plan) 0

/-! ### Units of 32 MiB (R254, R255) -/

/-- Units that a stack offers: none when it has failed. -/
def Dev.stackUnits (d : Dev) (h : Nat) : Nat :=
  if bit d.boot.stacksFailed h then 0 else if h = 0 then 1496 else 1536

/-- The stacks of a region's group. -/
def groupStacks (mode target : Nat) : List Nat :=
  if mode = 1 then upFrom 0 32 else if mode = 2 then upFrom (8 * target) 8 else if mode = 3 then [target] else []

/-- A region's share of one stack, in units. -/
def shareUnits (mode : Nat) : Nat := if mode = 1 then 1 else if mode = 2 then 4 else 32

/-- Whether stack `h` has `n` units free from unit `b`. -/
def Dev.unitsFreeAt (d : Dev) (h b n : Nat) : Bool :=
  decide (b + n ≤ d.stackUnits h)
  && d.regions.all (fun e =>
      let r := e.2
      !(groupStacks r.mode r.target).contains h || decide (b + n ≤ r.base) || decide (r.base + shareUnits r.mode ≤ b))

/-- Free units of a stack (STACK_FREE). -/
def Dev.stackFree (d : Dev) (h : Nat) : Nat :=
  d.stackUnits h - d.regions.foldl (fun n e => if (groupStacks e.2.mode e.2.target).contains h then n + shareUnits e.2.mode else n) 0

/-- The lowest base at which every stack of a group has a region's units free (R255). -/
def Dev.lowestBase (d : Dev) (mode target : Nat) : Option Nat :=
  let sh := shareUnits mode
  ((upFrom 0 (1536 / sh)).map (· * sh)).find? (fun b => (groupStacks mode target).all (fun h => d.unitsFreeAt h b sh))

/-- Map one region: it reads zero from then on (R255, R266). -/
def Dev.mapRegion (d : Dev) (r mode target : Nat) (owner : Nat) (readOnly persist : Bool) : Option Dev :=
  match d.lowestBase mode target with
  | none => none
  | some b =>
    some (({ d with regions := d.regions.put r { mode, target, base := b, owner, readOnly, persist } } : Dev).zeroDev (r * regionBytes) regionBytes)

/-- Map `n` consecutive regions from `r`. -/
def Dev.mapRun (d : Dev) (mode target owner : Nat) (readOnly persist : Bool) : Nat → Nat → Option Dev
  | _, 0 => some d
  | r, n + 1 =>
    match d.mapRegion r mode target owner readOnly persist with
    | none => none
    | some d => Dev.mapRun d mode target owner readOnly persist (r + 1) n

/-- The lowest run of `n` consecutive unmapped slots (R262). -/
def Dev.slotRun (d : Dev) (n : Nat) : Option Nat :=
  (upFrom 0 (regionCount + 1 - n)).find? (fun r => (upFrom r n).all (fun k => (d.region k).mode == 0))

/-! ### Tensors (R261, R262, R264) -/

/-- The mode and target that a DRAM tensor asks for. -/
def Dev.tensorMode (d : Dev) (x : TensorDesc) : Nat × Nat :=
  match x.place with
  | 1 => if x.size ≤ 32 * 2 ^ 30 then (2, coreCluster d.geo x.target) else (1, 0)
  | 2 => (1, 0)
  | 3 => (2, x.target)
  | _ => (3, x.target)

/-- The modes tried in turn: the one asked for, and in THROUGHPUT the fallback of DRAM_AUTO (R264). -/
def Dev.tensorChoices (d : Dev) (x : TensorDesc) (throughput : Bool) : List (Nat × Nat × Bool) :=
  let (m, t) := d.tensorMode x
  (m, t, false) :: (if throughput && x.place == 1 && m == 2 then
    [(2, (t + 1) % 4, true), (2, (t + 2) % 4, true), (2, (t + 3) % 4, true), (1, 0, true)] else [])

/-- Place one DRAM tensor that is not a reused persistent one. -/
def Dev.placeFresh (d : Dev) (owner : Nat) (x : TensorDesc) : List (Nat × Nat × Bool) → Option (TensorPlace × Dev)
  | [] => none
  | (m, t, fb) :: rest =>
    let n := (x.size + regionBytes - 1) / regionBytes
    let got := match d.slotRun n with
      | none => none
      | some r => (d.mapRun m t owner x.readOnly x.persist r n).map (fun d => (r, d))
    match got with
    | some (r, d) => some ({ base := r * regionBytes, mode := m, target := t, reused := false, fallback := fb, firstRegion := r, regions := n }, d)
    | none => Dev.placeFresh d owner x rest

/-- Place one tensor (R261, R262): its place and the device after it, or a code. -/
def Dev.placeTensor (d : Dev) (ctx : Nat) (hotBase : Nat) (x : TensorDesc) : Except Nat (TensorPlace × Dev) :=
  if x.place = 0 then
    if x.offset + x.size ≤ hotBase then
      .ok ({ base := shareBase x.target + x.offset, mode := 0, target := x.target, reused := false, fallback := false, firstRegion := 0, regions := 0 }, d)
    else .error cOutOfRange
  else
    let c := d.ctx ctx
    match (if x.persist then c.persist.find? (fun a => a.key == x.key) else none) with
    | some a =>
      if a.size == x.size && ((a.mode, a.target) == d.tensorMode x || (a.fallback && (d.tensorChoices x true).any (fun m => (m.1, m.2.1) == (a.mode, a.target)))) then
        .ok ({ base := a.firstRegion * regionBytes, mode := a.mode, target := a.target, reused := true, fallback := a.fallback, firstRegion := a.firstRegion, regions := a.regions }, d)
      else .error cBadFormat
    | none =>
      match d.placeFresh ctx x (d.tensorChoices x c.throughput) with
      | none => .error cNoResource
      | some (p, d) =>
        let d := if x.persist then
            d.updCtx ctx (fun c => { c with persist := c.persist ++ [{ key := x.key, size := x.size, place := x.place, mode := p.mode, target := p.target, fallback := p.fallback, firstRegion := p.firstRegion, regions := p.regions }] })
          else d
        .ok (p, d)

/-- Place every SRAM tensor before any DRAM tensor, each class in table order (steps 3 and 4 of R261). -/
def Dev.placeAll (d : Dev) (ctx hotBase : Nat) (sram : Bool) : List (Nat × TensorDesc) → List (Nat × TensorPlace) → Except Nat (List (Nat × TensorPlace) × Dev)
  | [], acc => .ok (acc, d)
  | (i, x) :: xs, acc =>
    if (x.place == 0) == sram then
      match d.placeTensor ctx hotBase x with
      | .error e => .error e
      | .ok (p, d) => Dev.placeAll d ctx hotBase sram xs (acc ++ [(i, p)])
    else Dev.placeAll d ctx hotBase sram xs acc

/-! ### Hot rows (R267, R268) -/

/-- The row indices of a tensor's hot list. -/
def hotList (p : List Byte) (x : TensorDesc) : List Nat := (upFrom 0 x.hotCount).map (fun k => planNat p (x.hotList + 4 * k) 4)

/-- Whether a list repeats an entry. -/
def repeats : List Nat → Bool
  | [] => false
  | x :: xs => xs.contains x || repeats xs

/-- Every hot row in table order: its address and its bytes. -/
def hotRowsOf (p : List Byte) (places : List TensorPlace) : List (Nat × Nat) :=
  (upFrom 0 (planTensors p)).flatMap (fun i =>
    let x := planTensor p i
    let base := match places[i]? with
      | some q => q.base
      | none => 0
    (hotList p x).map (fun k => (base + k * x.rowBytes, x.rowBytes)))

/-- Assign hot rows to members in turn; `fill` is the bytes used on each member. A row that does not fit is an error in BITWISE, and is left out in THROUGHPUT (R267). -/
def assignHot (throughput : Bool) (members : List Nat) (hotBase : Nat) : Nat → Tab Nat → List (Nat × Nat) → Option (List HotRow)
  | _, _, [] => some []
  | j, fill, (a, n) :: rest =>
    let core := members.getD (j % members.length) 0
    let used := fill.getD core 0
    if hotBase + used + n ≤ shareBytes then
      (assignHot throughput members hotBase (j + 1) (fill.put core (used + n)) rest).map
        (fun rs => { addr := a, bytes := n, replica := shareBase core + hotBase + used } :: rs)
    else if throughput then assignHot throughput members hotBase (j + 1) fill rest
    else none

/-- Copy one hot row into its replica; poison travels with it (R268, R400). -/
def Dev.copyHot (d : Dev) (r : HotRow) : Dev :=
  let bad := (upFrom 0 (r.bytes / 64)).filter (fun k => d.linePoisoned (r.addr / 64 + k))
  (d.trackPass none r.addr r.bytes false).writeDevPoison r.replica (d.readDev r.addr r.bytes) (bad.map (fun k => r.replica / 64 + k))

/-- Replicated rows module-wide (HOT_ROWS). -/
def Dev.hotRowCount (d : Dev) : Nat := d.jobs.foldl (fun n e => n + e.2.hotRows.length) 0

/-! ### The randomness block (R216, R220) -/

/-- The binding table of a plan in device memory. -/
def Dev.bindTable (d : Dev) (p : List Byte) : List Nat :=
  if planSlateUsed p then (d.readDev (planSlateAddr p) 4096).map (·.toNat) else []

/-- A well-formed randomness block, with a binding table that names tidy cores of the placement alone. -/
def Dev.randomnessOk (d : Dev) (p : List Byte) : Bool :=
  planNat p 0x50 4 == b2n (planSlateUsed p) && planNat p 0x54 4 == 0 && planNat p 0x60 16 == 0 && planNat p 0x70 16 == 0
  && (if planSlateUsed p then planSlateAddr p % 64 == 0 else planSlateAddr p == 0)
  && (d.bindTable p).all (fun b => b == 0xFF || (decide (b < 128) && bit (planCores p) (b / 8)))

/-- The bound streams of a binding table. -/
def bindingsOf (bs : List Nat) : Tab Nat := ((upFrom 0 bs.length).zip bs).filter (fun e => e.2 != 0xFF)

/-! ### JOB_DEFINE (R257) -/

/-- Step 8 of JOB_DEFINE. -/
def Dev.jobDefine (c : Cmd) (d : Dev) : Dev :=
  let addr := c.qw 0x18
  let n := c.dw 0x20
  if addr % 64 != 0 || decide (n < 128) || decide (16777216 < n) then d.answer c cBadFormat 0 0
  else
    let p := memReadN d.hostMem addr n
    if !planOk p then d.answer c cBadFormat 0 0
    else if planCores p ≥ 2 ^ d.nCores || 4096 ≤ d.jobs.length then d.answer c cOutOfRange 0 0
    else if d.planFree < planUnits p then d.answer c cNoResource 0 0
    else
      let id := d.nextJob
      let j : Job := { ctx := c.ctx, jstate := .defined, plan := p, cores := planCores p, seed := planSeed p }
      let d := { d with jobs := d.jobs.put id j, nextJob := if id = 0xFFFFFFFF then 1 else id + 1 }
      d.answer c cOk id (d.planFree * 65536)

/-! ### JOB_PLACE (R261) -/

/-- What JOB_PLACE makes of a job, or the code that stops it; a failure undoes everything. -/
def Dev.placeJob (d : Dev) (id : Nat) (j : Job) : Except Nat (Job × Dev) :=
  let p := j.plan
  let xs := (upFrom 0 (planTensors p)).map (fun i => (i, planTensor p i))
  let thr := (d.ctx j.ctx).throughput
  let binds := bindingsOf (d.bindTable p)
  if !planOk p || !d.randomnessOk p || xs.any (fun x => repeats (hotList p x.2)) then .error cBadFormat
  else if (j.cores &&& d.geom.offline) ≠ 0 then .error cUnitOffline
  else
    let hotBase := planHotBase p
    match d.placeAll j.ctx hotBase true xs [] with
    | .error e => .error e
    | .ok (sr, d) =>
      if hotBase < planBaseTable p + 8 * planTensors p then .error cOutOfRange
      else
        match d.placeAll j.ctx hotBase false xs [] with
        | .error e => .error e
        | .ok (dr, d) =>
          let dflt : TensorPlace := { base := 0, mode := 0, target := 0, reused := false, fallback := false, firstRegion := 0, regions := 0 }
          let places := (upFrom 0 (planTensors p)).map (fun i => (Tab.get? (sr ++ dr) i).getD dflt)
          match assignHot thr (maskCores j.cores) hotBase 0 [] (hotRowsOf p places) with
          | none => .error cOutOfRange
          | some hot =>
            let d := hot.foldl (fun d r => d.copyHot r) d
            let table := places.flatMap (fun q => leBytes 8 q.base)
            let d := (maskCores j.cores).foldl (fun d n => d.writeDev (shareBase n + planBaseTable p) table) d
            let j := { j with jstate := .placed, tensors := places, hotRows := hot, slateBind := binds }
            .ok (j, { d with jobs := d.jobs.put id j })

/-- The placement record (Table 11-7). -/
def placementRecord (ps : List TensorPlace) : List Byte :=
  ps.flatMap (fun q =>
    leBytes 8 q.base ++ leBytes 8 (q.mode + 4 * q.target + 128 * b2n q.reused + 256 * b2n q.fallback + 65536 * q.firstRegion))

/-- Step 8 of JOB_PLACE. -/
def Dev.jobPlace (c : Cmd) (d : Dev) : Dev :=
  let rec0 := c.qw 0x18
  match d.jobs.get? c.job with
  | none => d
  | some j =>
    if rec0 % 64 ≠ 0 then d.answer c cBadFormat 0 0
    else
      match d.placeJob c.job j with
      | .error e => d.answer c e 0 0
      | .ok (j, d) =>
        let d := if rec0 = 0 then d else d.writeHost rec0 (placementRecord j.tensors)
        let mapped := j.tensors.foldl (fun n q => if q.mode != 0 && !q.reused then n + q.regions else n) 0
        d.answer c cOk (mapped + 2 ^ 32 * j.hotRows.length) 0

/-- JOB_DEFINE's row of Table 2-11 and Table 11-3. -/
def specJobDefine : CmdSpec :=
  { opcode := 0x0020, states := [.frost, .active, .snowpack], mask := opBits 0x18 63 0 ||| opBits 0x20 31 0, proc := some 2 }

/-- The further condition of a command that names a context owned by its issuer. -/
def Dev.ctxCond (d : Dev) (c : Cmd) : Option Nat := if d.ctxOwned c.fn c.ctx then none else some cIllegal

/-- JOB_PLACE's row of Table 2-11. -/
def specJobPlace : CmdSpec :=
  { opcode := 0x0021, states := [.frost, .active], mask := opBits 0x18 63 0, noTarget := true, proc := some 2 }

/-- JOB_DEFINE (R257). -/
def execJobDefine (t ring : Nat) (s : State) : Host.Outcome State Fault Refusal :=
  s.run t (fun d => d.ringCmd ring (fun _ => specJobDefine) anyForm d.ctxCond Dev.jobDefine)

/-- JOB_PLACE (R261). -/
def execJobPlace (t ring : Nat) (s : State) : Host.Outcome State Fault Refusal :=
  s.run t (fun d => d.ringCmd ring (fun _ => specJobPlace) anyForm (fun c => d.jobCond c (fun js => js == .defined)) Dev.jobPlace)

end Sys2Proof.Machine
end

