-- ==== Sys2Proof/Machine/Mover.lean ====
section
/-! DEFINITION. The data mover: move requests, their checks, COPY, GATHER and NET_ADD, and arithmetic in the network (R136, R269 to R274, R281, R282, R400). -/

namespace Sys2Proof.Machine

/-! ### Fields of a move request (Table 11-8) -/

/-- Bits [hi:lo] of the dword at a byte offset of a 512-bit word. -/
def wfld (w off hi lo : Nat) : Nat := bits w (off * 8 + hi) (off * 8 + lo)

def mvOp (w : Nat) : Nat := wfld w 0 7 0
def mvFence (w : Nat) : Bool := bit w 9
def mvElem (w : Nat) : Nat := wfld w 4 1 0
def mvPool (w : Nat) : Nat := wfld w 4 3 2
def mvRowBytes (w : Nat) : Nat := wfld w 4 26 16
def mvCount (w : Nat) : Nat := wfld w 8 31 0
def mvMask (w : Nat) : Nat := wfld w 0xC 15 0
def descTag (w : Nat) : Nat := wfld w 0xC 31 16
def mvSrc (w : Nat) : Nat := wfld w 0x10 63 0
def mvDst (w : Nat) : Nat := wfld w 0x18 63 0
def mvIndex (w : Nat) : Nat := wfld w 0x20 63 0
def mvBag (w : Nat) : Nat := wfld w 0x28 63 0
def mvWeight (w : Nat) : Nat := wfld w 0x30 63 0
def mvBags (w : Nat) : Nat := wfld w 0x38 23 0
def mvDestCore (w : Nat) : Nat := wfld w 0x3C 3 0
def mvAll (w : Nat) : Bool := bit w (0x3C * 8 + 4)

/-- Bits of Table 11-8 that are not reserved. -/
def mvDefined : Nat :=
  0xFF ||| (1 <<< 9) ||| ((0xF ||| (0x7FF <<< 16)) <<< 32) ||| (ones 64 <<< 64) ||| (ones 320 <<< 128) ||| (ones 24 <<< 448) ||| (0x1F <<< 480)

/-- Bytes of an element in a row (R273). -/
def mvElemSize (w : Nat) : Nat := if mvElem w = 1 ∨ mvElem w = 2 then 2 else 4

/-- Elements of a row. -/
def mvRowElems (w : Nat) : Nat := mvRowBytes w / mvElemSize w

/-- Step 1 of R271. -/
def moveFormatOk (w : Nat) : Bool :=
  let aligned := mvSrc w % 64 == 0 && mvDst w % 64 == 0 && mvIndex w % 64 == 0 && mvBag w % 64 == 0 && mvWeight w % 64 == 0
  (w &&& mvDefined) == w && aligned
  && (match mvOp w with
      | 1 => mvCount w % 64 == 0 && wfld w 4 31 0 == 0 && mvMask w == 0 && mvIndex w == 0 && mvBag w == 0 && mvWeight w == 0 && wfld w 0x38 63 0 == 0
      | 2 =>
        mvPool w != 3 && decide (64 ≤ mvRowBytes w) && decide (mvRowBytes w ≤ 1024) && mvRowBytes w % 64 == 0 && mvMask w == 0 && wfld w 0x3C 31 0 == 0
        && (if mvPool w = 0 then mvBag w == 0 && mvWeight w == 0 && mvBags w == 0
            else decide (1 ≤ mvBags w) && (if mvPool w = 1 then mvWeight w == 0 else mvElem w != 3))
      | 3 => mvCount w % 16 == 0 && (mvElem w == 0 || mvElem w == 3) && mvPool w == 0 && mvRowBytes w == 0 && mvIndex w == 0 && mvBag w == 0 && mvWeight w == 0 && mvBags w == 0
      | _ => false)

/-- Step 3 of R271. The rows that a GATHER reads follow from its list, which is read later (R273): at issue the row at SRC stands for its source range (DEDUCED, notes/assumptions/77.md). -/
def Dev.moveRangeOk (d : Dev) (j : Job) (n w : Nat) : Bool :=
  let off (o len : Nat) : Bool := decide (o + len ≤ shareBytes)
  match mvOp w with
  | 1 => d.granted j (mvSrc w) (mvCount w) false && d.granted j (mvDst w) (mvCount w) true
  | 2 =>
    let len := if mvPool w = 0 then mvCount w * mvRowBytes w else mvBags w * mvRowElems w * 4
    d.granted j (mvSrc w) 64 false && d.granted j (mvDst w) len true
    && off (mvIndex w) (4 * mvCount w)
    && (mvPool w == 0 || off (mvBag w) (4 * mvBags w))
    && (mvPool w != 2 || off (mvWeight w) (4 * mvCount w))
  | _ =>
    let m := mvMask w
    let dests := if mvAll w then maskCores m else [mvDestCore w]
    bit m n && (m &&& j.cores) == m && bit m (mvDestCore w)
    && inShare n (mvSrc w) (4 * mvCount w)
    && off (mvDst w) (4 * mvCount w) && dests.all (fun k => !j.inReplica (shareBase k + mvDst w) (4 * mvCount w))

/-- The code of a move request's checks, if one fails (R271). -/
def Dev.moveCheck (d : Dev) (j : Job) (n m w : Nat) : Option Nat :=
  let bitwise := !(d.ctx j.ctx).throughput
  if !moveFormatOk w then some cBadFormat
  else if bitwise && mvOp w == 3 && (match (d.core n).firstNetAdd with
      | some f => f != m
      | none => false) then some cIllegal
  else if !d.moveRangeOk j n w then some cOutOfRange
  else none

/-! ### Queues -/

/-- The first request of a queue whose results have not landed. -/
def firstUnlanded (q : List Desc) : Option Desc := q.find? (fun x => !x.landed)

/-- Mark the request with a ticket as landed. -/
def landIn (q : List Desc) (ticket : Nat) : List Desc := q.map (fun x => if x.ticket = ticket then { x with landed := true } else x)

/-- The move that a core's mover runs next: the first not landed, alone in the queue's front when it is fenced (R269, R270). -/
def Core.nextMoveReq (c : Core) : Option Desc :=
  match firstUnlanded c.moveQ with
  | none => none
  | some x => if mvFence x.word && !(c.moveQ.head?.map (·.ticket) == some x.ticket) then none else some x

/-- The running job of a core. -/
def Dev.coreJob (d : Dev) (n : Nat) : Option (Nat × Job) :=
  match (d.core n).job with
  | none => none
  | some id =>
    match d.jobs.get? id with
    | some j => if j.jstate.running? && d.jobsRun then some (id, j) else none
    | none => none

/-! ### Sums in the network (R136, R281, R282) -/

/-- The largest power of two less than n, for n at least 2 (R136). -/
def halfPow (n : Nat) : Nat := 2 ^ Nat.log2 (n - 1)

/-- The logical tree sum(a, a + n) of R136; `fuel` bounds its depth. -/
def logicalTree : Nat → Nat → Nat → ArrivalTree
  | 0, a, _ => .leaf a
  | fuel + 1, a, n =>
    if n ≤ 1 then .leaf a
    else .node (logicalTree fuel a (halfPow n)) (logicalTree fuel (a + halfPow n) (n - halfPow n))

/-- The leaves of a tree. -/
def arrivalLeaves : ArrivalTree → List Nat
  | .leaf i => [i]
  | .node l r => arrivalLeaves l ++ arrivalLeaves r

/-- A tree with the child holding the lower first leaf on the left: the two orders of one addition are one association. -/
def arrivalNorm : ArrivalTree → ArrivalTree
  | .leaf i => .leaf i
  | .node l r =>
    let l := arrivalNorm l
    let r := arrivalNorm r
    if (arrivalLeaves r).foldl min (2 ^ 64) < (arrivalLeaves l).foldl min (2 ^ 64) then .node r l else .node l r

/-- A tree combines operands 0 to n − 1, each once. -/
def arrivalOk (t : ArrivalTree) (n : Nat) : Bool :=
  let ls := arrivalLeaves t
  ls.length == n && (upFrom 0 n).all (fun i => ls.contains i)

/-- The sum of operand words along a tree: binary32 under R125, or modulo 2^32. -/
def evalTree (isInt : Bool) (ops : List Nat) : ArrivalTree → Nat
  | .leaf i => ops.getD i 0
  | .node l r =>
    let a := evalTree isInt ops l
    let b := evalTree isInt ops r
    if isInt then (a + b) % 2 ^ 32 else (engineAdd a b).1

/-- Words of a 64-byte flit. -/
def flitWords : Nat := 16

/-- The tree that a flit of a sum of `n` operands follows: the logical tree, or in THROUGHPUT, for binary32, the arrival order the row gives. -/
def arrivalTree (as : Arrivals) (bag flit : Nat) (free : Bool) (n : Nat) : ArrivalTree :=
  let logical := logicalTree 32 0 n
  match as.find? (fun a => a.1 == bag && a.2.1 == flit) with
  | some a => if free && arrivalOk a.2.2 n then a.2.2 else logical
  | none => logical

/-- Whether a realised association differs from sum(0, n). -/
def sumDiffers (t : ArrivalTree) (n : Nat) : Bool := !decide (arrivalNorm t = logicalTree 32 0 n)

/-! ### COPY, GATHER and NET_ADD -/

/-- A request of a queue as a sample names it (Table 18-9): KIND 1 a descriptor or token draw, 2 a move; DATA_ADDR is the first address it accesses. -/
def Desc.item (x : Desc) (id kind dataAddr : Nat) : SampleItem :=
  { precise := true, kind, tidy := x.tidy, job := id, tag := descTag x.word, ticket := x.ticket, itemAddr := x.addr, itemWord := x.word % 2 ^ 32, dataAddr, category := 0 }

/-- Bytes that a GATHER writes. -/
def gatherBytes (w : Nat) : Nat := if mvPool w = 0 then mvCount w * mvRowBytes w else mvBags w * mvRowElems w * 4

/-- Mark a core's move as landed. -/
def Dev.landMove (d : Dev) (n ticket : Nat) : Dev := d.updCore n (fun c => { c with moveQ := landIn c.moveQ ticket })

/-- Destination lines of poisoned source lines. -/
def Dev.poisonMap (d : Dev) (j : Job) (src dst n : Nat) : List Nat :=
  (upFrom 0 (n / 64)).filterMap (fun k => if d.linePoisoned (j.redirect (src + 64 * k) / 64) then some (dst / 64 + k) else none)

/-- The fault of a move one of whose requests is answered UNIT_OFFLINE or UNIT_RESET: KIND 0x0B with the answered code and the request's address (R403, R406). -/
def Dev.moveFault (d : Dev) (id n : Nat) (rs : List (Nat × Nat)) : Option Dev :=
  (rs.findSome? (fun r => (d.pathFault (some n) r.1 r.2).map (fun c => (c, r.1)))).map (fun e => d.faultJob id 0x0B 0 e.1 (UnitId.core n).page e.2)

/-- COPY (R272): bytes of an overlap of the two ranges are undefined. -/
def Dev.moveCopy (d : Dev) (j : Job) (w : Nat) : Dev :=
  let src := mvSrc w
  let dst := mvDst w
  let n := mvCount w
  let bs := d.jobRead j src n
  let d := (((d.trackPass (some j.ctx) (j.redirect src) n false).trackPass (some j.ctx) dst n true).writeDevPoison dst bs (d.poisonMap j src dst n)).disturb none dst n
  let lo := max src dst
  let hi := min (src + n) (dst + n)
  if lo < hi then d.freeBytes lo (hi - lo) else d

/-- Fault a GATHER (R273): KIND 0x0F, the TAG, and the position. -/
def Dev.gatherFault (d : Dev) (id n w k : Nat) : Dev :=
  d.faultJob id 0x0F 0 cBadFormat (UnitId.core n).page (descTag w * 2 ^ 48 + k)

/-- The index list of a GATHER. -/
def Dev.gatherIndices (d : Dev) (n w : Nat) : List Nat :=
  (upFrom 0 (mvCount w)).map (fun k => memNat d.devMem (shareBase n + mvIndex w + 4 * k) 4)

/-- The bag ends of a pooled GATHER. -/
def Dev.gatherEnds (d : Dev) (n w : Nat) : List Nat :=
  (upFrom 0 (mvBags w)).map (fun b => memNat d.devMem (shareBase n + mvBag w + 4 * b) 4)

/-- The first position at which the bag ends decrease, or the last one when they do not end at COUNT. -/
def badEnd (count : Nat) : Nat → Nat → List Nat → Option Nat
  | b, prev, [] => if prev = count then none else some (b - 1)
  | b, prev, e :: es => if e < prev then some b else badEnd count (b + 1) e es

/-- Element `i` of a row at an address, as a word (R273). -/
def Dev.rowElem (d : Dev) (j : Job) (w row i : Nat) : Nat :=
  let sz := mvElemSize w
  let v := leNat (d.jobRead j (row + sz * i) sz)
  match mvElem w with
  | 1 => v * 65536
  | 2 =>
    match (fmtOf 7).decode v with
    | .nan => qnan32
    | .inf s => inf32 s
    | .fin s m e => if m = 0 then (if s then 0x80000000 else 0) else rne32 (FVal.fin s m e).dyadic
  | _ => v

/-- GATHER without pooling: row k at DST + k × ROW_BYTES; poison travels with it (R273, R400). -/
def Dev.gatherRows (d : Dev) (j : Job) (w : Nat) (idx : List Nat) : Dev :=
  let n := mvRowBytes w
  idx.zipIdx.foldl (fun d e =>
    let src := mvSrc w + e.1 * n
    let dst := mvDst w + e.2 * n
    (((d.trackPass (some j.ctx) (j.redirect src) n false).trackPass (some j.ctx) dst n true).writeDevPoison dst (d.jobRead j src n) (d.poisonMap j src dst n)).disturb none dst n) d

/-- The words of one bag's result (R273), each flit by its tree. -/
def Dev.bagResult (d : Dev) (j : Job) (w : Nat) (t : Nat → ArrivalTree) (rows : List (Nat × Nat)) : List Nat :=
  let isInt := mvElem w == 3
  (upFrom 0 (mvRowElems w)).map (fun i =>
    if rows.isEmpty then 0
    else
      let ops := rows.map (fun r =>
        let x := d.rowElem j w (mvSrc w + r.1 * mvRowBytes w) i
        if mvPool w = 2 then f32Mul x r.2 else x)
      evalTree isInt ops (t (i / flitWords)))

/-- The lists that a GATHER reads: the indices, and when pooled the bag ends and the weights (Table 11-8). -/
def gatherLists (n w : Nat) : List (Nat × Nat) :=
  (shareBase n + mvIndex w, 4 * mvCount w)
  :: ((if mvPool w = 0 then [] else [(shareBase n + mvBag w, 4 * mvBags w)]) ++ (if mvPool w = 2 then [(shareBase n + mvWeight w, 4 * mvCount w)] else []))

/-- The bags of a pooled GATHER: the rows of each, as index and weight. -/
def Dev.gatherBags (d : Dev) (n w : Nat) (idx ends : List Nat) : List (List (Nat × Nat)) :=
  let ws := (upFrom 0 idx.length).map (fun k => memNat d.devMem (shareBase n + mvWeight w + 4 * k) 4)
  let rows := idx.zip ws
  ((0 :: ends).zip ends).map (fun e => (rows.drop e.1).take (e.2 - e.1))

/-- The pooled sums of a GATHER (R273, R281, R282): each bag is combined on its own, and one association that differs from sum(0, n) counts the request once. -/
def Dev.gatherPool (d : Dev) (id : Nat) (j : Job) (w : Nat) (bags : List (List (Nat × Nat))) (arrivals : Arrivals) : Dev :=
  let free := (d.ctx j.ctx).throughput && mvElem w != 3
  let row (r : Nat) : Nat := j.redirect (mvSrc w + r * mvRowBytes w)
  let flits := (mvRowElems w + flitWords - 1) / flitWords
  let res := bags.zipIdx.map (fun b =>
    let n := b.1.length
    let t (f : Nat) : ArrivalTree := arrivalTree arrivals b.2 f free n
    (d.bagResult j w t b.1, decide (2 ≤ n) && (upFrom 0 flits).any (fun f => sumDiffers (t f) n)))
  let d' := bags.foldl (fun d b => b.foldl (fun d r => d.trackPass (some j.ctx) (row r.1) (mvRowBytes w) false) d) d
  let d' := bags.zipIdx.foldl (fun d b =>
    if b.1.isEmpty then d else d.countCombines (some j.ctx) (fun i => d.homeCluster (row ((b.1[i]?).getD (0, 0)).1)) (d.homeCluster (mvDst w)) (arrivalTree arrivals b.2 0 free b.1.length)) d'
  let d' := d'.trackPass (some j.ctx) (mvDst w) (mvRowElems w * 4 * bags.length) true
  let d' := d'.storeDev (mvDst w) (res.flatMap (fun r => r.1.flatMap (leBytes 4)))
  if res.any (·.2) then d'.countTdc id .net else d'

/-- GATHER (R273): the lists are read and checked, then the rows are moved or pooled; poison consumed on the way faults the job (R400). The second part says whether its results landed. -/
def Dev.moveGather (d : Dev) (id : Nat) (j : Job) (n w : Nat) (arrivals : Arrivals) : Dev × Bool :=
  let idx := d.gatherIndices n w
  let ends := if mvPool w = 0 then [] else d.gatherEnds n w
  let endBad := if mvPool w = 0 then none else badEnd (mvCount w) 0 0 ends
  let row (r : Nat) : Nat := mvSrc w + r * mvRowBytes w
  let outside := (upFrom 0 idx.length).find? (fun k => !d.granted j (row (idx.getD k 0)) (mvRowBytes w) false)
  match d.firstPoison (gatherLists n w) with
  | some a => (d.faultJob id 0x0A 0 cJobFault (UnitId.core n).page a, false)
  | none =>
    match endBad, outside with
    | some b, _ => (d.gatherFault id n w b, false)
    | none, some k => (d.gatherFault id n w k, false)
    | none, none =>
      match d.moveFault id n (idx.map (fun r => (j.redirect (row r), mvRowBytes w)) ++ [(mvDst w, if mvCount w = 0 then 0 else mvRowBytes w)]) with
      | some d => (d, false)
      | none =>
        if mvPool w = 0 then (d.gatherRows j w idx, true)
        else
          match idx.findSome? (fun r => d.jobPoisonLine j (row r) (mvRowBytes w)) with
          | some a => (d.faultJob id 0x0A 0 cJobFault (UnitId.core n).page a, false)
          | none => (d.gatherPool id j w (d.gatherBags n w idx ends) arrivals, true)

/-- The members of a group request, in rank order, when each has it next and unlanded: the same mask and number (R155, R274). -/
def Dev.netMembers (d : Dev) (x : Desc) : Option (List (Nat × Desc)) :=
  let ms := maskCores (mvMask x.word)
  let got := ms.filterMap (fun k =>
    match (d.core k).nextMoveReq with
    | some y => if mvOp y.word == 3 && mvMask y.word == mvMask x.word && y.ordinal == x.ordinal then some (k, y) else none
    | none => none)
  if got.length = ms.length then some got else none

/-- The sums of a NET_ADD: word i is the sum of the members' words i along its flit's tree. -/
def Dev.netSums (d : Dev) (members : List (Nat × Desc)) (isInt : Bool) (cnt : Nat) (t : Nat → ArrivalTree) : List Nat :=
  (upFrom 0 cnt).map (fun i => evalTree isInt (members.map (fun e => memNat d.devMem (mvSrc e.2.word + 4 * i) 4)) (t (i / flitWords)))

/-- NET_ADD (R274): rank 0's request gives the shape of the operation; each member gives its own SRC. -/
def Dev.moveNetAdd (d : Dev) (id : Nat) (j : Job) (members : List (Nat × Desc)) (arrivals : Arrivals) : Dev :=
  match members with
  | [] => d
  | (lead0, lead) :: _ =>
    let w := lead.word
    let cnt := mvCount w
    let dests := if mvAll w then members.map (·.1) else [mvDestCore w]
    let bad := members.findSome? (fun e => (d.firstPoison [(mvSrc e.2.word, 4 * cnt)]).map (fun a => (e.1, a)))
    let lost := members.findSome? (fun e => d.moveFault id e.1 ((dests.filter (fun k => k != e.1)).map (fun k => (shareBase k + mvDst w, 4 * cnt))))
    match bad, lost with
    | some (k, a), _ => d.faultJob id 0x0A 0 cJobFault (UnitId.core k).page a
    | none, some d => d
    | none, none =>
      let isInt := mvElem w == 3
      let n := members.length
      let t (f : Nat) : ArrivalTree := arrivalTree arrivals 0 f ((d.ctx j.ctx).throughput && !isInt) n
      let bs := (d.netSums members isInt cnt t).flatMap (leBytes 4)
      let d := d.countCombines (some j.ctx) (fun i => coreCluster d.geo (((members[i]?).map (·.1)).getD 0)) (coreCluster d.geo (dests.headD lead0)) (t 0)
      let d := dests.foldl (fun d k => d.storeDev (shareBase k + mvDst w) bs) d
      let d := members.foldl (fun d e => d.landMove e.1 e.2.ticket) d
      let d := (members.filter (fun e => dests.contains e.1)).foldl (fun d e => d.note (UnitId.core e.1).page 0x112 (4 * cnt) (e.2.item id 2 (mvSrc e.2.word))) d
      if decide (2 ≤ n) && (upFrom 0 ((cnt + flitWords - 1) / flitWords)).any (fun f => sumDiffers (t f) n) then d.countTdc id .net else d

/-! ### The rows -/

/-- COPY (R272): the core's mover runs its next request, a COPY. -/
def execCopy (t core : Nat) (s : State) : Host.Outcome State Fault Refusal :=
  s.run t (fun d =>
    match d.coreJob core, (d.core core).nextMoveReq with
    | some (id, j), some x =>
      if mvOp x.word = 1 then
        match d.moveFault id core [(j.redirect (mvSrc x.word), mvCount x.word), (mvDst x.word, mvCount x.word)] with
        | some d => d
        | none => ((d.moveCopy j x.word).landMove core x.ticket).note (UnitId.core core).page 0x112 (mvCount x.word) (x.item id 2 (mvSrc x.word))
      else d
    | _, _ => d)

/-- GATHER (R273): the core's mover runs its next request, a GATHER. -/
def execGather (t core : Nat) (arrivals : Arrivals) (s : State) : Host.Outcome State Fault Refusal :=
  s.run t (fun d =>
    match d.coreJob core, (d.core core).nextMoveReq with
    | some (id, j), some x =>
      if mvOp x.word = 2 then
        match d.moveGather id j core x.word arrivals with
        | (d, true) => (d.landMove core x.ticket).note (UnitId.core core).page 0x112 (gatherBytes x.word) (x.item id 2 (mvIndex x.word))
        | (d, false) => d
      else d
    | _, _ => d)

/-- NET_ADD (R274): the members' next requests match, and the network adds. -/
def execNetAdd (t core : Nat) (arrivals : Arrivals) (s : State) : Host.Outcome State Fault Refusal :=
  s.run t (fun d =>
    match d.coreJob core, (d.core core).nextMoveReq with
    | some (id, j), some x =>
      if mvOp x.word = 3 then
        match d.netMembers x with
        | some ms => d.moveNetAdd id j ms arrivals
        | none => d
      else d
    | _, _ => d)

end Sys2Proof.Machine
end

