-- ==== Sys2Proof/Machine/Tables.lean ====
section
/-! DEFINITION. The read-only tables and the elementary functions: the decision table (R150), log32 (R190), exp32 (R204) and their tables (R191, R192), the Gumbel value (R189), and the FS8 compatibility draw (R203). -/

namespace Sys2Proof.Machine

/-- The scale of the fixed-point evaluations below: 160 fractional bits. -/
def fixOne : Nat := 2 ^ 160

/-- e^(a/b) in fixed point, from `fuel` terms of its series, each truncated. -/
def fixExpAux (a b : Nat) : Nat → Nat → Nat → Nat → Nat
  | 0, _, _, acc => acc
  | fuel + 1, i, term, acc => fixExpAux a b fuel (i + 1) (term * a / (b * (i + 1))) (acc + term)

/-- e^(a/b) in fixed point; 160 terms are enough for a/b < 16. -/
def fixExp (a b : Nat) : Nat := fixExpAux a b 160 0 fixOne 0

/-- atanh(a/b) in fixed point, from `fuel` terms of its series. -/
def fixAtanhAux (a b : Nat) : Nat → Nat → Nat → Nat → Nat
  | 0, _, _, acc => acc
  | fuel + 1, i, pow, acc => fixAtanhAux a b fuel (i + 1) (pow * a * a / (b * b)) (acc + pow / (2 * i + 1))

/-- ln((b+a)/(b-a)) in fixed point. -/
def fixLn (a b : Nat) : Nat := 2 * fixAtanhAux a b 80 0 (fixOne * a / b) 0

/-- Entry n of the decision table (R150): round(2^24 / (1 + e^-x)) at x = (2n - 8191)/512, a half rounded up. -/
def decisionEntry (n : Nat) : Nat :=
  if 8191 ≤ 2 * n then
    let e := fixExp (2 * n - 8191) 512
    (2 ^ 25 * e + (e + fixOne)) / (2 * (e + fixOne))
  else
    let e := fixExp (8191 - 2 * n) 512
    (2 ^ 25 * fixOne + (e + fixOne)) / (2 * (e + fixOne))

/-- The decision table index of a binary32 argument that is not NaN (R150), and whether it was clamped. -/
def decisionIndex (x : Nat) : Nat × Bool :=
  match fmt32.decode x with
  | .nan => (4096, false)
  | .inf neg => (if neg then 0 else 8191, true)
  | .fin neg m e =>
    let d := (FVal.fin neg m e).dyadic
    if !(d.lt ⟨16, 0⟩) then (8191, true)
    else if d.lt ⟨-16, 0⟩ then (0, true)
    else (((d.mul ⟨1, 8⟩).floor + 4096).toNat, false)

/-- INV[j] = rne32(128 / (128 + j)) (R192). -/
def tabInv (j : Nat) : Nat := rne32 ⟨(fixOne * 128 / (128 + j) : Nat), -160⟩

/-- LNT[j] = rne32(ln(1 + j/128)) (R192). -/
def tabLnt (j : Nat) : Nat := rne32 ⟨(fixLn j (256 + j) : Nat), -160⟩

/-- ln 2 in fixed point. -/
def fixLn2 : Nat := fixLn 1 3

/-- EXP2T[j] = rne32(2^(j/64)) (R192). -/
def tabExp2 (j : Nat) : Nat := rne32 ⟨(fixExp (fixLn2 * j) (64 * fixOne) : Nat), -160⟩

/-- LN2_64_LO = rne32(ln 2 / 64 - LN2_64_HI) (Table 8-1). -/
def ln2Over64Lo : Nat := rne32 ((⟨(fixLn2 : Nat), -166⟩ : Dyadic).add (dy32 0x3C314000).neg)

/-- An integer as binary32, to nearest even. -/
def i2f32 (i : Int) : Nat := rne32 ⟨i, 0⟩

/-- log32 of a positive, normal, finite binary32 (R190, constants of Table 8-1). -/
def log32 (x : Nat) : Nat :=
  let e : Int := ((x >>> 23) % 256 : Nat) - 127
  let f := x % 2 ^ 23
  let j := f >>> 16
  let m := 0x3F800000 ||| f
  let c := 0x3F800000 ||| (j <<< 16)
  let d := f32Add m (f32Neg c)
  let r := f32Mul d (tabInv j)
  let a := 0x3E4CCCCD
  let a := f32Add 0xBE800000 (f32Mul r a)
  let a := f32Add 0x3EAAAAAB (f32Mul r a)
  let a := f32Add 0xBF000000 (f32Mul r a)
  let a := f32Mul r (f32Mul r a)
  let p := f32Add r a
  let t := f32Add (tabLnt j) p
  let t := f32Add (f32Mul (i2f32 e) 0x3717F7D1) t
  f32Add (f32Mul (i2f32 e) 0x3F317180) t

/-- The Gumbel value of a 32-bit word (R189). -/
def gumbel (w : Nat) : Nat :=
  let u := rne32 ⟨((2 * (w >>> 9) + 1 : Nat) : Int), -24⟩
  let l1 := f32Neg (log32 u)
  let l1 := if (dy32 l1).lt ⟨1, -24⟩ then 0x33800000 else l1
  f32Neg (log32 l1)

/-- The rank of a score (R194): NaN below every other value, all NaNs equal. -/
def scoreRank (w : Nat) : Int := if f32IsNan w then -2 ^ 33 else f32Key w

/-- round to the nearest integer with ties to even. -/
def Dyadic.roundInt (x : Dyadic) : Int :=
  let q := (roundMag x.m.natAbs x.e 0 false).1
  if x.m < 0 then -(q : Int) else (q : Int)

/-- exp32 of a binary32 x ≤ 0 or -infinity (R204). -/
def exp32 (x : Nat) : Nat :=
  if x = 0xFF800000 ∨ (dy32 x).lt ⟨-104, 0⟩ then 0
  else
    let t := f32Mul x 0x42B8AA3B
    let n := (dy32 t).roundInt
    let j := (n % 64).toNat
    let q := n / 64
    let r := f32Add (f32Add x (f32Neg (f32Mul (i2f32 n) 0x3C314000))) (f32Neg (f32Mul (i2f32 n) ln2Over64Lo))
    let a := 0x3D2AAAAB
    let a := f32Add 0x3E2AAAAB (f32Mul r a)
    let a := f32Add 0x3F000000 (f32Mul r a)
    let a := f32Mul r (f32Mul r a)
    let p := f32Add r a
    let y := f32Add (tabExp2 j) (f32Mul (tabExp2 j) p)
    rne32 ⟨(dy32 y).m, (dy32 y).e + q⟩

/-- Insert a (token, z) pair into a list sorted by decreasing rank, equal rank by increasing token (R203 step 2). -/
def compatInsert (p : Nat × Nat) : List (Nat × Nat) → List (Nat × Nat)
  | [] => [p]
  | q :: qs => if scoreRank q.2 < scoreRank p.2 then p :: q :: qs else q :: compatInsert p qs

/-- Sequential cumulative sums, each rounded once (R203 step 5). -/
def compatSums : Nat → List Nat → List Nat
  | _, [] => []
  | c, e :: es => f32Add c e :: compatSums (f32Add c e) es

/-- The first index whose entry meets a test, or `d`. -/
def firstIdx (p : Nat → Bool) (d : Nat) (xs : List Nat) : Nat :=
  ((xs.zipIdx.find? (fun x => p x.1)).map (fun x => x.2)).getD d

/-- A compatibility draw (R203): the token and DEGENERATE. `logits` are binary32; `k`, `p` and `invTemp` are within the ranges of R203. -/
def compatDraw (logits : List Nat) (invTemp k p w : Nat) : Nat × Bool :=
  let zs := logits.map (fun l => f32Mul l invTemp)
  let sorted := (zs.zipIdx.map (fun z => (z.2, z.1))).foldl (fun acc q => compatInsert q acc) []
  let top := sorted.take k
  let m := (top.headD (0, 0)).2
  if f32IsNan m ∨ m = 0xFF800000 then ((top.headD (0, 0)).1, true)
  else
    let es := top.map (fun s =>
      if m = 0x7F800000 then (if s.2 = 0x7F800000 then 0x3F800000 else 0)
      else if f32IsNan s.2 ∨ s.2 = 0xFF800000 then 0
      else exp32 (f32Add s.2 (f32Neg m)))
    let cs := compatSums 0 es
    let theta := f32Mul p (cs.getLastD 0)
    let n := firstIdx (fun c => !((dy32 c).lt (dy32 theta))) (cs.length - 1) cs + 1
    let u := rne32 ⟨((2 * (w >>> 9) + 1 : Nat) : Int), -24⟩
    let t := f32Mul u (cs.getD (n - 1) 0)
    let r := firstIdx (fun c => (dy32 t).lt (dy32 c)) (n - 1) (cs.take n)
    ((top.getD r (0, 0)).1, false)

end Sys2Proof.Machine
end

