-- ==== Sys2Proof/Machine/Groups.lean ====
section
/-! DEFINITION. Group descriptors of the SUA queue: matching, starting, faulting and completing (R102, R155, R156, R172, R173), and where a problem's slots lie (R144 to R146). -/

namespace Sys2Proof.Machine

/-! ### The word that every descriptor shares (R98) -/

def descOp (w : Nat) : Nat := wfld w 0 7 0
def descFence (w : Nat) : Bool := bit w 9
def descMask (w : Nat) : Nat := wfld w 0xC 15 0
/-- PROBLEM_OFF and STATS_OFF of the SUA and anneal descriptors. -/
def descProblem (w : Nat) : Nat := wfld w 0x10 63 0
def descStats (w : Nat) : Nat := wfld w 0x30 63 0

/-- The kinds of group descriptor: SUA_FIELDS, SUA_SWEEP, ANNEAL_RUN, a token-draw request. -/
inductive GroupKind where
  | fields | sweep | anneal | token
  deriving DecidableEq, Repr

/-- What a request of the SUA queue asks for. -/
def groupKind (token : Bool) (w : Nat) : GroupKind :=
  if token then .token else if descOp w = 0x10 then .fields else if descOp w = 0x11 then .sweep else .anneal

/-! ### Queue order -/

/-- How many tickets ago a descriptor of this core was accepted; tickets run from 1 to 0xFFFF (R110). -/
def Core.age (c : Core) (ticket : Nat) : Nat := (c.nextTicket + 65535 - ticket) % 65535

/-- FENCE: every descriptor accepted earlier from this large core, in either queue, has completed (R98). -/
def Core.fenceOpen (c : Core) (x : Desc) : Bool :=
  !descFence x.word || (c.matrixQ ++ c.suaQ).all (fun y => decide (c.age y.ticket ≤ c.age x.ticket))

/-- The members of the group request at the head of core `n`'s SUA queue, with their own requests, when it stands at the head of every member's queue and may start (R155). -/
def Dev.groupReady (d : Dev) (n : Nat) (kind : GroupKind) : Option (List (Nat × Desc)) :=
  match (d.core n).suaQ with
  | [] => none
  | x :: _ =>
    if x.started || x.landed || groupKind x.token x.word ≠ kind then none
    else
      let ms := maskCores (descMask x.word)
      let got := ms.filterMap (fun k =>
        match (d.core k).suaQ with
        | y :: _ =>
          if descMask y.word = descMask x.word && y.ordinal == x.ordinal && !y.started && !y.landed
            && (d.core k).job == (d.core n).job && (d.core k).fenceOpen y then some (k, y) else none
        | [] => none)
      if got.length = ms.length then some got else none

/-- What members must give alike (R155, R199): the whole word but TAG, and but STATS_OFF or a token draw's shard fields, FENCE and the rest of the word at 0x00 where it is not compared. -/
def groupShared (x : Desc) : Nat :=
  let w := x.word
  if x.token then
    -- SHARD_FIRST, SHARD_COUNT, LOGIT_OFF, LOGIT_STRIDE, OUT_OFF, TAG and FENCE differ freely
    (w &&& (ones 9 ||| (ones 22 <<< 10) ||| (ones 64 <<< 32) ||| (ones 16 <<< 96) ||| (ones 32 <<< 288) ||| (ones 64 <<< 320) ||| (ones 64 <<< 448)))
  else
    (w &&& (ones 8 ||| (ones 64 <<< 32) ||| (ones 16 <<< 96) ||| (ones 256 <<< 128) ||| (ones 64 <<< 448)))

/-- Whether the members' requests match (R155). -/
def groupMatches : List (Nat × Desc) → Bool
  | [] => true
  | e :: es => es.all (fun f => f.2.token == e.2.token && groupShared f.2 == groupShared e.2)

/-- A problem fault (R156): the job ends with the fault's own code; KIND 0x0F, member 0's SUA page, the TAG. -/
def Dev.problemFault (d : Dev) (id : Nat) (members : List (Nat × Desc)) (code low : Nat) : Dev :=
  match members with
  | [] => d
  | (lead, x) :: _ => d.faultJob id 0x0F 0 code (UnitId.sua lead).page (descTag x.word * 2 ^ 48 + low)

/-- Poison consumed by an SUA (R400). -/
def Dev.suaPoison (d : Dev) (id lead a : Nat) : Dev := d.faultJob id 0x0A 0 cJobFault (UnitId.sua lead).page a

/-- Mark the requests of a group as started. -/
def Dev.markStarted (d : Dev) (members : List (Nat × Desc)) : Dev :=
  members.foldl (fun d e => d.updCore e.1 (fun c => { c with suaQ := c.suaQ.map (fun x => if x.ticket = e.2.ticket then { x with started := true } else x) })) d

/-- A group request has finished: it has landed on every member. -/
def Dev.landGroup (d : Dev) (members : List Nat) : Dev :=
  members.foldl (fun d k => d.updCore k (fun c =>
    match c.suaQ with
    | x :: q => { c with suaQ := { x with landed := true } :: q }
    | [] => c)) d

/-- The group that runs on a core, and its member 0. -/
def Dev.groupOn (d : Dev) (n : Nat) : Option (Nat × GroupRun) := d.groups.find? (fun g => g.2.members.contains n)

/-- Update a running group. -/
def Dev.updGroup (d : Dev) (key : Nat) (f : GroupRun → GroupRun) : Dev :=
  match d.groups.get? key with
  | some g => { d with groups := d.groups.put key (f g) }
  | none => d

/-- End a group's run: disturbed results are free values (R172), and the request lands on every member. -/
def Dev.endGroup (d : Dev) (key : Nat) (g : GroupRun) : Dev :=
  let bad := match d.groups.get? key with
    | some x => x.disturbed
    | none => false
  let d := { d with groups := d.groups.del key }
  let d := if bad then g.outs.foldl (fun d r => d.freeBytes r.1 r.2) d else d
  d.landGroup g.members

/-! ### Combining over a group (R281, R285) -/

/-- The members' operands are combined on their way to the group once: an argmax, a minimum or a beat barrier (R281; notes/assumptions/76.md). -/
def Dev.countMembers (d : Dev) (members : List Nat) : Dev :=
  let lead := members.headD 0
  d.countCombines (d.pageCtx (UnitId.core lead).page) (fun i => coreCluster d.geo (members.getD i lead)) (coreCluster d.geo lead) (logicalTree 32 0 members.length)

/-- The request at the head of core n's SUA queue as a sample names it; it reads its problem record first. -/
def Dev.suaItem (d : Dev) (n : Nat) : SampleItem :=
  match (d.core n).suaQ with
  | x :: _ => x.item ((d.core n).job.getD 0) 1 (shareBase ((maskCores (descMask x.word)).headD 0) + descProblem x.word)
  | [] => noItem

/-- Note occurrences on the SUA page of core n, of the request at the head of its queue. -/
def Dev.noteSua (d : Dev) (n ev cnt : Nat) : Dev := d.note (UnitId.sua n).page ev cnt (d.suaItem n)

/-- Note occurrences on the SUA page of every member of a group. -/
def Dev.noteMembers (d : Dev) (members : List Nat) (ev n : Nat) : Dev := members.foldl (fun d k => d.noteSua k ev n) d

/-- Note sampler lane-cycles of core n as retired (k = 0) or wasted (k = 1) (R165, R436). -/
def Dev.noteLanes (d : Dev) (n k cycles : Nat) : Dev := d.noteSlot n 1 k cycles (d.suaItem n)

/-! ### Where slots lie (R144 to R146) -/

/-- Owned blocks of member m among M, of B in all (R144). -/
def ownedBlocks (b m cnt : Nat) : Nat := (b + cnt - 1 - m) / cnt

/-- The member that owns a slot, as its place in the group, and the slot's local index there. -/
def slotMember (cnt i : Nat) : Nat := (i / 64) % cnt
def slotLocal (cnt i : Nat) : Nat := 64 * (i / 64 / cnt) + i % 64

/-- The core that owns a slot. -/
def slotCore (members : List Nat) (i : Nat) : Nat := members.getD (slotMember members.length i) 0

/-- The device address of slot i's entry in a region of `size`-byte entries. -/
def slotAddr (members : List Nat) (off size i : Nat) : Nat := shareBase (slotCore members i) + off + size * slotLocal members.length i

/-- Bytes of a coefficient tile (R145). -/
def tileBytes (wide : Bool) : Nat := if wide then 8192 else 4096

/-- J[i][j] (R145), with `base` the address of a member's coefficient region. -/
def Dev.coupling (d : Dev) (members : List Nat) (wide : Bool) (blocks : Nat) (base : Nat → Nat) (i j : Nat) : Int :=
  let m := slotMember members.length i
  let a := base m + (i / 64 / members.length * blocks + j / 64) * tileBytes wide + 64 * (i % 64) + j % 64
  if wide then signed 16 ((memRead d.devMem a).toNat + 256 * (memRead d.devMem (a + 4096)).toNat)
  else signed 8 (memRead d.devMem a).toNat

/-- The device address of the byte that holds bit i of a state region. -/
def stateByte (members : List Nat) (off i : Nat) : Nat := shareBase (slotCore members i) + off + slotLocal members.length i / 8

/-- Bit i of a state region. -/
def Dev.stateBit (d : Dev) (members : List Nat) (off i : Nat) : Bool :=
  let l := slotLocal members.length i
  (memRead d.devMem (shareBase (slotCore members i) + off + l / 8)).getLsbD (l % 8)

/-- Write bit i of a state region; a partial write of its line. -/
def Dev.setStateBit (d : Dev) (self : Nat) (members : List Nat) (off i : Nat) (v : Bool) : Dev :=
  let l := slotLocal members.length i
  let a := shareBase (slotCore members i) + off + l / 8
  let old := (memRead d.devMem a).toNat
  let new := if v then old ||| 2 ^ (l % 8) else old &&& (255 - 2 ^ (l % 8))
  (d.writeDev a [BitVec.ofNat 8 new]).disturb (some self) a 1

/-- Write a record at the same share offset of every member. -/
def Dev.writeAll (d : Dev) (self : Nat) (members : List Nat) (off : Nat → Nat) (bs : List Byte) : Dev :=
  members.foldl (fun d k => (d.writeDev (shareBase k + off k) bs).disturb (some self) (shareBase k + off k) bs.length) d

/-- STATS_OFF of each member's own request. -/
def Dev.statsOff (d : Dev) (k : Nat) : Nat :=
  match (d.core k).suaQ with
  | x :: _ => descStats x.word
  | [] => 0

end Sys2Proof.Machine
end

