-- ==== Sys2Proof/Machine/Sua.lean ====
section
/-! DEFINITION. The stochastic unit arrays: the problem, fields, decisions, and the chromatic, sequential and synchronous modes (R141 to R174). -/

namespace Sys2Proof.Machine

/-! ### Fields of an SUA descriptor (Table 6-5) -/

def suaMode (w : Nat) : Nat := wfld w 4 2 0
def suaDemote (w : Nat) : Bool := bit w 35
def suaStats (w : Nat) : Bool := bit w 36
def suaDamp (w : Nat) : Bool := bit w 37
def suaWindow (w : Nat) : Nat := if wfld w 4 26 16 = 0 then 256 else wfld w 4 26 16
def suaSweeps (w : Nat) : Nat := wfld w 8 23 0
def suaBase (w : Nat) : Nat := wfld w 0x18 63 0
def suaBeta (w : Nat) : Nat := wfld w 0x20 31 0
def suaRho (w : Nat) : Nat := wfld w 0x24 23 0
def suaClasses (w : Nat) : Nat := wfld w 0x28 8 0

/-! ### The problem (R141 to R147) -/

/-- A problem record (Table 6-2). -/
structure Problem where
  members : List Nat
  word : Nat

def Problem.slots (p : Problem) : Nat := wfld p.word 0 16 0
def Problem.wide (p : Problem) : Bool := bit p.word 20
def Problem.scale (p : Problem) : Nat := wfld p.word 4 31 0
def Problem.coup (p : Problem) : Nat := wfld p.word 8 63 0
def Problem.bias (p : Problem) : Nat := wfld p.word 0x10 63 0
def Problem.state (p : Problem) : Nat := wfld p.word 0x18 63 0
def Problem.field (p : Problem) : Nat := wfld p.word 0x20 63 0
def Problem.kind (p : Problem) : Nat := wfld p.word 0x28 63 0
def Problem.colour (p : Problem) : Nat := wfld p.word 0x30 63 0
def Problem.stream (p : Problem) : Nat := wfld p.word 0x38 63 0
def Problem.blocks (p : Problem) : Nat := p.slots / 64
/-- M. -/
def Problem.count (p : Problem) : Nat := p.members.length

/-- The record's own checks (Table 6-6, second row). -/
def Problem.recordOk (p : Problem) : Bool :=
  let ex := bits p.scale 30 23
  decide (64 ≤ p.slots) && decide (p.slots ≤ 65536) && p.slots % 64 == 0
  && wfld p.word 0 19 17 == 0 && wfld p.word 0 31 21 == 0
  && bits p.scale 31 31 == 0 && ex != 0 && ex != 255
  && p.coup % 4096 == 0 && p.bias % 64 == 0 && p.state % 64 == 0 && p.field % 64 == 0 && p.kind % 64 == 0 && p.colour % 64 == 0

/-- The regions of member m as share offsets and lengths; the written ones last (R146, R147). -/
def Problem.regions (p : Problem) (m : Nat) : List (Nat × Nat) :=
  let b := ownedBlocks p.blocks m p.count
  [(p.coup, b * p.blocks * tileBytes p.wide), (p.bias, 256 * b), (p.kind, 64 * b), (p.colour, 64 * b), (p.state, 8 * b), (p.field, 512 * b)]

/-- The limits of R147. -/
def Problem.fits (p : Problem) : Bool :=
  decide (p.slots ≤ (if p.wide then 46080 else 65536))
  && (upFrom 0 p.count).all (fun m => (p.regions m).all (fun r => decide (r.1 + r.2 ≤ shareBytes)))

/-- Device ranges of some of each member's regions. -/
def Problem.ranges (p : Problem) (pick : List (Nat × Nat) → List (Nat × Nat)) : List (Nat × Nat) :=
  p.members.zipIdx.flatMap (fun e => (pick (p.regions e.2)).map (fun r => (shareBase e.1 + r.1, r.2)))

/-- The coupling lines of slot i's row (R145). -/
def Problem.rowLines (p : Problem) (i : Nat) : List (Nat × Nat) :=
  let a := shareBase (slotCore p.members i) + p.coup + i / 64 / p.count * p.blocks * tileBytes p.wide + 64 * (i % 64)
  (upFrom 0 p.blocks).flatMap (fun b =>
    let t := a + b * tileBytes p.wide
    if p.wide then [(t, 64), (t + 4096, 64)] else [(t, 64)])

/-- The coefficient tiles that hold slot j's column, a byte or two of each row (R145). -/
def Problem.colTiles (p : Problem) (j : Nat) : List (Nat × Nat) :=
  (upFrom 0 p.blocks).map (fun b =>
    (shareBase (slotCore p.members (64 * b)) + p.coup + (b / p.count * p.blocks + j / 64) * tileBytes p.wide, tileBytes p.wide))

/-- Bytes of a row of couplings. -/
def Problem.rowBytes (p : Problem) : Nat := if p.wide then 2 * p.slots else p.slots

/-- What a formation of every field reads: the couplings, the biases and the states. -/
def Problem.formReads (p : Problem) : List (Nat × Nat) := p.ranges (fun rs => rs.take 2 ++ (rs.drop 4).take 1)

/-- The problem that a group's descriptor names, as member 0's share holds its record (R143; notes/assumptions/12.md). -/
def Dev.problem (d : Dev) (members : List Nat) (w : Nat) : Problem :=
  { members, word := memNat d.devMem (shareBase (members.headD 0) + descProblem w) 64 }

/-- A unit: its slots and its kind (R141). -/
structure SuaUnit where
  first : Nat
  size : Nat
  cat : Bool
  frozen : Bool
  colour : Nat
  deriving DecidableEq, Repr

/-- The slots of a unit. -/
def SuaUnit.slots (u : SuaUnit) : List Nat := upFrom u.first u.size

/-- A byte of a per-slot region. -/
def Dev.slotByte (d : Dev) (p : Problem) (off i : Nat) : Nat := (memRead d.devMem (slotAddr p.members off 1 i)).toNat

/-- Take the slots into units, in order; none where a kind byte breaks R141. -/
def unitsFrom : List (Nat × Nat × Nat) → List SuaUnit → Option (List SuaUnit)
  | [], acc => some acc.reverse
  | (i, k, c) :: rest, acc =>
    let fz := bit k 2
    if k / 8 ≠ 0 ∨ k % 4 = 3 then none
    else if k % 4 = 2 then
      match acc with
      | u :: us => if u.cat && u.frozen == fz then unitsFrom rest ({ u with size := u.size + 1 } :: us) else none
      | [] => none
    else unitsFrom rest ({ first := i, size := 1, cat := k % 4 == 1, frozen := fz, colour := c } :: acc)

/-- The units of a problem, in order of their first slots. -/
def Dev.suaUnits (d : Dev) (p : Problem) : Option (List SuaUnit) :=
  match unitsFrom ((upFrom 0 p.slots).map (fun i => (i, d.slotByte p p.kind i, d.slotByte p p.colour i))) [] with
  | some us => if us.all (fun u => !u.cat || (decide (2 ≤ u.size) && decide (u.size ≤ 256))) then some us else none
  | none => none

/-! ### Fields (R148) -/

/-- State bits of every slot. -/
def Dev.suaStates (d : Dev) (p : Problem) : List Bool := (upFrom 0 p.slots).map (d.stateBit p.members p.state)

/-- J[i][j] of a problem. -/
def Dev.suaJ (d : Dev) (p : Problem) (i j : Nat) : Int :=
  d.coupling p.members p.wide p.blocks (fun m => shareBase (p.members.getD m 0) + p.coup) i j

/-- The contribution v of a slot (R142). -/
def slotValue (cat s : Bool) : Int := if cat then (if s then 1 else 0) else (if s then 1 else -1)

/-- The field of slot i of unit `u` (R148): every slot outside the unit contributes. -/
def Dev.suaField (d : Dev) (p : Problem) (us : List SuaUnit) (st : List Bool) (u : SuaUnit) (i : Nat) : Int :=
  us.foldl (fun acc x => if x.first = u.first then acc
    else x.slots.foldl (fun acc j => acc + d.suaJ p i j * slotValue x.cat (st.getD j false)) acc)
    (signed 32 (memNat d.devMem (slotAddr p.members p.bias 4 i) 4))

/-- Count the couplings that members read from SRAM: a row's bytes for each slot (R435). -/
def Dev.countRows (d : Dev) (p : Problem) (slots : List Nat) : Dev :=
  p.members.zipIdx.foldl (fun d e => d.noteSua e.1 0x305 ((slots.filter (fun i => slotMember p.count i == e.2)).length * p.rowBytes)) d

/-- Form every field from rows and write the field region (R146, R158). -/
def Dev.suaFormFields (d : Dev) (key : Nat) (p : Problem) (us : List SuaUnit) : Dev :=
  let st := d.suaStates p
  let fs := us.flatMap (fun u => u.slots.map (fun i => (i, d.suaField p us st u i)))
  let d := d.countRows p (upFrom 0 p.slots)
  fs.foldl (fun d e =>
    let a := slotAddr p.members p.field 8 e.1
    (d.writeDev a (leBytes 8 (unsigned 64 e.2))).disturb (some key) a 8) d

/-! ### Decisions (R149 to R152) -/

/-- What an evaluation needs beside the states. -/
structure SuaRun where
  p : Problem
  us : List SuaUnit
  beta : Nat
  seed : Nat
  /-- The sweep number. -/
  step : Nat

/-- A decision: the slot chosen by a categorical unit, or 1 and 0 for a binary one; whether it is a flip, was clamped, rounded a field. -/
structure Decision where
  pick : Nat
  flip : Bool
  clamped : Bool
  inexact : Bool
  deriving DecidableEq, Repr

/-- The present state of a unit in the form of `Decision.pick`. -/
def SuaUnit.now (u : SuaUnit) (st : List Bool) : Nat :=
  if u.cat then (u.slots.find? (fun i => st.getD i false)).getD u.first else b2n (st.getD u.first false)

/-- NaN taken as +0. -/
def nanZero (w : Nat) : Nat := if f32IsNan w then 0 else w

/-- Decide a binary unit (R149 to R151). -/
def Dev.decideBinary (d : Dev) (r : SuaRun) (st : List Bool) (u : SuaUnit) : Decision :=
  let h := d.suaField r.p r.us st u u.first
  let g := f32Mul (f32Mul 0x40000000 r.beta) r.p.scale
  let a := i2f32 h
  let (n, clamped) := decisionIndex (nanZero (f32Mul a g))
  let w := bits (indigoWord r.seed .sampler r.p.stream r.step u.first) 31 8
  let pick := b2n (decide (w < decisionEntry n))
  { pick, flip := pick != u.now st, clamped, inexact := !(dy32 a).same ⟨h, 0⟩ }

/-- The slot of highest score, the lowest of equal ones (R152). -/
def bestSlot : List (Nat × Nat) → Nat × Nat → Nat × Nat
  | [], b => b
  | e :: es, b => bestSlot es (if scoreRank b.2 < scoreRank e.2 then e else b)

/-- Decide a categorical unit (R152). -/
def Dev.decideCat (d : Dev) (r : SuaRun) (st : List Bool) (u : SuaUnit) : Decision :=
  let gc := f32Mul r.beta r.p.scale
  let scores := u.slots.map (fun k =>
    let a := nanZero (f32Mul (i2f32 (d.suaField r.p r.us st u k)) gc)
    (k, f32Add a (gumbel (indigoWord r.seed .categorical r.p.stream r.step k))))
  let pick := (bestSlot (scores.drop 1) (scores.headD (u.first, 0))).1
  { pick, flip := pick != u.now st, clamped := false, inexact := false }

/-- Decide a unit. -/
def Dev.decideUnit (d : Dev) (r : SuaRun) (st : List Bool) (u : SuaUnit) : Decision :=
  if u.cat then d.decideCat r st u else d.decideBinary r st u

/-- Lane-cycles that a unit's evaluation costs each member (R152). -/
def SuaUnit.costs (u : SuaUnit) (cnt : Nat) : List (Nat × Nat) :=
  if u.cat then
    (upFrom 0 cnt).filterMap (fun m =>
      let k := (u.slots.filter (fun i => slotMember cnt i == m)).length
      if k = 0 then none else some (m, (k + 7) / 8))
  else [(slotMember cnt u.first, 1)]

/-- What forming the fields of some units from rows reads beside the states (R159). -/
def Problem.unitReads (p : Problem) (us : List SuaUnit) : List (Nat × Nat) :=
  us.flatMap (fun u => u.slots.flatMap (fun i => (slotAddr p.members p.bias 4 i, 4) :: p.rowLines i))

/-- The evaluation's cost: the sum over the members. -/
def SuaUnit.cost (u : SuaUnit) (cnt : Nat) : Nat := (u.costs cnt).foldl (fun n e => n + e.2) 0

/-! ### Counting (R165, R170, R171) -/

/-- Saturation bounds of the statistics record's fields. -/
def max32 : Nat := 0xFFFFFFFF
def max64 : Nat := 0xFFFFFFFFFFFFFFFF

/-- Update a core's SUA page. -/
def Dev.updSua (d : Dev) (n : Nat) (f : Sua → Sua) : Dev := d.updCore n (fun c => { c with sua := f c.sua })

/-- Count an evaluation on the group's record and on the pages of the members whose lanes made it; one that is committed is retired (R165). The argmax of a unit over several members is combined on its way (R152). -/
def Dev.countEval (d : Dev) (key : Nat) (p : Problem) (e : SuaUnit × Decision) (kept : Bool) : Dev :=
  let (u, x) := e
  let cs := (u.costs p.count).map (fun c => (p.members.getD c.1 0, c.2))
  let d := cs.foldl (fun d c =>
    let d := (d.updSua c.1 (fun s => { s with evals := w64 (s.evals + c.2) })).noteSua c.1 0x300 c.2
    if kept then d.noteLanes c.1 0 c.2 else d) d
  let d := if 2 ≤ cs.length then d.countMembers (cs.map (·.1)) else d
  let d := d.updSua (slotCore p.members u.first) (fun s => { s with clamped := s.clamped || x.clamped, inexact := s.inexact || x.inexact })
  d.updGroup key (fun g => { g with evals := satAdd max64 g.evals (u.cost p.count), clamped := satAdd max32 g.clamped (b2n x.clamped) })

/-- Count a discarded evaluation, which is wasted (R163, R165). -/
def Dev.countDiscard (d : Dev) (key : Nat) (p : Problem) (u : SuaUnit) : Dev :=
  let d := (u.costs p.count).foldl (fun d c =>
    let n := p.members.getD c.1 0
    ((d.updSua n (fun s => { s with discards := w64 (s.discards + c.2) })).noteSua n 0x301 c.2).noteLanes n 1 c.2) d
  d.updGroup key (fun g => { g with discards := satAdd max64 g.discards (u.cost p.count) })

/-- Commit a decision that flips a unit. -/
def Dev.commitFlip (d : Dev) (key : Nat) (p : Problem) (u : SuaUnit) (pick old : Nat) : Dev :=
  let set (d : Dev) (i : Nat) (v : Bool) : Dev := d.setStateBit key p.members p.state i v
  let d := if u.cat then set (set d old false) pick true else set d u.first (pick == 1)
  (d.noteSua (slotCore p.members u.first) 0x302 1).updGroup key (fun g => { g with flips := satAdd max64 g.flips 1 })

/-! ### Coupled units and conflicts (R160, R168) -/

/-- Whether two units are coupled, either way. -/
def Dev.unitsCoupled (d : Dev) (p : Problem) (a b : SuaUnit) : Bool :=
  a.slots.any (fun i => b.slots.any (fun j => d.suaJ p i j != 0 || d.suaJ p j i != 0))

/-- The first offending pair among units given in increasing order (R160). -/
def Dev.firstConflict (d : Dev) (p : Problem) : List SuaUnit → Option (Nat × Nat)
  | [] => none
  | u :: us =>
    match us.find? (fun x => d.unitsCoupled p u x) with
    | some x => some (u.first, x.first)
    | none => d.firstConflict p us

/-- Record a conflict on the group and on every member's page (R160, R171). -/
def Dev.noteConflict (d : Dev) (key : Nat) (p : Problem) (demoted : Bool) (i j : Nat) : Dev :=
  let d := p.members.foldl (fun d k => d.updSua k (fun s =>
    let fresh := s.conflictI == max32
    { s with
      conflict := true, demoted := s.demoted || demoted
      conflictI := if fresh then i else s.conflictI, conflictJ := if fresh then j else s.conflictJ })) d
  d.updGroup key (fun g => if g.conflictI = max32 then { g with conflictI := i, conflictJ := j } else g)

/-- Pairs of an increasing list of flipped units that are coupled, by the lower unit (R168). -/
def Dev.stalePairs (d : Dev) (p : Problem) : List SuaUnit → List (SuaUnit × Nat)
  | [] => []
  | u :: us => (u, (us.filter (fun x => d.unitsCoupled p u x)).length) :: d.stalePairs p us

/-! ### Beats -/

/-- Decide all of some units from the present states, and commit those that flip and are let (R159, R166). -/
def Dev.decideAll (d : Dev) (key : Nat) (r : SuaRun) (us : List SuaUnit) (allow : SuaUnit → Bool) : Dev × List SuaUnit :=
  let st := d.suaStates r.p
  let ds := us.map (fun u => (u, d.decideUnit r st u))
  let d := ds.foldl (fun d e => d.countEval key r.p e true) d
  let fl := ds.filter (fun e => e.2.flip && allow e.1)
  (fl.foldl (fun d e => d.commitFlip key r.p e.1 e.2.pick (e.1.now st)) d, fl.map (·.1))

/-- What the beats of a descriptor's members combine: the barrier at its end, or the first flip of a window (R163, R169). -/
def Dev.beatEnds (d : Dev) (members : List Nat) (ev : Nat) : Dev :=
  let d := d.noteMembers members ev 1
  if 2 ≤ members.length then d.countMembers members else d

/-- The columns that a flip updates every field from: the slots whose contribution changes (R163). -/
def SuaUnit.columns (u : SuaUnit) (pick old : Nat) : List Nat := if u.cat then [old, pick] else [u.first]

/-- One window of R163 over a list of units, from position `next`: the device, the next position, and the poisoned line that the flip's column update read, if any. -/
def Dev.windowStep (d : Dev) (key : Nat) (r : SuaRun) (us : List SuaUnit) (w next : Nat) : Dev × Nat × Option Nat :=
  let st := d.suaStates r.p
  let win := ((us.drop next).take w).zipIdx
  let ds := (win.filter (fun e => !e.1.frozen)).map (fun e => (e.2, e.1, d.decideUnit r st e.1))
  let d := d.beatEnds r.p.members 0x303
  match ds.find? (fun e => e.2.2.flip) with
  | none => (ds.foldl (fun d e => d.countEval key r.p e.2 true) d, next + win.length, none)
  | some (f, u, x) =>
    let d := ds.foldl (fun d e => d.countEval key r.p e.2 (decide (e.1 ≤ f))) d
    let d := d.commitFlip key r.p u x.pick (u.now st)
    let d := (ds.filter (fun e => decide (f < e.1))).foldl (fun d e => d.countDiscard key r.p e.2.1) d
    let cols := u.columns x.pick (u.now st)
    let d := r.p.members.zipIdx.foldl (fun d e => d.noteSua e.1 0x305 (cols.length * 64 * ownedBlocks r.p.blocks e.2 r.p.count * (if r.p.wide then 2 else 1))) d
    (d, next + f + 1, d.firstPoison (cols.flatMap r.p.colTiles))

/-- Every window of a list of units, up to the first poisoned column; `fuel` bounds their number. -/
def Dev.windows : Nat → Nat → SuaRun → List SuaUnit → Nat → Nat → Dev → Dev × Option Nat
  | 0, _, _, _, _, _, d => (d, none)
  | fuel + 1, key, r, us, w, next, d =>
    if us.length ≤ next then (d, none)
    else
      match d.windowStep key r us w next with
      | (d, n, none) => windows fuel key r us w n d
      | (d, _, some a) => (d, some a)

/-- How a beat ends: the sweep goes on; a conflict under STRICT faults the descriptor, with its pair; a poisoned line was consumed. -/
inductive BeatEnd where
  | on
  | conflict (i j : Nat)
  | poison (a : Nat)
  deriving DecidableEq, Repr

/-- A chromatic beat of class c (R159 to R162). -/
def Dev.chromaticBeat (d : Dev) (key : Nat) (r : SuaRun) (w c : Nat) : Dev × BeatEnd :=
  let us := r.us.filter (fun u => !u.frozen && u.colour == c)
  let d := (d.beatEnds r.p.members 0x304).countRows r.p (us.flatMap SuaUnit.slots)
  match d.firstConflict r.p us with
  | none => ((d.decideAll key r us (fun _ => true)).1, .on)
  | some (i, j) =>
    if suaDemote w then
      let st := d.suaStates r.p
      let d := us.foldl (fun d u => (d.countEval key r.p (u, d.decideUnit r st u) false).countDiscard key r.p u) d
      let d := d.noteConflict key r.p true i j
      let d := d.updSua (r.p.members.headD 0) (fun s => { s with demotions := satAdd max32 s.demotions 1 })
      let d := d.updGroup key (fun g => { g with demotions := satAdd max32 g.demotions 1 })
      match d.windows us.length key r us (suaWindow w) 0 with
      | (d, none) => (d, .on)
      | (d, some a) => (d, .poison a)
    else (d.noteConflict key r.p false i j, .conflict i j)

/-- The synchronous beat (R166 to R168). -/
def Dev.synchronousBeat (d : Dev) (key : Nat) (r : SuaRun) (w : Nat) : Dev :=
  let allow (u : SuaUnit) : Bool :=
    !suaDamp w || decide (bits (indigoWord r.seed .damping r.p.stream r.step u.first) 31 8 < suaRho w)
  let us := r.us.filter (fun u => !u.frozen)
  let d := (d.beatEnds r.p.members 0x304).countRows r.p (us.flatMap SuaUnit.slots)
  let (d, fl) := d.decideAll key r us allow
  let d := d.countRows r.p (fl.flatMap SuaUnit.slots)
  let ps := (d.stalePairs r.p fl).filter (fun e => e.2 != 0)
  if ps.isEmpty then d
  else
    let d := r.p.members.foldl (fun d k => d.updSua k (fun s => { s with stale := true })) d
    ps.foldl (fun d e =>
      (d.updSua (slotCore r.p.members e.1.first) (fun s => { s with staleCount := w64 (s.staleCount + e.2) })).updGroup key
        (fun g => { g with stale := satAdd max64 g.stale e.2 })) d

/-! ### Starting and finishing (R155 to R158, R170) -/

/-- The statistics record (Table 6-9). -/
def GroupRun.suaRecord (g : GroupRun) : List Byte :=
  leBytes 4 g.sweep ++ leBytes 4 (descTag g.word) ++ leBytes 8 g.flips ++ leBytes 8 g.evals ++ leBytes 8 g.discards ++ leBytes 8 g.stale
  ++ leBytes 4 g.demotions ++ leBytes 4 g.clamped ++ leBytes 4 g.conflictI ++ leBytes 4 g.conflictJ ++ leBytes 8 0

/-- A group descriptor of the sampling modes completes: fields of the final states, the record, and the end (R158, R170). -/
def Dev.suaFinish (d : Dev) (key : Nat) (p : Problem) (us : List SuaUnit) : Dev :=
  let d := d.suaFormFields key p us
  match d.groups.get? key with
  | none => d
  | some g =>
    let d := if suaStats g.word then d.writeAll key g.members d.statsOff g.suaRecord else d
    d.endGroup key g

/-- The regions that the group descriptor must find undisturbed, and those it writes (R172, R173). -/
def Dev.suaGuards (d : Dev) (p : Problem) (w : Nat) : List (Nat × Nat) × List (Nat × Nat) :=
  let stats := if suaStats w then p.members.map (fun k => (shareBase k + d.statsOff k, 64)) else []
  let recs := p.members.map (fun k => (shareBase k + descProblem w, 64))
  (recs ++ p.ranges id ++ stats, p.ranges (fun rs => rs.drop 4) ++ stats)

/-- What the units of some slots read of a region of `size`-byte entries. -/
def Problem.unitBytes (p : Problem) (off size : Nat) (us : List SuaUnit) : List (Nat × Nat) :=
  us.flatMap (fun u => u.slots.map (fun i => (slotAddr p.members off size i, size)))

/-- Whether a categorical unit's states break the one-hot rule (Table 6-6). -/
def SuaUnit.badState (u : SuaUnit) (st : List Bool) : Bool := u.cat && !u.frozen && (u.slots.filter (fun i => st.getD i false)).length != 1

/-- Why a group descriptor's problem faults at its start: it reads a poisoned line, or is malformed. -/
inductive StartFault where
  | poison (a : Nat)
  | format
  deriving DecidableEq, Repr

/-- The further rows of Table 6-6, each reading only what it needs, in the order of the rows: kinds, states of categorical units, and colours under CHROMATIC. -/
def Dev.suaUnitsOk (d : Dev) (p : Problem) (w : Nat) : Except StartFault (List SuaUnit) :=
  match d.firstPoison (p.ranges (fun rs => (rs.drop 2).take 1)), d.suaUnits p with
  | some a, _ => .error (.poison a)
  | none, none => .error .format
  | none, some us =>
    let st := d.suaStates p
    let live := us.filter (fun u => !u.frozen)
    let cats := live.filter (fun u => u.cat)
    match d.firstPoison ((cats.flatMap SuaUnit.slots).map (fun i => (stateByte p.members p.state i, 1))) with
    | some a => .error (.poison a)
    | none =>
      if cats.any (fun u => u.badState st) then .error .format
      else if descOp w = 0x11 ∧ suaMode w = 0 then
        match d.firstPoison (live.map (fun u => (slotAddr p.members p.colour 1 u.first, 1))) with
        | some a => .error (.poison a)
        | none => if live.all (fun u => decide (u.colour < suaClasses w)) then .ok us else .error .format
      else .ok us

/-- Start a group descriptor of the sampling modes on core `n`'s group: matched and checked (R155, R156). The group then runs, with its problem and units; none where it did not start. -/
def Dev.suaStart (d : Dev) (id n : Nat) (kind : GroupKind) : Dev × Option (Nat × Problem × List SuaUnit) :=
  match d.groupReady n kind with
  | none => (d, none)
  | some ms =>
    let members := ms.map (·.1)
    let key := members.headD 0
    match ms with
    | [] => (d, none)
    | (_, lead) :: _ =>
      let w := lead.word
      let rec0 := d.firstPoison [(shareBase key + descProblem w, 64)]
      let p := d.problem members w
      if !groupMatches ms then (d.problemFault id ms cBadFormat 0, none)
      else
        match rec0 with
        | some a => (d.suaPoison id key a, none)
        | none =>
          if !p.recordOk then (d.problemFault id ms cBadFormat 0, none)
          else if !p.fits then (d.problemFault id ms cOutOfRange 0, none)
          else
            match d.suaUnitsOk p w with
            | .error (.poison a) => (d.suaPoison id key a, none)
            | .error .format => (d.problemFault id ms cBadFormat 0, none)
            | .ok us =>
              let (guarded, outs) := d.suaGuards p w
              let d := { d with groups := d.groups.put key { members, word := w, token := false, guarded, outs } }
              (d.markStarted ms, some (key, p, us))

/-- What the beats of a running group work from; the problem is read afresh at each beat. -/
def Dev.suaRunOf (d : Dev) (j : Job) (g : GroupRun) : Option SuaRun :=
  let p := d.problem g.members g.word
  match d.suaUnits p with
  | none => none
  | some us => some { p, us, beta := suaBeta g.word, seed := j.seed, step := w64 (suaBase g.word + g.sweep) }

/-- What the next beat of a sweep descriptor reads, for poison: kinds and states, and the rows of the units it decides (R159), or the fields that a window works from (R163). The rows of frozen units are read in no beat. -/
def SuaRun.beatReads (r : SuaRun) (w beat : Nat) : List (Nat × Nat) :=
  let p := r.p
  let live := r.us.filter (fun u => !u.frozen)
  let common := p.ranges (fun rs => (rs.drop 2).take 1 ++ (rs.drop 4).take 1)
  match suaMode w with
  | 0 => common ++ p.unitBytes p.colour 1 live ++ p.unitReads (live.filter (fun u => u.colour == beat))
  | 1 => common ++ p.unitBytes p.field 8 (((r.us.drop beat).take (suaWindow w)).filter (fun u => !u.frozen))
  | _ => common ++ p.unitReads live

/-- A group descriptor ends in a colour conflict: its field and statistics regions are undefined, while the states of its earlier beats stay (R161, R173). -/
def Dev.suaConflict (d : Dev) (id key : Nat) (r : SuaRun) (w i j : Nat) : Dev :=
  let stats := if suaStats w then r.p.members.map (fun k => (shareBase k + d.statsOff k, 64)) else []
  let d := { d with groups := d.groups.del key }
  let d := (r.p.ranges (fun rs => rs.drop 5) ++ stats).foldl (fun d x => d.freeBytes x.1 x.2) d
  d.faultJob id 0x0F 0 cColourConflict (UnitId.sua key).page (descTag w * 2 ^ 48 + i * 2 ^ 24 + j)

/-- The last sweep has ended: the fields of the final states are formed from rows, but in SEQUENTIAL mode, which has kept them (R158). -/
def Dev.sweepsEnd (d : Dev) (id key : Nat) (r : SuaRun) (w : Nat) : Dev :=
  match if suaMode w = 1 then none else d.firstPoison r.p.formReads with
  | some a => d.suaPoison id key a
  | none => d.suaFinish key r.p r.us

/-- A beat of a sweep descriptor has been made: the sweep's next beat, the next sweep, or the end. -/
def Dev.beatDone (d : Dev) (id key : Nat) (r : SuaRun) (g : GroupRun) (done : Bool) (beat : Nat) : Dev :=
  let d := d.updGroup key (fun g => if done then { g with sweep := g.sweep + 1, beat := 0 } else { g with beat := beat })
  if done && decide (suaSweeps g.word ≤ g.sweep + 1) then d.sweepsEnd id key r g.word else d

/-- The next beat of a running sweep descriptor, and its completion after the last one. -/
def Dev.suaBeat (d : Dev) (id : Nat) (j : Job) (key : Nat) : Dev :=
  match d.groups.get? key with
  | none => d
  | some g =>
    match d.suaRunOf j g with
    | none => d.endGroup key g
    | some r =>
      let w := g.word
      match d.firstPoison (r.beatReads w g.beat) with
      | some a => d.suaPoison id key a
      | none =>
        match suaMode w with
        | 0 =>
          match d.chromaticBeat key r w g.beat with
          | (d, .on) => d.beatDone id key r g (decide (suaClasses w ≤ g.beat + 1)) (g.beat + 1)
          | (d, .conflict i k) => d.suaConflict id key r w i k
          | (d, .poison a) => d.suaPoison id key a
        | 1 =>
          match d.windowStep key r r.us (suaWindow w) g.beat with
          | (d, n, none) => d.beatDone id key r g (decide (r.us.length ≤ n)) n
          | (d, _, some a) => d.suaPoison id key a
        | _ => (d.synchronousBeat key r w).beatDone id key r g true 0

/-- Every remaining beat of a group; `fuel` bounds them. -/
def Dev.suaBeats : Nat → Nat → Job → Nat → Dev → Dev
  | 0, _, _, _, d => d
  | fuel + 1, id, j, key, d =>
    match d.groups.get? key with
    | none => d
    | some _ => suaBeats fuel id j key (d.suaBeat id j key)

/-- A bound on the beats of a descriptor: each sweep has at most as many as classes or units. -/
def beatBound (w slots : Nat) : Nat := suaSweeps w * (slots + 257)

/-- Form every field at the start of a descriptor; false where a poisoned line was read, which faults the job (R158, R400). -/
def Dev.suaForm (d : Dev) (id key : Nat) (p : Problem) (us : List SuaUnit) : Dev × Bool :=
  match d.firstPoison p.formReads with
  | some a => (d.suaPoison id key a, false)
  | none => (d.suaFormFields key p us, true)

/-- Start an SUA_SWEEP on core `n`'s group, SEQUENTIAL mode with its fields formed from rows; with `whole` every beat follows (R157, R158). -/
def Dev.suaSweep (d : Dev) (id : Nat) (j : Job) (n : Nat) (whole : Bool) : Dev :=
  match d.suaStart id n .sweep with
  | (d, none) => d
  | (d, some (key, p, us)) =>
    match d.groups.get? key with
    | none => d
    | some g =>
      match if suaMode g.word = 1 then d.suaForm id key p us else (d, true) with
      | (d, false) => d
      | (d, true) => if whole then d.suaBeats (beatBound g.word p.slots) id j key else d

/-- A beat row: the group that runs on core `n`, if it is an SUA_SWEEP of the row's mode. -/
def Dev.beatRow (d : Dev) (n mode : Nat) : Dev :=
  match d.coreJob n, d.groupOn n with
  | some (id, j), some (key, g) => if groupKind g.token g.word = .sweep ∧ suaMode g.word = mode then d.suaBeat id j key else d
  | _, _ => d

/-! ### The rows -/

/-- SUA_FIELDS (R153, R158). -/
def execSuaFields (t core : Nat) (s : State) : Host.Outcome State Fault Refusal :=
  s.run t (fun d =>
    match d.coreJob core with
    | some (id, _) =>
      match d.suaStart id core .fields with
      | (d, some (key, p, us)) =>
        match d.firstPoison p.formReads with
        | some a => d.suaPoison id key a
        | none => d.suaFinish key p us
      | (d, none) => d
    | none => d)

/-- SUA_SWEEP (R157): the descriptor starts, and with `whole` runs to its end. -/
def execSuaSweep (t core : Nat) (whole : Bool) (s : State) : Host.Outcome State Fault Refusal :=
  s.run t (fun d =>
    match d.coreJob core with
    | some (id, j) => d.suaSweep id j core whole
    | none => d)

/-- CHROMATIC_BEAT (R159). -/
def execChromaticBeat (t core : Nat) (s : State) : Host.Outcome State Fault Refusal :=
  s.run t (fun d => d.beatRow core 0)

/-- WINDOW_STEP (R163). -/
def execWindowStep (t core : Nat) (s : State) : Host.Outcome State Fault Refusal :=
  s.run t (fun d => d.beatRow core 1)

/-- SYNCHRONOUS_BEAT (R166). -/
def execSynchronousBeat (t core : Nat) (s : State) : Host.Outcome State Fault Refusal :=
  s.run t (fun d => d.beatRow core 2)

end Sys2Proof.Machine
end

