-- ==== Sys2Proof/Machine/Anneal.lean ====
section
/-! DEFINITION. Annealing by continuous dynamics: the anneal record, steps in integers, and ANNEAL_RUN (R175 to R188). -/

namespace Sys2Proof.Machine

/-! ### Fields of ANNEAL_RUN (Table 7-4) -/

def anInit (w : Nat) : Bool := bit w 32
def anEnergy (w : Nat) : Bool := bit w 33
def anStats (w : Nat) : Bool := bit w 34
def anInitShift (w : Nat) : Nat := wfld w 4 11 8
def anSteps (w : Nat) : Nat := wfld w 8 23 0
def anBase (w : Nat) : Nat := wfld w 0x18 63 0
def anCMul (w : Nat) : Int := signed 32 (wfld w 0x20 31 0)
def anA0 (w : Nat) : Nat := wfld w 0x24 15 0
def anCShift (w : Nat) : Nat := wfld w 0x24 21 16
def anDt (w : Nat) : Nat := wfld w 0x28 15 0
def anStream (w : Nat) : Nat := wfld w 0x38 63 0

/-! ### The anneal record (Table 7-2) -/

/-- An anneal record and its group. -/
structure AnnealRec where
  members : List Nat
  word : Nat

def AnnealRec.vars (r : AnnealRec) : Nat := wfld r.word 0 19 0
def AnnealRec.wide (r : AnnealRec) : Bool := bit r.word 20
def AnnealRec.streamed (r : AnnealRec) : Bool := bit r.word 21
def AnnealRec.points (r : AnnealRec) : Nat := wfld r.word 4 12 0
def AnnealRec.spp (r : AnnealRec) : Nat := wfld r.word 4 20 16
def AnnealRec.coup (r : AnnealRec) : Nat := wfld r.word 8 63 0
def AnnealRec.bias (r : AnnealRec) : Nat := wfld r.word 0x10 63 0
def AnnealRec.pos (r : AnnealRec) : Nat := wfld r.word 0x18 63 0
def AnnealRec.mom (r : AnnealRec) : Nat := wfld r.word 0x20 63 0
def AnnealRec.kind (r : AnnealRec) : Nat := wfld r.word 0x28 63 0
def AnnealRec.state (r : AnnealRec) : Nat := wfld r.word 0x30 63 0
def AnnealRec.sched (r : AnnealRec) : Nat := wfld r.word 0x38 63 0
def AnnealRec.count (r : AnnealRec) : Nat := r.members.length
def AnnealRec.blocks (r : AnnealRec) : Nat := r.vars / 64

/-- The record's own checks (Table 7-5, second row). -/
def AnnealRec.recordOk (r : AnnealRec) : Bool :=
  decide (64 ≤ r.vars) && decide (r.vars ≤ 524288) && r.vars % 64 == 0 && wfld r.word 0 31 22 == 0
  && decide (1 ≤ r.points) && decide (r.points ≤ 4096) && wfld r.word 4 15 13 == 0 && decide (r.spp ≤ 20) && wfld r.word 4 31 21 == 0
  && r.coup % (if r.streamed then 64 else 4096) == 0
  && r.bias % 64 == 0 && r.pos % 64 == 0 && r.mom % 64 == 0 && r.kind % 64 == 0 && r.state % 64 == 0 && r.sched % 64 == 0

/-- Bytes of member m's coefficient region. -/
def AnnealRec.coefBytes (r : AnnealRec) (m : Nat) : Nat := ownedBlocks r.blocks m r.count * r.blocks * tileBytes r.wide

/-- Per-variable regions of member m as share offsets and lengths; those written last (Table 7-3). -/
def AnnealRec.perVar (r : AnnealRec) (m : Nat) : List (Nat × Nat) :=
  let b := ownedBlocks r.blocks m r.count
  [(r.bias, 256 * b), (r.kind, 64 * b), (r.pos, 128 * b), (r.mom, 256 * b), (r.state, 8 * b)]

/-- The limits on the number of variables (R179). -/
def AnnealRec.sizeOk (r : AnnealRec) : Bool :=
  decide (r.vars ≤ (if r.streamed then 524288 else if r.wide then 46080 else 65536))

/-- Every region inside its share: the per-variable regions, the coefficients or the base table, and member 0's schedule (R179). -/
def AnnealRec.regionsOk (r : AnnealRec) : Bool :=
  let off (o n : Nat) : Bool := decide (o + n ≤ shareBytes)
  (upFrom 0 r.count).all (fun m => (r.perVar m).all (fun x => off x.1 x.2) && (if r.streamed then off r.coup 128 else off r.coup (r.coefBytes m)))
  && off r.sched (2 * r.points)

/-- Device ranges of some of each member's per-variable regions. -/
def AnnealRec.ranges (r : AnnealRec) (pick : List (Nat × Nat) → List (Nat × Nat)) : List (Nat × Nat) :=
  r.members.zipIdx.flatMap (fun e => (pick (r.perVar e.2)).map (fun x => (shareBase e.1 + x.1, x.2)))

/-- The anneal record of a group, as member 0's share holds it (R177; notes/assumptions/12.md). -/
def Dev.annealRec (d : Dev) (members : List Nat) (w : Nat) : AnnealRec :=
  { members, word := memNat d.devMem (shareBase (members.headD 0) + descProblem w) 64 }

/-- The device address of member m's coefficient region: entry m of the base table in its own share when streamed (R178). -/
def Dev.coefBase (d : Dev) (r : AnnealRec) (m : Nat) : Nat :=
  let share := shareBase (r.members.getD m 0) + r.coup
  if r.streamed then memNat d.devMem (share + 8 * m) 8 else share

/-- Device ranges of the coefficients. -/
def Dev.coefRanges (d : Dev) (r : AnnealRec) : List (Nat × Nat) := (upFrom 0 r.count).map (fun m => (d.coefBase r m, r.coefBytes m))

/-- Streamed coefficient regions: an entry that is not a multiple of 4,096 is misaligned, and a region outside the DRAM granted to the job is out of range (R178, Table 7-5; notes/assumptions/24.md). -/
def Dev.streamedCheck (d : Dev) (j : Job) (r : AnnealRec) : Option Nat :=
  if !r.streamed then none
  else if (d.coefRanges r).any (fun x => x.1 % 4096 != 0) then some cBadFormat
  else if (d.coefRanges r).all (fun x => d.inRegions x.1 x.2 (fun g => g.owner == j.ctx)) then none
  else some cOutOfRange

/-! ### Reading and writing variables -/

def Dev.anX (d : Dev) (r : AnnealRec) (i : Nat) : Int := signed 16 (memNat d.devMem (slotAddr r.members r.pos 2 i) 2)
def Dev.anY (d : Dev) (r : AnnealRec) (i : Nat) : Int := signed 32 (memNat d.devMem (slotAddr r.members r.mom 4 i) 4)
def Dev.anB (d : Dev) (r : AnnealRec) (i : Nat) : Int := signed 32 (memNat d.devMem (slotAddr r.members r.bias 4 i) 4)
def Dev.anKind (d : Dev) (r : AnnealRec) (i : Nat) : Nat := (memRead d.devMem (slotAddr r.members r.kind 1 i)).toNat
def Dev.anFrozen (d : Dev) (r : AnnealRec) (i : Nat) : Bool := bit (d.anKind r i) 2

/-- J[i][j]. -/
def Dev.anJ (d : Dev) (r : AnnealRec) (i j : Nat) : Int := d.coupling r.members r.wide r.blocks (d.coefBase r) i j

/-- Write a variable's position and momentum. -/
def Dev.setXY (d : Dev) (key : Nat) (r : AnnealRec) (i : Nat) (x y : Int) : Dev :=
  let a := slotAddr r.members r.pos 2 i
  let b := slotAddr r.members r.mom 4 i
  (((d.writeDev a (leBytes 2 (unsigned 16 x))).disturb (some key) a 2).writeDev b (leBytes 4 (unsigned 32 y))).disturb (some key) b 4

/-! ### The step (R176, R177, R180 to R183) -/

/-- Division of an exact integer by 2^s, to nearest with ties to even (R176). -/
def rshiftRne (v : Int) (s : Nat) : Int :=
  if s = 0 then v
  else
    let q := v / 2 ^ s
    let rem := v - q * 2 ^ s
    if (2 : Int) ^ (s - 1) < rem ∨ (rem = 2 ^ (s - 1) ∧ q % 2 = 1) then q + 1 else q

/-- The pump at a step number (R180). -/
def Dev.pump (d : Dev) (r : AnnealRec) (g : Nat) : Int :=
  let e (k : Nat) : Int := (memNat d.devMem (shareBase (r.members.headD 0) + r.sched + 2 * k) 2 : Nat)
  let k := g >>> r.spp
  if r.points - 1 ≤ k then e (r.points - 1)
  else e k + rshiftRne ((e (k + 1) - e k) * ((g % 2 ^ r.spp : Nat) : Int)) r.spp

/-- One variable's update (R181, R182): the new position and momentum, saturations and wall hits. -/
def annealVar (w : Nat) (p f x y : Int) : Int × Int × Nat × Nat :=
  let dl := (anA0 w : Int) - p
  let num := (anDt w : Int) * (f * anCMul w * 2 ^ 15 - dl * x * 2 ^ anCShift w)
  let yn := y + rshiftRne num (anCShift w + 21)
  let sat := b2n (decide (yn < -2 ^ 31 ∨ 2 ^ 31 - 1 < yn))
  let yn := clampInt (-2 ^ 31) (2 ^ 31 - 1) yn
  let xn := x + rshiftRne (yn * (anA0 w : Int) * (anDt w : Int)) 41
  if 16384 < xn then (16384, 0, sat, 1)
  else if xn < -16384 then (-16384, 0, sat, 1)
  else (xn, yn, sat, 0)

/-- The field of a variable from the positions at the start of the step (R177). -/
def Dev.anField (d : Dev) (r : AnnealRec) (xs : List Int) (i : Nat) : Int :=
  (xs.zipIdx).foldl (fun acc e => if e.2 = i then acc else acc + d.anJ r i e.2 * e.1) (d.anB r i * 2 ^ 14)

/-- Count one reading of the couplings: every member reads its own rows once (R177, R186, R435). -/
def Dev.countCoup (d : Dev) (r : AnnealRec) : Dev := r.members.zipIdx.foldl (fun d e => d.noteSua e.1 0x305 (r.coefBytes e.2)) d

/-- Commit every free variable's new position and momentum (R181). -/
def Dev.annealStep (d : Dev) (key : Nat) (r : AnnealRec) (w g : Nat) : Dev :=
  let xs := (upFrom 0 r.vars).map (d.anX r)
  let p := d.pump r g
  let free := (upFrom 0 r.vars).filter (fun i => !d.anFrozen r i)
  let news := free.map (fun i => (i, xs.getD i 0, annealVar w p (d.anField r xs i) (xs.getD i 0) (d.anY r i)))
  let d := news.foldl (fun d e => d.setXY key r e.1 e.2.2.1 e.2.2.2.1) (d.countCoup r)
  let sats := news.foldl (fun n e => n + e.2.2.2.2.1) 0
  let walls := news.foldl (fun n e => n + e.2.2.2.2.2) 0
  let d := r.members.zipIdx.foldl (fun d e => d.noteLanes e.1 0 (free.filter (fun i => slotMember r.count i == e.2)).length) d
  let d := if 2 ≤ r.count then d.countMembers r.members else d
  let turned := (news.filter (fun e => decide (0 ≤ e.2.1) != decide (0 ≤ e.2.2.1))).length
  d.updGroup key (fun x => { x with
    sweep := x.sweep + 1, momSat := satAdd max64 x.momSat sats, wallHits := satAdd max64 x.wallHits walls, signChanges := min turned max32 })

/-- Starting positions from draws (R183). -/
def Dev.annealInit (d : Dev) (key : Nat) (r : AnnealRec) (w seed : Nat) : Dev :=
  ((upFrom 0 r.vars).filter (fun i => !d.anFrozen r i)).foldl (fun d i =>
    let v := signed 16 (bits (indigoWord seed .annealStart (anStream w) (anBase w) i) 31 16)
    d.setXY key r i (v / 2 ^ anInitShift w) 0) d

/-! ### The end of a run (R184, R188) -/

/-- E2 of R184, from the final states. -/
def Dev.energy2 (d : Dev) (r : AnnealRec) (st : List Bool) : Int :=
  let s (i : Nat) : Int := slotValue false (st.getD i false)
  let row (i : Nat) : Int := (upFrom 0 r.vars).foldl (fun a j => if j = i then a else a + d.anJ r i j * s j) 0
  (upFrom 0 r.vars).foldl (fun acc i => acc - s i * (2 * d.anB r i + row i)) 0

/-- The statistics record (Table 7-7). -/
def GroupRun.annealRecord (g : GroupRun) (e2 : Int) (plus : Nat) : List Byte :=
  leBytes 4 g.sweep ++ leBytes 4 (descTag g.word + (if anEnergy g.word then 65536 else 0)) ++ leBytes 8 g.wallHits ++ leBytes 8 g.momSat
  ++ leBytes 8 (unsigned 64 e2) ++ leBytes 4 plus ++ leBytes 4 g.signChanges ++ leBytes 24 0

/-- The last step has been committed: states, energy and record are written, and the descriptor ends. -/
def Dev.annealFinish (d : Dev) (key : Nat) (r : AnnealRec) : Dev :=
  match d.groups.get? key with
  | none => d
  | some g =>
    let st := (upFrom 0 r.vars).map (fun i => decide (0 ≤ d.anX r i))
    let (e2, d) := if anEnergy g.word then (d.energy2 r st, d.countCoup r) else (0, d)
    let plus := ((upFrom 0 r.vars).filter (fun i => st.getD i false && !d.anFrozen r i)).length
    let d := (upFrom 0 r.vars).foldl (fun d i => d.setStateBit key r.members r.state i (st.getD i false)) d
    let d := if anStats g.word then d.writeAll key g.members d.statsOff (g.annealRecord e2 plus) else d
    d.endGroup key g

/-! ### Starting (R185) -/

/-- What a step of an ANNEAL_RUN reads: every coefficient once, the per-variable regions but the states, and the schedule (R181, R186). -/
def Dev.annealReads (d : Dev) (r : AnnealRec) : List (Nat × Nat) :=
  d.coefRanges r ++ r.ranges (fun rs => rs.take 4) ++ [(shareBase (r.members.headD 0) + r.sched, 2 * r.points)]

/-- The base-table entries that the members read, each its own (R178). -/
def AnnealRec.entries (r : AnnealRec) : List (Nat × Nat) := if r.streamed then r.members.zipIdx.map (fun e => (shareBase e.1 + r.coup + 8 * e.2, 8)) else []

/-- The rows of Table 7-5 on kind bytes and, without INIT, on positions, each after the poison of the region it reads; none where both hold. -/
def Dev.annealVars (d : Dev) (r : AnnealRec) (w : Nat) : Option StartFault :=
  let vs := upFrom 0 r.vars
  match d.firstPoison (r.ranges (fun rs => (rs.drop 1).take 1)) with
  | some a => some (.poison a)
  | none =>
    if !vs.all (fun i => d.anKind r i == 0 || d.anKind r i == 4) then some .format
    else if anInit w then none
    else
      match d.firstPoison (r.ranges (fun rs => (rs.drop 2).take 1)) with
      | some a => some (.poison a)
      | none => if vs.all (fun i => decide (-16384 ≤ d.anX r i) && decide (d.anX r i ≤ 16384)) then none else some .format

/-- Guarded and written regions of a run (R172, R173, R185). -/
def Dev.annealGuards (d : Dev) (r : AnnealRec) (w : Nat) : List (Nat × Nat) × List (Nat × Nat) :=
  let stats := if anStats w then r.members.map (fun k => (shareBase k + d.statsOff k, 64)) else []
  let recs := r.members.map (fun k => (shareBase k + descProblem w, 64))
  let tables := if r.streamed then r.members.map (fun k => (shareBase k + r.coup, 128)) else []
  (recs ++ tables ++ d.annealReads r ++ r.ranges (fun rs => rs.drop 4) ++ stats, r.ranges (fun rs => rs.drop 2) ++ stats)

/-- The first code of Table 7-5 that applies before any region is read. -/
def AnnealRec.check (r : AnnealRec) : Option Nat :=
  if !r.recordOk then some cBadFormat
  else if r.streamed && r.wide then some cBadFormat
  else if !r.sizeOk then some cOutOfRange
  else if !r.regionsOk then some cOutOfRange
  else none

/-- Start an ANNEAL_RUN on core `n`'s group. -/
def Dev.annealStart (d : Dev) (id : Nat) (j : Job) (n : Nat) : Dev × Option (Nat × AnnealRec) :=
  match d.groupReady n .anneal with
  | none => (d, none)
  | some [] => (d, none)
  | some ((key, lead) :: rest) =>
    let ms : List (Nat × Desc) := (key, lead) :: rest
    let w := lead.word
    let r := d.annealRec (ms.map (·.1)) w
    if !groupMatches ms then (d.problemFault id ms cBadFormat 0, none)
    else
      match d.firstPoison [(shareBase key + descProblem w, 64)] with
      | some a => (d.suaPoison id key a, none)
      | none =>
        match r.check, d.firstPoison r.entries with
        | some code, _ => (d.problemFault id ms code 0, none)
        | none, some a => (d.suaPoison id key a, none)
        | none, none =>
          match d.streamedCheck j r, d.annealVars r w with
            | some code, _ => (d.problemFault id ms code 0, none)
            | none, some (.poison a) => (d.suaPoison id key a, none)
            | none, some .format => (d.problemFault id ms cBadFormat 0, none)
            | none, none =>
              let (guarded, outs) := d.annealGuards r w
              let d := { d with groups := d.groups.put key { members := ms.map (fun (e : Nat × Desc) => e.1), word := w, token := false, guarded, outs } }
              let d := d.markStarted ms
              (if anInit w then d.annealInit key r w j.seed else d, some (key, r))

/-- The next step of a running ANNEAL_RUN, and its completion after the last. -/
def Dev.annealBeat (d : Dev) (id key : Nat) : Dev :=
  match d.groups.get? key with
  | none => d
  | some g =>
    let r := d.annealRec g.members g.word
    match d.firstPoison (d.annealReads r) with
    | some a => d.suaPoison id key a
    | none =>
      let d := d.annealStep key r g.word (w64 (anBase g.word + g.sweep))
      if anSteps g.word ≤ g.sweep + 1 then d.annealFinish key r else d

/-- Every remaining step; `fuel` bounds them. -/
def Dev.annealBeats : Nat → Nat → Nat → Dev → Dev
  | 0, _, _, d => d
  | fuel + 1, id, key, d =>
    match d.groups.get? key with
    | none => d
    | some _ => annealBeats fuel id key (d.annealBeat id key)

/-- Start an ANNEAL_RUN; with `whole` every step follows. -/
def Dev.annealRun (d : Dev) (id : Nat) (j : Job) (n : Nat) (whole : Bool) : Dev :=
  match d.annealStart id j n with
  | (d, none) => d
  | (d, some (key, _)) =>
    if whole then
      match d.groups.get? key with
      | some g => d.annealBeats (anSteps g.word) id key
      | none => d
    else d

/-! ### The rows -/

/-- ANNEAL_RUN (R185): the descriptor starts, and with `whole` runs to its end. -/
def execAnnealRun (t core : Nat) (whole : Bool) (s : State) : Host.Outcome State Fault Refusal :=
  s.run t (fun d =>
    match d.coreJob core with
    | some (id, j) => d.annealRun id j core whole
    | none => d)

/-- ANNEAL_STEP (R181): the group that runs on the core takes one step. -/
def execAnnealStep (t core : Nat) (s : State) : Host.Outcome State Fault Refusal :=
  s.run t (fun d =>
    match d.coreJob core, d.groupOn core with
    | some (id, _), some (key, g) => if groupKind g.token g.word = .anneal then d.annealBeat id key else d
    | _, _ => d)

end Sys2Proof.Machine
end

