-- ==== Sys2Proof/Machine/Entropy.lean ====
section
/-! DEFINITION. The physical entropy source: health tests, conditioners, pools, the generator and its requests (R222, R225 to R249). -/

namespace Sys2Proof.Machine

/-! ### Fields -/

def EntService.code : EntService → Nat
  | .notReady => 0
  | .ready => 1
  | .holding => 2
  | .fault => 3
  | .test => 4

def SrcState.code : SrcState → Nat
  | .off => 0
  | .startup => 1
  | .standby => 2
  | .active => 3
  | .failed => 4

/-- Source 0 or source 1. -/
def Entropy.src (e : Entropy) (i : Nat) : NoiseSrc := if i = 0 then e.src0 else e.src1

/-- Set a source. -/
def Entropy.setSrc (e : Entropy) (i : Nat) (x : NoiseSrc) : Entropy := if i = 0 then { e with src0 := x } else { e with src1 := x }

/-- Update the entropy source. -/
def Dev.updEnt (d : Dev) (f : Entropy → Entropy) : Dev := { d with ent := f d.ent }

/-! ### Health tests and conditioner (R227, R230) -/

/-- The samples of a window, in order: bit 0 of byte 0 first. -/
def samplesOf (bs : List Byte) : List Bool := bs.flatMap (fun b => (upFrom 0 8).map (fun i => b.getLsbD i))

/-- The repetition count test over samples: the last sample, its run, and whether a run reached 41. -/
def rctRun : Option Bool → Nat → List Bool → Option Bool × Nat × Bool
  | l, n, [] => (l, n, false)
  | l, n, x :: xs =>
    let n' := if l = some x then n + 1 else 1
    let r := rctRun (some x) n' xs
    (r.1, r.2.1, r.2.2 || n' == 41)

/-- The adaptive proportion test of one window: whether the samples equal to the first reach 796. -/
def aptFails (xs : List Bool) : Bool :=
  match xs with
  | [] => false
  | x :: _ => decide (796 ≤ (xs.filter (· == x)).length)

/-- One step of the conditioner: the feedback bit and the next S (R230). -/
def lfsrStep (s : Nat) (r : Bool) : Bool × Nat :=
  let fb := r ^^ bit s 31 ^^ bit s 21 ^^ bit s 1 ^^ bit s 0
  (fb, ((s * 2) + b2n fb) % 2 ^ 32)

/-- Condition samples: every eighth feedback bit, and the final S. -/
def condition : Nat → Nat → List Bool → List Bool × Nat
  | _, s, [] => ([], s)
  | k, s, r :: rs =>
    let (fb, s') := lfsrStep s r
    let (out, sf) := condition ((k + 1) % 8) s' rs
    (if k = 7 then (fb :: out, sf) else (out, sf))

/-- Bits as a number, the first in bit 0. -/
def bitsNat : List Bool → Nat
  | [] => 0
  | b :: bs => b2n b + 2 * bitsNat bs

/-- Add conditioned bits to a pool of 640; those that find it full are discarded (R231). -/
def NoiseSrc.addPool (x : NoiseSrc) (bs : List Bool) : NoiseSrc :=
  let bs := bs.take (640 - x.poolLen)
  { x with pool := x.pool + bitsNat bs * 2 ^ x.poolLen, poolLen := x.poolLen + bs.length }

/-- Take the oldest `n` bits of a pool, as bytes. -/
def NoiseSrc.takePool (x : NoiseSrc) (n : Nat) : List Byte × NoiseSrc :=
  (leBytes (n / 8) (x.pool % 2 ^ n), { x with pool := x.pool / 2 ^ n, poolLen := x.poolLen - n })

/-! ### The generator (R232 to R234) -/

/-- Instantiate the generator from a source's pool of at least 512 bits, the first 384 as entropy input and the next 128 as nonce, with DEVICE_ID as personalisation; the source becomes the active one (R232, R235). -/
def Dev.entInstantiate (d : Dev) (i : Nat) : Dev :=
  let x := d.ent.src i
  let (m, x) := x.takePool 512
  let e := d.ent.setSrc i { x with sstate := .active }
  { d with ent := { e with gen := some (({} : Drbg).seeded (m ++ leBytes 16 d.sec.deviceId)), renew := false, genCount := 0, reseeds := satAdd 0xFFFFFFFF e.reseeds 1, activeSrc := i } }

/-- Reseed from 384 bits of the active pool (R232, R233). -/
def Entropy.reseed (e : Entropy) : Entropy :=
  let (m, x) := (e.src e.activeSrc).takePool 384
  { e.setSrc e.activeSrc x with gen := e.gen.map (fun g => g.seeded m), genCount := 0, reseeds := satAdd 0xFFFFFFFF e.reseeds 1 }

/-- Whether the generator can serve a request now: READY, with its instantiation or reseed made when it is due. -/
def Dev.entPrepare (d : Dev) : Dev :=
  if d.ent.service != .ready then d
  else if d.ent.renew then
    if 512 ≤ (d.ent.src d.ent.activeSrc).poolLen then d.entInstantiate d.ent.activeSrc
    else d.updEnt (fun e => { e with service := .holding })
  else if d.ent.genCount = 65536 then
    if 384 ≤ (d.ent.src d.ent.activeSrc).poolLen then d.updEnt Entropy.reseed
    else d.updEnt (fun e => { e with service := .holding })
  else d

/-- Output of one generate request: `n` bytes of the CTR_DRBG. -/
def Dev.entGenerate (d : Dev) (n : Nat) : List Byte × Dev :=
  let (out, g) := (d.ent.gen.getD {}).generate n
  (out, d.updEnt (fun e => { e with gen := some g, genCount := e.genCount + 1 }))

/-! ### Deliveries (R222, R234, R246, R393) -/

/-- A command whose result the entropy source produced (Table 2-8; notes/assumptions/18.md). -/
def Cmd.ofEntropy (c : Cmd) : Cmd := { c with source := some UnitId.entropy.page }

/-- Write the entropy source's output to host memory and then complete; while host writes are stopped, the operation stops here (R371). -/
def Dev.writeThenAnswer (d : Dev) (c : Cmd) (addr : Nat) (bs : List Byte) (code r0 r1 : Nat) : Dev :=
  let c := c.ofEntropy
  if d.hostStopped && !bs.isEmpty then
    { d with flt := { d.flt with stopped := d.flt.stopped ++ [{ pend := d.pendOf c, addr, bytes := bs, code, r0, r1 }] } }
  else (d.writeHost addr bs).answer c code r0 r1

/-- Hand an output to its consumer: it takes the next ENTROPY_SEQ. -/
def Dev.entDeliver (d : Dev) (q : EntReq) (out : List Byte) : Dev :=
  let seq := d.ent.seq + 1
  let d := d.updEnt (fun e => { e with seq })
  match q.kind with
  | .seed =>
    let v := leNat out
    let bs := if q.dest = 0 then [] else leBytes 16 v ++ leBytes 8 seq ++ leBytes 8 d.deviceTime
    d.writeThenAnswer q.cmd q.dest bs cOk (v % 2 ^ 64) (v / 2 ^ 64)
  | .read =>
    d.writeThenAnswer q.cmd q.dest (leBytes 8 seq ++ leBytes 8 d.deviceTime ++ out) cOk seq d.deviceTime
  | .challenge =>
    let d := { d with sec := { d.sec with nonce := leNat out, chalSeq := seq, chalValid := true, chalVoided := false, chalTime := d.deviceTime } }
    d.answer q.cmd cOk 0 0

/-- Serve a request: generate, and deliver unless it waits for its window (R240). -/
def Dev.entServe (d : Dev) (q : EntReq) : Dev × Option EntReq :=
  let (out, d) := d.entGenerate q.len
  if q.wait then (d, some { q with out := some out }) else (d.entDeliver q out, none)

/-- Serve the first held request that has no output. -/
def Dev.entServeNext (d : Dev) : Dev :=
  let d := d.entPrepare
  if d.ent.service != .ready then d
  else
    match takeFirst (fun q : EntReq => q.out.isNone) d.ent.queue with
    | none => d
    | some (q, _) =>
      let before := d.ent.queue.takeWhile (fun q => q.out.isSome)
      let after := d.ent.queue.drop (before.length + 1)
      let (d, r) := d.entServe q
      d.updEnt (fun e => { e with queue := before ++ r.toList ++ after })

/-- Serve every held request, in arrival order. -/
def Dev.entServeAll : Nat → Dev → Dev
  | 0, d => d
  | n + 1, d => if d.ent.queue.any (fun q => q.out.isNone) && d.ent.service == .ready then Dev.entServeAll n d.entServeNext else d

/-- Complete every held request with a code (R238). -/
def Dev.entAnswerAll (d : Dev) (code : Nat) : Dev :=
  let q := d.ent.queue
  q.foldl (fun d r => d.answer r.cmd.ofEntropy code 0 0) (d.updEnt (fun e => { e with queue := [] }))

/-- A checked request: served at once in READY, held in HOLDING (PENDING), or left waiting for its window (PENDING). -/
def Dev.entRequest (d : Dev) (q : EntReq) : Dev :=
  let d := (d.entServeAll 600).entPrepare
  if d.ent.service = .ready && d.ent.queue.all (fun r => r.out.isSome) then
    if q.wait then
      let d := d.answerPending q.cmd 0 0
      let (d, r) := d.entServe { q with cmd := { q.cmd with interim := true } }
      d.updEnt (fun e => { e with queue := e.queue ++ r.toList })
    else (d.entServe q).1
  else
    (d.answerPending q.cmd 0 0).updEnt (fun e => { e with queue := e.queue ++ [{ q with cmd := { q.cmd with interim := true } }] })

/-- Requests in the hold queue; the security core's own do not occupy it (R245). -/
def Entropy.held (e : Entropy) : Nat := (e.queue.filter (fun q => q.kind != .challenge)).length

/-! ### Failures and failover (R235 to R241) -/

/-- The class-3 record of Table 10-2. A challenge whose number lies above DETAIL becomes invalid (R241, R393). -/
def Dev.entRecord (d : Dev) (code detailW detail : Nat) : Dev :=
  let d := d.raise 3 code UnitId.entropy.page detailW detail
  if detail < d.sec.chalSeq then { d with sec := { d.sec with chalValid := false, chalVoided := d.sec.chalVoided || d.sec.chalValid } } else d

/-- Enter FAULT: the record of code 0x031, and every held request completes (R238, R239). -/
def Dev.entFault (d : Dev) : Dev :=
  ((d.updEnt (fun e => { e with service := .fault })).entRecord 0x031 0 (ones 64)).entAnswerAll cEntFault

/-- A source marked FAILED: its pool and conditioner are discarded (R230, R231). -/
def NoiseSrc.fail (x : NoiseSrc) : NoiseSrc := { x with sstate := .failed, retest := false, windowFailed := true, lfsr := 0, pool := 0, poolLen := 0 }

/-- A test failure of a STANDBY source (R237); where the generator was never instantiated and the other source has failed too, none remains (R238, Table 10-1). -/
def Dev.entStandbyFails (d : Dev) (i code : Nat) : Dev :=
  let x := d.ent.src i
  let d := (d.updEnt (fun e => e.setSrc i x.fail)).entRecord code (i + 65536 * (x.window % 65536)) (ones 64)
  if d.ent.service = .notReady && (d.ent.src (1 - i)).sstate = .failed then d.entFault else d

/-- A test failure of the active source (R236, R239): the record, undelivered output discarded, then the switch or FAULT. -/
def Dev.entActiveFails (d : Dev) (i code : Nat) : Dev :=
  let x := d.ent.src i
  let n := x.seqAtWindow
  let d := d.updEnt (fun e => { e.setSrc i x.fail with suspect := n, gen := none, renew := false, queue := e.queue.map (fun q => { q with out := none }) })
  let d := d.entRecord code (i + 2 + 65536 * (x.window % 65536)) n
  let o := 1 - i
  let y := d.ent.src o
  if y.sstate = .standby then d.updEnt (fun e => { e.setSrc o { y with sstate := .active } with service := .holding, activeSrc := o })
  else d.entFault

/-- A failed window of a start-up test or retest: the eighth failed attempt fails the source (R229, R249). -/
def Dev.entStartupFails (d : Dev) (i : Nat) : Dev :=
  let x := d.ent.src i
  let n := x.attempts + 1
  if n < 8 then d.updEnt (fun e => e.setSrc i { x with attempts := n, passRun := 0, windowFailed := true })
  else
    let d := (d.updEnt (fun e => e.setSrc i x.fail)).entRecord 0x003 (i + 4 + 65536 * (x.window % 65536)) (ones 64)
    if d.ent.service = .notReady && (d.ent.src (1 - i)).sstate = .failed then d.entFault else d

/-- A failed window of the source that a test pattern replaces: its tests count, and what they fail is discarded, without a record (R231, R247). -/
def NoiseSrc.patternFails (x : NoiseSrc) : NoiseSrc :=
  let y := { x with windowFailed := true, lfsr := 0, pool := 0, poolLen := 0 }
  if x.sstate != .startup || x.windowFailed then y
  else if x.attempts + 1 < 8 then { y with attempts := x.attempts + 1, passRun := 0 }
  else { y with sstate := .failed, retest := false }

/-- A test failure, while the service is TEST, of the active source that the pattern does not replace: the record and N as for any active source; the generator is not in use, and the service stays TEST (R239, R247). -/
def Dev.entActiveFailsTest (d : Dev) (i code : Nat) : Dev :=
  let x := d.ent.src i
  (d.updEnt (fun e => { e.setSrc i x.fail with suspect := x.seqAtWindow })).entRecord code (i + 2 + 65536 * (x.window % 65536)) x.seqAtWindow

/-- A health test's count reaches its cutoff in a source's present window (R227, R228). -/
def Dev.entTestFails (d : Dev) (i code : Nat) : Dev :=
  let x := d.ent.src i
  if i < 2 && x.settled && x.sstate != .off then
    let x := if code = 1 then { x with rctFails := satAdd 255 x.rctFails 1 } else { x with aptFails := satAdd 255 x.aptFails 1 }
    let d := d.updEnt (fun e => e.setSrc i x)
    if d.ent.service = .test && d.ent.testSource = i then d.updEnt (fun e => e.setSrc i x.patternFails)
    else if x.windowFailed then d
    else if d.ent.service = .test && x.sstate = .active then d.entActiveFailsTest i code
    else
      match x.sstate with
      | .startup => d.entStartupFails i
      | .standby => d.entStandbyFails i code
      | .active => d.entActiveFails i code
      | _ => d.updEnt (fun e => e.setSrc i { x with windowFailed := true })
  else d

/-! ### Windows (R229 to R231, R240) -/

/-- The raw samples a source presents: the test pattern replaces them while it is selected (R247). -/
def Dev.entSamples (d : Dev) (i : Nat) (raw : List Byte) : List Bool :=
  if d.ent.service = .test && d.ent.testSource = i then (upFrom 0 1024).map (fun k => bit d.ent.pattern (k % 64)) else samplesOf raw

/-- A passing window: start-up advances, or the conditioned bits enter the pool. -/
def NoiseSrc.pass (x : NoiseSrc) (xs : List Bool) : NoiseSrc :=
  match x.sstate with
  | .startup =>
    if x.passRun = 3 then { x with sstate := .standby, passRun := 0, attempts := 0, retest := false, lfsr := 0, pool := 0, poolLen := 0 }
    else { x with passRun := x.passRun + 1 }
  | .standby =>
    let (bs, s) := condition 0 x.lfsr xs
    { x with lfsr := s }.addPool bs
  | .active =>
    let (bs, s) := condition 0 x.lfsr xs
    { x with lfsr := s }.addPool bs
  | _ => x

/-- Outputs that await the active source's window are delivered in order when it passes (R240). -/
def Dev.entReleaseWindow (d : Dev) : Dev :=
  let ready := d.ent.queue.filter (fun q => q.out.isSome)
  let d := d.updEnt (fun e => { e with queue := e.queue.filter (fun q => q.out.isNone) })
  ready.foldl (fun d q => d.entDeliver q (q.out.getD [])) d

/-- A window of a source ends, with its 1,024 raw samples. A window in which a test failed yields nothing; one whose samples fail a test without that failure having taken effect cannot end (notes/assumptions/9.md). -/
def Dev.entWindowEnd (d : Dev) (i : Nat) (raw : List Byte) : Dev :=
  let x := d.ent.src i
  if i < 2 && x.settled && x.sstate != .off && raw.length == 128 then
    let xs := d.entSamples i raw
    let (l, n, bad) := rctRun x.lastSample x.runLength xs
    if !x.windowFailed && (bad || aptFails xs) then d
    else
      let next (y : NoiseSrc) : NoiseSrc := { y with window := y.window + 1, windowFailed := false, lastSample := l, runLength := n, seqAtWindow := d.ent.seq }
      if x.windowFailed then d.updEnt (fun e => e.setSrc i (next x))
      else
        let wasActive := x.sstate == .active
        let d := d.updEnt (fun e => e.setSrc i (x.pass xs))
        let d := if wasActive then d.entReleaseWindow else d
        d.updEnt (fun e => e.setSrc i { next (e.src i) with seqAtWindow := e.seq })
  else d

/-- The source the generator would now be instantiated from, if one qualifies (R235, R236). -/
def Entropy.candidate (e : Entropy) : Option Nat :=
  let ok (i : Nat) (s : SrcState) : Bool := (e.src i).sstate == s && decide (512 ≤ (e.src i).poolLen)
  match e.service with
  | .notReady => if ok 0 .standby then some 0 else if ok 1 .standby then some 1 else none
  | .fault => if ok 0 .standby then some 0 else if ok 1 .standby then some 1 else none
  | .holding => if (e.gen.isNone || e.renew) && ok e.activeSrc .active then some e.activeSrc else none
  | _ => none

/-- The generator finishes its instantiation: READY, and the held requests are served in arrival order (R235, R236). -/
def Dev.entInstantiateDone (d : Dev) : Dev :=
  match d.ent.candidate with
  | none => d
  | some i =>
    let d := d.entInstantiate i
    let us := (d.now + d.time.lockOffset) / 1000
    d.updEnt (fun e => { e with service := .ready, readyTime := if e.readyTime = 0 then min us 0xFFFF else e.readyTime })

/-- The source's start-up test begins again, with conditioner and pool cleared (R247, R249). The test takes whole windows, so it starts with the next one (R229; notes/assumptions/10.md). -/
def NoiseSrc.restart (x : NoiseSrc) (retest : Bool) : NoiseSrc :=
  { x with sstate := .startup, retest, windowFailed := true, passRun := 0, attempts := 0, lfsr := 0, pool := 0, poolLen := 0 }

/-- End TEST (R247): both sources start again, and the generator must be instantiated afresh. -/
def Dev.entEndTest (d : Dev) : Dev :=
  d.updEnt (fun e =>
    { (e.setSrc 0 (e.src0.restart false)).setSrc 1 (e.src1.restart false) with
      service := .notReady, testSelect := false, gen := none, renew := false, activeSrc := 0 })

/-- Write ENT_CONTROL.RETEST (R249). -/
def Dev.entRetest (d : Dev) (fn data : Nat) : Dev :=
  if bit data 0 then
    if decide (d.sincePower < d.ent.retestFrom) || d.ent.service = .test then d.refuse fn UnitId.entropy.page 0x044 4 data cIllegal
    else
      d.updEnt (fun e =>
        let f (x : NoiseSrc) : NoiseSrc := if x.sstate = .failed then x.restart true else x
        { e with src0 := f e.src0, src1 := f e.src1, retestFrom := d.sincePower + 10000000000 })
  else d

/-- Write ENT_TEST_CTRL (R247): LK, in FACTORY only. -/
def Dev.entTestCtrl (d : Dev) (fn data : Nat) : Dev :=
  if d.sec.life ≠ 0 then d.refuse fn UnitId.entropy.page 0x06C 4 data cIllegal
  else if bit data 0 then
    let d := d.updEnt (fun e => { e with testSelect := true, testSource := bits data 1 1, service := .test, gen := none, renew := false, tapRaw := 0, tapCond := 0, tapLfsr := 0 })
    d.entAnswerAll cEntNotReady
  else
    let d := d.updEnt (fun e => { e with testSource := bits data 1 1 })
    if d.ent.service = .test then d.entEndTest else d

/-- Write ENT_TEST_LO or ENT_TEST_HI (R247, R249): the HI half loads the pattern. -/
def Dev.entTestLo (d : Dev) (fn data : Nat) : Dev :=
  if d.sec.life ≠ 0 then d.refuse fn UnitId.entropy.page 0x070 4 data cIllegal
  else d.updEnt (fun e => { e with testLo := data % 2 ^ 32 })

def Dev.entTestHi (d : Dev) (fn data : Nat) : Dev :=
  if d.sec.life ≠ 0 then d.refuse fn UnitId.entropy.page 0x074 4 data cIllegal
  else d.updEnt (fun e => { e with pattern := e.testLo + 2 ^ 32 * (data % 2 ^ 32), tapRaw := 0, tapCond := 0, tapLfsr := 0 })

/-! ### Factory taps (R246, R247) -/

/-- Raw samples of the pattern from sample `k`. -/
def Entropy.patternFrom (e : Entropy) (k n : Nat) : List Bool := (upFrom k n).map (fun j => bit e.pattern (j % 64))

/-- Serve TAP 1 or TAP 2: conditioned or raw bits of the replaced source, in arrival order (notes/assumptions/10.md). -/
def Dev.entTap (d : Dev) (c : Cmd) (tap len dest : Nat) : Dev :=
  let (v, d) :=
    if tap = 2 then
      (bitsNat (d.ent.patternFrom d.ent.tapRaw (8 * len)), d.updEnt (fun e => { e with tapRaw := e.tapRaw + 8 * len }))
    else
      let (bs, s) := condition 0 d.ent.tapLfsr (d.ent.patternFrom d.ent.tapCond (64 * len))
      (bitsNat bs, d.updEnt (fun e => { e with tapCond := e.tapCond + 64 * len, tapLfsr := s }))
  d.writeThenAnswer c dest (leBytes 8 0 ++ leBytes 8 d.deviceTime ++ leBytes len v) cOk 0 d.deviceTime

/-! ### The commands -/

/-- The code that the service state gives a consumer of generator output, if it stops it (R242, Table 20-5). -/
def Entropy.serviceCode (e : Entropy) : Option Nat :=
  match e.service with
  | .notReady => some cEntNotReady
  | .test => some cEntNotReady
  | .fault => some cEntFault
  | _ => none

/-- SEED_REQUEST's row of Table 2-11 and Table 9-6. -/
def specSeedRequest : CmdSpec :=
  { opcode := 0x0030, states := [.frost, .active, .snowpack], mask := opBits 0x18 63 0, noTarget := true, noCtx := true, noJob := true }

/-- Step 8 of SEED_REQUEST (R222). -/
def Dev.seedRequest (c : Cmd) (d : Dev) : Dev :=
  if c.qw 0x18 % 32 ≠ 0 then d.answer c cBadFormat 0 0
  else
    match d.ent.serviceCode with
    | some code => d.answer c code 0 0
    | none =>
      if 256 ≤ d.ent.held then d.answer c cNoResource 0 0
      else d.entRequest { kind := .seed, cmd := c, len := 16, wait := false, dest := c.qw 0x18 }

/-- ENTROPY_READ's row of Table 2-11 and Table 10-4. -/
def specEntropyRead : CmdSpec :=
  { opcode := 0x0031, states := [.frost, .active, .snowpack], mask := opBits 0x18 9 0 ||| opBits 0x20 63 0, noTarget := true, noCtx := true, noJob := true }

/-- Step 8 of ENTROPY_READ (R245). -/
def Dev.entropyRead (c : Cmd) (d : Dev) : Dev :=
  let len := c.fld 0x18 6 0
  let tap := c.fld 0x18 9 8
  let dest := c.qw 0x20
  if len < 8 || 64 < len || len % 8 != 0 || tap == 3 || dest == 0 || dest % 16 != 0 then d.answer c cBadFormat 0 0
  else if (tap != 0) != (d.ent.service == .test) then d.answer c cIllegal 0 0
  else if tap ≠ 0 then d.entTap c tap len dest
  else
    match d.ent.serviceCode with
    | some code => d.answer c code 0 0
    | none =>
      if 256 ≤ d.ent.held then d.answer c cNoResource 0 0
      else d.entRequest { kind := .read, cmd := c, len, wait := c.fld 0x18 7 7 == 1, dest }

/-! ### The rows -/

/-- SEED_REQUEST (R222). -/
def execSeedRequest (t ring : Nat) (s : State) : Host.Outcome State Fault Refusal :=
  s.run t (fun d => d.ringCmd ring (fun _ => specSeedRequest) anyForm (fun _ => none) Dev.seedRequest)

/-- ENTROPY_READ (R245). -/
def execEntropyRead (t ring : Nat) (s : State) : Host.Outcome State Fault Refusal :=
  s.run t (fun d => d.ringCmd ring (fun _ => specEntropyRead) anyForm (fun _ => none) Dev.entropyRead)

/-- SOURCE_SETTLED (R229): window 0 begins. -/
def execSourceSettled (t src : Nat) (s : State) : Host.Outcome State Fault Refusal :=
  s.run t (fun d =>
    let x := d.ent.src src
    if src < 2 && x.sstate == .startup && !x.settled then
      d.updEnt (fun e => e.setSrc src { x with settled := true, window := 0, windowFailed := false, passRun := 0, attempts := 0, lastSample := none, runLength := 0, seqAtWindow := e.seq })
    else d)

/-- REPETITION_COUNT_FAILURE (R227). -/
def execRepetitionCountFailure (t src : Nat) (s : State) : Host.Outcome State Fault Refusal :=
  s.run t (fun d => d.entTestFails src 1)

/-- ADAPTIVE_PROPORTION_FAILURE (R227). -/
def execAdaptiveProportionFailure (t src : Nat) (s : State) : Host.Outcome State Fault Refusal :=
  s.run t (fun d => d.entTestFails src 2)

/-- ENTROPY_WINDOW_END (R231, R240). -/
def execEntropyWindowEnd (t src : Nat) (raw : List Byte) (s : State) : Host.Outcome State Fault Refusal :=
  s.run t (fun d => d.entWindowEnd src raw)

/-- DRBG_INSTANTIATE_DONE (R235, R236). -/
def execDrbgInstantiateDone (t : Nat) (s : State) : Host.Outcome State Fault Refusal :=
  s.run t (fun d => d.entInstantiateDone)

/-- DRBG_RESEED (R233): the reseed that is due, or the hold until the pool has 384 bits. -/
def execDrbgReseed (t : Nat) (s : State) : Host.Outcome State Fault Refusal :=
  s.run t (fun d =>
    let e := d.ent
    if e.genCount = 65536 && e.gen.isSome && !e.renew && (e.service == .ready || e.service == .holding) then
      if 384 ≤ (e.src e.activeSrc).poolLen then d.updEnt (fun e => { e.reseed with service := .ready })
      else d.updEnt (fun e => { e with service := .holding })
    else d)

/-- GENERATE_REQUEST (R233). -/
def execGenerateRequest (t : Nat) (s : State) : Host.Outcome State Fault Refusal :=
  s.run t (fun d => d.entServeNext)

/-- ENT_RETEST (R249): the physical function writes ENT_CONTROL. -/
def execEntRetest (t data : Nat) (s : State) : Host.Outcome State Fault Refusal :=
  s.run t (fun d => if d.hostOpen .entropy then d.entRetest 0 data else d)

/-- TEST_PATTERN_SELECT (R247): a write of ENT_TEST_CTRL with SELECT set. -/
def execTestPatternSelect (t data : Nat) (s : State) : Host.Outcome State Fault Refusal :=
  s.run t (fun d => if d.hostOpen .entropy then d.entTestCtrl 0 (data ||| 1) else d)

/-- TEST_PATTERN_DESELECT (R247): a write of ENT_TEST_CTRL with SELECT clear. -/
def execTestPatternDeselect (t data : Nat) (s : State) : Host.Outcome State Fault Refusal :=
  s.run t (fun d => if d.hostOpen .entropy then d.entTestCtrl 0 (data / 2 * 2) else d)

/-- ENT_TEST_HI_WRITE (R247). -/
def execEntTestHiWrite (t data : Nat) (s : State) : Host.Outcome State Fault Refusal :=
  s.run t (fun d => if d.hostOpen .entropy then d.entTestHi 0 data else d)

end Sys2Proof.Machine
end

