-- ==== Sys2Proof/Machine/Links.lean ====
section
/-! DEFINITION. The host link, Sholo and Ethernet ports, and transfers between modules (R445 to R468, R482). -/

namespace Sys2Proof.Machine

/-! ### Ports and their records (R449, R452, R468) -/

/-- Link result codes (Table 19-7). -/
def cLinkDown : Nat := 0x100
def cPartnerLost : Nat := 0x101
def cWindowClosed : Nat := 0x102
def cRemoteRange : Nat := 0x103
def cPartnerRefused : Nat := 0x104
def cPeerUnreachable : Nat := 0x105

/-- Ports of the module: Sholo 0 to 17, Ethernet 18 and 19. -/
def portCount : Nat := 20

/-- Whether a port is an Ethernet port. -/
def isEth (p : Nat) : Bool := decide (18 ≤ p)

/-- The unit of a port. -/
def portUnit (p : Nat) : UnitId := if p < 18 then .sholo p else .eth (p - 18)

/-- A port. -/
def Dev.port (d : Dev) (p : Nat) : Port := d.ports.getD p {}

/-- Update a port. -/
def Dev.updPort (d : Dev) (p : Nat) (f : Port → Port) : Dev := { d with ports := d.ports.put p (f (d.port p)) }

/-- Update a port's transfer ring. -/
def Dev.updXq (d : Dev) (p : Nat) (f : XferRing → XferRing) : Dev := d.updPort p (fun x => { x with xq := f x.xq })

/-- Whether a port exists and its unit-specific registers act (R35). -/
def Dev.portLive (d : Dev) (p : Nat) : Bool :=
  decide (p < portCount) && d.unitActs (portUnit p)

/-- Whether ports may train: bring-up has reached stage 4, LINK_REFCLK is good, and no fatal error stands (R482, Table 19-8). -/
def Dev.mayTrain (d : Dev) : Bool := decide (4 ≤ d.boot.stage) && d.pins.linkRef && d.modState != .reset && d.modState != .dumping

/-- A class-5 record (R468). -/
def Dev.class5 (d : Dev) (p peer code detail : Nat) : Dev := d.raise 5 code (portUnit p).page (p + 256 * peer) (detail % 2 ^ 64)

/-- A class-5 record of an attach or a detach, which changes the tree (R452). -/
def Dev.partnerRecord (d : Dev) (p peer code id : Nat) : Dev := (d.class5 p peer code id).treeChanged

/-! ### Transfer rings (R454, R455, R458) -/

/-- Fields of a transfer descriptor (Table 19-4), and the bits that are not reserved. -/
def Xfer.fld (x : Xfer) (off hi lo : Nat) : Nat := bits x.word (8 * off + hi) (8 * off + lo)
def Xfer.xop (x : Xfer) : Nat := x.fld 0 7 0
def Xfer.remotePost (x : Xfer) : Bool := x.fld 0 8 8 == 1
def Xfer.localPost (x : Xfer) : Bool := x.fld 0 9 9 == 1
def Xfer.tag (x : Xfer) : Nat := x.fld 0 31 16
def Xfer.peer (x : Xfer) : Nat := x.fld 4 7 0
def Xfer.addr (x : Xfer) : Nat := x.fld 8 63 0
def Xfer.off (x : Xfer) : Nat := x.fld 0x10 63 0
def Xfer.len (x : Xfer) : Nat := x.fld 0x18 31 0
def Xfer.remoteSync (x : Xfer) : Nat := x.fld 0x1C 13 0
def Xfer.localSync (x : Xfer) : Nat := x.fld 0x1C 29 16
def xferMask : Nat := 0x3FF ||| (0xFFFF <<< 16) ||| (0xFF <<< 32) ||| (ones 160 <<< 64) ||| (0x3FFF <<< 224) ||| (0x3FFF <<< 240)

/-- Whether a completion ring has no free slot (R50). -/
def XferRing.cqFull (g : XferRing) : Bool := (g.cqTail + 1) % 2 ^ g.log2Cq == g.cqHead

/-- DRAINED of a transfer ring. -/
def XferRing.drained (g : XferRing) : Bool := !g.enable && g.xfers.isEmpty

/-- Transfers of a ring that have been started and have not ended. -/
def XferRing.active (g : XferRing) : List Xfer := g.xfers.filter (fun x => x.fin.isNone)

/-- Send a transfer ring's wake message (R51, R454). -/
def Dev.xqWake (d : Dev) (p : Nat) : Dev :=
  let v := (d.port p).xq.vector
  { d.updXq p (fun g => { g with armed := false }) with msix := d.msix ++ [{ fn := 0, vector := v }] }

/-- Write one transfer completion (Table 19-5). -/
def Dev.writeXferCompletion (d : Dev) (p : Nat) (x : Xfer) (code : Nat) : Dev :=
  let g := (d.port p).xq
  let bs := leBytes 2 (d.statusWord 0 code) ++ leBytes 2 x.tag ++ leBytes 4 (g.sqHead + 2 ^ 31 * b2n g.phase) ++ leBytes 8 d.deviceTime
  let d := d.writeHost (g.cqBase + 16 * g.cqTail) bs
  let tail := (g.cqTail + 1) % 2 ^ g.log2Cq
  let d := d.updXq p (fun g => { g with xfers := g.xfers.drop 1, cqTail := tail, phase := if tail = 0 then !g.phase else g.phase })
  if g.armed then d.xqWake p else d

/-- Write the completions of a port's ended transfers in ring order, while slots are free and host writes are allowed (R50, R371, R458). -/
def Dev.xqFlush : Nat → Nat → Dev → Dev
  | 0, _, d => d
  | n + 1, p, d =>
    let g := (d.port p).xq
    if d.hostStopped || g.cqFull then d
    else
      match g.xfers with
      | [] => d
      | x :: _ =>
        match x.fin with
        | none => d
        | some code => Dev.xqFlush n p (d.writeXferCompletion p x code)

/-- As many completions as a ring can hold. -/
def Dev.xqWrite (d : Dev) (p : Nat) : Dev := Dev.xqFlush 8192 p d

/-- Write what every port's completion ring can take. -/
def Dev.xqWriteAll (d : Dev) : Dev := (upFrom 0 portCount).foldl (fun d p => d.xqWrite p) d

/-- The descriptor at an index of a port's ring. -/
def Dev.xferAt (d : Dev) (p i : Nat) : Xfer := { index := i, word := memNat d.hostMem ((d.port p).xq.sqBase + 64 * i) 64 }

/-- The indices waiting in a ring. -/
def XferRing.waiting (g : XferRing) : List Nat :=
  if g.enable then (upFrom 0 ((g.sqTail + 2 ^ g.log2Sq - g.sqHead) % 2 ^ g.log2Sq)).map (fun k => (g.sqHead + k) % 2 ^ g.log2Sq) else []

/-- The started transfers of a port that satisfy a predicate end with a code, and a READ among them leaves its local range undefined (Table 19-8). -/
def Dev.loseStarted (d : Dev) (p code : Nat) (sel : Xfer → Bool) : Dev :=
  let lost := (d.port p).xq.active.filter sel
  let d := d.updXq p (fun g => { g with xfers := g.xfers.map (fun (x : Xfer) => if x.fin.isNone && sel x then { x with fin := some code } else x) })
  lost.foldl (fun d x => if x.xop = 2 then d.freeBytes x.addr x.len else d) d

/-- The started and the waiting transfers of a port that satisfy a predicate are lost (Table 19-8); the waiting ones complete in ring order as they are fetched. -/
def Dev.loseXfers (d : Dev) (p code : Nat) (sel : Xfer → Bool) : Dev :=
  let d := d.loseStarted p code sel
  let ws := ((d.port p).xq.waiting).filter (fun i => sel (d.xferAt p i))
  (d.updXq p (fun g => { g with doomed := ws.foldl (fun t i => t.put i code) g.doomed })).xqWrite p

/-! ### Attach, retrain and detach (R450 to R453) -/

/-- An entry to UP: PARTNER_UP, or PARTNER_CHANGED for another DEVICE_ID than the previous partner's, and DEGRADED below what both ends' identity frames allow (R449, R452). -/
def Dev.enterUp (d : Dev) (p : Nat) (x : Identity) : Dev :=
  let g := d.port p
  let changed := match g.lastId with
    | some i => i != x.deviceId
    | none => false
  let best := if bit ((g.sent.map (·.gens)).getD 1) 1 && bit x.gens 1 then 2 else 1
  let d := d.updPort p (fun g => { g with pstate := .up, partner := some x, lastId := some x.deviceId, partnerLow := false, retrainAt := none })
  let d := d.partnerRecord p 0 (if changed then 3 else 1) x.deviceId
  if g.gen < best || g.half then d.class5 p 0 5 (g.gen + 16 * b2n g.half) else d

/-- The peers of an Ethernet port that are VERIFIED. -/
def Port.verified (g : Port) : List (Nat × Peer) := g.peers.filter (fun (e : Nat × Peer) => e.2.verified)

/-- A peer loses VERIFIED (R461). -/
def Dev.dropPeer (d : Dev) (p k : Nat) (x : Peer) : Dev :=
  let id := (x.ident.map (·.deviceId)).getD 0
  let d := d.updPort p (fun g => { g with peers := g.peers.put k { x with verified := false, ident := none, resends := [] } })
  d.partnerRecord p k 2 id

/-- The partner of a port is detached, and its transfers end with a code; on Ethernet, every peer (R452, Table 19-8). -/
def Dev.detachPort (d : Dev) (p code : Nat) : Dev :=
  let g := d.port p
  let d := d.updPort p (fun g => { g with partner := none, retrainAt := none, partnerLow := false })
  let d := if isEth p then g.verified.foldl (fun d e => d.dropPeer p e.1 e.2) d
    else match g.partner with
      | some x => if g.pstate = .loopback then d else d.partnerRecord p 0 2 x.deviceId
      | none => d
  let held := g.partner.isSome || isEth p
  if held then d.loseXfers p code (fun _ => true) else d

/-- A retrain starts: the port reads TRAINING and holds its traffic (R451). -/
def Dev.startRetrain (d : Dev) (p : Nat) : Dev :=
  d.updPort p (fun g => { g with pstate := .training, retrainAt := some d.now, retrains := satAdd 0xFFFFFFFF g.retrains 1, replayTimes := [] })

/-- 10 µs without signal (R451, R482). -/
def Dev.signalLoss (d : Dev) (p : Nat) : Dev :=
  match (d.port p).pstate with
  | .up => d.startRetrain p
  | .discovery => d.updPort p (fun g => { g with pstate := .training })
  | .loopback => d.updPort p (fun g => { g with pstate := .training, partner := none })
  | _ => d

/-- A retrain has ended with its partner: the delay is recorded, and RETRAINED (R451). -/
def Dev.endRetrain (d : Dev) (p : Nat) : Dev :=
  match (d.port p).retrainAt with
  | none => d
  | some t0 =>
    let delay := d.now - t0
    (d.updPort p (fun g => { g with retrainAt := none, maxDelay := max g.maxDelay delay })).class5 p 0 4 delay

/-- A link is back that has no identity frames of its own: within 10 ms of a retrain's start it has kept its peers, later they are detached (R451, R461). -/
def Dev.retrainOver (d : Dev) (p : Nat) : Dev :=
  if (d.port p).retrainAt.all (fun t0 => decide (d.now ≤ t0 + 10000000)) then d.endRetrain p else d.detachPort p cPartnerLost

/-- The identity frame that this end of a port sends: its part is FS16, and its generations are those that the port advertises (R449, R450). -/
def Dev.identityFrame (d : Dev) (p : Nat) : Identity :=
  { deviceId := d.sec.deviceId, fs8 := false, gens := if (d.port p).gen2En then 3 else 1, port := p
    position := d.hostIf.sysPosition, align := d.time.alignState.code }

/-- Training ends on a Sholo port with the generation and width reached, 0 for a Sholo-2 training that failed; on Ethernet the link is up; and a port whose partner leaves SNOWPACK returns to UP (R449, R453). -/
def Dev.trained (d : Dev) (p gen : Nat) (half : Bool) : Dev :=
  let g := d.port p
  if !d.portLive p || !d.mayTrain || !g.enable || d.modState == .snowpack then d
  else if g.pstate = .lowPower then
    match g.partner with
    | some x => if g.partnerLow then d.enterUp p x else d
    | none => d
  else if g.pstate != .training then d
  else if isEth p then (d.retrainOver p).updPort p (fun g => { g with pstate := .up, half })
  else if gen = 0 then d.updPort p (fun g => { g with gen2Fails := g.gen2Fails + 1 })
  else if gen = 1 ∨ (gen = 2 ∧ g.gen2En ∧ g.gen2Fails < 3) then
    d.updPort p (fun g => { g with pstate := .discovery, gen, half, gen2Fails := 0, sent := some (d.identityFrame p) })
  else d

/-- The partner's identity frame arrives (R450, R451). -/
def Dev.identified (d : Dev) (p : Nat) (x : Identity) : Dev :=
  let g := d.port p
  if g.pstate != .discovery || isEth p || !d.portLive p then d
  else
    let kept := match g.retrainAt, g.partner with
      | some t0, some y => y.deviceId == x.deviceId && decide (d.now ≤ t0 + 10000000)
      | _, _ => false
    let d := if kept then d.endRetrain p else d.detachPort p cPartnerLost
    if x.deviceId = d.sec.deviceId then d.updPort p (fun g => { g with pstate := .loopback, partner := some x })
    else d.enterUp p x

/-- A flit fails its CRC and is replayed; the delay added is at most 400 ns, or 800 ns on Sholo-1 (R451). -/
def Dev.flitReplay (d : Dev) (p delay : Nat) : Dev :=
  let g := d.port p
  if g.pstate = .up && !isEth p then
    d.updPort p (fun g => { g with
      replays := satAdd 0xFFFFFFFF g.replays 1
      maxDelay := max g.maxDelay (min delay (if g.gen = 2 then 400 else 800))
      replayTimes := (g.replayTimes.filter (fun x => decide (d.now < x + 1000000))) ++ [d.now] })
  else d

/-- More than 64 replays within 1 ms start a retrain (R451). -/
def Dev.replayLimit (d : Dev) (p : Nat) : Dev :=
  let g := d.port p
  if g.pstate = .up && decide (64 < (g.replayTimes.filter (fun x => decide (d.now < x + 1000000))).length) then d.startRetrain p else d

/-- 10 ms after a retrain's start without the same partner: detach (R451). -/
def Dev.retrainTimeout (d : Dev) (p : Nat) : Dev :=
  match (d.port p).retrainAt with
  | none => d
  | some t0 => if t0 + 10000000 ≤ d.now then d.detachPort p cPartnerLost else d

/-- Disable a port: the partner is detached at once, and transfers end with LINK_DOWN (R452, Table 19-8). -/
def Dev.disablePort (d : Dev) (p : Nat) : Dev :=
  let d := d.detachPort p cLinkDown
  d.updPort p (fun g => { g with pstate := .disabled, gen := 0, half := false, enable := false })

/-- Every port is disabled at entry to DUMPING (Table 19-8). -/
def Dev.disablePorts (d : Dev) : Dev := (upFrom 0 portCount).foldl (fun d p => d.disablePort p) d

/-- Write PORT_CONTROL (Table 19-12). -/
def Dev.portControl (d : Dev) (p data : Nat) : Dev :=
  if !d.portLive p then d
  else
    let d := d.updPort p (fun g => { g with gen2En := bit data 1 })
    if !bit data 0 then d.disablePort p
    else d.updPort p (fun g => { g with enable := true, pstate := if g.pstate = .disabled ∧ d.modState ≠ .dumping then .training else g.pstate })

/-- Ports start training at stage 4 of bring-up (R482). -/
def Dev.startPorts (d : Dev) : Dev :=
  (upFrom 0 portCount).foldl (fun d p => d.updPort p (fun g => if g.enable ∧ g.pstate = .disabled then { g with pstate := .training } else g)) d

/-- Every enabled port enters low-power idle (R332, R453). -/
def Dev.portsDown (d : Dev) : Dev :=
  (upFrom 0 portCount).foldl (fun d p => d.updPort p (fun g => if g.pstate = .disabled then g else { g with pstate := .lowPower })) d

/-- The ports return to service: a port with its partner to UP, one whose partner is in low-power idle stays there, any other trains (R332, R453). -/
def Dev.portsUp (d : Dev) : Dev :=
  (upFrom 0 portCount).foldl (fun d p =>
    let g := d.port p
    if g.pstate != .lowPower then d
    else if isEth p then d.updPort p (fun g => { g with pstate := if g.retrainAt.isSome then .training else .up })
    else
      match g.partner with
      | none => d.updPort p (fun g => { g with pstate := .training })
      | some x =>
        if g.partnerLow then d
        else if g.retrainAt.isSome then d.updPort p (fun g => { g with pstate := .training })
        else if x.deviceId = d.sec.deviceId then d.updPort p (fun g => { g with pstate := .loopback })
        else d.enterUp p x) d

/-! ### Transfers (R456 to R460) -/

/-- Whether a port is inside a retrain: within 10 ms of its start (R451). -/
def Port.retraining (g : Port) (now : Nat) : Bool :=
  match g.retrainAt with
  | some t0 => decide (now ≤ t0 + 10000000)
  | none => false

/-- The local checks of Table 19-6: the first code that applies. -/
def Dev.xferCheck (d : Dev) (p : Nat) (x : Xfer) : Option Nat :=
  let g := d.port p
  let peer := g.peers.getD x.peer {}
  let formed := (x.word &&& xferMask) == x.word && (x.xop == 1 || x.xop == 2) && x.addr % 64 == 0 && x.off % 64 == 0
    && decide (64 ≤ x.len) && decide (x.len ≤ 2 ^ 30) && x.len % 64 == 0
    && (x.remotePost || x.remoteSync == 0) && (x.localPost || x.localSync == 0)
    && (if isEth p then peer.valid else x.peer == 0)
  if !formed then some cBadFormat
  else if !decide (g.xferCtx < 64) || (d.ctx g.xferCtx).cstate == .free || (x.localPost && (d.sync x.localSync).owner != g.xferCtx) then some cIllegal
  else if !d.inRegions x.addr x.len (fun r => r.owner == g.xferCtx && !(x.xop == 2 && r.readOnly)) then some cOutOfRange
  else if (g.pstate != .up && !g.retraining d.now) || (isEth p && !peer.verified) then some cLinkDown
  else none

/-- Fetch the next descriptor of a port's ring when it is of the row's kind, at most four being carried at once, and check it (R457, R458). -/
def Dev.xferFetch (d : Dev) (p : Nat) (mine : Xfer → Bool) : Dev :=
  let g := (d.port p).xq
  let x := d.xferAt p g.sqHead
  if !d.portLive p || !g.enable || g.halted || g.sqHead == g.sqTail || g.cqFull || d.hostStopped || d.modState == .reset || decide (4 ≤ g.active.length) || !mine x then d
  else
    let fin := match g.doomed.get? g.sqHead with
      | some code => some code
      | none => d.xferCheck p x
    (d.updXq p (fun g => { g with sqHead := (g.sqHead + 1) % 2 ^ g.log2Sq, doomed := g.doomed.del g.sqHead, xfers := g.xfers ++ [{ x with fin }] })).xqWrite p

/-- End a started transfer with a code; a READ's bytes are stored and LOCAL_POST is applied before the completion is written (R458). -/
def Dev.xferEnd (d : Dev) (p index code : Nat) (bytes : List Byte) : Dev :=
  match (d.port p).xq.active.find? (fun x => x.index == index) with
  | none => d
  | some x =>
    let ok := code == cOk
    let d := if ok && x.xop == 2 then d.storeDev x.addr bytes else d
    let d := if ok && x.localPost then d.syncPost x.localSync 1 else d
    (d.updXq p (fun g => { g with xfers := g.xfers.map (fun (y : Xfer) => if y.index = index ∧ y.fin.isNone then { y with fin := some code } else y) })).xqWrite p

/-- The partner answers a started transfer: refused, or done, unless an FS8 partner was asked to post (Table 19-6). -/
def Dev.xferDone (d : Dev) (p index : Nat) (bytes : List Byte) : Dev :=
  match (d.port p).xq.active.find? (fun x => x.index == index) with
  | none => d
  | some x =>
    let g := d.port p
    let fs8 := (g.partner.map (·.fs8)).getD false || (((g.peers.getD x.peer {}).ident.map (·.fs8)).getD false && isEth p)
    if g.pstate != .up then d
    else if fs8 && x.remotePost then d.xferEnd p index cPartnerRefused []
    else if x.xop = 2 ∧ bytes.length ≠ x.len then d
    else d.xferEnd p index cOk bytes

/-- The first device address of a port's receive window. -/
def Port.windowBase (g : Port) : Nat := g.rxwFirst * regionBytes

/-- Whether a transfer's bytes and post meet the conditions of R456. -/
def Dev.inWindow (d : Dev) (g : Port) (write : Bool) (off len : Nat) (post : Option Nat) : Bool :=
  decide (off + len ≤ g.rxwCount * regionBytes)
  && d.inRegions (g.windowBase + off) len (fun r => r.owner == g.rxwCtx && !(write && r.readOnly))
  && (match post with
      | some o => decide (o < 16384) && (d.sync o).owner == g.rxwCtx
      | none => true)

/-- The partner checks of Table 19-6 for a transfer that arrives. -/
def Dev.incoming (d : Dev) (p : Nat) (x : Incoming) : Dev :=
  let g := d.port p
  if !d.portLive p then d
  else if g.pstate = .loopback then d.updPort p (fun g => { g with answer := cPartnerRefused })
  else if g.pstate != .up then d
  else if !g.rxwEnable then d.updPort p (fun g => { g with answer := cWindowClosed })
  else if !d.inWindow g x.write x.off x.len x.post then d.updPort p (fun g => { g with answer := cRemoteRange })
  else d.updPort p (fun g => { g with
    inbound := g.inbound ++ [({ id := g.nextInbound, write := x.write, off := x.off, len := x.len, post := x.post } : Inbound)]
    nextInbound := g.nextInbound + 1, answer := cOk })

/-- An incoming transfer ends: the bytes of a WRITE are visible, then its post is applied (R458); a range that no longer meets R456 takes nothing. -/
def Dev.inboundEnd (d : Dev) (p id : Nat) (bytes : List Byte) : Dev :=
  let g := d.port p
  match g.inbound.find? (fun x => x.id == id) with
  | none => d
  | some x =>
    if g.pstate != .up || (x.write && bytes.length != x.len) then d
    else
      let d := d.updPort p (fun g => { g with inbound := g.inbound.filter (fun y => y.id != id) })
      if d.inWindow g x.write x.off x.len x.post then
        let d := if x.write then d.storeDev (g.windowBase + x.off) bytes else d
        let d := match x.post with
          | some o => d.syncPost o 1
          | none => d
        d.updPort p (fun g => { g with answer := cOk })
      else d.updPort p (fun g => { g with answer := cRemoteRange })

/-- Enable or disable a port's transfer ring; only ENABLE 0 clears HALTED (R454, Table 2-6). -/
def Dev.xqControl (d : Dev) (p data : Nat) : Dev :=
  if !d.portLive p then d
  else if bit data 0 then
    if (d.port p).xq.drained then
      d.updXq p (fun g => { g with enable := true, sqTail := 0, sqHead := 0, cqTail := 0, cqHead := 0, phase := true, doomed := [] })
    else d.refuse 0 (portUnit p).page 0x074 4 data cIllegal
  else d.updXq p (fun g => { g with enable := false, halted := false, doomed := [] })

/-- Write XQ_TAIL, with INDEX in bits [15:0] (R47, R454). -/
def Dev.xqTail (d : Dev) (p data : Nat) : Dev :=
  let g := (d.port p).xq
  let value := data % 65536
  if !d.portLive p then d
  else if !g.enable then d.refuse 0 (portUnit p).page 0x08C 4 data cIllegal
  else if 2 ^ g.log2Sq ≤ value then d.updXq p (fun g => { g with halted := true })
  else d.updXq p (fun g => { g with sqTail := value })

/-- Write RXW_CONTROL: a write that changes CTX is ignored whole unless ENABLE and BUSY are 0 (Table 19-12, R491). -/
def Dev.rxwControl (d : Dev) (p data : Nat) : Dev :=
  let g := d.port p
  if !d.portLive p then d
  else if bits data 14 8 ≠ g.rxwCtx ∧ (g.rxwEnable ∨ ¬ g.inbound.isEmpty) then d
  else d.updPort p (fun g => { g with rxwEnable := bit data 0, rxwCtx := bits data 14 8 })

/-- Whether a context has started or incoming transfers, for which CTX_DESTROY waits (Table 19-8). -/
def Dev.xferBusy (d : Dev) (ctx : Nat) : Bool :=
  d.ports.any (fun e => (e.2.xferCtx == ctx && !e.2.xq.active.isEmpty) || (e.2.rxwCtx == ctx && !e.2.inbound.isEmpty))

/-- CTX_DESTROY closes the context's windows and disables its transfer rings; descriptors not started complete with ILLEGAL_IN_STATE (Table 19-8). -/
def Dev.closeCtxPorts (d : Dev) (ctx : Nat) : Dev :=
  (upFrom 0 portCount).foldl (fun d p =>
    let d := if (d.port p).rxwCtx = ctx then d.updPort p (fun g => { g with rxwEnable := false }) else d
    if (d.port p).xferCtx = ctx then
      let ws := (d.port p).xq.waiting.map (fun i => { d.xferAt p i with fin := some cIllegal })
      (d.updXq p (fun g => { g with enable := false, sqHead := g.sqTail, doomed := [], xfers := g.xfers ++ ws })).xqWrite p
    else d) d

/-- A port that UNIT_RESET resets: started transfers end with UNIT_RESET, the ring is disabled and the window closed (Table 19-8). -/
def Dev.resetPort (d : Dev) (p : Nat) : Dev :=
  let d := (d.detachPort p cUnitReset).loseStarted p cUnitReset (fun _ => true)
  let d := d.updXq p (fun g => { g with enable := false, doomed := [] })
  let d := d.xqWrite p
  d.updPort p (fun g =>
    { lastId := g.lastId, nextInbound := g.nextInbound
      xq := if g.xq.xfers.isEmpty then {} else g.xq })

/-! ### Ethernet (R461, R462) -/

/-- A datagram arrives: dropped and counted when no peer in use has its address; an identity frame makes its peer VERIFIED; the answer to it is this end's own frame; an acknowledgement ends the resends of the datagrams it names (R461, R462). -/
def Dev.ethDatagram (d : Dev) (p : Nat) (x : Datagram) : Dev :=
  let g := d.port p
  if !isEth p || !d.portLive p || g.pstate != .up then d
  else
    match g.peers.find? (fun (e : Nat × Peer) => e.2.valid && e.2.addr == x.addr) with
    | none => d.updPort p (fun g => { g with dropped := satAdd 0xFFFFFFFF g.dropped 1 })
    | some (k, y) =>
      match x.kind with
      | .ack numbers => d.updPort p (fun g => { g with peers := g.peers.put k { y with resends := y.resends.filter (fun e => !numbers.contains e.1) } })
      | .data => d
      | .identity i =>
        let same := match y.ident with
          | some j => j.deviceId == i.deviceId
          | none => false
        let changed := match y.lastId with
          | some j => j != i.deviceId
          | none => false
        let d := if y.verified && !same then d.loseXfers p cPartnerLost (fun z => z.peer == k) else d
        let d := d.updPort p (fun g => { g with peers := g.peers.put k { y with verified := true, ident := some i, lastId := some i.deviceId }, sent := some (d.identityFrame p) })
        if y.verified && same then d else d.partnerRecord p k (if changed then 3 else 1) i.deviceId

/-- A datagram unacknowledged for 20 µs is resent, and after the eighth resend its peer loses VERIFIED (R462). -/
def Dev.ethResend (d : Dev) (p k number delay : Nat) : Dev :=
  let g := d.port p
  let y := g.peers.getD k {}
  if !isEth p || !d.portLive p || !y.verified then d
  else if y.resends.getD number 0 < 8 then
    d.updPort p (fun g => { g with
      peers := g.peers.put k { y with resends := y.resends.put number (y.resends.getD number 0 + 1) }
      retransmits := satAdd 0xFFFFFFFF g.retransmits 1, replays := satAdd 0xFFFFFFFF g.replays 1, maxDelay := max g.maxDelay delay })
  else (d.dropPeer p k y).loseXfers p cPeerUnreachable (fun z => z.peer == k)

/-! ### The host link (R448) -/

/-- A retraining to a lower rate or width (R448). -/
def Dev.pcieRetrain (d : Dev) (gen width : Nat) (flit : Bool) : Dev :=
  let h := d.hostIf
  if d.modState = .reset ∨ ¬ (3 ≤ gen ∧ gen ≤ 6) ∨ ¬ (width = 4 ∨ width = 8 ∨ width = 16) ∨ ¬ (gen < h.gen ∨ width < h.width) then d
  else
    ({ d with hostIf := { h with gen, width, flit, retrains := satAdd 0xFFFFFFFF h.retrains 1 } } : Dev).raise 1 0x305 UnitId.hostIf.page (gen + 16 * width) d.deviceTime

/-! ### The rows -/

/-- PCIE_LINK_RETRAIN (R448). -/
def execPcieLinkRetrain (t gen width : Nat) (flit : Bool) (s : State) : Host.Outcome State Fault Refusal :=
  s.run t (fun d => d.pcieRetrain gen width flit)

/-- SHOLO_TRAINING_COMPLETE (R449). -/
def execSholoTrainingComplete (t port gen : Nat) (half : Bool) (s : State) : Host.Outcome State Fault Refusal :=
  s.run t (fun d => d.trained port gen half)

/-- IDENTITY_FRAME (R450). -/
def execIdentityFrame (t port : Nat) (ident : Identity) (s : State) : Host.Outcome State Fault Refusal :=
  s.run t (fun d => d.identified port ident)

/-- FLIT_CRC_FAIL (R451). -/
def execFlitCrcFail (t port delay : Nat) (s : State) : Host.Outcome State Fault Refusal :=
  s.run t (fun d => d.flitReplay port delay)

/-- REPLAY_LIMIT_RETRAIN (R451). -/
def execReplayLimitRetrain (t port : Nat) (s : State) : Host.Outcome State Fault Refusal :=
  s.run t (fun d => d.replayLimit port)

/-- SIGNAL_LOSS (R451). -/
def execSignalLoss (t port : Nat) (s : State) : Host.Outcome State Fault Refusal :=
  s.run t (fun d => d.signalLoss port)

/-- RETRAIN_TIMEOUT (R451). -/
def execRetrainTimeout (t port : Nat) (s : State) : Host.Outcome State Fault Refusal :=
  s.run t (fun d => d.retrainTimeout port)

/-- PORT_ENABLE_WRITE (R452). -/
def execPortEnableWrite (t port data : Nat) (s : State) : Host.Outcome State Fault Refusal :=
  s.run t (fun d => if d.hostOpen (portUnit port) then d.portControl port data else d)

/-- XQ_CONTROL_ENABLE (R454). -/
def execXqControlEnable (t port data : Nat) (s : State) : Host.Outcome State Fault Refusal :=
  s.run t (fun d => if d.hostOpen (portUnit port) then d.xqControl port data else d)

/-- XQ_TAIL_DOORBELL (R454), with the bytes the host has stored in its memory before it. -/
def execXqTailDoorbell (t port value : Nat) (host : List Host.Cell) (s : State) : Host.Outcome State Fault Refusal :=
  s.run t (fun d =>
    let d := { d with hostMem := memWriteCells d.hostMem host }
    if d.hostOpen (portUnit port) then d.xqTail port value else d)

/-- TRANSFER_WRITE (R457): the next descriptor, a WRITE or one of no defined XOP. -/
def execTransferWrite (t port : Nat) (s : State) : Host.Outcome State Fault Refusal :=
  s.run t (fun d => d.xferFetch port (fun x => x.xop != 2))

/-- TRANSFER_READ (R457): the next descriptor, a READ or one of no defined XOP. -/
def execTransferRead (t port : Nat) (s : State) : Host.Outcome State Fault Refusal :=
  s.run t (fun d => d.xferFetch port (fun x => x.xop != 1))

/-- INCOMING_TRANSFER (R457). -/
def execIncomingTransfer (t port : Nat) (xfer : Incoming) (s : State) : Host.Outcome State Fault Refusal :=
  s.run t (fun d => d.incoming port xfer)

/-- TRANSFER_COMPLETE (R458): of a transfer of the port's ring, or of an incoming one. -/
def execTransferComplete (t port index : Nat) (result : TransferEnd) (s : State) : Host.Outcome State Fault Refusal :=
  s.run t (fun d =>
    match result with
    | .done bytes => d.xferDone port index bytes
    | .refused code => if code = cPartnerRefused ∨ code = cWindowClosed ∨ code = cRemoteRange then d.xferEnd port index code [] else d
    | .arrived bytes => d.inboundEnd port index bytes)

/-- RXW_ENABLE_WRITE (R460). -/
def execRxwEnableWrite (t port data : Nat) (s : State) : Host.Outcome State Fault Refusal :=
  s.run t (fun d => if d.hostOpen (portUnit port) then d.rxwControl port data else d)

/-- ETH_DATAGRAM (R461). -/
def execEthDatagram (t port : Nat) (datagram : Datagram) (s : State) : Host.Outcome State Fault Refusal :=
  s.run t (fun d => d.ethDatagram port datagram)

/-- ETH_RESEND_TIMEOUT (R462). -/
def execEthResendTimeout (t port peer : Nat) (resend : Resend) (s : State) : Host.Outcome State Fault Refusal :=
  s.run t (fun d => d.ethResend port peer resend.number resend.delay)

/-- PARTNER_LOW_POWER (R453). -/
def execPartnerLowPower (t port : Nat) (s : State) : Host.Outcome State Fault Refusal :=
  s.run t (fun d => if (d.port port).pstate = .up ∧ isEth port = false then d.updPort port (fun g => { g with pstate := .lowPower, partnerLow := true }) else d)

/-- LINK_REFCLK_LOSS (R482). -/
def execLinkRefclkLoss (t : Nat) (s : State) : Host.Outcome State Fault Refusal :=
  s.run t (fun d => (upFrom 0 portCount).foldl (fun d p => d.signalLoss p) { d with pins := { d.pins with linkRef := false } })

/-- LINK_REFCLK_RETURN (R482). -/
def execLinkRefclkReturn (t : Nat) (s : State) : Host.Outcome State Fault Refusal :=
  s.run t (fun d => { d with pins := { d.pins with linkRef := true } })

end Sys2Proof.Machine
end

