-- ==== Sys2Proof/Machine/Tokens.lean ====
section
/-! DEFINITION. Token draws: the request, shards, scores and winners (R189 to R202). -/

namespace Sys2Proof.Machine

/-! ### Fields of a token-draw request (Table 8-3) -/

def tkNoise (w : Nat) : Bool := bit w 0
def tkFmt (w : Nat) : Nat := bits w 2 1
def tkVocab (w : Nat) : Nat := wfld w 4 20 0
def tkSeqs (w : Nat) : Nat := wfld w 8 12 0
def tkFirst (w : Nat) : Nat := wfld w 0x10 20 0
def tkCount (w : Nat) : Nat := wfld w 0x14 20 0
def tkLogit (w : Nat) : Nat := wfld w 0x18 63 0
def tkStride (w : Nat) : Nat := wfld w 0x20 31 0
def tkParam (w : Nat) : Nat := wfld w 0x28 63 0
def tkOut (w : Nat) : Nat := wfld w 0x30 63 0
/-- Bytes of a logit. -/
def tkSize (w : Nat) : Nat := if tkFmt w = 0 then 4 else 2

/-- A logit widened exactly to binary32 (R193). -/
def widenLogit (fmt v : Nat) : Nat :=
  match fmt with
  | 0 => v
  | 1 => v * 65536
  | _ =>
    match (fmtOf 7).decode v with
    | .nan => qnan32
    | .inf s => inf32 s
    | .fin s m e => if m = 0 then (if s then 0x80000000 else 0) else rne32 (FVal.fin s m e).dyadic

/-- A sequence parameter record (Table 8-4) as one number. -/
def Dev.tokenParam (d : Dev) (lead w q : Nat) : Nat := memNat d.devMem (shareBase lead + tkParam w + 32 * q) 32

/-- A parameter record's checks (R200). -/
def tokenParamOk (r : Nat) : Bool :=
  let ex := bits r (128 + 30) (128 + 23)
  decide (r < 2 ^ 160) && !bit r (128 + 31) && ex != 0 && ex != 255

/-- The logit of token v on the member whose shard holds it (R197). -/
def Dev.tokenLogit (d : Dev) (k w q v : Nat) : Nat :=
  widenLogit (tkFmt w) (memNat d.devMem (shareBase k + tkLogit w + q * tkStride w + (v - tkFirst w) * tkSize w) (tkSize w))

/-- The score of a token (R193). -/
def Dev.tokenScore (d : Dev) (seed k w q r v : Nat) : Nat :=
  let z := f32Mul (d.tokenLogit k w q v) (bits r 159 128)
  if tkNoise w then f32Add z (gumbel (indigoWord seed .gumbel (bits r 63 0) (bits r 127 64) v)) else z

/-- The better of two (token, score) pairs: the higher rank, then the lower index (R194). -/
def tokenBetter (a b : Nat × Nat) : Nat × Nat :=
  if scoreRank a.2 < scoreRank b.2 ∨ (scoreRank a.2 = scoreRank b.2 ∧ b.1 < a.1) then b else a

/-- The winner of a sequence over every member's shard (R194, R195). -/
def Dev.tokenWinner (d : Dev) (seed lead : Nat) (members : List (Nat × Nat)) (q : Nat) : Option (Nat × Nat) :=
  let r := d.tokenParam lead ((members.headD (0, 0)).2) q
  let cands := members.flatMap (fun m => (upFrom (tkFirst m.2) (tkCount m.2)).map (fun v => (v, d.tokenScore seed m.1 m.2 q r v)))
  match cands with
  | [] => none
  | c :: cs => some (cs.foldl tokenBetter c)

/-- An output record (Table 8-5). -/
def tokenRecord (winner : Option (Nat × Nat)) : List Byte :=
  match winner with
  | none => leBytes 8 0
  | some (v, s) => if f32IsNan s then leBytes 4 0x80000000 ++ leBytes 4 s else leBytes 4 v ++ leBytes 4 s

/-- Whether the members' shards cover tokens 0 to V − 1, each exactly once (R200). -/
def shardsCover (ws : List Nat) (v : Nat) : Bool :=
  (ws.foldl (fun n w => n + tkCount w) 0 == v)
  && ws.all (fun w => decide (tkFirst w + tkCount w ≤ v))
  && ws.zipIdx.all (fun a => ws.zipIdx.all (fun b => a.2 == b.2 || !rangesMeet (tkFirst a.1) (tkCount a.1) (tkFirst b.1) (tkCount b.1)))

/-- The logits that a token draw's members read. -/
def tokenLogits (ms : List (Nat × Nat)) : List (Nat × Nat) :=
  ms.flatMap (fun m => (upFrom 0 (tkSeqs m.2)).map (fun q => (shareBase m.1 + tkLogit m.2 + q * tkStride m.2, tkCount m.2 * tkSize m.2)))

/-- The parameter table, in member 0's share (R198). -/
def tokenTable (lead : Nat) (ms : List (Nat × Nat)) : Nat × Nat :=
  (shareBase lead + tkParam ((ms.headD (0, 0)).2), 32 * tkSeqs ((ms.headD (0, 0)).2))

/-- What a token draw reads, for poison: every member's logits and member 0's parameters. -/
def tokenReads (lead : Nat) (ms : List (Nat × Nat)) : List (Nat × Nat) := tokenLogits ms ++ [tokenTable lead ms]

/-- What stops a token draw at its start (R200, R400): the shards, then the parameter table's poison, its records, and the poison of the logits. -/
def Dev.tokenFault (d : Dev) (lead w : Nat) (ws : List (Nat × Nat)) : Option StartFault :=
  if !shardsCover (ws.map (·.2)) (tkVocab w) then some .format
  else
    match d.firstPoison [tokenTable lead ws] with
    | some a => some (.poison a)
    | none =>
      if !(upFrom 0 (tkSeqs w)).all (fun q => tokenParamOk (d.tokenParam lead w q)) then some .format
      else (d.firstPoison (tokenLogits ws)).map StartFault.poison

/-- The regions of a running token draw that nothing else may write, and those it writes (R172, R173, R200). -/
def tokenGuards (lead : Nat) (ms : List (Nat × Nat)) : List (Nat × Nat) × List (Nat × Nat) :=
  let outs := ms.map (fun m => (shareBase m.1 + tkOut m.2, 8 * tkSeqs m.2))
  (tokenReads lead ms ++ outs, outs)

/-- TOKEN_DRAW on core `n`'s group: matched, checked, and every sequence's winner written on every member (R195 to R200). It runs until its completion, which lands it. -/
def Dev.tokenDraw (d : Dev) (id : Nat) (j : Job) (n : Nat) : Dev :=
  match d.groupReady n .token with
  | none => d
  | some [] => d
  | some ((lead, x) :: rest) =>
    let ms : List (Nat × Desc) := (lead, x) :: rest
    let ws := ms.map (fun m => (m.1, m.2.word))
    let seqs := tkSeqs x.word
    if !groupMatches ms then d.problemFault id ms cBadFormat 0
    else
      match d.tokenFault lead x.word ws with
      | some (.poison a) => d.suaPoison id lead a
      | some .format => d.problemFault id ms cBadFormat 0
      | none =>
        let recs := (upFrom 0 seqs).map (fun q => (q, tokenRecord (d.tokenWinner j.seed lead ws q)))
        let d := ws.foldl (fun d m => recs.foldl (fun d r => d.storeDev (shareBase m.1 + tkOut m.2 + 8 * r.1) r.2) d) d
        let (guarded, outs) := tokenGuards lead ws
        let d := ({ d with groups := d.groups.put lead { members := ms.map (fun (e : Nat × Desc) => e.1), word := x.word, token := true, guarded, outs } } : Dev).markStarted ms
        let d := (upFrom 0 seqs).foldl (fun d _ => d.countMembers (ms.map (·.1))) d
        ms.foldl (fun d m =>
          let w := m.2.word
          let item := m.2.item id 1 (shareBase m.1 + tkLogit w)
          (d.note (UnitId.sua m.1).page 0x307 (seqs * tkCount w) item).noteSlot m.1 1 0 (seqs * tkCount w) item) d

/-- The compatibility draw of a sequence of a job (R203, R210): its word is that of the compatibility consumer, keyed by the sequence's STREAM and STEP and logical index 0. The result is the token and DEGENERATE. -/
def compatToken (seed stream step : Nat) (logits : List Nat) (invTemp k p : Nat) : Nat × Bool :=
  compatDraw logits invTemp k p (indigoWord seed .compat stream step 0)

/-! ### The row -/

/-- TOKEN_DRAW (R200). -/
def execTokenDraw (t core : Nat) (s : State) : Host.Outcome State Fault Refusal :=
  s.run t (fun d =>
    match d.coreJob core with
    | some (id, j) => d.tokenDraw id j core
    | none => d)

end Sys2Proof.Machine
end

