-- ==== Sys2Proof/Machine/Operands.lean ====
section
/-! DEFINITION. Operand forms of the engine descriptors and their checks at issue: MATMUL, the accumulator operations, the SUA and anneal operations and token draws (R94 to R104, R128, R129, R153, R154, R185, R199, R300, R301, R303). -/

namespace Sys2Proof.Machine

/-! ### Fields of engine descriptors (Tables 4-4 and 5-4) -/

def dsContinue (w : Nat) : Bool := bit w 8
def dsTile (w : Nat) : Nat := wfld w 0 20 16
def dsShape (w : Nat) : Nat := wfld w 0 23 21
def dsAFmt (w : Nat) : Nat := wfld w 4 3 0
def dsAScaled (w : Nat) : Bool := bit w 36
def dsBFmt (w : Nat) : Nat := wfld w 4 11 8
def dsBScaled (w : Nat) : Bool := bit w 44
def dsK (w : Nat) : Nat := wfld w 8 23 0
def dsRowBlk (w : Nat) : Nat := wfld w 0xC 7 0
def dsColBlk (w : Nat) : Nat := wfld w 0xC 15 8
def dsAAddr (w : Nat) : Nat := wfld w 0x10 63 0
def dsBAddr (w : Nat) : Nat := wfld w 0x18 63 0
def dsAStride (w : Nat) : Nat := wfld w 0x20 31 0
def dsBStride (w : Nat) : Nat := wfld w 0x24 31 0
def dsAScale (w : Nat) : Nat := wfld w 0x28 63 0
def dsBScale (w : Nat) : Nat := wfld w 0x30 63 0
def dsRole (w : Nat) : Nat := wfld w 4 1 0
def dsRedFn (w : Nat) : Nat := wfld w 4 18 16
def dsRedDir (w : Nat) : Bool := bit w (32 + 19)
def dsClass (w : Nat) : Bool := bit w (32 + 24)
def dsFirst (w : Nat) : Nat := wfld w 8 7 0
def dsCount (w : Nat) : Nat := wfld w 8 16 8
def dsDst (w : Nat) : Nat := wfld w 8 4 0
def dsNext (w : Nat) : Nat := wfld w 8 4 0
def dsPrev (w : Nat) : Nat := wfld w 8 12 8
def dsChain (w : Nat) : Nat := wfld w 8 31 16
def dsAddr (w : Nat) : Nat := wfld w 0x10 63 0
def dsStride (w : Nat) : Nat := wfld w 0x20 31 0

/-- A mask of bits [hi:lo] of the dword at a byte offset. -/
def dsBits (off hi lo : Nat) : Nat := ones (hi + 1 - lo) <<< (off * 8 + lo)

/-! ### Shapes and tiles of a context (R300, R301, R303) -/

/-- The entry of a SHAPE code in a context's map, when it is VALID (R300). -/
def Ctx.shapeOf (c : Ctx) (code : Nat) : Option ShapeEntry := (c.shapes.get? code).bind (fun e => if e.realise = 0 then none else some e)

/-- Rows and columns of the context's tile entries: 256, or those of the image restored last (R303). -/
def Ctx.tileRows (c : Ctx) : Nat := 2 ^ c.log2Rows
def Ctx.tileCols (c : Ctx) : Nat := 2 ^ c.log2Cols

/-- The larger of P and 1 for a shape entry and formats (Table 4-1, R94); an emulated code has the P of shape 0 (R301). -/
def ShapeEntry.maxP1 (e : ShapeEntry) (a b : Nat) : Nat :=
  let lanes := if e.emulated then 1 else shapeLanes e.shape
  match fmtClass a with
  | .n => if a = 3 ∨ a = 4 ∨ b = 3 ∨ b = 4 then lanes else 2 * lanes
  | .i => lanes
  | .h => max (lanes / 4) 1

/-- Blocks of rows and of columns that a tile entry has for a shape entry. -/
def Ctx.rowBlocks (c : Ctx) (e : ShapeEntry) : Nat := (if e.emulated then c.tileRows else 256) / e.geom.mt
def Ctx.colBlocks (c : Ctx) (e : ShapeEntry) : Nat := (if e.emulated then c.tileCols else 256) / e.geom.nt

/-! ### MATMUL (Tables 4-4 and 4-5) -/

/-- Bytes of one packed operand row (R93). -/
def rowBytes (fmt k : Nat) : Nat := (k * fmtBits fmt + 7) / 8

/-- Bits of Table 4-4 that are not reserved. -/
def matmulMask : Nat :=
  dsBits 0 7 0 ||| dsBits 0 9 8 ||| dsBits 0 23 16 ||| dsBits 4 4 0 ||| dsBits 4 12 8 ||| dsBits 8 23 0 ||| dsBits 0xC 31 0 ||| dsBits 0x10 319 0

/-- Step 1 for MATMUL. -/
def Ctx.matmulFormat (c : Ctx) (w : Nat) : Bool :=
  let a := dsAFmt w
  let b := dsBFmt w
  let fp6 := a == 1 || a == 2 || b == 1 || b == 2
  let scaled := dsAScaled w || dsBScaled w
  match c.shapeOf (dsShape w) with
  | none => false
  | some e =>
    (w &&& matmulMask) == w && decide (a < 8) && decide (b < 8) && fmtClass a == fmtClass b
    && !(scaled && fmtClass a != .n)
    && dsK w != 0 && dsK w % e.maxP1 a b == 0 && (!fp6 || dsK w % 4 == 0) && (!scaled || dsK w % 32 == 0)
    && dsAAddr w % 64 == 0 && dsBAddr w % 64 == 0 && dsAStride w % 64 == 0 && dsBStride w % 64 == 0
    && dsAScale w % 64 == 0 && dsBScale w % 64 == 0
    && (dsAScaled w || dsAScale w == 0) && (dsBScaled w || dsBScale w == 0)

/-- Rows that an operand of n rows reads: address and bytes of each. -/
def operandRows (n addr stride len : Nat) : List (Nat × Nat) := (upFrom 0 n).map (fun i => (addr + i * stride, len))

/-- Every range a MATMUL reads (R99). -/
def matmulReads (e : ShapeEntry) (w : Nat) : List (Nat × Nat) :=
  let k := dsK w
  operandRows e.geom.mt (dsAAddr w) (dsAStride w) (rowBytes (dsAFmt w) k)
  ++ operandRows e.geom.nt (dsBAddr w) (dsBStride w) (rowBytes (dsBFmt w) k)
  ++ (if dsAScaled w then operandRows e.geom.mt (dsAScale w) (k / 32) (k / 32) else [])
  ++ (if dsBScaled w then operandRows e.geom.nt (dsBScale w) (k / 32) (k / 32) else [])

/-- Step 4 for MATMUL on core n. -/
def Ctx.matmulRange (c : Ctx) (n w : Nat) : Bool :=
  match c.shapeOf (dsShape w) with
  | none => false
  | some e =>
    decide (dsRowBlk w < c.rowBlocks e) && decide (dsColBlk w < c.colBlocks e)
    && (matmulReads e w).all (fun r => inShare n r.1 r.2)

/-! ### Class tags (R100, R129) -/

/-- A tag bit set or cleared. -/
def setTag (tags tile : Nat) (isInt : Bool) : Nat := if isInt then tags ||| 2 ^ tile else tags &&& (ones 32 - 2 ^ tile)

/-- Whether a MATMUL sets its tile's tag: shape 0 with CONTINUE = 0, the code read through the map (R100, R300). -/
def Ctx.setsTag (c : Ctx) (w : Nat) : Bool :=
  !dsContinue w && (match c.shapeOf (dsShape w) with
    | some e => !e.emulated && e.shape == 0
    | none => false)

/-- The class tags after a descriptor has run. -/
def Ctx.tagsAfter (c : Ctx) (tags w : Nat) : Nat :=
  let t := dsTile w
  match descOp w with
  | 1 => if c.setsTag w then setTag tags t (fmtClass (dsAFmt w) == .i) else tags
  | 3 => setTag tags t (dsClass w)
  | 5 => setTag tags t (dsClass w)
  | 7 => setTag tags (dsDst w) (bit tags t)
  | _ => tags

/-- The tags the tiles will carry when a descriptor accepted now runs (R101 step 3). -/
def Core.expectedTags (k : Core) (c : Ctx) : Nat := (k.matrixQ.filter (fun x => !x.landed)).foldl (fun tags x => c.tagsAfter tags x.word) k.tileInt

/-- Step 3 for MATMUL. -/
def Core.tagOk (k : Core) (c : Ctx) (w : Nat) : Bool :=
  c.setsTag w || bit (k.expectedTags c) (dsTile w) == (fmtClass (dsAFmt w) == .i)

/-! ### Accumulator operations (Table 5-4, R129) -/

/-- Bits that an accumulator operation uses. -/
def accMask (op : Nat) : Nat :=
  dsBits 0 7 0 ||| dsBits 0 9 9 ||| dsBits 0 20 16 ||| dsBits 0xC 31 16 |||
  (match op with
   | 2 => dsBits 4 19 16 ||| dsBits 8 16 0 ||| dsBits 0x10 63 0
   | 3 => dsBits 4 24 24
   | 4 => dsBits 0x10 63 0 ||| dsBits 0x20 31 0
   | 5 => dsBits 4 24 24 ||| dsBits 0x10 63 0 ||| dsBits 0x20 31 0
   | 6 => dsBits 4 1 0 ||| dsBits 8 4 0 ||| dsBits 8 12 8 ||| dsBits 8 31 16
   | _ => dsBits 8 4 0)

/-- Step 1 for an accumulator operation. -/
def Ctx.accFormat (c : Ctx) (w : Nat) : Bool :=
  let op := descOp w
  (w &&& accMask op) == w
  && (match op with
      | 2 =>
        decide (dsRedFn w < 5) && decide (1 ≤ dsCount w) && decide (dsCount w ≤ 256)
        && decide (dsFirst w + dsCount w ≤ (if dsRedDir w then c.tileRows else c.tileCols)) && dsAddr w % 64 == 0
      | 4 => dsAddr w % 64 == 0 && dsStride w % 64 == 0 && decide (c.tileCols * 4 ≤ dsStride w)
      | 5 => dsAddr w % 64 == 0 && dsStride w % 64 == 0 && decide (c.tileCols * 4 ≤ dsStride w)
      | 6 => dsRole w != 3 && (dsRole w != 2 || dsNext w == 0) && (dsRole w != 0 || dsPrev w == 0)
      | 7 => dsDst w != dsTile w
      | _ => true)

/-- The memory that an accumulator operation reads or writes at ADDR: address and bytes of each row (R128, R135, R303). -/
def Ctx.accRegion (c : Ctx) (w : Nat) : List (Nat × Nat) :=
  match descOp w with
  | 2 => [(dsAddr w, 1024)]
  | 4 => operandRows c.tileRows (dsAddr w) (dsStride w) (4 * c.tileCols)
  | 5 => operandRows c.tileRows (dsAddr w) (dsStride w) (4 * c.tileCols)
  | _ => []

/-- Step 4 for an accumulator operation: the region in the own share, and a chain's neighbours in the placement. -/
def Ctx.accRange (c : Ctx) (cores n w : Nat) : Bool :=
  (c.accRegion w).all (fun r => inShare n r.1 r.2)
  && (descOp w != 6 || ((dsRole w == 2 || bit cores (dsNext w)) && (dsRole w == 0 || bit cores (dsPrev w))))

/-! ### SUA and anneal operations (Tables 6-5 and 7-4) and token draws (Table 8-3) -/

/-- A share offset whose bytes lie in the share. -/
def offInShare (o n : Nat) : Bool := decide (o + n ≤ shareBytes)

/-- A binary32 β: finite, with its sign bit 0. -/
def betaOk (b : Nat) : Bool := decide (b < 0x7F800000)

/-- Step 1 for SUA_FIELDS and SUA_SWEEP (R153, R154); a field that the OP or the mode does not use must be 0. -/
def suaFormat (w : Nat) : Bool :=
  let sweep := descOp w == 0x11
  let m := suaMode w
  let chrom := sweep && m == 0
  let win := wfld w 4 26 16
  let mask := dsBits 0 7 0 ||| dsBits 0 9 9 ||| dsBits 4 4 4 ||| dsBits 0xC 31 0 ||| dsBits 0x10 63 0 |||
    (if suaStats w then dsBits 0x30 63 0 else 0) |||
    (if sweep then dsBits 4 2 0 ||| dsBits 8 23 0 ||| dsBits 0x18 63 0 ||| dsBits 0x20 31 0 else 0) |||
    (if chrom then dsBits 4 3 3 ||| dsBits 0x28 8 0 else 0) |||
    (if sweep && (m == 1 || (chrom && suaDemote w)) then dsBits 4 26 16 else 0) |||
    (if sweep && m == 2 then dsBits 4 5 5 ||| (if suaDamp w then dsBits 0x24 23 0 else 0) else 0)
  (w &&& mask) == w && descProblem w % 64 == 0 && descStats w % 64 == 0
  && (!sweep || (decide (m < 3) && suaSweeps w != 0 && betaOk (suaBeta w) && (win == 0 || (decide (16 ≤ win) && decide (win ≤ 1024)))))
  && (!chrom || (decide (1 ≤ suaClasses w) && decide (suaClasses w ≤ 256)))

/-- Step 1 for ANNEAL_RUN (R185). -/
def annealFormat (w : Nat) : Bool :=
  let mask := dsBits 0 7 0 ||| dsBits 0 9 9 ||| dsBits 4 2 0 ||| dsBits 8 23 0 ||| dsBits 0xC 31 0 ||| dsBits 0x10 127 0 ||| dsBits 0x20 31 0 |||
    dsBits 0x24 21 0 ||| dsBits 0x28 15 0 ||| (if anInit w then dsBits 4 11 8 ||| dsBits 0x38 63 0 else 0) ||| (if anStats w then dsBits 0x30 63 0 else 0)
  (w &&& mask) == w && (!anInit w || decide (2 ≤ anInitShift w)) && anSteps w != 0 && anDt w != 0
  && descProblem w % 64 == 0 && descStats w % 64 == 0

/-- Step 4 for the SUA and anneal operations (R154). -/
def suaRange (cores n w : Nat) (stats : Bool) : Bool :=
  bit (descMask w) n && (descMask w &&& cores) == descMask w && offInShare (descProblem w) 64 && (!stats || offInShare (descStats w) 64)

/-- Step 1 for a token draw (R199). -/
def tokenFormat (w : Nat) : Bool :=
  let mask := dsBits 0 2 0 ||| dsBits 0 9 9 ||| dsBits 4 20 0 ||| dsBits 8 12 0 ||| dsBits 0xC 31 0 ||| dsBits 0x10 20 0 ||| dsBits 0x14 20 0 |||
    dsBits 0x18 63 0 ||| dsBits 0x20 31 0 ||| dsBits 0x28 127 0
  (w &&& mask) == w && tkFmt w != 3
  && decide (1 ≤ tkVocab w) && decide (tkVocab w ≤ 1048576) && decide (1 ≤ tkSeqs w) && decide (tkSeqs w ≤ 4096)
  && decide (1 ≤ tkCount w) && decide (tkFirst w + tkCount w ≤ tkVocab w)
  && tkLogit w % 64 == 0 && tkStride w % 64 == 0 && decide (tkCount w * tkSize w ≤ tkStride w) && tkParam w % 64 == 0 && tkOut w % 64 == 0

/-- Step 4 for a token draw (R199). -/
def tokenRange (cores n w : Nat) : Bool :=
  let lead := (maskCores (descMask w)).headD 0
  bit (descMask w) n && (descMask w &&& cores) == descMask w
  && offInShare (tkLogit w) ((tkSeqs w - 1) * tkStride w + tkCount w * tkSize w) && offInShare (tkOut w) (8 * tkSeqs w)
  && (n != lead || offInShare (tkParam w) (32 * tkSeqs w))

/-! ### The checks (Table 4-5) -/

/-- Which queue an OP enters: the matrix queue, the SUA queue, or none (R98). -/
def opQueue (op : Nat) : Option DescQueue :=
  if 1 ≤ op ∧ op ≤ 7 then some .matrix else if op = 0x10 ∨ op = 0x11 ∨ op = 0x20 then some .sua else none

/-- The code of an engine descriptor's checks on core n by tidy core m, if one fails (R101, R129, R154, R185). -/
def Dev.engineCheck (d : Dev) (j : Job) (n m w : Nat) : Option Nat :=
  let c := d.ctx j.ctx
  let k := d.core n
  let op := descOp w
  let fmt :=
    if op = 1 then c.matmulFormat w
    else if 2 ≤ op ∧ op ≤ 7 then c.accFormat w
    else if op = 0x10 ∨ op = 0x11 then suaFormat w
    else if op = 0x20 then annealFormat w
    else false
  let issuer := if 0x10 ≤ op then k.issuerS else k.issuerM
  let range :=
    if op = 1 then c.matmulRange n w
    else if op ≤ 7 then c.accRange j.cores n w
    else suaRange j.cores n w (if op = 0x20 then anStats w else suaStats w)
  if !fmt then some cBadFormat
  else if !c.throughput && issuer != m then some cIllegal
  else if op = 1 && !k.tagOk c w then some cBadFormat
  else if !range then some cOutOfRange
  else none

/-- The code of a token draw's checks, if one fails (R199). -/
def Dev.tokenCheck (d : Dev) (j : Job) (n m w : Nat) : Option Nat :=
  if !tokenFormat w then some cBadFormat
  else if !(d.ctx j.ctx).throughput && (d.core n).issuerS != m then some cIllegal
  else if !tokenRange j.cores n w then some cOutOfRange
  else none

end Sys2Proof.Machine
end

