-- ==== Sys2Proof/Machine/Flags.lean ====
section
/-! DEFINITION. Flags: those of the accumulator memory page (R139, R140, Table 5-6) and the floating-point flags of the tidy cores (R111, R116). -/

namespace Sys2Proof.Machine

/-- Record the arithmetic conditions that a descriptor met: the flags accrue, with the tiles written and the TAG of the first descriptor that raised one (R139, R140). -/
def Dev.raiseAcc (d : Dev) (n tiles tag : Nat) (f : AccFlags) : Dev :=
  d.updCore n (fun c =>
    let c := { c with truncRuns := satAdd 0xFFFFFFFF c.truncRuns f.truncRuns }
    if f.any then
      { c with
        accOf := c.accOf || f.ofl, accNv := c.accNv || f.nv, accNanIn := c.accNanIn || f.nanIn, accTrunc := c.accTrunc || f.runTrunc, accIov := c.accIov || f.iov
        flagTiles := c.flagTiles ||| tiles
        flagTag := if c.flagTagValid then c.flagTag else tag
        flagTagValid := true }
    else c)

/-- ACC_FLAGS as the page reads it (Table 5-8). -/
def Core.accFlags (c : Core) : Nat := b2n c.accOf + 2 * b2n c.accNv + 4 * b2n c.accNanIn + 8 * b2n c.accTrunc + 16 * b2n c.accIov

/-- A host write to ACC_FLAGS: a 1 clears; the tiles and the tag go when no flag is left (Table 5-8). -/
def Core.clearAccFlags (c : Core) (data : Nat) : Core :=
  let c := { c with
    accOf := c.accOf && !bit data 0, accNv := c.accNv && !bit data 1, accNanIn := c.accNanIn && !bit data 2
    accTrunc := c.accTrunc && !bit data 3, accIov := c.accIov && !bit data 4 }
  if c.accFlags = 0 then { c with flagTiles := 0, flagTag := 0, flagTagValid := false } else c

/-- SUA_FLAGS as the page reads it (Table 6-11). -/
def Sua.flags (s : Sua) : Nat := b2n s.conflict + 2 * b2n s.demoted + 4 * b2n s.stale + 8 * b2n s.clamped + 16 * b2n s.inexact

/-- A host write to SUA_FLAGS: a 1 clears. -/
def Sua.clearFlags (s : Sua) (data : Nat) : Sua :=
  { s with
    conflict := s.conflict && !bit data 0, demoted := s.demoted && !bit data 1, stale := s.stale && !bit data 2
    clamped := s.clamped && !bit data 3, inexact := s.inexact && !bit data 4 }

/-- Accrue floating-point flags on a tidy core: in `fflags`, and in TC_FFLAGS over the job (R111, R116). -/
def Tidy.accrue (x : Tidy) (flags : Nat) : Tidy := { x with fcsr := x.fcsr ||| flags, fflags := x.fflags ||| flags }

end Sys2Proof.Machine
end

