-- ==== Sys2Proof/Machine/Tidy.lean ====
section
/-! DEFINITION. Tidy cores: base instructions, the custom instructions of Table 4-7, R196 and R269, issue to the queues, and exceptions (R101 to R117, R196, R206 to R218, R269, R271). -/

namespace Sys2Proof.Machine

/-! ### Registers -/

/-- A scalar register; x0 reads zero. -/
def Tidy.get (x : Tidy) (r : Nat) : Nat := if r % 32 = 0 then 0 else x.x.getD (r % 32) 0

/-- Write a scalar register; x0 discards the write. -/
def Tidy.set (x : Tidy) (r v : Nat) : Tidy := if r % 32 = 0 then x else { x with x := x.x.put (r % 32) (w64 v) }

/-- VLEN, bits of a vector register (R17). -/
def vlen : Nat := 2048

/-- Registers of a group under the LMUL of vtype: 8, 4, 2, or 1 for LMUL ≤ 1. -/
def Tidy.group (x : Tidy) : Nat :=
  match x.vtype % 8 with
  | 1 => 2
  | 2 => 4
  | 3 => 8
  | _ => 1

/-- SEW is 32 and vtype is legal (R109). -/
def Tidy.sew32 (x : Tidy) : Bool := bits x.vtype 5 3 == 2 && !bit x.vtype 63 && x.vtype % 8 != 4

/-- A vector register group as one number. -/
def Tidy.vget (x : Tidy) (r : Nat) : Nat := (upFrom 0 x.group).foldl (fun n k => n + x.v.getD (r + k) 0 * 2 ^ (vlen * k)) 0

/-- Write a vector register group. -/
def Tidy.vset (x : Tidy) (r v : Nat) : Tidy :=
  { x with v := (upFrom 0 x.group).foldl (fun t k => t.put (r + k) ((v >>> (vlen * k)) % 2 ^ vlen)) x.v }

/-- Element i of a 32-bit group. -/
def elem32 (v i : Nat) : Nat := (v >>> (32 * i)) % 2 ^ 32

/-- Whether a register number may name a group under the present LMUL. -/
def Tidy.groupOk (x : Tidy) (r : Nat) : Bool := decide (r < 32) && r % x.group == 0

/-! ### Running and trapping -/

/-- The running job of a tidy core that can take its next instruction: RUNNING, or stalled at a full queue. -/
def Dev.tidyJob (d : Dev) (tc : Nat) : Option (Nat × Job) :=
  let x := d.tidy tc
  if decide (tc < 128) && (x.tstate == .running || (x.tstate == .waitEngine && x.wait.isNone)) then d.coreJob (tc / 8) else none

/-- The page of a tidy core. -/
def tidyPage (tc : Nat) : Nat := (UnitId.tidy (tc / 8) (tc % 8)).page

/-- The first instruction of a launched job moves it to RUNNING (Table 2-13). -/
def Dev.jobIssues (d : Dev) (id : Nat) : Dev := d.updJob id (fun j => if j.jstate = .launched then { j with jstate := .running } else j)

/-- A synchronous exception (R117): the page records it, and the job ends with JOB_FAULT, KIND 0x0C. -/
def Dev.tidyTrap (d : Dev) (id tc cause tval : Nat) : Dev :=
  let pc := (d.tidy tc).pc
  let d := d.updTidy tc (fun x => { x with tstate := .trapped, trapCause := cause % 256, trapPc := pc, trapTval := w64 tval })
  d.faultJob id 0x0C cause cJobFault (tidyPage tc) pc

/-- Retire an instruction: rd, and the next pc. -/
def Dev.retire (d : Dev) (tc rd v : Nat) : Dev :=
  (d.note (tidyPage tc) 0x380 1).updTidy tc (fun x => let x := x.set rd v; { x with pc := w64 (x.pc + 4), tstate := .running, wait := none })

/-- The R-type encoding of a custom instruction (R109). -/
def rType (opcode f3 f7 rd rs1 rs2 : Nat) : Nat :=
  opcode + 2 ^ 7 * (rd % 32) + 2 ^ 12 * f3 + 2 ^ 15 * (rs1 % 32) + 2 ^ 20 * (rs2 % 32) + 2 ^ 25 * f7

/-- Exception codes of the base privileged architecture and of Table 9-3 (R117, R218). -/
def exIllegal : Nat := 2
def exLoadMisaligned : Nat := 4
def exLoadAccess : Nat := 5
def exStoreAccess : Nat := 7
def exSlateUnavailable : Nat := 24
def exSlateExhausted : Nat := 25

/-- Run an instruction's body on a tidy core, if it can take one. A core that a debugger has halted takes only its single steps (R390). -/
def Dev.tidyRun (d : Dev) (tc : Nat) (body : Nat → Job → Tidy → Dev → Dev) : Dev :=
  match d.tidyJob tc with
  | none => d
  | some (id, j) =>
    let x := d.tidy tc
    if x.halted && x.steps == 0 then d
    else
      let d := (d.jobIssues id).updTidy tc (fun x => { x with steps := x.steps - 1 })
      body id j (d.tidy tc) d

/-! ### Base instructions (R17, R117, R253) -/

/-- Read a CSR of the user level: the floating-point, vector and custom ones, and any other as it was written last. -/
def Tidy.csrGet (x : Tidy) (n : Nat) : Nat :=
  if n = 1 then x.fcsr % 32 else if n = 2 then x.fcsr / 32 % 8 else if n = 3 then x.fcsr % 256
  else if n = 0x00F then x.csrs.getD 0x00A 0 * 2 + x.csrs.getD 0x009 0
  else if n = 0x800 then x.xrStream else if n = 0x801 then x.xrStep
  else if n = 0xC20 then x.vl else if n = 0xC21 then x.vtype else if n = 0xC22 then vlen / 8
  else x.csrs.getD n 0

/-- Write one; vl, vtype and VLENB are read-only. -/
def Tidy.csrSet (x : Tidy) (n v : Nat) : Tidy :=
  if n = 1 then { x with fcsr := x.fcsr / 32 % 8 * 32 + v % 32 } else if n = 2 then { x with fcsr := v % 8 * 32 + x.fcsr % 32 } else if n = 3 then { x with fcsr := v % 256 }
  else if n = 0x008 then { x with csrs := x.csrs.put n (v % vlen) } else if n = 0x009 then { x with csrs := x.csrs.put n (v % 2) } else if n = 0x00A then { x with csrs := x.csrs.put n (v % 4) }
  else if n = 0x00F then { x with csrs := (x.csrs.put 0x009 (v % 2)).put 0x00A (v / 2 % 4) }
  else if n = 0x800 then { x with xrStream := w64 v } else if n = 0x801 then { x with xrStep := w64 v }
  else if 0xC00 ≤ n then x
  else { x with csrs := x.csrs.put n (w64 v) }

/-- Write a 64-bit lane of a vector register. -/
def Tidy.vsetLane (x : Tidy) (r lane v : Nat) : Tidy :=
  let old := x.v.getD r 0
  { x with v := x.v.put r (old - (old / 2 ^ (64 * lane) % 2 ^ 64) * 2 ^ (64 * lane) + w64 v * 2 ^ (64 * lane)) }

/-- Apply a register write. -/
def Tidy.write (x : Tidy) : RegWrite → Tidy
  | .x n v => x.set n v
  | .f n v => { x with f := x.f.put (n % 32) (w64 v) }
  | .v n v => { x with v := x.v.put (n % 32) (v % 2 ^ vlen) }
  | .fcsr v => { x with fcsr := v % 256 }
  | .vl v => { x with vl := v }
  | .vtype v => { x with vtype := w64 v }
  | .csr n v => x.csrSet n v
  | .reserve a => { x with reservation := a }

/-- A tidy core's stores: bytes under a write-out in progress become undefined (R132), and a running group descriptor is disturbed (R172). -/
def Dev.tidyStores (d : Dev) (stores : List Host.Cell) : Dev :=
  stores.foldl (fun d c =>
    let d := d.storeDev c.1 [c.2]
    { d with cores := d.cores.map (fun k =>
        if k.2.shadow.any (fun b => b.2.dests.any (fun r => rangesMeet r.1 r.2 c.1 1)) then
          (k.1, { k.2 with shadow := k.2.shadow.map (fun b => if b.2.dests.any (fun r => rangesMeet r.1 r.2 c.1 1) then (b.1, { b.2 with dirty := c.1 :: b.2.dirty }) else b) })
        else k) }) d

/-- The first of some ranges that a core's requests cannot reach, with the code that answers. -/
def Dev.lostPath (d : Dev) (n : Nat) (rs : List (Nat × Nat)) : Option (Nat × Nat) :=
  rs.findSome? (fun r => (d.pathFault (some n) r.1 r.2).map (fun c => (c, r.1)))

/-- Tracking entries that the requests of a core to other homes pass through, and their bytes (R275, R441). -/
def Dev.tidyTracks (d : Dev) (ctx : Nat) (rs : List (Nat × Nat)) (write : Bool) : Dev := rs.foldl (fun d r => d.trackPass (some ctx) r.1 r.2 write) d

/-- The instruction at a tidy core's pc, as a sample names it. -/
def Dev.instrItem (d : Dev) (id tc : Nat) : SampleItem :=
  let pc := (d.tidy tc).pc
  let w := memNat d.devMem pc 4
  { noItem with precise := true, kind := 0, tidy := tc % 8, job := id, itemAddr := pc, itemWord := if w % 4 = 3 then w else w % 65536 }

/-- What a load or store instruction counts: itself, an access outside the own share, and its slot of the core, retired or squashed by a trap (R435, R436). -/
def Dev.noteAccess (d : Dev) (id tc : Nat) (store squashed : Bool) (rs : List (Nat × Nat)) : Dev :=
  match rs with
  | [] => d
  | (a, _) :: _ =>
    let x := { d.instrItem id tc with dataAddr := a, category := b2n squashed }
    let d := d.noteSlot (tc / 8) (if store then 3 else 2) (b2n squashed) 1 x
    if squashed then d
    else
      let d := d.note (tidyPage tc) (if store then 0x382 else 0x381) 1 x
      if rs.all (fun r => inShare (tc / 8) r.1 r.2) then d else d.note (tidyPage tc) 0x383 1 x

/-- An instruction's loads and stores, then its next registers: an access outside the granted memory raises an exception (R117, R251), a unit that answers UNIT_OFFLINE or UNIT_RESET faults the job with KIND 0x0B (R403, R406), and a poisoned load with KIND 0x0A (R400). -/
def Dev.tidyApply (d : Dev) (id tc : Nat) (j : Job) (loads : List (Nat × Nat)) (stores : List Host.Cell) (f : Tidy → Tidy) : Dev :=
  let from' := loads.map (fun r => (j.redirect r.1, r.2))
  let into := stores.map (fun c => (c.1, 1))
  match loads.find? (fun r => !d.granted j r.1 r.2 false), stores.find? (fun c => !d.granted j c.1 1 true) with
  | some r, _ => (d.noteAccess id tc false true loads).tidyTrap id tc exLoadAccess r.1
  | none, bad =>
    match d.lostPath (tc / 8) from', loads.findSome? (fun r => d.jobPoisonLine j r.1 r.2), bad, d.lostPath (tc / 8) into with
    | some e, _, _, _ => d.faultJob id 0x0B 0 e.1 (tidyPage tc) e.2
    | none, some a, _, _ => d.faultJob id 0x0A 0 cJobFault (tidyPage tc) a
    | none, none, some c, _ => (d.noteAccess id tc true true into).tidyTrap id tc exStoreAccess c.1
    | none, none, none, some e => d.faultJob id 0x0B 0 e.1 (tidyPage tc) e.2
    | none, none, none, none =>
      let d := ((d.noteAccess id tc false false loads).noteAccess id tc true false into).note (tidyPage tc) 0x380 1 (d.instrItem id tc)
      (((d.tidyTracks j.ctx from' false).tidyTracks j.ctx into true).tidyStores stores).updTidy tc (fun x => { f x with tstate := .running, wait := none })

/-- A base instruction whose effect is given (notes/assumptions/30.md), as `tidyApply` applies it. -/
def Dev.tidyBase (d : Dev) (tc : Nat) (effect : TidyEffect) : Dev :=
  d.tidyRun tc (fun id j _ d =>
    match effect with
    | .retire writes loads stores nextPc flags =>
      d.tidyApply id tc j (loads.map (fun a => (a, 1))) stores (fun x => { (writes.foldl Tidy.write x).accrue (flags % 32) with pc := w64 nextPc })
    | .trap cause tval => d.tidyTrap id tc cause tval
    | .stepEnd => d.endStep id (tc / 8) (tc % 8)
    | .fetch => d)

/-! ### Issue (R101 to R103, R110, R196, R269, R271) -/

/-- The ticket after one (R110). -/
def nextTicketOf (t : Nat) : Nat := if t = 0xFFFF then 1 else t + 1

/-- A rejection: rd holds the code, and the matrix engine page the entry of R101. -/
def Dev.issueReject (d : Dev) (tc rd code w : Nat) : Dev :=
  let d := (d.note (UnitId.me (tc / 8)).page 0x203 1).updCore (tc / 8) (fun c => { c with rejects := satAdd 0xFFFFFFFF c.rejects 1, rejectCode := code, rejectTidy := tc % 8, rejectTag := descTag w })
  d.retire tc rd code

/-- Count the acceptance from another tidy core than the last one's (R103). -/
def Dev.countIssue (d : Dev) (id : Nat) (last : Option Nat) (m : Nat) (throughput : Bool) : Dev :=
  match last with
  | some l => if throughput && l != m then d.countTdc id .issue else d
  | none => d

/-- Accept a descriptor into one of the engine queues of core n. -/
def Dev.accept (d : Dev) (id : Nat) (j : Job) (n m rd w addr : Nat) (token : Bool) (q : DescQueue) : Dev :=
  let c := d.core n
  let mask := descMask w
  let ticket := c.nextTicket
  let group := q = .sua
  let x : Desc := { ticket, tidy := m, word := w, token, addr, ordinal := if group then c.groupCount.getD mask 0 else 0 }
  let thr := (d.ctx j.ctx).throughput
  let d := d.countIssue id (if q = .sua then c.lastIssuerS else c.lastIssuerM) m thr
  let d := d.updCore n (fun c =>
    let c := { c with nextTicket := nextTicketOf ticket }
    if group then { c with suaQ := c.suaQ ++ [x], lastIssuerS := some m, groupCount := c.groupCount.put mask (c.groupCount.getD mask 0 + 1) }
    else { c with matrixQ := c.matrixQ ++ [x], lastIssuerM := some m })
  d.retire (8 * n + m) rd (ticket * 65536)

/-- Stall at a full queue; the instruction presents its descriptor again (R101). -/
def Dev.stallIssue (d : Dev) (tc : Nat) : Dev := d.updTidy tc (fun x => { x with tstate := .waitEngine, wait := none })

/-- Read the 64-byte request at an address for an issuing instruction, or raise the exception of R117; poison is consumed by the load (R400). Of an address both misaligned and outside the share, misalignment is raised: R117 does not say which (DESIGN CHOICE, notes/assumptions/72.md). -/
def Dev.issueRead (d : Dev) (id : Nat) (tc a : Nat) (body : Nat → Dev) : Dev :=
  if a % 64 ≠ 0 then d.tidyTrap id tc exLoadMisaligned a
  else if !inShare (tc / 8) a 64 then d.tidyTrap id tc exLoadAccess a
  else if d.poisoned a 64 then d.faultJob id 0x0A 0 cJobFault (tidyPage tc) a
  else body (memNat d.devMem a 64)

/-- `xm.issue` (R98, R101, R110). -/
def Dev.xmIssue (d : Dev) (tc rd rs1 : Nat) : Dev :=
  d.tidyRun tc (fun id j x d =>
    let n := tc / 8
    let m := tc % 8
    d.issueRead id tc (x.get rs1) (fun w =>
      match d.engineCheck j n m w, opQueue (descOp w) with
      | some code, _ => d.issueReject tc rd code w
      | none, none => d.issueReject tc rd cBadFormat w
      | none, some q =>
        let len := if q = .sua then (d.core n).suaQ.length else (d.core n).matrixQ.length
        if 16 ≤ len then d.stallIssue tc else d.accept id j n m rd w (x.get rs1) false q))

/-- `xt.draw` (R196, R199). -/
def Dev.xtDraw (d : Dev) (tc rd rs1 : Nat) : Dev :=
  d.tidyRun tc (fun id j x d =>
    let n := tc / 8
    let m := tc % 8
    d.issueRead id tc (x.get rs1) (fun w =>
      match d.tokenCheck j n m w with
      | some code => d.issueReject tc rd code w
      | none => if 16 ≤ (d.core n).suaQ.length then d.stallIssue tc else d.accept id j n m rd w (x.get rs1) true .sua))

/-- Entries of the mover's queue (Memory, Network and Placement). -/
def moveCapacity : Nat := 32

/-- `xd.move` (R269 to R271). -/
def Dev.xdMove (d : Dev) (tc rd rs1 : Nat) : Dev :=
  d.tidyRun tc (fun id j x d =>
    let n := tc / 8
    let m := tc % 8
    d.issueRead id tc (x.get rs1) (fun w =>
      match d.moveCheck j n m w with
      | some code => d.issueReject tc rd code w
      | none =>
        let c := d.core n
        if moveCapacity ≤ c.moveQ.length then d.stallIssue tc
        else
          let net := mvOp w = 3
          let y : Desc := { ticket := c.nextMove, tidy := m, word := w, addr := x.get rs1, ordinal := if net then c.netCount.getD (mvMask w) 0 else 0 }
          let d := if net then d.countIssue id c.lastNetAdd m (d.ctx j.ctx).throughput else d
          let d := d.updCore n (fun c =>
            let c := { c with nextMove := nextTicketOf c.nextMove, moveQ := c.moveQ ++ [y] }
            if net then
              { c with
                netCount := c.netCount.put (mvMask w) (c.netCount.getD (mvMask w) 0 + 1), lastNetAdd := some m
                firstNetAdd := some (c.firstNetAdd.getD m) }
            else c)
          d.retire tc rd (y.ticket * 65536)))

/-- Whether a ticket names a request that has not completed. -/
def Core.waiting (c : Core) (move : Bool) (ticket : Nat) : Bool :=
  if move then c.moveQ.any (fun x => x.ticket == ticket) else (c.matrixQ ++ c.suaQ).any (fun x => x.ticket == ticket)

/-- `xm.wait` and `xd.wait`: stall while the ticket's request is queued, else write 0 (R110, R269). -/
def Dev.ticketWait (d : Dev) (tc rd rs1 : Nat) (move : Bool) : Dev :=
  d.tidyRun tc (fun _ _ x d =>
    let ticket := x.get rs1 % 65536
    if (d.core (tc / 8)).waiting move ticket then d.updTidy tc (fun x => { x with tstate := .waitEngine, wait := some { move, ticket, rd } })
    else d.retire tc rd 0)

/-- Retire the waits of a core's tidy cores whose tickets have completed. -/
def Dev.wakeTidies (d : Dev) (n : Nat) : Dev :=
  (upFrom 0 8).foldl (fun d m =>
    match (d.tidy (8 * n + m)).wait with
    | some w => if (d.core n).waiting w.move w.ticket then d else d.retire (8 * n + m) w.rd 0
    | none => d) d

/-- `xm.done`: the last completed ticket of a queue, and its depth (R110). -/
def Dev.xmDone (d : Dev) (tc rd rs1 : Nat) : Dev :=
  d.tidyRun tc (fun _ _ x d =>
    let c := d.core (tc / 8)
    let v := if bit (x.get rs1) 0 then c.lastDoneS + 65536 * c.suaQ.length else c.lastDoneM + 65536 * c.matrixQ.length
    d.retire tc rd v)

/-! ### Synchronisation (R82, R86, R110) -/

/-- An operation of a tidy core on an object of its job's context; any other object ends the job, KIND 0x0D (R86). -/
def Dev.tidySync (d : Dev) (tc rd obj : Nat) (op : Dev → Dev) : Dev :=
  d.tidyRun tc (fun id j _ d =>
    let o := d.sync obj
    if o.type = .unused ∨ o.owner ≠ j.ctx then d.faultJob id 0x0D 0 cJobFault (tidyPage tc) obj
    else (op d).retire tc rd 0)

/-- `xs.post`; a post of 0 applies nothing, since R83 gives POST for 1 and more (DESIGN CHOICE, notes/assumptions/72.md). -/
def Dev.xsPost (d : Dev) (tc rd rs1 rs2 : Nat) : Dev :=
  let obj := (d.tidy tc).get rs1 % 2 ^ 14
  let n := (d.tidy tc).get rs2 % 2 ^ 32
  d.tidySync tc rd obj (fun d => if n = 0 then d else d.syncPost obj n (some (d.sync obj).owner))

/-- `xs.clear`. -/
def Dev.xsClear (d : Dev) (tc rd rs1 : Nat) : Dev :=
  let obj := (d.tidy tc).get rs1 % 2 ^ 14
  d.tidySync tc rd obj (fun d => d.syncClear obj (some (d.sync obj).owner))

/-! ### Conversions and draws (R111 to R113, R209 to R212) -/

/-- Whether the conversion encodings are legal now: fmt below 8, SEW 32, groups aligned (R109). -/
def Tidy.vecOk (x : Tidy) (regs : List Nat) : Bool := x.sew32 && regs.all x.groupOk

/-- Retire a vector instruction that writes a group and accrues flags. -/
def Dev.retireVec (d : Dev) (tc vd v flags : Nat) : Dev :=
  (d.updTidy tc (fun x => (x.vset vd v).accrue flags)).retire tc 0 0

/-- Replace the first vl 32-bit elements of a group; the elements from vl upward keep their values, which R113 leaves open (DESIGN CHOICE, notes/assumptions/72.md). -/
def setElems (old : Nat) (es : List Nat) : Nat :=
  (old >>> (32 * es.length)) <<< (32 * es.length) ||| packBits 32 es

/-- funct7 of a conversion (R109). -/
def cvtF7 (fmt : Nat) (sat : Bool) : Nat := 64 * b2n sat + 2 * (fmt % 16) + 1

/-- `xc.cvt` (R111). -/
def Dev.xcCvt (d : Dev) (tc vd vs2 fmt : Nat) (sat : Bool) : Dev :=
  d.tidyRun tc (fun id _ x d =>
    if fmt ≤ 7 ∧ x.vecOk [vd, vs2] then
      let rs := (upFrom 0 x.vl).map (fun i => Machine.xcCvt fmt sat (elem32 (x.vget vs2) i))
      d.retireVec tc vd (packBits (fmtBits fmt) (rs.map (·.1))) (rs.foldl (fun a r => a ||| r.2) 0)
    else d.tidyTrap id tc exIllegal (rType 0x5B 0 (cvtF7 fmt sat) vd 0 vs2))

/-- The indigo word of a consumer under the CSRs of Table 4-9 (R210, R211). -/
def Tidy.indigo (x : Tidy) (seed : Nat) (c : Consumer) (i : Nat) : Nat := indigoWord seed c x.xrStream x.xrStep i

/-- `xc.srnd` (R112). -/
def Dev.xcSrnd (d : Dev) (tc vd vs2 rs1 fmt : Nat) (sat : Bool) : Dev :=
  d.tidyRun tc (fun id j x d =>
    if fmt ≤ 7 ∧ x.vecOk [vd, vs2] then
      let rs := (upFrom 0 x.vl).map (fun i => Machine.xcSrnd fmt sat (elem32 (x.vget vs2) i) (bits (x.indigo j.seed .sround (w64 (x.get rs1 + i))) 31 8))
      d.retireVec tc vd (packBits (fmtBits fmt) (rs.map (·.1))) (rs.foldl (fun a r => a ||| r.2.1) 0)
    else d.tidyTrap id tc exIllegal (rType 0x5B 1 (cvtF7 fmt sat) vd rs1 vs2))

/-- `xr.draw` (R113). -/
def Dev.xrDraw (d : Dev) (tc vd rs1 : Nat) : Dev :=
  d.tidyRun tc (fun id j x d =>
    if x.vecOk [vd] then
      let ws := (upFrom 0 x.vl).map (fun i => x.indigo j.seed .general (w64 (x.get rs1 + i)))
      d.retireVec tc vd (setElems (x.vget vd) ws) 0
    else d.tidyTrap id tc exIllegal (rType 0x5B 2 1 vd rs1 0))

/-- `xr.dmask`: bit i of the mask register is 1 when the dropout word reaches the threshold (R113); the bits from vl upward keep their values, which R113 leaves open (DESIGN CHOICE, notes/assumptions/72.md). -/
def Dev.xrDmask (d : Dev) (tc vd rs1 rs2 : Nat) : Dev :=
  d.tidyRun tc (fun id j x d =>
    if x.sew32 && decide (vd < 32) then
      let ms := (upFrom 0 x.vl).map (fun i => b2n (decide (x.get rs2 % 2 ^ 32 ≤ x.indigo j.seed .dropout (w64 (x.get rs1 + i)))))
      let old := x.v.getD vd 0
      let new := (old >>> x.vl) <<< x.vl ||| packBits 1 ms
      (d.updTidy tc (fun x => { x with v := x.v.put vd (new % 2 ^ vlen) })).retire tc 0 0
    else d.tidyTrap id tc exIllegal (rType 0x5B 3 1 vd rs1 rs2))

/-! ### Slate streams (R214 to R218) -/

/-- Words a slate stream holds (R214). -/
def slateEnd : Nat := 2 ^ 44

/-- Whether another running job of the context binds a stream (R216). -/
def Dev.slateBoundElsewhere (d : Dev) (id : Nat) (j : Job) (s : Nat) : Bool :=
  d.jobs.any (fun e => e.1 != id && e.2.ctx == j.ctx && e.2.jstate.running? && (e.2.slateBind.get? s).isSome)

/-- Draw vl words from position p of stream s into vd. -/
def Dev.slateWords (d : Dev) (tc vd : Nat) (j : Job) (x : Tidy) (s p : Nat) : Dev :=
  let ws := (upFrom 0 x.vl).map (fun i => slateWord j.seed s (p + i))
  d.retireVec tc vd (setElems (x.vget vd) ws) 0

/-- A shared reservation at the hub: the position advances, and another server than the last is a timing-dependent choice (R216). -/
def Dev.slateShared (d : Dev) (id tc : Nat) (j : Job) (s p vl : Nat) : Dev :=
  if vl = 0 then d
  else
    let d := d.updCtx j.ctx (fun c => { c with slate := c.slate.put s { pos := p + vl, touched := true } })
    let d := match j.slateLast.get? s with
      | some l => if l = tc then d else d.countTdc id .slate
      | none => d
    d.updJob id (fun j => { j with slateLast := j.slateLast.put s tc })

/-- `xr.slate` (R215, R216, R218). -/
def Dev.xrSlate (d : Dev) (tc vd rs1 : Nat) : Dev :=
  d.tidyRun tc (fun id j x d =>
    let s := x.get rs1 % 4096
    if !x.vecOk [vd] then d.tidyTrap id tc exIllegal (rType 0x5B 4 1 vd rs1 0)
    else
      match j.slateBind.get? s with
      | some owner =>
        let p := x.slate.getD s 0
        if owner ≠ tc then d.tidyTrap id tc exSlateUnavailable s
        else if slateEnd < p + x.vl then d.tidyTrap id tc exSlateExhausted s
        else
          let d := (d.slateWords tc vd j x s p).updTidy tc (fun x => { x with slate := x.slate.put s (p + x.vl) })
          if x.vl = 0 then d else d.updCtx j.ctx (fun c => { c with slate := c.slate.put s { c.slate.getD s {} with touched := true } })
      | none =>
        let p := ((d.ctx j.ctx).slate.getD s {}).pos
        if !(d.ctx j.ctx).throughput || d.slateBoundElsewhere id j s then d.tidyTrap id tc exSlateUnavailable s
        else if slateEnd < p + x.vl then d.tidyTrap id tc exSlateExhausted s
        else (d.slateShared id tc j s p x.vl).slateWords tc vd j x s p)

/-! ### The rows -/

/-- XR_CSR_WRITE (R114, R211): a CSR write of XR_STREAM or XR_STEP from register rs1; rd takes the old value. -/
def execXrCsrWrite (t tc : Nat) (swap : CsrSwap) (rs1 : Nat) (s : State) : Host.Outcome State Fault Refusal :=
  s.run t (fun d =>
    if swap.csr = 0x800 ∨ swap.csr = 0x801 then
      d.tidyRun tc (fun _ _ x d => (d.updTidy tc (fun y => y.csrSet swap.csr (x.get rs1))).retire tc swap.rd (x.csrGet swap.csr))
    else d)

/-- XM_ISSUE (R101). -/
def execXmIssue (t tc rd rs1 : Nat) (s : State) : Host.Outcome State Fault Refusal :=
  s.run t (fun d => d.xmIssue tc rd rs1)

/-- XM_WAIT (R110). -/
def execXmWait (t tc rd rs1 : Nat) (s : State) : Host.Outcome State Fault Refusal :=
  s.run t (fun d => d.ticketWait tc rd rs1 false)

/-- XM_DONE (R110). -/
def execXmDone (t tc rd rs1 : Nat) (s : State) : Host.Outcome State Fault Refusal :=
  s.run t (fun d => d.xmDone tc rd rs1)

/-- XS_POST (R82, R110). -/
def execXsPost (t tc rd rs1 rs2 : Nat) (s : State) : Host.Outcome State Fault Refusal :=
  s.run t (fun d => d.xsPost tc rd rs1 rs2)

/-- XS_CLEAR (R82, R110). -/
def execXsClear (t tc rd rs1 : Nat) (s : State) : Host.Outcome State Fault Refusal :=
  s.run t (fun d => d.xsClear tc rd rs1)

/-- XC_CVT (R111). -/
def execXcCvt (t tc vd vs2 fmt : Nat) (sat : Bool) (s : State) : Host.Outcome State Fault Refusal :=
  s.run t (fun d => d.xcCvt tc vd vs2 fmt sat)

/-- XC_SRND (R112). -/
def execXcSrnd (t tc vd vs2 rs1 fmt : Nat) (sat : Bool) (s : State) : Host.Outcome State Fault Refusal :=
  s.run t (fun d => d.xcSrnd tc vd vs2 rs1 fmt sat)

/-- XR_DRAW (R113). -/
def execXrDraw (t tc vd rs1 : Nat) (s : State) : Host.Outcome State Fault Refusal :=
  s.run t (fun d => d.xrDraw tc vd rs1)

/-- XR_DMASK (R113). -/
def execXrDmask (t tc vd rs1 rs2 : Nat) (s : State) : Host.Outcome State Fault Refusal :=
  s.run t (fun d => d.xrDmask tc vd rs1 rs2)

/-- XR_SLATE (R215). -/
def execXrSlate (t tc vd rs1 : Nat) (s : State) : Host.Outcome State Fault Refusal :=
  s.run t (fun d => d.xrSlate tc vd rs1)

/-- XT_DRAW (R196). -/
def execXtDraw (t tc rd rs1 : Nat) (s : State) : Host.Outcome State Fault Refusal :=
  s.run t (fun d => d.xtDraw tc rd rs1)

/-- XD_MOVE (R269). -/
def execXdMove (t tc rd rs1 : Nat) (s : State) : Host.Outcome State Fault Refusal :=
  s.run t (fun d => d.xdMove tc rd rs1)

/-- XD_WAIT (R269). -/
def execXdWait (t tc rd rs1 : Nat) (s : State) : Host.Outcome State Fault Refusal :=
  s.run t (fun d => d.ticketWait tc rd rs1 true)

end Sys2Proof.Machine
end

