-- ==== Sys2Proof/Machine/Matrix.lean ====
section
/-! DEFINITION. The matrix queue: MATMUL, the accumulator operations, the running-sum chain, write-outs and completion (R99, R100, R118 to R140, R301, R303). -/

namespace Sys2Proof.Machine

/-! ### Tiles (R100, R128) -/

/-- The place of an element among a core's tile words. -/
def tileKey (t r c : Nat) : Nat := t * 65536 + r * 256 + c

/-- A word of a tile; an element never written is +0. -/
def Core.tileWord (k : Core) (t r c : Nat) : Nat := k.tiles.getD (tileKey t r c) 0

/-- Write a word of a tile. -/
def Core.setWord (k : Core) (t r c v : Nat) : Core :=
  { k with tiles := if v = 0 then k.tiles.del (tileKey t r c) else k.tiles.put (tileKey t r c) v }

/-- Set a tile's top-left rows and columns to +0; the words outside stay (R303). -/
def Core.clearTile (k : Core) (t rows cols : Nat) : Core :=
  { k with tiles := k.tiles.filter (fun e => !(e.1 / 65536 == t && decide (e.1 / 256 % 256 < rows) && decide (e.1 % 256 < cols))) }

/-- Write a tile's top-left words, by place row × 256 + column; those of its rows and columns that are not listed become +0 (R303). -/
def Core.putTile (k : Core) (t rows cols : Nat) (ws : List (Nat × Nat)) : Core :=
  ws.foldl (fun k e => k.setWord t (e.1 / 256) (e.1 % 256) e.2) (k.clearTile t rows cols)

/-- The words of a tile's top-left region, by place. -/
def Core.grabTile (k : Core) (t rows cols : Nat) : List (Nat × Nat) :=
  (upFrom 0 rows).flatMap (fun r => (upFrom 0 cols).map (fun c => (r * 256 + c, k.tileWord t r c)))

/-- Whether a tile carries the tag INT32. -/
def Core.isInt (k : Core) (t : Nat) : Bool := bit k.tileInt t

/-! ### Which descriptor goes next (R102, R130, R131) -/

/-- The tile entries a descriptor reads or writes. -/
def tilesOf (w : Nat) : List Nat := if descOp w = 7 then [dsTile w, dsDst w] else [dsTile w]

/-- Whether a started descriptor has still to write its tile: the LAST link of a chain (R130). -/
def Desc.willWrite (x : Desc) : Bool := x.started && !x.landed && descOp x.word == 6 && dsRole x.word == 2

/-- The next descriptor of core n's matrix queue, when nothing holds it back. -/
def Core.nextMatrix (k : Core) : Option Desc :=
  match k.matrixQ.find? (fun x => !x.started && !x.landed) with
  | none => none
  | some x =>
    if k.fenceOpen x && !(k.matrixQ.any (fun y => y.willWrite && (tilesOf x.word).contains (dsTile y.word))) then some x else none

/-- The running job of a core with its next descriptor, when it is of an OP. -/
def Dev.matrixNext (d : Dev) (n op : Nat) : Option (Nat × Job × Desc) :=
  match d.coreJob n, (d.core n).nextMatrix with
  | some (id, j), some x => if descOp x.word = op then some (id, j, x) else none
  | _, _ => none

/-- A descriptor's results have landed. -/
def Dev.landMatrix (d : Dev) (n ticket : Nat) : Dev := d.updCore n (fun c => { c with matrixQ := landIn c.matrixQ ticket })

/-- A descriptor has passed to the accumulator and holds a shadow buffer. -/
def Dev.startMatrix (d : Dev) (n ticket : Nat) : Dev :=
  d.updCore n (fun c => { c with matrixQ := c.matrixQ.map (fun x => if x.ticket = ticket then { x with started := true } else x) })

/-- The lowest-numbered free shadow buffer (R131). -/
def Core.freeShadow (k : Core) : Option Nat := (upFrom 0 4).find? (fun b => (k.shadow.get? b).isNone)

/-! ### MATMUL (R99, R118 to R126) -/

/-- A row of an operand: its elements and scales. -/
def Dev.operandRow (d : Dev) (fmt k addr : Nat) (scaleAddr : Option Nat) : OperandRow :=
  { elems := unpackElems fmt k (d.readDev addr (rowBytes fmt k))
    scales := match scaleAddr with
      | some a => (d.readDev a (k / 32)).map (·.toNat)
      | none => [] }

/-- The rows of an operand. -/
def Dev.operand (d : Dev) (n fmt k addr stride : Nat) (scaled : Bool) (scaleAddr : Nat) : List OperandRow :=
  (upFrom 0 n).map (fun i => d.operandRow fmt k (addr + i * stride) (if scaled then some (scaleAddr + i * (k / 32)) else none))

/-- The totals of a MATMUL, by place in the tile, with the conditions met. -/
def Dev.matmulTotals (d : Dev) (c : Core) (e : ShapeEntry) (w : Nat) : List ((Nat × Nat) × AccFlags) :=
  let k := dsK w
  let g := e.geom
  let a := d.operand g.mt (dsAFmt w) k (dsAAddr w) (dsAStride w) (dsAScaled w) (dsAScale w)
  let b := d.operand g.nt (dsBFmt w) k (dsBAddr w) (dsBStride w) (dsBScaled w) (dsBScale w)
  let r0 := dsRowBlk w * g.mt
  let c0 := dsColBlk w * g.nt
  a.zipIdx.flatMap (fun x => b.zipIdx.map (fun y =>
    let r := r0 + x.2
    let cc := c0 + y.2
    let tIn := if dsContinue w then c.tileWord (dsTile w) r cc else 0
    let (v, f) := dotTotal (fmtClass (dsAFmt w)) g c.spill tIn x.1 y.1
    ((r * 256 + cc, v), f)))

/-- Runs of a MATMUL (R118); class I has none that spill. -/
def matmulRuns (e : ShapeEntry) (w : Nat) : Nat :=
  match fmtClass (dsAFmt w) with
  | .n => (dsK w + e.geom.runN - 1) / e.geom.runN
  | .h => (dsK w + e.geom.runH - 1) / e.geom.runH
  | .i => 0

/-- A descriptor takes the array: a change of shape or tile from the one before it counts (R97). -/
def Dev.onArray (d : Dev) (n shape tile : Nat) (x : SampleItem) : Dev :=
  let c := d.core n
  (d.note (UnitId.me n).page 0x202 (b2n (c.lastArray.any (fun y => y != (shape, tile)))) x).updCore n (fun c => { c with lastArray := some (shape, tile) })

/-- Run a MATMUL on core n: totals, tag, flags and counts (R99, R100, R126, R139, R140); a poisoned operand line faults the job (R400). -/
def Dev.matmul (d : Dev) (id n : Nat) (j : Job) (x : Desc) : Dev :=
  let w := x.word
  let ctx := d.ctx j.ctx
  match ctx.shapeOf (dsShape w) with
  | none => d
  | some e =>
    match d.firstPoison (matmulReads e w) with
    | some a => d.faultJob id 0x0A 0 cJobFault (UnitId.me n).page a
    | none =>
      let c := d.core n
      let ts := d.matmulTotals c e w
      let fl := ts.foldl (fun f y => f.or y.2) {}
      let tags := ctx.tagsAfter c.tileInt w
      let d := d.updCore n (fun c =>
        let c := ts.foldl (fun c y => c.setWord (dsTile w) (y.1.1 / 256) (y.1.1 % 256) y.1.2) c
        { c with tileInt := tags, spills := satAdd 0xFFFFFFFF c.spills (spillPoints c.spill (matmulRuns e w)) })
      let d := (d.raiseAcc n (2 ^ dsTile w) (descTag w) fl).landMatrix n x.ticket
      let item := x.item id 1 (dsAAddr w)
      let d := (d.onArray n (dsShape w) (dsTile w) item).note (UnitId.me n).page 0x201 (e.geom.mt * e.geom.nt * dsK w) item
      let d := d.note (UnitId.me n).page 0x204 ((matmulReads e w).foldl (fun s r => s + r.2) 0) item
      d.note (UnitId.acc n).page 0x281 (spillPoints c.spill (matmulRuns e w)) item

/-! ### The accumulator operations (Table 5-3) -/

/-- TILE_CLEAR. -/
def Dev.tileClear (d : Dev) (n : Nat) (j : Job) (x : Desc) : Dev :=
  let t := dsTile x.word
  let ctx := d.ctx j.ctx
  (d.updCore n (fun c => { c.clearTile t ctx.tileRows ctx.tileCols with tileInt := setTag c.tileInt t (dsClass x.word) })).landMatrix n x.ticket

/-- TILE_LOAD; a poisoned line is consumed by the engine. -/
def Dev.tileLoad (d : Dev) (id n : Nat) (j : Job) (x : Desc) : Dev :=
  let w := x.word
  let c := d.ctx j.ctx
  match d.firstPoison (c.accRegion w) with
  | some a => d.faultJob id 0x0A 0 cJobFault (UnitId.me n).page a
  | none =>
    let ws := (upFrom 0 c.tileRows).flatMap (fun r => (upFrom 0 c.tileCols).map (fun k =>
      (r * 256 + k, memNat d.devMem (dsAddr w + r * dsStride w + 4 * k) 4)))
    ((d.updCore n (fun k => { k.putTile (dsTile w) c.tileRows c.tileCols ws with tileInt := setTag k.tileInt (dsTile w) (dsClass w) })).landMatrix n x.ticket).onArray n 0 (dsTile w) (x.item id 1 (dsAddr w))

/-- TILE_COPY; it needs a shadow buffer (R131). -/
def Dev.tileCopy (d : Dev) (n : Nat) (j : Job) (x : Desc) : Dev :=
  let w := x.word
  let ctx := d.ctx j.ctx
  match (d.core n).freeShadow with
  | none => d
  | some _ =>
    (d.updCore n (fun c =>
      { c.putTile (dsDst w) ctx.tileRows ctx.tileCols (c.grabTile (dsTile w) ctx.tileRows ctx.tileCols) with tileInt := setTag c.tileInt (dsDst w) (c.isInt (dsTile w)) })).landMatrix n x.ticket

/-- Take a shadow buffer for a descriptor. -/
def Dev.takeShadow (d : Dev) (n : Nat) (x : Desc) (use : ShadowUse) (rows cols : Nat) (ws : List (Nat × Nat)) : Dev :=
  match (d.core n).freeShadow with
  | none => d
  | some b =>
    let sh : Shadow := { use, ticket := x.ticket, word := x.word, isInt := (d.core n).isInt (dsTile x.word), rows, cols, words := ws.filter (fun e => e.2 != 0) }
    (d.updCore n (fun c => { c with shadow := c.shadow.put b sh })).startMatrix n x.ticket

/-- The 256 results of a REDUCE (R135): it reads the tile's top-left rows and columns, and +0 outside them (R303). -/
def Core.reduceResults (k : Core) (rows cols w : Nat) : List (Nat × Nat) :=
  let t := dsTile w
  let word (r c : Nat) : Nat := if r < rows ∧ c < cols then k.tileWord t r c else 0
  (upFrom 0 256).map (fun m =>
    let es := (upFrom (dsFirst w) (dsCount w)).map (fun i => if dsRedDir w then word i m else word m i)
    (m, reduceWords (k.isInt t) (dsRedFn w) es))

/-- REDUCE: capture (R135). -/
def Dev.tileReduce (d : Dev) (n : Nat) (j : Job) (x : Desc) : Dev :=
  let c := d.ctx j.ctx
  d.takeShadow n x .reduce 1 256 ((d.core n).reduceResults c.tileRows c.tileCols x.word)

/-- TILE_DRAIN: capture of the whole tile entry (R131). -/
def Dev.tileDrain (d : Dev) (n : Nat) (j : Job) (x : Desc) : Dev :=
  let c := d.ctx j.ctx
  d.takeShadow n x .drain c.tileRows c.tileCols ((d.core n).grabTile (dsTile x.word) c.tileRows c.tileCols)

/-- CHAIN_ADD reaches the accumulator: FIRST captures its running sum, MIDDLE and LAST wait for theirs (R137, R138). -/
def Dev.chainTake (d : Dev) (n : Nat) (j : Job) (x : Desc) : Dev :=
  let c := d.ctx j.ctx
  let ws := (d.core n).grabTile (dsTile x.word) c.tileRows c.tileCols
  d.takeShadow n x (if dsRole x.word = 0 then .chainSend else .chainWait) c.tileRows c.tileCols ws

/-! ### Write-out (R131, R132) -/

/-- The bytes of one row of a shadow buffer. -/
def Shadow.row (b : Shadow) (r : Nat) : List Byte := (upFrom 0 b.cols).flatMap (fun c => leBytes 4 (b.words.getD (r * 256 + c) 0))

/-- Write a shadow buffer out: each row at its place, and free values where a tidy core has stored meanwhile (R132). -/
def Dev.writeShadow (d : Dev) (b : Shadow) : Dev :=
  let d := b.dests.zipIdx.foldl (fun d e => d.storeDev e.1.1 (b.row e.2)) d
  b.dirty.foldl (fun d a => d.freeBytes a 1) d

/-- A buffer's write-out ends: the buffer is free, and its drain or reduce has landed. -/
def Dev.writeOutEnd (d : Dev) (n b : Nat) : Dev :=
  match d.coreJob n, (d.core n).shadow.get? b with
  | some _, some sh =>
    if sh.use = .drain ∨ sh.use = .reduce then
      (((d.writeShadow sh).updCore n (fun c => { c with shadow := c.shadow.del b })).landMatrix n sh.ticket).note (UnitId.acc n).page 0x280 1
    else d
  | _, _ => d

/-! ### The running-sum chain (R137, R138) -/

/-- The receiver's buffer for a sender's running sum: the link that NEXT_CORE names, waiting for this chain from this core. -/
def Dev.chainReceiver (d : Dev) (id n : Nat) (sh : Shadow) : Option (Nat × Nat × Shadow) :=
  let r := dsNext sh.word
  if (d.core r).job ≠ some id then none
  else
    match (d.core r).shadow.find? (fun e => e.2.use == .chainWait && dsChain e.2.word == dsChain sh.word && dsPrev e.2.word == n) with
    | some (b, x) => some (r, b, x)
    | none => none

/-- The sums x + t of a link, with the conditions met. -/
def chainSums (x t : Shadow) : List ((Nat × Nat) × AccFlags) :=
  (upFrom 0 t.rows).flatMap (fun r => (upFrom 0 t.cols).map (fun c =>
    let k := r * 256 + c
    let (v, f) := chainAdd t.isInt (x.words.getD k 0) (t.words.getD k 0)
    ((k, v), f)))

/-- Hand a running sum to its receiver (R138): a tag mismatch faults the job, KIND 0x0E; else the sender's link lands, and the receiver adds its own tile and sends on, or writes its tile. -/
def Dev.handOver (d : Dev) (id n b : Nat) (sh : Shadow) (r rb : Nat) (x : Shadow) : Dev :=
  if sh.isInt ≠ x.isInt then d.faultJob id 0x0E 0 cJobFault (UnitId.acc r).page (dsChain x.word)
  else
    let ss := chainSums sh x
    let fl := ss.foldl (fun f y => f.or y.2) {}
    let ws := (ss.map (·.1)).filter (fun e => e.2 != 0)
    let d := (d.updCore n (fun c => { c with shadow := c.shadow.del b })).landMatrix n sh.ticket
    if dsRole x.word = 2 then
      let d := d.updCore r (fun c => { c.putTile (dsTile x.word) x.rows x.cols ws with shadow := c.shadow.del rb })
      (d.raiseAcc r (2 ^ dsTile x.word) (descTag x.word) fl).landMatrix r x.ticket
    else
      let d := d.updCore r (fun c => { c with shadow := c.shadow.put rb { x with use := .chainSend, words := ws } })
      d.raiseAcc r 0 (descTag x.word) fl

/-- RUNNING_SUM_HANDOVER from core n: the lowest buffer whose receiver is ready. -/
def Dev.runningSum (d : Dev) (n : Nat) : Dev :=
  match d.coreJob n with
  | none => d
  | some (id, _) =>
    match (d.core n).shadow.findSome? (fun e => if e.2.use = .chainSend then (d.chainReceiver id n e.2).map (fun r => (e.1, e.2, r)) else none) with
    | some (b, sh, r, rb, x) => d.handOver id n b sh r rb x
    | none => d

/-! ### Completion (R102, R130, R269) -/

/-- Count a completion. -/
def Dev.completed (d : Dev) (n : Nat) (q : DescQueue) (x : SampleItem) : Dev :=
  match q with
  | .matrix => d.note (UnitId.me n).page 0x200 1 x
  | .sua => d
  | .move => d.note (UnitId.core n).page 0x111 1 x

/-- A token draw at the head of a core's queue ends once it has run: its group leaves, and it lands on every member (R200). -/
def Dev.endTokenDraw (d : Dev) (n : Nat) : Dev :=
  match d.groupOn n with
  | some (key, g) => if groupKind g.token g.word = .token then d.endGroup key g else d
  | none => d

/-- The head of a queue that has landed completes, and the tidy cores that wait for it go on (R110). -/
def Dev.descComplete (d : Dev) (n : Nat) (q : DescQueue) : Dev :=
  match d.coreJob n with
  | none => d
  | some (id, _) =>
    let d := if q = .sua then d.endTokenDraw n else d
    let c := d.core n
    let pop (l : List Desc) (f : Desc → Core → Core) : Dev :=
      match l with
      | x :: _ => if x.landed then ((d.updCore n (f x)).wakeTidies n).completed n q (x.item id (if q = .move then 2 else 1) (wfld x.word 0x10 63 0)) else d
      | [] => d
    match q with
    | .matrix => pop c.matrixQ (fun x c => { c with matrixQ := c.matrixQ.drop 1, lastDoneM := x.ticket })
    | .sua => pop c.suaQ (fun x c => { c with suaQ := c.suaQ.drop 1, lastDoneS := x.ticket })
    | .move => pop c.moveQ (fun x c => { c with moveQ := c.moveQ.drop 1, lastDoneMove := x.ticket })

/-! ### The rows -/

/-- MATMUL (R99). -/
def execMatmul (t core : Nat) (s : State) : Host.Outcome State Fault Refusal :=
  s.run t (fun d =>
    match d.matrixNext core 1 with
    | some (id, j, x) => d.matmul id core j x
    | none => d)

/-- REDUCE (R135). -/
def execReduce (t core : Nat) (s : State) : Host.Outcome State Fault Refusal :=
  s.run t (fun d =>
    match d.matrixNext core 2 with
    | some (_, j, x) => d.tileReduce core j x
    | none => d)

/-- TILE_CLEAR (R128). -/
def execTileClear (t core : Nat) (s : State) : Host.Outcome State Fault Refusal :=
  s.run t (fun d =>
    match d.matrixNext core 3 with
    | some (_, j, x) => d.tileClear core j x
    | none => d)

/-- TILE_DRAIN (R128, R131). -/
def execTileDrain (t core : Nat) (s : State) : Host.Outcome State Fault Refusal :=
  s.run t (fun d =>
    match d.matrixNext core 4 with
    | some (_, j, x) => d.tileDrain core j x
    | none => d)

/-- TILE_LOAD (R128). -/
def execTileLoad (t core : Nat) (s : State) : Host.Outcome State Fault Refusal :=
  s.run t (fun d =>
    match d.matrixNext core 5 with
    | some (id, j, x) => d.tileLoad id core j x
    | none => d)

/-- TILE_COPY (R128). -/
def execTileCopy (t core : Nat) (s : State) : Host.Outcome State Fault Refusal :=
  s.run t (fun d =>
    match d.matrixNext core 7 with
    | some (_, j, x) => d.tileCopy core j x
    | none => d)

/-- CHAIN_ADD (R137). -/
def execChainAdd (t core : Nat) (s : State) : Host.Outcome State Fault Refusal :=
  s.run t (fun d =>
    match d.matrixNext core 6 with
    | some (_, j, x) => d.chainTake core j x
    | none => d)

/-- RUNNING_SUM_HANDOVER (R138). -/
def execRunningSumHandover (t core : Nat) (s : State) : Host.Outcome State Fault Refusal :=
  s.run t (fun d => d.runningSum core)

/-- WRITE_OUT_END (R131). -/
def execWriteOutEnd (t core buffer : Nat) (s : State) : Host.Outcome State Fault Refusal :=
  s.run t (fun d => d.writeOutEnd core buffer)

/-- DESCRIPTOR_COMPLETE (R130). -/
def execDescriptorComplete (t core : Nat) (queue : DescQueue) (s : State) : Host.Outcome State Fault Refusal :=
  s.run t (fun d => d.descComplete core queue)

end Sys2Proof.Machine
end

