-- ==== Sys2Proof/Machine/Contexts.lean ====
section
/-! DEFINITION. Contexts: creation, destruction, saved images, shape realisation and restore (R219, R287 to R307, R408 to R412). -/

namespace Sys2Proof.Machine

/-! ### Creation and destruction (R288, R289) -/

/-- The shape map of a native FS16 context. -/
def nativeShapes : Tab ShapeEntry := (upFrom 0 6).map (fun s => (s, { realise := 1, shape := s, geom := nativeShape s }))

/-- A context just created. -/
def Ctx.fresh (throughput : Bool) (owner n : Nat) : Ctx :=
  { cstate := .idle, throughput, owner, geomCores := n, log2Rows := 8, log2Cols := 8, shapes := nativeShapes }

/-- A context's tree change: a virtual function's view holds the page of the context it owns (R38). -/
def Dev.ctxTree (d : Dev) (fn : Nat) : Dev := if fn = 0 then d else d.bumpTree fn

/-- Forget a context's hold on accumulators and tidy cores, so that no later context takes them for its own (R407). -/
def Dev.disown (d : Dev) (n : Nat) : Dev :=
  { d with cores := d.cores.map (fun (k : Nat × Core) => if k.2.lastCtx = some n then (k.1, { k.2 with lastCtx := none }) else k) }

/-- Step 8 of CTX_CREATE (R288). -/
def Dev.ctxCreate (c : Cmd) (d : Dev) : Dev :=
  match (upFrom 0 64).find? (fun n => (d.ctx n).cstate == .free) with
  | none => d.answer c cNoResource 0 0
  | some n =>
    let d := { d with ctxs := d.ctxs.put n (Ctx.fresh (c.fld 0x18 0 0 == 1) c.fn d.nCores) }
    (d.ctxTree c.fn).answer c cOk n 0

/-- Free everything a context holds, and the context itself (R289); its ports' windows and transfer rings close (Table 19-8). -/
def Dev.destroyCtx (d : Dev) (n : Nat) : Dev :=
  let d := d.closeCtxPorts n
  let ids := (d.jobs.filter (fun e => e.2.ctx == n)).map (·.1)
  let d := ids.foldl (fun d id => d.releaseJob id) d
  let d := { d with
    regions := d.regions.filter (fun e => e.2.owner != n)
    deferred := d.deferred.filter (fun x => x.ctx != n)
    syncs := d.syncs.map (fun (e : Nat × SyncObj) => if e.2.owner = n then (e.1, { e.2 with type := .unused, owner := 0x7F }) else e) }
  let owner := (d.ctx n).owner
  let d := { d with ctxs := d.ctxs.del n }
  (d.disown n).ctxTree owner

/-- The further condition of CTX_DESTROY, CTX_SAVE and CTX_RESTORE: owned, not in save or restore, its jobs as asked (Table 2-11). -/
def Dev.ctxJobsCond (d : Dev) (c : Cmd) (bad : JobState → Bool) : Option Nat :=
  if !d.ctxOwned c.fn c.ctx then some cIllegal
  else if (d.ctx c.ctx).cstate == .saving || (d.ctx c.ctx).cstate == .restoring then some cIllegal
  else if d.anyJob (fun j => j.ctx == c.ctx && bad j.jstate) then some cIllegal
  else none

/-! ### The saved image (R298, R299, R408 to R411) -/

/-- A section: its directory fields, the bytes it holds, and the device address of byte 0 of its memory with the place of that byte in the section, when it holds memory that can be poisoned. -/
structure Section where
  type : Nat
  core : Nat := 0
  notOwned : Bool := false
  bytes : List Byte
  source : Option (Nat × Nat × Nat) := none

/-- Log2 of a power of two. -/
def log2Of (n : Nat) : Nat := Nat.log2 n

/-- A shape table entry: the association that the code produces (Table 12-5). -/
def ShapeEntry.word (e : ShapeEntry) : Nat :=
  e.geom.mt + e.geom.nt * 2 ^ 9 + log2Of e.geom.q * 2 ^ 18 + log2Of e.geom.runN * 2 ^ 21 + log2Of e.geom.runH * 2 ^ 24 + 2 ^ 31

/-- Fields of CTX_SAVE (Table 17-4). -/
def saveAddr (c : Cmd) : Nat := c.qw 0x18
def saveLimit (c : Cmd) : Nat := c.dw 0x20
def saveCores (c : Cmd) : Nat := c.fld 0x24 15 0
def saveShare (c : Cmd) : Nat := c.dw 0x28
def saveRegions (c : Cmd) : Bool := c.fld 0x2C 0 0 == 1

/-- The geometry header (Table 12-4). -/
def Dev.geometryHeader (d : Dev) (c : Cmd) : List Byte :=
  let k := d.ctx c.ctx
  leBytes 4 (1 + 2 ^ 10 * b2n k.throughput) ++ leBytes 4 (d.nCores + 2 ^ 8 * 16 + 2 ^ 16 * 8) ++ leBytes 4 (saveCores c)
  ++ leBytes 4 (k.log2Rows + 16 * k.log2Cols) ++ leBytes 4 (saveShare c) ++ leBytes 4 4096
  ++ (upFrom 0 8).flatMap (fun i => leBytes 4 (match k.shapes.get? i with
      | some e => if e.realise = 0 then 0 else e.word
      | none => 0))
  ++ leBytes 4 (48 + 256 * 3) ++ leBytes 4 0

/-- Whether a core's accumulator and tidy cores belong to a context (R407). -/
def Dev.ownsCore (d : Dev) (ctx n : Nat) : Bool := (d.core n).lastCtx == some ctx

/-- The TILES section of a core. -/
def Dev.tilesSection (d : Dev) (ctx n : Nat) : Section :=
  let k : Core := if d.ownsCore ctx n then d.core n else {}
  let c := d.ctx ctx
  { type := 1, core := n, notOwned := !d.ownsCore ctx n
    bytes := leBytes 4 k.tileInt ++ leBytes 4 k.spill ++ leBytes 56 0
      ++ (upFrom 0 32).flatMap (fun t => (k.grabTile t c.tileRows c.tileCols).flatMap (fun e => leBytes 4 e.2)) }

/-- CSR addresses of vstart, vxsat and vxrm. -/
def csrVstart : Nat := 0x008
def csrVxsat : Nat := 0x009
def csrVxrm : Nat := 0x00A

/-- A tidy core's record of 9,216 bytes (Table 17-7). -/
def Tidy.record (x : Tidy) : List Byte :=
  (upFrom 0 32).flatMap (fun r => leBytes 8 (x.get r)) ++ (upFrom 0 32).flatMap (fun r => leBytes 8 (x.f.getD r 0))
  ++ leBytes 8 x.fcsr ++ leBytes 8 (x.csrs.getD csrVstart 0) ++ leBytes 8 x.vl ++ leBytes 8 x.vtype ++ leBytes 8 (x.csrs.getD csrVxrm 0)
  ++ leBytes 8 (x.csrs.getD csrVxsat 0) ++ leBytes 8 x.xrStream ++ leBytes 8 x.xrStep ++ leBytes 0x1C0 0
  ++ (upFrom 0 32).flatMap (fun r => leBytes 256 (x.v.getD r 0))

/-- The TIDY section of a core. -/
def Dev.tidySection (d : Dev) (ctx n : Nat) : Section :=
  let own := d.ownsCore ctx n
  { type := 2, core := n, notOwned := !own, bytes := (upFrom 0 8).flatMap (fun m => (if own then d.tidy (8 * n + m) else {}).record) }

/-- Bytes of memory with every byte of a poisoned line all ones (R411). -/
def Dev.savedBytes (d : Dev) (a n : Nat) : List Byte := (upFrom a n).map (fun x => if d.linePoisoned (x / 64) then 0xFF else memRead d.devMem x)

/-- The SRAM section of a core. -/
def Dev.sramSection (d : Dev) (share n : Nat) : Section :=
  { type := 3, core := n, bytes := d.savedBytes (shareBase n) share, source := some (shareBase n, 0, share) }

/-- The SLATE section (Table 9-4). The position 2^44 of an exhausted stream does not fit its 44 bits: they are zero, as the reserved bits beside them are (DESIGN CHOICE, notes/assumptions/72.md). -/
def Ctx.slateSection (c : Ctx) : Section :=
  { type := 4, bytes := (upFrom 0 4096).flatMap (fun s => let x := c.slate.getD s {}; leBytes 8 (x.pos % 2 ^ 44 + 2 ^ 63 * b2n x.touched)) }

/-- A region table entry as Table 11-2 lays it out. -/
def Region.word (r : Region) : Nat :=
  r.mode + 4 * r.target + 2 ^ 7 * r.base + 2 ^ 18 * r.owner + 2 ^ 25 * b2n r.readOnly + 2 ^ 26 * b2n r.persist

/-- The REGION sections of a context's persistent allocations. -/
def Dev.regionSections (d : Dev) (c : Cmd) : List Section :=
  (d.ctx c.ctx).persist.flatMap (fun a => (upFrom a.firstRegion a.regions).map (fun r =>
    let base := r * regionBytes
    { type := 5
      bytes := leBytes 4 (d.region r).word ++ leBytes 4 a.key ++ leBytes 8 a.size ++ leBytes 16 0 ++ (if saveRegions c then d.savedBytes base regionBytes else [])
      source := if saveRegions c then some (base, 32, regionBytes) else none }))

/-- Poisoned lines of a section: their offsets within it. -/
def Dev.sectionPoison (d : Dev) (x : Section) : List Nat :=
  match x.source with
  | none => []
  | some (a, off, n) => (d.poisonedIn a n).map (fun l => off + (64 * l - a))

/-- Every section of a save, the POISON section last where a line is poisoned (R410, R411; notes/assumptions/13.md). -/
def Dev.saveSections (d : Dev) (c : Cmd) : List Section :=
  let cs := maskCores (saveCores c)
  let ss := cs.map (d.tilesSection c.ctx) ++ cs.map (d.tidySection c.ctx) ++ cs.map (d.sramSection (saveShare c)) ++ [(d.ctx c.ctx).slateSection] ++ d.regionSections c
  let ps := ss.zipIdx.flatMap (fun e => (d.sectionPoison e.1).map (fun o => (e.2, o)))
  if ps.isEmpty then ss else ss ++ [{ type := 6, bytes := ps.flatMap (fun p => leBytes 8 p.1 ++ leBytes 8 p.2) }]

/-- The next multiple of 4,096. -/
def alignPage (n : Nat) : Nat := (n + 4095) / 4096 * 4096

/-- Offsets of sections of the lengths given, each on a 4,096-byte boundary, and the trailer's. -/
def sectionOffsets : Nat → List Nat → List Nat × Nat
  | at', [] => ([], alignPage at')
  | at', n :: ns =>
    let o := alignPage at'
    let (os, e) := sectionOffsets (o + n) ns
    (o :: os, e)

/-- Bytes of a section of a save, from its kind alone (R408 counts them before the bytes are read). -/
def imageSize (lens : List Nat) : Nat := (sectionOffsets (0x80 + 32 * lens.length) lens).2 + 64

/-- Section lengths of a save. -/
def Dev.saveLengths (d : Dev) (c : Cmd) : List Nat :=
  let k := d.ctx c.ctx
  let cs := maskCores (saveCores c)
  let regions := k.persist.foldl (fun n a => n + a.regions) 0
  let rlen := 32 + (if saveRegions c then regionBytes else 0)
  let inSram := cs.flatMap (fun n => d.poisonedIn (shareBase n) (saveShare c))
  let inRegion := if saveRegions c then k.persist.flatMap (fun a => d.poisonedIn (a.firstRegion * regionBytes) (a.regions * regionBytes)) else []
  let bad := inSram.length + inRegion.length
  cs.map (fun _ => 64 + 32 * k.tileRows * k.tileCols * 4) ++ cs.map (fun _ => 8 * 9216) ++ cs.map (fun _ => saveShare c) ++ [32768]
  ++ List.replicate regions rlen ++ (if bad = 0 then [] else [16 * bad])

/-- The image of a context, laid out as R410 says. -/
def Dev.saveImage (d : Dev) (c : Cmd) : List Byte :=
  let ss := d.saveSections c
  let (os, trailer) := sectionOffsets (0x80 + 32 * ss.length) (ss.map (·.bytes.length))
  let header := leBytes 4 1 ++ leBytes 4 ss.length ++ leBytes 8 (trailer + 64) ++ leBytes 8 d.deviceTime ++ leBytes 0x28 0
  let dir := (ss.zip os).flatMap (fun e =>
    leBytes 4 (e.1.type + 2 ^ 8 * e.1.core + 2 ^ 16 * b2n (!(d.sectionPoison e.1).isEmpty) + 2 ^ 17 * b2n e.1.notOwned) ++ leBytes 4 0
    ++ leBytes 8 e.2 ++ leBytes 8 e.1.bytes.length ++ leBytes 8 0)
  let body := (ss.zip os).foldl (fun acc e => acc ++ leBytes (e.2 - acc.length) 0 ++ e.1.bytes) (d.geometryHeader c ++ header ++ dir)
  let body := body ++ leBytes (trailer - body.length) 0
  body ++ sha384 body ++ leBytes 16 0

/-- A save or restore joins those in progress. -/
def Dev.pushCtxOp (d : Dev) (o : CtxOp) : Dev := { d with ctxOps := d.ctxOps ++ [o], frostSaves := d.frostSaves.filter (fun n => n != o.ctx) }

/-- Step 8 of CTX_SAVE: its checks, and PENDING (R408, R409). -/
def Dev.ctxSave (c : Cmd) (d : Dev) : Dev :=
  let cs := maskCores (saveCores c)
  let size := imageSize (d.saveLengths c)
  if saveAddr c % 4096 ≠ 0 ∨ cs.isEmpty ∨ saveShare c % 4096 ≠ 0 ∨ shareBytes < saveShare c then d.answer c cBadFormat 0 0
  else if cs.any (fun n => decide (d.nCores ≤ n)) then d.answer c cOutOfRange 0 0
  else if cs.any (fun n => d.offline (.core n)) then d.answer c cUnitOffline 0 0
  else if saveLimit c < size ∨ 2 ^ 32 - 1 < size then d.answer c cOutOfRange 0 size
  else
    let d := d.answerPending c 0 0
    (d.updCtx c.ctx (fun k => { k with cstate := .saving })).pushCtxOp { ctx := c.ctx, cmd := { c with interim := true }, cores := saveCores c, restore := false }

/-- The operation in progress of a context. -/
def Dev.ctxOpOf (d : Dev) (ctx : Nat) (restore : Bool) : Option CtxOp := d.ctxOps.find? (fun o => o.ctx == ctx && o.restore == restore)

/-- Whether a save or restore may complete: no job still holds one of its cores, neither the scheduler core nor a cluster control core of its cores restarts, and for a save host writes are not stopped (R75, R371, R409, Table 15-3). -/
def Dev.ctxOpReady (d : Dev) (o : CtxOp) : Bool :=
  !(d.proc 2).restarting && (maskCores o.cores).all (fun n => (d.core n).job.isNone && !(d.proc (3 + coreCluster d.geo n)).restarting) && (o.restore || !d.hostStopped)

/-- A save or restore ends: the context returns to IDLE, and its final record is formed. -/
def Dev.endCtxOp (d : Dev) (o : CtxOp) (code r0 r1 : Nat) : Dev :=
  let d := { d with ctxOps := d.ctxOps.filter (fun x => x.ctx != o.ctx) }
  let d := d.updCtx o.ctx (fun k => { k with cstate := .idle })
  (d.finishCmd o.cmd code r0 r1).evalLaunches

/-- Poisoned lines of a save. -/
def Dev.savePoison (d : Dev) (c : Cmd) : Nat := ((d.saveSections c).map (fun x => (d.sectionPoison x).length)).sum

/-- A buffer of host memory whose contents are undefined (R409). -/
def Dev.freeHost (d : Dev) (a n : Nat) : Dev :=
  (upFrom 0 ((n + 7) / 8)).foldl (fun d i =>
    let (w, d) := d.takeFree
    d.writeHost (a + 8 * i) (leBytes (min 8 (n - 8 * i)) w)) d

/-- A context's last image holds these bytes of its cores' shares: a substitute receives them (R19; notes/assumptions/74.md). -/
def Dev.keepShares (d : Dev) (ctx cores share : Nat) : Dev :=
  let inImage (a : Nat) : Bool := (maskCores cores).any (fun n => decide (shareBase n ≤ a) && decide (a < shareBase n + share))
  d.updCtx ctx (fun k => { k with shareData := d.devMem.filter (fun c => inImage c.1) })

/-- A save completes: the image is written, or a save that met further poisoned lines reports the size then needed (R409). -/
def Dev.ctxSaveDone (d : Dev) (ctx : Nat) : Dev :=
  match d.ctxOpOf ctx false with
  | none => d
  | some o =>
    if d.ctxOpReady o then
      let size := imageSize (d.saveLengths o.cmd)
      if saveLimit o.cmd < size ∨ 2 ^ 32 - 1 < size then
        (d.freeHost (saveAddr o.cmd) (saveLimit o.cmd)).endCtxOp o cOutOfRange 0 size
      else
        let bad := d.savePoison o.cmd
        ((d.writeHost (saveAddr o.cmd) (d.saveImage o.cmd)).keepShares ctx (saveCores o.cmd) (saveShare o.cmd)).endCtxOp o cOk size bad
    else d

/-! ### Reading an image (R298, R299, R410 to R412) -/

/-- The geometry header of an image, as 16 dwords in one number. -/
structure Header where
  w : Nat

/-- Bits of the geometry header's dword at an offset. -/
def Header.fld (h : Header) (off hi lo : Nat) : Nat := bits h.w (8 * off + hi) (8 * off + lo)

def Header.fromFs8 (h : Header) : Bool := h.fld 0 9 8 == 1
def Header.cores (h : Header) : Nat := h.fld 4 4 0
def Header.tidyPerCore (h : Header) : Nat := h.fld 4 23 16
def Header.used (h : Header) : Nat := h.fld 8 15 0
def Header.log2Rows (h : Header) : Nat := h.fld 0xC 3 0
def Header.log2Cols (h : Header) : Nat := h.fld 0xC 7 4
def Header.share (h : Header) : Nat := h.fld 0x10 31 0
def Header.streams (h : Header) : Nat := h.fld 0x14 12 0
/-- The shape table entry of a code. -/
def Header.entry (h : Header) (c : Nat) : Nat := h.fld (0x18 + 4 * c) 31 0
/-- WINDOW_N and GUARD_H at the native widths. -/
def Header.nativeWidths (h : Header) : Bool := h.fld 0x38 7 0 == 48 && h.fld 0x38 15 8 == 3

/-- Fields of a shape table entry (Table 12-5). -/
def entValid (e : Nat) : Bool := bit e 31
def entMt (e : Nat) : Nat := bits e 8 0
def entNt (e : Nat) : Nat := bits e 17 9
def entQ (e : Nat) : Nat := 2 ^ bits e 19 18
def entTree (e : Nat) : Bool := bit e 20
def entLogN (e : Nat) : Nat := bits e 23 21
def entLogH (e : Nat) : Nat := bits e 26 24

/-- Reserved bits zero and every field inside Table 12-4 and Table 12-5 (R305 step 1). -/
def Header.ok (h : Header) : Bool :=
  h.fld 0 7 0 == 1 && decide (h.fld 0 9 8 < 2) && h.fld 0 31 11 == 0
  && decide (1 ≤ h.cores) && decide (h.cores ≤ 16) && h.fld 4 7 5 == 0 && h.fld 4 31 24 == 0
  && h.fld 8 31 16 == 0
  && decide (5 ≤ h.log2Rows) && decide (h.log2Rows ≤ 9) && decide (5 ≤ h.log2Cols) && decide (h.log2Cols ≤ 9) && h.fld 0xC 31 8 == 0
  && h.share % 4096 == 0 && decide (1 ≤ h.streams) && h.fld 0x14 31 13 == 0
  && h.fld 0x38 31 16 == 0 && h.fld 0x3C 31 0 == 0
  && (upFrom 0 8).all (fun c =>
      let e := h.entry c
      bits e 30 27 == 0 && (!entValid e || (decide (1 ≤ entMt e) && decide (entMt e ≤ 256) && decide (1 ≤ entNt e) && decide (entNt e ≤ 256))))

/-- A directory entry (Table 17-6). -/
structure DirEntry where
  type : Nat
  core : Nat
  reserved : Nat
  offset : Nat
  bytes : Nat
  deriving DecidableEq

/-- Fields of CTX_RESTORE (Table 12-6). -/
def restAddr (c : Cmd) : Nat := c.qw 0x18
def restBytes (c : Cmd) : Nat := c.dw 0x20
def restNoEmulate (c : Cmd) : Bool := c.fld 0x24 0 0 == 1

/-- A number in the image. -/
def Dev.img (d : Dev) (c : Cmd) (off n : Nat) : Nat := memNat d.hostMem (restAddr c + off) n

/-- The geometry header of the image. -/
def Dev.imgHeader (d : Dev) (c : Cmd) : Header := ⟨d.img c 0 64⟩

/-- The directory of the image. -/
def Dev.imgDir (d : Dev) (c : Cmd) : List DirEntry :=
  (upFrom 0 (d.img c 0x44 2)).map (fun i =>
    let w := d.img c (0x80 + 32 * i) 32
    { type := bits w 7 0, core := bits w 11 8, reserved := bits w 15 12 + bits w 63 18 + bits w 255 192, offset := bits w 127 64, bytes := bits w 191 128 })

/-- A section's length agrees with the geometry header, and its core is one of CORES_USED (R412). -/
def DirEntry.lengthOk (x : DirEntry) (h : Header) : Bool :=
  match x.type with
  | 1 => x.bytes == 64 + 32 * 2 ^ h.log2Rows * 2 ^ h.log2Cols * 4 && bit h.used x.core
  | 2 => x.bytes == h.tidyPerCore * 9216 && bit h.used x.core
  | 3 => x.bytes == h.share && bit h.used x.core
  | 4 => x.bytes == 8 * h.streams
  | 5 => x.bytes == 32 || x.bytes == 32 + regionBytes
  | 6 => x.bytes % 16 == 0
  | _ => false

/-- Whether two sections overlap. -/
def DirEntry.overlaps (x y : DirEntry) : Bool := rangesMeet x.offset x.bytes y.offset y.bytes

/-- Whether two sections are of one type and, where sections are per core, of one core; REGION sections may be many (Table 17-7; notes/assumptions/35.md). -/
def DirEntry.repeats (x y : DirEntry) : Bool := x.type == y.type && x.type != 5 && (decide (3 < x.type) || x.core == y.core)

/-- Some pair of a list satisfies a relation. -/
def anyPair (p : DirEntry → DirEntry → Bool) : List DirEntry → Bool
  | [] => false
  | x :: xs => xs.any (p x) || anyPair p xs

/-- Reserved bits of a REGION section's 32 bytes, and an entry that no region can have. -/
def regionWordOk (w : Nat) : Bool :=
  bits w 31 27 == 0 && bits w 255 128 == 0 && bits w 63 48 == 0
  && (match bits w 1 0 with
      | 1 => bits w 6 2 == 0
      | 2 => decide (bits w 6 2 < 4)
      | 3 => true
      | _ => false)

/-- Reserved bits inside the sections: R219 for the slate records, Table 17-7 for the others, with the bytes that it gives as zero (R412; notes/assumptions/35.md). -/
def Dev.sectionOk (d : Dev) (c : Cmd) (h : Header) (x : DirEntry) : Bool :=
  match x.type with
  | 1 => d.img c (x.offset + 8) 56 == 0 && decide (d.img c (x.offset + 4) 4 < 16)
  | 2 => (upFrom 0 h.tidyPerCore).all (fun m => d.img c (x.offset + 9216 * m) 8 == 0 && d.img c (x.offset + 9216 * m + 0x240) 0x1C0 == 0)
  | 4 => (upFrom 0 h.streams).all (fun i => bits (d.img c (x.offset + 8 * i) 8) 62 44 == 0)
  | 5 => regionWordOk (d.img c x.offset 32)
  | _ => true

/-- Whether the image is well formed (R412). -/
def Dev.imageOk (d : Dev) (c : Cmd) : Bool :=
  let h := d.imgHeader c
  let dir := d.imgDir c
  let len := restBytes c
  let trailer := len - 64
  let dirEnd := 0x80 + 32 * dir.length
  d.img c 0x40 1 == 1 && d.img c 0x41 3 == 0 && d.img c 0x46 2 == 0 && d.img c 0x48 8 == len && d.img c 0x58 0x28 == 0
  && decide (dirEnd + 64 ≤ len) && len % 4096 == 64
  && dir.all (fun x => x.reserved == 0 && x.offset % 4096 == 0 && decide (dirEnd ≤ x.offset) && decide (x.offset + x.bytes ≤ trailer) && x.lengthOk h && d.sectionOk c h x)
  && !anyPair DirEntry.overlaps dir && !anyPair DirEntry.repeats dir
  && (maskCores h.used).all (fun n => [1, 2, 3].all (fun t => dir.any (fun x => x.type == t && x.core == n)))
  && sha384 (memReadN d.hostMem (restAddr c) trailer) == memReadN d.hostMem (restAddr c + trailer) 48 && d.img c (trailer + 48) 16 == 0

/-! ### Shape realisation (R300 to R302) -/

/-- The lowest native shape that satisfies a predicate. -/
def shapeWith (p : ShapeGeom → Bool) : Option Nat := (upFrom 0 6).find? (fun s => p (nativeShape s))

/-- Whether a number is a power of two. -/
def isPow2 (n : Nat) : Bool := n != 0 && 2 ^ Nat.log2 n == n

/-- The geometry that an emulated entry is run with, its runs capped as R302 says. -/
def entGeom (e : Nat) : ShapeGeom := { mt := entMt e, nt := entNt e, q := entQ e, runN := 2 ^ min (entLogN e) 5, runH := 2 ^ min (entLogH e) 3 }

/-- Whether an entry is EMULATED when it is not NATIVE (R300). -/
def Header.emulates (h : Header) (e : Nat) : Bool :=
  !entTree e && decide (entLogN e ≤ 5) && decide (entLogH e ≤ 3) && h.nativeWidths
  && isPow2 (entMt e) && isPow2 (entNt e) && decide (entMt e ≤ 2 ^ h.log2Rows) && decide (entNt e ≤ 2 ^ h.log2Cols)

/-- The shape that runs a NATIVE entry. -/
def Header.native (h : Header) (e : Nat) : Option Nat :=
  if !entTree e && entLogN e == 5 && entLogH e == 3 && h.nativeWidths then
    shapeWith (fun g => g.mt == entMt e && g.nt == entNt e && g.q == entQ e)
  else none

/-- The shape map entry of a VALID entry; none when the profile has no realisation for it. -/
def Header.realise (h : Header) (throughput : Bool) (e : Nat) : Option ShapeEntry :=
  match h.native e with
  | some s => some { realise := 1, shape := s, geom := nativeShape s }
  | none =>
    if throughput then
      match shapeWith (fun g => g.mt == entMt e && g.nt == entNt e) with
      | some s => some { realise := 3, shape := s, geom := nativeShape s }
      | none => some { realise := if h.emulates e then 2 else 3, shape := 0, emulated := true, geom := entGeom e }
    else if h.emulates e then some { realise := 2, shape := 0, emulated := true, geom := entGeom e }
    else none

/-- The shape map that an image gives a context. -/
def Header.shapeMap (h : Header) (throughput : Bool) : Tab ShapeEntry :=
  (upFrom 0 8).filterMap (fun c => if entValid (h.entry c) then (h.realise throughput (h.entry c)).map (fun e => (c, e)) else none)

/-- CTX_REALISE and CTX_SHAPE_MAP (Table 12-8). -/
def Ctx.realiseWord (c : Ctx) : Nat := c.shapes.foldl (fun w e => w + e.2.realise * 4 ^ e.1) 0
def Ctx.shapeWord (c : Ctx) : Nat := c.shapes.foldl (fun w e => w + e.2.shape * 16 ^ e.1) 0

/-! ### Regions of an image (R305 step 4, R411) -/

/-- Consecutive REGION sections of one key and size, as one allocation: its first section's words, and how many. -/
def regionGroups : List Nat → List (Nat × Nat)
  | [] => []
  | w :: ws =>
    match regionGroups ws with
    | (v, n) :: gs => if bits w 127 32 = bits v 127 32 then (w, n + 1) :: gs else (w, 1) :: (v, n) :: gs
    | [] => [(w, 1)]

/-- The REGION sections of an image, in directory order. -/
def Dev.imgRegions (d : Dev) (c : Cmd) : List DirEntry := (d.imgDir c).filter (fun x => x.type == 5)

/-- Map the allocations that an image holds, each as R262 allocates DRAM. -/
def Dev.mapGroups (d : Dev) (ctx : Nat) : List (Nat × Nat) → Option (List PersistAlloc × Dev)
  | [] => some ([], d)
  | (w, n) :: gs =>
    match d.slotRun n with
    | none => none
    | some r =>
      match d.mapRun (bits w 1 0) (bits w 6 2) ctx (bit w 25) true r n with
      | none => none
      | some d =>
        match Dev.mapGroups d ctx gs with
        | none => none
        | some (as, d) =>
          some ({ key := bits w 47 32, size := bits w 127 64, place := bits w 1 0 + 1, firstRegion := r, regions := n, mode := bits w 1 0, target := bits w 6 2, fallback := false } :: as, d)

/-! ### CTX_RESTORE (R304 to R306) -/

/-- The checks of R305 before the regions are mapped. -/
def Dev.restoreCheck (d : Dev) (c : Cmd) : Option Nat :=
  let h := d.imgHeader c
  let k := d.ctx c.ctx
  if restAddr c % 4096 ≠ 0 ∨ !h.ok ∨ !d.imageOk c ∨ (restNoEmulate c && k.throughput) then some cBadFormat
  else if (maskCores h.used).any (fun n => decide (d.nCores ≤ n)) ∨ 8 < h.tidyPerCore ∨ 8 < h.log2Rows ∨ 8 < h.log2Cols ∨ shareBytes < h.share ∨ 4096 < h.streams then
    some cGeometryMismatch
  else if !k.throughput && (upFrom 0 8).any (fun i =>
      entValid (h.entry i) && (match h.realise false (h.entry i) with
        | none => true
        | some e => restNoEmulate c && e.realise == 2)) then some cGeometryMismatch
  else none

/-- Step 8 of CTX_RESTORE: the checks of R305; a command that passes maps the image's regions and is answered PENDING. -/
def Dev.ctxRestore (c : Cmd) (d : Dev) : Dev :=
  match d.restoreCheck c with
  | some code => d.answer c code 0 0
  | none =>
    match d.mapGroups c.ctx (regionGroups ((d.imgRegions c).map (fun x => d.img c x.offset 32))) with
    | none => d.answer c cNoResource 0 0
    | some (as, d) =>
      let d := d.answerPending c 0 0
      let d := d.updCtx c.ctx (fun k => { k with cstate := .restoring, persist := as ++ k.persist })
      d.pushCtxOp { ctx := c.ctx, cmd := { c with interim := true }, cores := (d.imgHeader c).used, restore := true }

/-- Bytes of a section of the image. -/
def Dev.imgBytes (d : Dev) (c : Cmd) (off n : Nat) : List Byte := memReadN d.hostMem (restAddr c + off) n

/-- The section of a type and core. -/
def Dev.imgSection (d : Dev) (c : Cmd) (type core : Nat) : Option DirEntry := (d.imgDir c).find? (fun x => x.type == type && x.core == core)

/-- Restore a core's tile entries, tags and `ACC_SPILL` (R306). -/
def Dev.restoreTiles (d : Dev) (c : Cmd) (h : Header) (n : Nat) : Dev :=
  match d.imgSection c 1 n with
  | none => d
  | some x =>
    let rows := 2 ^ h.log2Rows
    let cols := 2 ^ h.log2Cols
    let k := d.core n
    let k := { k with tiles := [], tileInt := d.img c x.offset 4, spill := d.img c (x.offset + 4) 4, shadow := [], badWords := [], lastCtx := some c.ctx }
    let k := (upFrom 0 32).foldl (fun k t =>
      k.putTile t rows cols ((upFrom 0 rows).flatMap (fun r => (upFrom 0 cols).map (fun j =>
        (r * 256 + j, d.img c (x.offset + 64 + ((t * rows + r) * cols + j) * 4) 4))))) k
    { d with cores := d.cores.put n k }

/-- A tidy core from its record (Table 17-7). -/
def Dev.tidyFrom (d : Dev) (c : Cmd) (off : Nat) : Tidy :=
  let q (i : Nat) : Nat := d.img c (off + 8 * i) 8
  { x := (upFrom 1 31).map (fun r => (r, q r)), f := (upFrom 0 32).map (fun r => (r, q (32 + r)))
    fcsr := q 64 % 256, csrs := [(csrVstart, q 65), (csrVxsat, q 69), (csrVxrm, q 68)], vl := q 66, vtype := q 67, xrStream := q 70, xrStep := q 71
    v := (upFrom 0 32).map (fun r => (r, d.img c (off + 0x400 + 256 * r) 256)) }

/-- The registers of a tidy core's page, and what a debugger has done to it, which no image holds (Table 17-7). -/
def Tidy.keepPage (x old : Tidy) : Tidy :=
  { x with tstate := old.tstate, fflags := old.fflags, trapCause := old.trapCause, trapPc := old.trapPc, trapTval := old.trapTval, halted := old.halted, steps := old.steps }

/-- Restore a core's tidy cores: those the image holds from their records, the others reset (R306). -/
def Dev.restoreTidies (d : Dev) (c : Cmd) (h : Header) (n : Nat) : Dev :=
  match d.imgSection c 2 n with
  | none => d
  | some x =>
    (upFrom 0 8).foldl (fun d m =>
      { d with tidies := d.tidies.put (8 * n + m) ((if m < h.tidyPerCore then d.tidyFrom c (x.offset + 9216 * m) else {}).keepPage (d.tidy (8 * n + m))) }) d

/-- Restore a core's share: the saved bytes, and zero beyond them (R306). -/
def Dev.restoreShare (d : Dev) (c : Cmd) (h : Header) (n : Nat) : Dev :=
  match d.imgSection c 3 n with
  | none => d
  | some x => (d.zeroDev (shareBase n) shareBytes).writeDev (shareBase n) (d.imgBytes c x.offset h.share)

/-- The device region of each REGION section, in directory order: the allocations mapped for the image stand first. -/
def Dev.restoredRegions (d : Dev) (c : Cmd) : List Nat :=
  ((d.ctx c.ctx).persist.flatMap (fun a => upFrom a.firstRegion a.regions)).take (d.imgRegions c).length

/-- Restore the contents of the regions, where the image holds them (R411). -/
def Dev.restoreRegions (d : Dev) (c : Cmd) : Dev :=
  ((d.imgRegions c).zip (d.restoredRegions c)).foldl (fun d e =>
    if e.1.bytes = 32 then d else d.writeDev (e.2 * regionBytes) (d.imgBytes c (e.1.offset + 32) regionBytes)) d

/-- The device line of an entry of the POISON section. -/
def Dev.poisonTarget (d : Dev) (c : Cmd) (i off : Nat) : Option Nat :=
  match (d.imgDir c)[i]? with
  | none => none
  | some x =>
    if x.type = 3 ∧ off < x.bytes then some ((shareBase x.core + off) / 64)
    else if x.type = 5 ∧ 32 ≤ off ∧ off < x.bytes then
      let k := (((d.imgDir c).take i).filter (fun y => y.type == 5)).length
      ((d.restoredRegions c)[k]?).map (fun r => (r * regionBytes + (off - 32)) / 64)
    else none

/-- Poison again the lines that the image lists (R411). -/
def Dev.restorePoison (d : Dev) (c : Cmd) : Dev :=
  ((d.imgDir c).filter (fun x => x.type == 6)).foldl (fun d x =>
    (upFrom 0 (x.bytes / 16)).foldl (fun d i =>
      match d.poisonTarget c (d.img c (x.offset + 16 * i) 8) (d.img c (x.offset + 16 * i + 8) 8) with
      | some l => d.poisonLine l
      | none => d) d) d

/-- The slate positions of an image: streams it does not hold start at 0, untouched (R219). -/
def Dev.imgSlate (d : Dev) (c : Cmd) (h : Header) : Tab Slate :=
  match (d.imgDir c).find? (fun x => x.type == 4) with
  | none => []
  | some x =>
    (upFrom 0 h.streams).filterMap (fun i =>
      let w := d.img c (x.offset + 8 * i) 8
      if w = 0 then none else some (i, { pos := bits w 43 0, touched := bit w 63 }))

/-- A restore completes (R302, R305, R306). -/
def Dev.ctxRestoreDone (d : Dev) (ctx : Nat) : Dev :=
  match d.ctxOpOf ctx true with
  | none => d
  | some o =>
    if d.ctxOpReady o then
      let c := o.cmd
      let h := d.imgHeader c
      let d := (maskCores h.used).foldl (fun d n => ((d.restoreTiles c h n).restoreTidies c h n).restoreShare c h n) d
      let d := { d with geom := { d.geom with restoreDue := d.geom.restoreDue - (d.geom.restoreDue &&& h.used) } }
      let d := (d.keepShares ctx h.used h.share).restoreRegions c |>.restorePoison c
      let slate := d.imgSlate c h
      let shapes := h.shapeMap (d.ctx ctx).throughput
      let subs := (shapes.filter (fun (e : Nat × ShapeEntry) => e.2.realise == 3)).length
      let d := d.updCtx ctx (fun k =>
        { k with
          geomCores := h.cores, fromFs8 := h.fromFs8, log2Rows := h.log2Rows, log2Cols := h.log2Cols, shapes, slate
          tdcTotal := w64 (k.tdcTotal + subs), tdcRestore := satAdd 0xFFFFFFFF k.tdcRestore subs })
      let k := d.ctx ctx
      d.endCtxOp o cOk (k.realiseWord + 2 ^ 16 * k.shapeWord) subs
    else d

/-! ### The rows -/

/-- CTX_CREATE's row of Table 2-11 and Table 12-1. -/
def specCtxCreate : CmdSpec :=
  { opcode := 0x0010, states := [.frost, .active], mask := opBits 0x18 0 0, noTarget := true, noCtx := true, noJob := true, proc := some 2 }

/-- CTX_DESTROY's row of Table 2-11. -/
def specCtxDestroy : CmdSpec := { opcode := 0x0011, states := [.frost, .active, .snowpack], proc := some 2 }

/-- CTX_SAVE's row of Table 2-11 and Table 17-4. -/
def specCtxSave : CmdSpec :=
  { opcode := 0x0012, states := [.frost, .active], noJob := true, proc := some 2
    mask := opBits 0x18 63 0 ||| opBits 0x20 31 0 ||| opBits 0x24 15 0 ||| opBits 0x28 31 0 ||| opBits 0x2C 0 0 }

/-- CTX_RESTORE's row of Table 2-11 and Table 12-6. -/
def specCtxRestore : CmdSpec :=
  { opcode := 0x0013, states := [.frost, .active], proc := some 2, mask := opBits 0x18 63 0 ||| opBits 0x20 31 0 ||| opBits 0x24 0 0 }

/-- CTX_CREATE (R288). -/
def execCtxCreate (t ring : Nat) (s : State) : Host.Outcome State Fault Refusal :=
  s.run t (fun d => d.ringCmd ring (fun _ => specCtxCreate) anyForm (fun _ => none) (fun c d => d.ctxCreate c))

/-- Whether the CTX_DESTROY that stands next on a ring waits for its context's started and incoming transfers (Table 19-8): it would otherwise be executed. -/
def Dev.destroyWaits (d : Dev) (ring : Nat) : Bool :=
  let next := match d.waitingHead specCtxDestroy ring anyForm with
    | some (_, c) => some c
    | none => d.headCmd ring
  match next with
  | none => false
  | some c => c.opcode == 0x0011 && c.formed specCtxDestroy && (d.legal c specCtxDestroy (d.ctxJobsCond c JobState.live?)).isNone && d.xferBusy c.ctx

/-- CTX_DESTROY (R289). -/
def execCtxDestroy (t ring : Nat) (s : State) : Host.Outcome State Fault Refusal :=
  s.run t (fun d => if d.destroyWaits ring then d else d.ringCmd ring (fun _ => specCtxDestroy) anyForm (fun c => d.ctxJobsCond c JobState.live?) (fun c d => (d.destroyCtx c.ctx).answer c cOk 0 0))

/-- CTX_SAVE (R408). -/
def execCtxSave (t ring : Nat) (s : State) : Host.Outcome State Fault Refusal :=
  s.run t (fun d => d.ringCmd ring (fun _ => specCtxSave) anyForm (fun c => d.ctxJobsCond c JobState.running?) (fun c d => d.ctxSave c))

/-- CTX_SAVE_DONE (R409). -/
def execCtxSaveDone (t ctx : Nat) (s : State) : Host.Outcome State Fault Refusal :=
  s.run t (fun d => d.ctxSaveDone ctx)

/-- CTX_RESTORE (R305). -/
def execCtxRestore (t ring : Nat) (s : State) : Host.Outcome State Fault Refusal :=
  s.run t (fun d => d.ringCmd ring (fun _ => specCtxRestore) anyForm (fun c => d.ctxJobsCond c (fun js => !js.over?)) (fun c d => d.ctxRestore c))

/-- CTX_RESTORE_DONE (R306). -/
def execCtxRestoreDone (t ctx : Nat) (s : State) : Host.Outcome State Fault Refusal :=
  s.run t (fun d => d.ctxRestoreDone ctx)

end Sys2Proof.Machine
end

