-- ==== Sys2Proof/Machine/Fatal.lean ====
section
/-! DEFINITION. Fatal errors: what entering DUMPING does, and the thermal trip (R328, R422 to R424). -/

namespace Sys2Proof.Machine

/-- The class-15 record of a fatal error (R423). -/
def Dev.class15 (d : Dev) (cause time : Nat) : Dev := d.raise 15 cDeviceFatal 0 cause time

/-- A held dump counts a later fatal error (R424). -/
def Dump.countFatal (x : Dump) : Dump := { x with laterFatals := satAdd 0xFFFF x.laterFatals 1 }

/-- A fatal error (R422 to R424): its fault record, a class-15 record, and DUMPING, where every port is disabled (Table 19-8). While a dump is held or being written it counts in LATER_FATALS and writes no new dump. -/
def Dev.fatal (d : Dev) (cause page kind address : Nat) (syndrome : Nat := 0) : Dev :=
  if d.modState = .reset then d
  else
    let d := (d.logFault page kind sevFatal 0x7F address 0 syndrome).class15 cause d.deviceTime
    match d.flt.fatal with
    | some f =>
      if f.later then { d with flt := { d.flt with dump := d.flt.dump.map Dump.countFatal } }
      else { d with flt := { d.flt with fatal := some { f with laterFatals := satAdd 0xFFFF f.laterFatals 1 } } }
    | none =>
      let held := d.flt.dump.map Dump.countFatal
      let f : Fatal := { cause, time := d.deviceTime, prev := d.modState.code, later := held.isSome, record := d.faultData d.deviceTime page kind sevFatal 0x7F address 0 syndrome 1 }
      (({ d with flt := { d.flt with dump := held, fatal := some f } } : Dev).move .dumping).disablePorts

/-- The state that the cluster dies lose with their rails: the large cores, the tidy cores, the SRAM shares and what their control cores hold; a core keeps its place in a job, which changes no state (R328, R423). -/
def Dev.dropRails (d : Dev) : Dev :=
  let d := { d with
    cores := d.cores.map (fun (k : Nat × Core) => (k.1, ({ job := k.2.job } : Core)))
    tidies := []
    groups := []
    cccs := d.cccs.map (fun (k : Nat × Ccc) => (k.1, { k.2 with errq := [] }))
    procs := d.procs.map (fun (k : Nat × Proc) => if 3 ≤ k.1 then (k.1, { k.2 with waiting := [] }) else k)
    boot := { d.boot with railsOff := true } }
  (upFrom 0 16).foldl (fun d n => d.zeroDev (shareBase n) shareBytes) d

/-- The unit of a temperature source of Table 13-6: 0 to 3 a cluster, 4 the hub, 8 to 39 a stack. -/
def sensorUnit (source : Nat) : UnitId :=
  if source < 4 then .cluster source else if source = 4 then .hub else .dram (source - 8)

/-- A thermal trip (R328): the cluster rails drop, THERM_TRIP_N goes low, and the trip is a fatal error whose fault record names the sensor and its reading. -/
def Dev.trip (d : Dev) (source temp : Nat) : Dev :=
  if d.pins.thermTrip then d
  else
    let d := d.dropRails
    let d := { d with pins := { d.pins with thermTrip := true }, boot := { d.boot with tripped := true } }
    d.fatal 0x01 (sensorUnit source).page 0 (temp + 256 * source)

/-- FATAL_ERROR (R422): causes 0x02 and 0x05, and any other cause of Table 17-10, detected at a unit. -/
def execFatalError (t cause page detail : Nat) (s : State) : Host.Outcome State Fault Refusal :=
  s.run t (fun d => if 1 ≤ cause ∧ cause ≤ 5 then d.fatal cause page (if cause = 2 then 0x09 else 0) detail else d)

/-- SECURITY_WATCHDOG (Table 17-10): the security core has been silent for 1 s. -/
def execSecurityWatchdog (t : Nat) (s : State) : Host.Outcome State Fault Refusal :=
  s.run t (fun d => d.fatal 0x03 UnitId.sec.page 0 0)

/-- CONTROL_MESSAGE_TIMEOUT (Table 17-10): a control message older than 10 µs at an arbiter. -/
def execControlMessageTimeout (t page : Nat) (s : State) : Host.Outcome State Fault Refusal :=
  s.run t (fun d => d.fatal 0x04 page 0 0)

end Sys2Proof.Machine
end

