-- ==== Sys2Proof/Machine/Errors.lean ====
section
/-! DEFINITION. Errors, the patrol scrub, slots and spares, and requests in the network (R18 to R22, R275 to R286, R397 to R407, R416, R417). -/

namespace Sys2Proof.Machine

/-! ### Corrected errors (R399, R402) -/

/-- Count a corrected error: coalesced by unit and KIND within a second (R402); the host interface counts its link's (R465). -/
def Dev.correct (d : Dev) (e : ErrorSite) : Dev :=
  let d := d.flushCe.note e.page 3 1
  if e.page = UnitId.hostIf.page then { d with hostIf := { d.hostIf with corrected := satAdd 0xFFFFFFFF d.hostIf.corrected 1 } }
  else
    let same (x : CeRun) : Bool := x.page == e.page && x.kind == e.kind
    let ctx := ((unitOf e.page).bind d.holder).getD 0x7F
    let ce := if d.flt.ce.any same then d.flt.ce.map (fun (x : CeRun) => if same x then { x with count := satAdd 0xFFFF x.count 1 } else x)
      else d.flt.ce ++ [{ page := e.page, kind := e.kind, since := d.deviceTime, count := 1, address := e.address, context := ctx, syndrome := e.syndrome }]
    { d with flt := { d.flt with ce } }

/-- KINDs that are corrected (Table 17-2). -/
def corrects (kind : Nat) : Bool := [1, 2, 3, 4, 5, 7, 8, 9].contains kind

/-! ### Uncorrectable errors (R400, R402 to R406) -/

/-- The job that holds a page's unit. -/
def Dev.jobOf (d : Dev) (page : Nat) : Option Nat := ((unitOf page).bind UnitId.coreOf).bind (fun n => (d.core n).job)

/-- An error of severity UE_JOB: the job that holds the unit faults; with no such job, the fault record alone (R402, R403). -/
def Dev.ueJob (d : Dev) (e : ErrorSite) : Dev :=
  match d.jobOf e.page with
  | some id => d.faultJob id e.kind 0 cJobFault e.page e.address e.syndrome
  | none => d.logFault e.page e.kind sevJob 0x7F e.address 0 e.syndrome

/-- A line of SRAM or DRAM that cannot be corrected is poisoned, and its fault record logged (R400, R402). -/
def Dev.uePoison (d : Dev) (e : ErrorSite) : Dev := (d.logFault e.page e.kind sevJob 0x7F e.address 0 e.syndrome).poisonLine (lineOf e.address)

/-- A cluster router that fails: FAULTED, it answers the requests it holds UNIT_OFFLINE, and each job one of whose requests it held or lost faults (R403, R406). -/
def Dev.ueRouter (d : Dev) (e : ErrorSite) : Dev :=
  let d := (d.logFault e.page e.kind sevShared 0x7F e.address 0 e.syndrome).updHdr e.page (fun h => { h with ustate := .faulted })
  let d := { d with netReqs := d.netReqs.map (fun (q : NetReq) => if q.target = e.page then { q with reply := some (cUnitOffline, q.targetEpoch) } else q) }
  e.lost.foldl (fun d x => d.faultJob x.1 0x0B 0 cUnitOffline e.page x.2) d

/-- A save or restore that meets an uncorrectable error in its own path completes with JOB_FAULT, and a save leaves its image undefined (R409). -/
def Dev.uePath (d : Dev) (e : ErrorSite) : Dev :=
  match e.path with
  | none => d
  | some ctx =>
    match d.ctxOps.find? (fun o => o.ctx == ctx) with
    | none => d
    | some o =>
      let d := if o.restore then d else d.freeHost (saveAddr o.cmd) (saveLimit o.cmd)
      d.endCtxOp o cJobFault 0 0

/-- An element of the accumulator memory that no job holds is lost: it is cleared at the core's next release (Table 17-2, R133). -/
def Dev.clearNext (d : Dev) (page element : Nat) : Dev :=
  match (unitOf page).bind UnitId.coreOf with
  | some n => d.updCore n (fun c => { c with badWords := element :: c.badWords })
  | none => d

/-- An uncorrectable error by KIND (Table 17-2); KIND 0x0A is poison consumed by a unit. -/
def Dev.uncorrectable (d : Dev) (e : ErrorSite) : Dev :=
  if e.page = UnitId.hostIf.page then { d with hostIf := { d.hostIf with uncorrected := satAdd 0xFFFFFFFF d.hostIf.uncorrected 1 } }
  else
    let d := (d.uePath e).note e.page 4 1
    let held := (d.jobOf e.page).isSome
    if e.kind = 0x01 ∨ e.kind = 0x03 then d.uePoison e
    else if e.kind = 0x02 then
      let d := d.ueJob e
      if held then d else d.clearNext e.page e.element
    else if e.kind = 0x04 ∨ e.kind = 0x05 ∨ e.kind = 0x06 ∨ e.kind = 0x07 ∨ e.kind = 0x0A then d.ueJob e
    else if e.kind = 0x08 then
      match unitOf e.page with
      | some (.router _) => d.ueRouter e
      | _ => d
    else if e.kind = 0x09 then d.fatal 0x02 e.page 0x09 e.address e.syndrome
    else d

/-- Whether errors of a page are detected: its unit is up, and the module is not in RESET. -/
def Dev.detects (d : Dev) (page : Nat) : Bool :=
  d.modState != .reset && (match (d.viewPage 0 page).bind unitOf with
    | some u => d.unitState u != .offline
    | none => false)

/-! ### The patrol scrub (R399, R401) -/

/-- The page of the unit that holds an address: its DRAM controller and stack, or the large core of its share. -/
def Dev.homePage (d : Dev) (a : Nat) : Nat :=
  if a < regionCount * regionBytes then (UnitId.dram (d.stackOf a)).page else (UnitId.core ((a - shareBase 0) / 0x40000000)).page

/-- The scrub reads a line: poison is reported and faults nothing; a word that it corrects is a corrected error, and no bit changes (R399, R401). -/
def Dev.scrub (d : Dev) (a : Nat) (corrected : Bool) : Dev :=
  let page := d.homePage a
  if !d.detects page then d
  else if d.linePoisoned (lineOf a) then d.raise 1 0x302 page 0 (64 * lineOf a)
  else if corrected then d.correct { page, kind := if a < regionCount * regionBytes then 3 else 1, address := a, syndrome := 0, element := 0, path := none, lost := [] }
  else d

/-! ### Slots and spares (R18 to R22, R24) -/

/-- The security core retires a slot; while a job holds its core the retirement is pending (R20). -/
def Dev.retireSlot (d : Dev) (slot : Nat) : Dev :=
  let g := d.geom
  if 20 ≤ slot ∨ bit g.retired slot ∨ d.boot.stage < 8 ∨ !d.mayRetire slot then d
  else
    let held := match d.coreInSlot slot with
      | some n => (d.coreHolder n).isSome
      | none => false
    if held then (if bit g.pendingRetire slot then d else { d with geom := { g with pendingRetire := setBit g.pendingRetire slot }.changed 1 })
    else (d.burnSlot slot).evalLaunches

/-- Clear a large core's hardware state as a reset does: queues, tiles, engines' pages and tidy cores; the share stays (R419). -/
def Dev.freshCore (d : Dev) (n : Nat) : Dev :=
  let d := d.updCore n (fun c => { job := c.job })
  (upFrom 0 8).foldl (fun d m => { d with tidies := d.tidies.del (8 * n + m) }) d

/-- The units of a large core. -/
def coreUnits (n : Nat) : List UnitId := UnitId.subtree [] (.core n)

/-- The counter windows of units, and what reads of their pages have latched, return to their reset values; a sample in flight is recorded, its item discarded (R434, R442). -/
def Dev.clearWindows (d : Dev) (us : List UnitId) : Dev :=
  let ps := us.map UnitId.page
  let d := ps.foldl (fun d p => d.sampleStore p 0xFFFFFFFF) d
  { d with cnts := d.cnts.filter (fun e => !ps.contains e.1), hiLatch := d.hiLatch.filter (fun e => !ps.contains (e.1 % 2 ^ 32 / 4096)) }

/-- Whether a unit holds a request: it is its target, or a stack in which it holds or awaits an entry. -/
def NetReq.heldBy (q : NetReq) (u : UnitId) : Bool :=
  q.target == u.page || (match u with
    | .dram h => q.entries.contains h || q.wants.contains h
    | _ => false)

/-- A request answered by a port that reset: a stack's reset has freed its entries (R420). -/
def NetReq.dropped (q : NetReq) (u : UnitId) : NetReq :=
  let q := if q.reply.all (fun r => r.1 == cOk) then { q with reply := some (cUnitReset, q.targetEpoch) } else q
  match u with
  | .dram h => { q with entries := q.entries.filter (fun k => k != h), wants := q.wants.filter (fun k => k != h) }
  | _ => q

/-- The requests that a unit held are discarded, and its port replies UNIT_RESET; a request that it has accepted is held until its reply reaches the requester (R21, R417; notes/assumptions/75.md). -/
def Dev.dropHeld (d : Dev) (u : UnitId) : Dev :=
  { d with netReqs := d.netReqs.map (fun (q : NetReq) => if q.heldBy u then q.dropped u else q) }

/-- A class-6 record (R421). -/
def Dev.class6 (d : Dev) (page low cause : Nat) : Dev := d.raise 6 cUnitReset page (low + 65536 * cause) d.deviceTime

/-- A spare takes the identity of a core whose slot is retired (R19, R21): its epochs increment, and it holds nothing of the failed slot. -/
def Dev.substitute (d : Dev) (n : Nat) (pass : Bool) : Dev :=
  let g := d.geom
  let slot := g.slots.getD n 20
  let c := slot / 5
  if d.nCores ≤ n ∨ bit g.retired slot = false ∨ g.spareFree c = false ∨ d.boot.stage < 8 ∨ !d.mayRetire slot ∨ (d.coreHolder n).isSome then d
  else if !pass then
    -- RETIRED and SPARE_LOST change
    ({ d with geom := { g with retired := setBit g.retired (spareSlot c) }.changed 2 } : Dev).treeChanged
  else
    let old := d.epoch (UnitId.core n).page
    let d := (coreUnits n).foldl (fun d u => (d.bumpEpoch u).dropHeld u) d
    let d := ((d.freshCore n).zeroDev (shareBase n) shareBytes).clearWindows (coreUnits n)
    -- SLOT, SUBSTITUTED, SPARE_IN_SERVICE and OFFLINE change
    let d := { d with geom := { g with slots := g.slots.set n (spareSlot c), restoreDue := setBit g.restoreDue n, spareIn := setBit g.spareIn c, offline := if bit g.offline n then g.offline - 2 ^ n else g.offline }.changed (3 + b2n (bit g.offline n)) }
    (d.treeChanged.class6 (UnitId.core n).page old 2).evalLaunches

/-! ### Requests (R280, R416, R417) -/

/-- The merge window of an owner's port for a read or a write of a line of its share (R280). -/
def Dev.mergeRead (d : Dev) (n line : Nat) (write : Bool) : Dev :=
  let live := d.merges.filter (fun m => decide (d.now ≤ m.opened + 32))
  let here (m : Merge) : Bool := m.core == n && m.line == line
  if write then { d with merges := live.filter (fun m => !here m) }
  else if live.any here then
    (({ d with merges := live } : Dev).updRouter (coreCluster d.geo n) (fun r => { r with merged := satAdd 0xFFFFFFFF r.merged 1 })).noteFor none (UnitId.router (coreCluster d.geo n)).page 0x402 1
  else { d with merges := live ++ [{ core := n, line, opened := d.now }] }

/-- What a router sees of a request on its way (R285). -/
def Dev.routerSees (d : Dev) (q : NetRequest) : Dev :=
  let d := q.passed.foldl (fun d p => d.updRouter p.1 (fun r => { r with maxAge := max r.maxAge (min p.2 0xFFFFFFFF) })) d
  match (unitOf q.target).bind d.clusterOfUnit with
  | none => d
  | some c => d.updRouter c (fun r =>
      { r with
        maxAge := max r.maxAge (min q.age 0xFFFFFFFF), ctlMax := if q.control then max r.ctlMax (min q.age 0xFFFF) else r.ctlMax
        combines := satAdd 0xFFFFFFFF r.combines q.combines })

/-- The code with which a target's port turns a request away (R417); no request passes a FAULTED router, its requester's or its target's (R406). -/
def Dev.turnedAway (d : Dev) (u : UnitId) (requester epoch : Nat) : Option Nat :=
  if (unitOf requester).any d.routerDown then some cUnitOffline
  else
    match d.reachCode u with
    | some code => some code
    | none => if epoch = d.epoch u.page then none else some cUnitReset

/-- The request that enters the network's tables as its target's port receives it, with the epochs it carries from when it entered the network (R416). -/
def Dev.carried (d : Dev) (q : NetRequest) : NetReq :=
  { id := q.id, target := q.target, targetEpoch := d.learnedEpoch q.requester q.target (d.now - q.age)
    requester := q.requester, requesterEpoch := d.epochAt q.requester (d.now - q.age), address := q.address, job := q.job }

/-- The stacks in which a request for stack `h` takes an entry: one for each granule it touches (R275). -/
def Dev.requestStacks (d : Dev) (h a n : Nat) : List Nat := h :: (if a / 4096 = (a + n - 1) / 4096 then [] else [d.stackOf (a + n - 1)])

/-- The source of a request in the network. -/
def Dev.sourceOfReq (d : Dev) (id : Nat) : Nat := ((d.netReqs.find? (fun q => q.id == id)).map (fun q => trackSource q.requester)).getD 16

/-- Whether a source can take an entry ahead of the requests that wait: no older request of its own waits, and a shared entry goes to the oldest waiting request first (R275, R276). -/
def Dev.takesNow (d : Dev) (x : Track) (s : Nat) : Bool :=
  !x.waiting.any (fun id => d.sourceOfReq id == s) && (x.reserve s || (x.waiting.isEmpty && d.canTrack x s))

/-- A request takes its entry of a stack, or waits for it at its source, where the wait is counted (R275, R276). -/
def Dev.trackRequest (d : Dev) (s : Nat) (r : NetReq) (h : Nat) : Dev × NetReq :=
  if d.takesNow (d.track h) s then (d.updTrack h (fun x => x.take s), { r with entries := r.entries ++ [h] })
  else (d.updTrack h (fun x => { x with waiting := x.waiting ++ [r.id], waits := satAdd 0xFFFFFFFF x.waits 1 }), { r with wants := r.wants ++ [h] })

/-- Serve a request that its target's port has let through: a stack takes it once it holds its tracking entries. -/
def Dev.serveRequest (d : Dev) (u : UnitId) (q : NetRequest) (r : NetReq) : Dev :=
  let served := some (cOk, d.epoch u.page)
  match u with
  | .dram h =>
    let d := d.stackTraffic ((q.job.bind (fun id => d.jobs.get? id)).map (·.ctx)) q.address q.bytes q.write
    let (d, r) := (d.requestStacks h q.address q.bytes).foldl (fun (p : Dev × NetReq) k => p.1.trackRequest (trackSource q.requester) p.2 k) (d, r)
    { d with netReqs := d.netReqs ++ [{ r with reply := if r.wants.isEmpty then served else none }] }
  | .core n =>
    let d := d.mergeRead n (lineOf q.address) q.write
    { d with netReqs := d.netReqs ++ [{ r with reply := served }] }
  | _ => { d with netReqs := d.netReqs ++ [{ r with reply := served }] }

/-- A request reaches its target: turned away, or served (R417). -/
def Dev.requestArrives (d : Dev) (q : NetRequest) : Dev :=
  match (d.viewPage 0 q.target).bind unitOf with
  | none => d
  | some u =>
    if d.netReqs.any (fun x => x.id == q.id) then d
    else
      let r := d.carried q
      let d := d.routerSees q
      match d.turnedAway u q.requester r.targetEpoch with
      | some code => { d with netReqs := d.netReqs ++ [{ r with reply := some (code, r.targetEpoch) }] }
      | none => d.serveRequest u q r

/-- A request that waited receives its entry of a stack; with its last one it is served. -/
def NetReq.granted (r : NetReq) (h epoch : Nat) : NetReq :=
  let r := { r with entries := r.entries ++ [h], wants := r.wants.erase h }
  if r.reply.isNone && r.wants.isEmpty then { r with reply := some (cOk, epoch) } else r

/-- A tracking entry goes to the oldest waiting request whose source can take one (R275, R276). -/
def Dev.trackGrant (d : Dev) (h : Nat) : Dev :=
  let x := d.track h
  match x.waiting.find? (fun id => d.canTrack x (d.sourceOfReq id)) with
  | none => d
  | some id =>
    let d' := d.updTrack h (fun x => { x.take (d.sourceOfReq id) with waiting := x.waiting.erase id })
    { d' with netReqs := d.netReqs.map (fun (q : NetReq) => if q.id = id then q.granted h (d.epoch q.target) else q) }

/-- A request leaves the tracking tables: its entries are free, and it waits for none (R275). -/
def Dev.endTracking (d : Dev) (q : NetReq) : Dev :=
  let s := trackSource q.requester
  let d := q.entries.foldl (fun d h => d.updTrack h (fun x => x.free s)) d
  q.wants.foldl (fun d h => d.updTrack h (fun x => { x with waiting := x.waiting.erase q.id })) d

/-- The code that a requester receives with a reply; none when the reply is discarded silently (R417). -/
def Dev.replyCode (d : Dev) (q : NetReq) (code epoch : Nat) : Option Nat :=
  if q.requesterEpoch ≠ d.epoch q.requester then none
  else if code = cOk ∧ epoch ≠ q.targetEpoch then some cUnitReset
  else some code

/-- A reply reaches its requester: its tracking entry frees, and a job whose request was answered UNIT_RESET or UNIT_OFFLINE faults (R275, R403, R417). -/
def Dev.replyArrives (d : Dev) (id : Nat) : Dev :=
  match d.netReqs.find? (fun q => q.id == id) with
  | none => d
  | some q =>
    match q.reply with
    | none => d
    | some (code, epoch) =>
      let d := ({ d with netReqs := d.netReqs.filter (fun x => x.id != id) } : Dev).endTracking q
      match d.replyCode q code epoch, q.job with
      | some c, some j =>
        let runs := match d.jobs.get? j with
          | some x => x.jstate.running?
          | none => false
        if c != cOk && runs then d.faultJob j 0x0B 0 c q.requester q.address else d
      | _, _ => d

/-! ### The rows -/

/-- CORRECTED_ERROR (R399). -/
def execCorrectedError (t : Nat) (error : ErrorSite) (s : State) : Host.Outcome State Fault Refusal :=
  s.run t (fun d => if d.detects error.page && (corrects error.kind || error.page == UnitId.hostIf.page) then d.correct error else d)

/-- UNCORRECTABLE_ERROR (R403). -/
def execUncorrectableError (t : Nat) (error : ErrorSite) (s : State) : Host.Outcome State Fault Refusal :=
  s.run t (fun d => if d.detects error.page then d.uncorrectable error else d)

/-- PATROL_SCRUB (R399, R401). -/
def execPatrolScrub (t address : Nat) (corrected : Bool) (s : State) : Host.Outcome State Fault Refusal :=
  s.run t (fun d => d.flushCe.scrub address corrected)

/-- SLOT_RETIREMENT (R20). -/
def execSlotRetirement (t slot : Nat) (s : State) : Host.Outcome State Fault Refusal :=
  s.run t (fun d => d.retireSlot slot)

/-- SPARE_SUBSTITUTION (R21). -/
def execSpareSubstitution (t core : Nat) (selfTestPass : Bool) (s : State) : Host.Outcome State Fault Refusal :=
  s.run t (fun d => d.substitute core selfTestPass)

/-- NETWORK_REQUEST_ARRIVAL (R417). -/
def execNetworkRequestArrival (t : Nat) (req : NetRequest) (s : State) : Host.Outcome State Fault Refusal :=
  s.run t (fun d => if d.modState = .reset then d else d.requestArrives req)

/-- NETWORK_REPLY_ARRIVAL (R417). -/
def execNetworkReplyArrival (t id : Nat) (s : State) : Host.Outcome State Fault Refusal :=
  s.run t (fun d => d.replyArrives id)

/-- EPOCH_NOTICE (R416): the port of a unit, named by its page, learns another unit's present epoch. -/
def execEpochNotice (t port page epoch : Nat) (s : State) : Host.Outcome State Fault Refusal :=
  s.run t (fun d => if epoch = d.epoch page then { d with learned := d.learned.put (65536 * port + page) d.now } else d)

/-- TRACKING_ENTRY_GRANT (R276). -/
def execTrackingEntryGrant (t stack : Nat) (s : State) : Host.Outcome State Fault Refusal :=
  s.run t (fun d => if stack < 32 then d.trackGrant stack else d)

/-- DRAM_REFRESH (R283): no data changes; the refresh and the requests it delays are counted. -/
def execDramRefresh (t stack waits : Nat) (s : State) : Host.Outcome State Fault Refusal :=
  s.run t (fun d =>
    let x := d.drams.getD stack {}
    if stack < 32 && x.hstate == .active then
      ({ d with drams := d.drams.put stack { x with refreshes := satAdd 0xFFFFFFFF x.refreshes 1, refreshWaits := satAdd 0xFFFFFFFF x.refreshWaits waits } } : Dev).noteFor none (UnitId.dram stack).page 0x482 waits
    else d)

end Sys2Proof.Machine
end

