-- ==== Sys2Proof/Machine/Counters.lean ====
section
/-! DEFINITION. Performance counters, freeze and snapshot, bandwidth windows and precise sampling (R429 to R444). -/

namespace Sys2Proof.Machine

/-! ### Windows (R432, R433) -/

/-- The bits of CNT_SEL n that hold fields. -/
def selMask (n : Nat) : Nat := 0x7F05FFFF ||| (if n % 2 = 1 then 0x20000 else 0)

/-- Write CNT_SEL n (R432, R433). -/
def Dev.selWrite (d : Dev) (p n data : Nat) : Dev :=
  match d.windowUnit p with
  | none => d
  | some u =>
    let ev := bits data 15 0
    let sample := bit data 18
    let refused (code : Nat) : Dev := d.refuse 0 p (0xF00 + 4 * n) 4 data code
    if (ev != 0 && !(eventsOf u.type).contains ev) || (sample && !canSample u.type) then refused cOutOfRange
    else if (0x8000 ≤ ev || sample) && !d.sec.traceOpen then refused cIllegal
    else d.updCnt p (fun w => w.set n { w.counter n with sel := data &&& selMask n })

/-- Write the LO half of a counter: held (R432). -/
def Dev.cntLo (d : Dev) (p n data : Nat) : Dev :=
  match d.windowUnit p with
  | none => d
  | some _ => d.updCnt p (fun w => w.set n { w.counter n with lo := some (data % 2 ^ 32) })

/-- Write the HI half: it takes effect with the LO half that is held; with none held, LO keeps its value (R432; notes/assumptions/78.md). -/
def Dev.cntHi (d : Dev) (p n data : Nat) : Dev :=
  match d.windowUnit p with
  | none => d
  | some _ => d.updCnt p (fun w => let c := w.counter n; w.set n { c with value := (c.lo.getD (c.value % 2 ^ 32)) + 2 ^ 32 * (data % 2 ^ 16), lo := none })

/-! ### Counting and sampling (R430, R431, R442, R443) -/

/-- A counter counts occurrences that come with the command: of an event that the model leaves to timing, those of the cycle in which it wraps with what it has counted up to then, or of cycles in which it does not wrap; a cycle adds at most Max per cycle (R430, R431, R435). -/
def Dev.count (d : Dev) (p n occurrences : Nat) (x : SampleItem) : Dev :=
  let c := (d.cnt p).counter n
  let ctx := match d.jobs.get? x.job with | some j => some j.ctx | none => none
  match unitOf p with
  | none => d
  | some u =>
    if d.reader.frozen || !timedEvents.contains c.event || !c.passes ctx || decide (2 ^ 48 + eventMax u.type c.event ≤ c.value + occurrences) then d
    else d.addTo p n occurrences x

/-- The sampled item has completed, or has been discarded, and no longer waits: its record enters the ring, or is lost when the ring is full (R442, R443). -/
def Dev.sampleEnd (d : Dev) (p : Nat) (o : SampleOutcome) : Dev :=
  match (d.cnt p).sample with
  | none => d
  | some word => if d.sampleWaits p word then d else d.sampleStore p (match o with | .completed n => n | .discarded => 0xFFFFFFFF)

/-! ### COUNTER_FREEZE (R437 to R440) -/

/-- Fields of COUNTER_FREEZE (Table 18-7). -/
def cfOp (c : Cmd) : Nat := c.fld 0x18 1 0
def cfTime (c : Cmd) : Nat := c.qw 0x20
def cfAddr (c : Cmd) : Nat := c.qw 0x28
def cfBytes (c : Cmd) : Nat := c.dw 0x30

/-- COUNTER_FREEZE's row of Table 2-11 and Table 18-7. -/
def specCounterFreeze : CmdSpec :=
  { opcode := 0x00A0, pfOnly := true, states := [.frost, .active], noTarget := true, noCtx := true, noJob := true
    mask := opBits 0x18 1 0 ||| opBits 0x20 63 0 ||| opBits 0x28 63 0 ||| opBits 0x30 31 0 }

/-- Whether a SNAPSHOT awaits its final record (SNAPSHOT_BUSY). -/
def Reader.snapshotBusy (r : Reader) : Bool := r.captured.isSome || r.ops.any (fun o => o.op == 2)

/-- The checks of step 8 (R437). -/
def Dev.cfCheck (d : Dev) (c : Cmd) : Option Nat :=
  let op := cfOp c
  if cfAddr c % 64 ≠ 0 ∨ (2 ≤ op ∧ cfAddr c = 0) ∨ (op < 2 ∧ (cfAddr c ≠ 0 ∨ cfBytes c ≠ 0)) ∨ (op = 3 ∧ cfTime c ≠ 0) then some cBadFormat
  else if 2 ≤ op ∧ cfBytes c < 64 then some cOutOfRange
  else if op = 2 ∧ d.reader.snapshotBusy then some cNoResource
  else none

/-- The oldest sample records are copied out and removed, and the drain completes (R440). -/
def Dev.sampleCopy (d : Dev) (c : Cmd) : Dev :=
  let n := min (cfBytes c / 64) d.reader.samples.length
  let d' := d.writeHost (cfAddr c) ((d.reader.samples.take n).flatMap (leBytes 64))
  ({ d' with reader := { d.reader with samples := d.reader.samples.drop n } } : Dev).answer c cOk n 0

/-- SAMPLE_DRAIN: at once, or in progress while host writes are stopped (R371, R440). -/
def Dev.sampleDrain (c : Cmd) (d : Dev) : Dev :=
  if d.hostStopped then { d.awaitRecord c with reader := { d.reader with drain := some { c with interim := true } } } else d.sampleCopy c

/-- Step 8 of COUNTER_FREEZE. -/
def Dev.counterFreeze (c : Cmd) (d : Dev) : Dev :=
  match d.cfCheck c with
  | some code => d.answer c code 0 0
  | none =>
    if cfOp c = 3 then d.sampleDrain c
    else
      let s := d.effective (cfTime c)
      let d := d.answerPending c s 0
      { d with reader := { d.reader with ops := d.reader.ops ++ [{ cmd := { c with interim := true }, op := cfOp c, s }] } }

/-- The final record of a freeze or unfreeze that has taken effect at its S (R438). -/
def Dev.freezeAtS (d : Dev) : Dev :=
  match d.reader.applied with
  | [] => d
  | o :: os => ({ d with reader := { d.reader with applied := os } } : Dev).finishCmd o.cmd cOk 0 0

/-- A drain that waited at its first host write makes it (R371, R440). -/
def Dev.drainOut (d : Dev) : Dev :=
  match d.reader.drain with
  | none => d
  | some c => if d.hostStopped || d.modState == .dumping then d else ({ d with reader := { d.reader with drain := none } } : Dev).sampleCopy c

/-- The snapshot is written out: the header and the records that fit (R439). -/
def Dev.snapshotOut (d : Dev) : Dev :=
  let d := d.drainOut
  match d.reader.captured with
  | none => d
  | some (o, recs) =>
    if d.hostStopped || d.modState == .dumping then d
    else
      let n := min recs.length ((cfBytes o.cmd - 64) / 128)
      let bs := leBytes 8 o.s ++ leBytes 4 recs.length ++ leBytes 4 n ++ leBytes 48 0 ++ (recs.take n).flatMap (leBytes 128)
      let d := d.writeHost (cfAddr o.cmd) bs
      ({ d with reader := { d.reader with captured := none } } : Dev).finishCmd o.cmd cOk 0 (n + 2 ^ 32 * recs.length)

/-! ### Bandwidth windows (R441) -/

/-- IN and OUT of a port index in the window that ends: a stack interface's are the bytes read from and written to its stack, a reserved index has none, and those of the router and mesh ports, whose headers and framing the spec leaves open, come with the window (R441; notes/assumptions/78.md). -/
def Reader.portBytes (r : Reader) (given : Nat × Nat) (i : Nat) : Nat × Nat :=
  let p := i % 32
  let x := if 25 ≤ p then (0, 0) else if 17 ≤ p then r.traffic.getD (8 * (i / 32) + (p - 17)) (0, 0) else given
  (x.1 % 2 ^ 48, x.2 % 2 ^ 48)

/-- A window ends with the IN and OUT bytes counted by port index. -/
def Dev.bwEnd (d : Dev) (counts : List (Nat × Nat)) : Dev :=
  let r := d.reader
  let e := d.deviceTime / r.bwWindow * r.bwWindow
  let new := match r.bwEnd with
    | some x => decide (x + 1 < e)
    | none => true
  if new && decide (r.bwFrom + r.bwWindow ≤ e) then
    { d with reader := { r with bwEnd := some (e - 1), traffic := [], bwCounts := (upFrom 0 128).map (fun i => (i, r.portBytes (counts.getD i (0, 0)) i)) } }
  else d

/-- Write BW_WINDOW: the window in progress is discarded, and the new length applies from the next multiple of the new W. -/
def Dev.bwWrite (d : Dev) (data : Nat) : Dev :=
  let w := bits data 29 0
  if 1000 ≤ w ∧ w ≤ 1000000000 then
    { d with reader := { d.reader with bwWindow := w, bwFrom := (d.deviceTime / w + 1) * w, bwEnd := none, bwCounts := [], traffic := [] } }
  else d.refuse 0 UnitId.counter.page 0x05C 4 data cOutOfRange

/-- Remove the head of the sample ring (Table 18-11); ignored and logged during a drain (R440). -/
def Dev.samplePop (d : Dev) (data : Nat) : Dev :=
  if d.reader.drain.isSome then d.refuse 0 UnitId.counter.page 0x054 4 data cIllegal
  else if bit data 0 then { d with reader := { d.reader with samples := d.reader.samples.drop 1 } } else d

/-- Whether the counter reader acts (R35). -/
def Dev.readerUp (d : Dev) : Bool := !d.offline .counter

/-! ### The rows -/

/-- COUNTER_FREEZE_FREEZE (R438). -/
def execCounterFreezeFreeze (t ring : Nat) (s : State) : Host.Outcome State Fault Refusal :=
  s.run t (fun d => d.ringCmd ring (fun _ => specCounterFreeze) (fun c => cfOp c == 0) (fun _ => none) Dev.counterFreeze)

/-- COUNTER_FREEZE_UNFREEZE (R438). -/
def execCounterFreezeUnfreeze (t ring : Nat) (s : State) : Host.Outcome State Fault Refusal :=
  s.run t (fun d => d.ringCmd ring (fun _ => specCounterFreeze) (fun c => cfOp c == 1) (fun _ => none) Dev.counterFreeze)

/-- COUNTER_FREEZE_SNAPSHOT (R438). -/
def execCounterFreezeSnapshot (t ring : Nat) (s : State) : Host.Outcome State Fault Refusal :=
  s.run t (fun d => d.ringCmd ring (fun _ => specCounterFreeze) (fun c => cfOp c == 2) (fun _ => none) Dev.counterFreeze)

/-- COUNTER_FREEZE_SAMPLE_DRAIN (R440). -/
def execCounterFreezeSampleDrain (t ring : Nat) (s : State) : Host.Outcome State Fault Refusal :=
  s.run t (fun d => d.ringCmd ring (fun _ => specCounterFreeze) (fun c => cfOp c == 3) (fun _ => none) Dev.counterFreeze)

/-- COUNTER_FREEZE_AT_S (R438). -/
def execCounterFreezeAtS (t : Nat) (s : State) : Host.Outcome State Fault Refusal :=
  s.run t (fun d => d.freezeAtS)

/-- SNAPSHOT_WRITE_OUT (R439). -/
def execSnapshotWriteOut (t : Nat) (s : State) : Host.Outcome State Fault Refusal :=
  s.run t (fun d => d.snapshotOut)

/-- COUNTER_WRAP (R431). -/
def execCounterWrap (t page index occurrences : Nat) (item : SampleItem) (s : State) : Host.Outcome State Fault Refusal :=
  s.run t (fun d => d.count page index occurrences item)

/-- SAMPLE_RECORD_WRITE (R442). -/
def execSampleRecordWrite (t page : Nat) (outcome : SampleOutcome) (s : State) : Host.Outcome State Fault Refusal :=
  s.run t (fun d => d.sampleEnd page outcome)

/-- SAMPLE_POP (R444); the page is the physical function's alone. -/
def execSamplePop (t fn data : Nat) (s : State) : Host.Outcome State Fault Refusal :=
  s.run t (fun d => if fn = 0 ∧ d.hostOpen .counter = true then d.samplePop data else d)

/-- CNT_SEL_WRITE (R433). -/
def execCntSelWrite (t fn page index data : Nat) (s : State) : Host.Outcome State Fault Refusal :=
  s.run t (fun d => if fn = 0 ∧ index < 8 ∧ d.modState ≠ .reset then d.selWrite page index (data % 2 ^ 32) else d)

/-- CNT_HI_WRITE (R432). -/
def execCntHiWrite (t fn page index data : Nat) (s : State) : Host.Outcome State Fault Refusal :=
  s.run t (fun d => if fn = 0 ∧ index < 8 ∧ d.modState ≠ .reset then d.cntHi page index data else d)

/-- BW_WINDOW_END (R441). -/
def execBwWindowEnd (t : Nat) (counts : List (Nat × Nat)) (s : State) : Host.Outcome State Fault Refusal :=
  s.run t (fun d => if d.readerUp then d.bwEnd counts else d)

/-- BW_WINDOW_WRITE (R441). -/
def execBwWindowWrite (t fn data : Nat) (s : State) : Host.Outcome State Fault Refusal :=
  s.run t (fun d => if fn = 0 ∧ d.hostOpen .counter = true then d.bwWrite (data % 2 ^ 32) else d)

end Sys2Proof.Machine
end

