-- ==== Sys2Proof/Machine/Power.lean ====
section
/-! DEFINITION. Power and thermal control: operating points, the issue governor, the sustained controller, caps, Ice mode, the comparison with the SMU, temperatures and emergencies (R308 to R331, R333, R334). -/

namespace Sys2Proof.Machine

/-! ### Figures of power (R311, R312) -/

/-- The highest sustained point of the part (R308). -/
def Power.high (p : Power) : Nat := if p.part140 then 12 else 15

/-- The cap in force, in milliwatts (R313). -/
def Power.inForce (p : Power) : Nat := 1000 * min p.cap p.platform

/-- The guard band g, in milliwatts (R312). -/
def Power.guard (p : Power) : Nat := p.inForce * (if p.distrust || p.smuAbsent then 5 else 1) / 100

/-- The controlled power P, in milliwatts (R311). -/
def Power.controlled (p : Power) : Nat := if p.smuAbsent then p.e * 5 / 4 else if p.distrust then max p.e p.m else p.e

/-- The mean of a figure over the last `w` ns of estimates; 0 with none. -/
def Power.mean (p : Power) (f : PSample → Nat) (now w : Nat) : Nat :=
  let xs := p.samples.takeWhile (fun x => decide (now < x.time + w))
  (xs.map f).sum / xs.length

/-- The 1 ms and the 10 ms mean of P. -/
def Power.mean1 (p : Power) (now : Nat) : Nat := p.mean PSample.p now 1000000
def Power.mean10 (p : Power) (now : Nat) : Nat := p.mean PSample.p now 10000000

/-- The operating point of a cluster. -/
def Power.point (p : Power) (c : Nat) : Nat := p.points.getD c 0

/-- The duty that the thermal controls set for a cluster (Table 13-5). -/
def Power.thermalDuty (p : Power) (c : Nat) : Nat := if p.clamp then 2 else p.thermDuty.getD c 16

/-- The issue duty of a cluster: the least of its four sources (R314). -/
def Power.duty (p : Power) (c : Nat) : Nat := min (min p.ctlDuty p.peakDuty) (min p.slopeDuty (p.thermalDuty c))

/-- The memory and link rates in force (Table 13-2, Table 13-5, R324). -/
def Power.memRate (p : Power) : Nat := if p.ice then 16 else min p.memK p.thermMem
def Power.linkRate (p : Power) : Nat := if p.ice then 16 else min p.linkK p.thermLink

/-! ### Throttle episodes (R316, R324) -/

/-- The duty that a cause sets for a cluster: 0 the sustained controller, 1 the peak limiter, 2 the slope limiter, 3 the thermal controls. -/
def Power.causeDuty (p : Power) (cause c : Nat) : Nat :=
  match cause with
  | 0 => p.ctlDuty
  | 1 => p.peakDuty
  | 2 => p.slopeDuty
  | _ => p.thermalDuty c

/-- The episodes in progress, from the duties. -/
def Power.episodesNow (p : Power) : Nat :=
  (upFrom 0 16).foldl (fun m i => if p.causeDuty (i / 4) (i % 4) < 16 then m + 2 ^ i else m) 0

/-- Episodes of a cause that begin. -/
def begun (old new cause : Nat) : Nat := ((upFrom (4 * cause) 4).filter (fun i => bit new i && !bit old i)).length

/-- Count the episodes that the present duties begin. -/
def Power.countEpisodes (p : Power) : Power :=
  let now := p.episodesNow
  let n (cause : Nat) : Nat := begun p.episodes now cause
  let all := n 0 + n 1 + n 2 + n 3
  { p with
    episodes := now
    thrCap := satAdd 0xFFFFFFFF p.thrCap (n 0)
    thrPeak := satAdd 0xFFFFFFFF p.thrPeak (n 1)
    thrSlope := satAdd 0xFFFFFFFF p.thrSlope (n 2)
    thrThermal := satAdd 0xFFFFFFFF p.thrThermal (n 3)
    thrIce := if p.ice then satAdd 0xFFFFFFFF p.thrIce all else p.thrIce }

/-! ### Emergencies (R329) -/

/-- Whether a condition of an emergency holds. -/
def Power.alarm (p : Power) : Bool := p.thermOn != 0 || p.stackHot || p.hubHot || p.clamp || p.distrust || p.smuAbsent || p.overrun

/-- Begin an emergency, or note when its last condition cleared. -/
def Power.trackEmergency (p : Power) (now : Nat) : Power :=
  if p.alarm then { p with emergencySince := some (p.emergencySince.getD now), clearSince := none }
  else if p.emergencySince.isSome ∧ p.clearSince.isNone then { p with clearSince := some now }
  else p

/-- Whether an emergency is in force. -/
def Power.emergency (p : Power) : Bool := p.emergencySince.isSome

/-- Update the power state, with the episodes and the emergency that follow. -/
def Dev.updPwr (d : Dev) (f : Power → Power) : Dev := { d with pwr := ((f d.pwr).countEpisodes).trackEmergency d.now }

/-- A class-2 record (R333). -/
def Dev.class2 (d : Dev) (code detailW detail : Nat) : Dev := d.raise 2 code UnitId.pwr.page detailW detail

/-- Whether the power core is at work. -/
def Dev.powerCore (d : Dev) : Bool := !(d.proc 1).restarting

/-! ### Caps (R318 to R322) -/

/-- S of a cap command that stands first. -/
def CapOp.s (o : CapOp) : Option Nat := o.ownS.map (fun s => max s o.readyAt)

/-- Take the first cap command off the list with its final record; the next one's S is then at least now (R319). -/
def Dev.endCap (d : Dev) (o : CapOp) (code : Nat) : Dev :=
  let rest := d.pwr.capOps.drop 1
  let rest := match rest with
    | x :: xs => { x with readyAt := d.now } :: xs
    | [] => []
  let d := d.updPwr (fun p => { p with capOps := rest })
  d.finishCmd o.cmd code (o.s.getD 0) (min (o.lowest / 1000) 0x7FF)

/-- A platform limit that completes OK replaces an owner's cap above it (R320). -/
def Power.commitCap (p : Power) (o : CapOp) : Power := if o.platform then { p with cap := min p.cap o.watts } else p

/-- During a settling interval: follow the lowest 1 ms mean of P, and complete OK once it is at cap − g or below (R320). -/
def Dev.capSettle (d : Dev) : Dev :=
  match d.pwr.capOps with
  | o :: rest =>
    if o.started && d.powerCore then
      let m := d.pwr.mean1 d.now
      let o := { o with lowest := min o.lowest m }
      let d := d.updPwr (fun p => { p with capOps := o :: rest })
      if m + d.pwr.guard ≤ d.pwr.inForce then (d.updPwr (fun p => p.commitCap o)).endCap o cOk else d
    else d
  | [] => d

/-- Put a cap or a platform limit, and for a cap its priority order, in force. -/
def Power.setCap (p : Power) (platform : Bool) (watts prio : Nat) : Power :=
  if platform then { p with platform := watts } else { p with cap := watts, prio }

/-- At S the value and order of the first cap command take effect, whether or not the power core restarts (R68, R80), and its settling interval begins (R320). -/
def Dev.capEffect (d : Dev) : Dev :=
  match d.pwr.capOps with
  | o :: rest =>
    match o.s with
    | some s =>
      if !o.started && decide (s ≤ d.now) then
        let o := { o with
          started := true, lowest := d.pwr.mean1 d.now
          prevWatts := if o.platform then d.pwr.platform else d.pwr.cap
          prevPrio := d.pwr.prio }
        (d.updPwr (fun p => { p.setCap o.platform o.watts o.prio with capOps := o :: rest })).capSettle
      else d
    | none => d
  | [] => d

/-- The settling interval ends unmet: CAP_UNREACHABLE, and the previous value and order are back in force (R320). -/
def Dev.capEnd (d : Dev) : Dev :=
  match d.pwr.capOps with
  | o :: _ =>
    if o.started && decide (o.s.getD 0 + 10000000 ≤ d.now) && d.powerCore then
      (d.updPwr (fun p => p.setCap o.platform o.prevWatts o.prevPrio)).endCap o cCapUnreachable
    else d
  | [] => d

/-- Whether three 2-bit fields are a permutation of 0, 1 and 2. -/
def prioOk (prio : Nat) : Bool :=
  let f := [bits prio 1 0, bits prio 3 2, bits prio 5 4]
  [0, 1, 2].all (fun k => f.contains k)

/-- Step 8 of SET_CAP and SET_PLATFORM_LIMIT (R319); the operands that R318 requires to be 0 come first (R55). Where S is not yet determined, the interim record's RESULT0 is a free value. -/
def Dev.setCapBody (platform : Bool) (c : Cmd) (d : Dev) : Dev :=
  let watts := c.fld 0x18 10 0
  let prio := c.fld 0x18 21 16
  if (if platform then prio != 0 || c.qw 0x20 != 0 else !prioOk prio) then d.answer c cBadFormat 0 0
  else if watts < 380 ∨ 1200 < watts ∨ (!platform && decide (d.pwr.platform < watts)) then d.answer c cOutOfRange 0 0
  else
    let ownS := if d.modState = .snowpack then none else some (if platform then d.now else d.effective (c.qw 0x20))
    let o : CapOp := { cmd := { c with interim := true }, platform, watts, prio, ownS }
    let known := if d.pwr.capOps.isEmpty then o.s else none
    let (r0, d) := match known with
      | some s => (s, d)
      | none => d.takeFree
    (d.answerPending c r0 0).updPwr (fun p => { p with capOps := p.capOps ++ [o] })

/-! ### Ice mode (R323, R324) -/

/-- Whether every cluster is at a point. -/
def Power.allAt (p : Power) (point : Nat) : Bool := (upFrom 0 4).all (fun c => p.point c == point)

/-- The Ice-mode commands that have nothing left to wait for, a disable at once and an enable once all four clusters are at its point, get their final records from the power core (R323, R330). -/
def Dev.iceSettle (d : Dev) : Dev :=
  if d.powerCore then
    let finished (o : IceOp) : Bool := o.started && (o.ended || d.pwr.allAt o.point)
    (d.pwr.iceOps.filter finished).foldl (fun d o => d.finishCmd o.cmd cOk o.s 0) (d.updPwr (fun p => { p with iceOps := p.iceOps.filter (fun o => !finished o) }))
  else d

/-- The Ice-mode command whose S comes first of those that have not taken effect; the first to be checked among equals. -/
def nextIce : List IceOp → Option IceOp
  | [] => none
  | x :: xs =>
    match x.started, nextIce xs with
    | true, y => y
    | false, none => some x
    | false, some y => if y.s < x.s then some y else some x

/-- A command of Ice mode has taken effect: an enable that took effect before it no longer governs (notes/assumptions/72.md). -/
def startIce (o : IceOp) (os : List IceOp) : List IceOp :=
  os.map (fun x => if x = o then { o with started := true, ended := !o.enable } else if x.started then { x with ended := true } else x)

/-- At S an Ice-mode command enters, changes or leaves Ice mode, whether or not the power core restarts (R68, R80, R323). -/
def Dev.iceEffect (d : Dev) : Dev :=
  match nextIce d.pwr.iceOps with
  | some o =>
    if o.s ≤ d.now then
      let d := d.updPwr (fun p =>
        let p := { p with iceOps := startIce o p.iceOps }
        if o.enable then { p with ice := true, icePoint := o.point, memK := 16, linkK := 16 }
        else if p.ice then { p with ice := false, icePoint := 0, common := min p.icePoint p.high }
        else p)
      let d := if !o.enable && (d.modState == .ready || d.modState == .frost) && d.powerCore then d.updPwr Power.park else d
      d.iceSettle
    else d
  | none => d

/-- Step 8 of SET_ICE_MODE (R323). -/
def Dev.setIceBody (c : Cmd) (d : Dev) : Dev :=
  let enable := c.fld 0x18 0 0 == 1
  let point := c.fld 0x18 12 8
  if !enable && point != 0 then d.answer c cBadFormat 0 0
  else if d.pwr.high < point then d.answer c cOutOfRange 0 0
  else
    let s := d.effective (c.qw 0x20)
    (d.answerPending c s 0).updPwr (fun p => { p with iceOps := p.iceOps ++ [{ cmd := { c with interim := true }, enable, point, s }] })

/-! ### The issue governor (R311, R313, R314) -/

/-- The peak limiter's duty after `n` µs, with the time of its last rise: down a step per µs at 1,430 W and above, up a step per 10 µs below 1,400 W (R314). -/
def Power.peakStep (p : Power) (now n : Nat) : Power :=
  let m := p.mean1 now
  if 1430000 ≤ m then { p with peakDuty := max 2 (p.peakDuty - n), peakRaised := now }
  else if m < 1400000 then
    let k := (now - p.peakRaised) / 10000
    if k = 0 then p else { p with peakDuty := min 16 (p.peakDuty + k), peakRaised := now }
  else { p with peakRaised := now }

/-- E after `n` µs: it moves by at most 20 W per µs (R313). -/
def slopeLimit (old want n : Nat) : Nat := max (old - 20000 * n) (min want (old + 20000 * n))

/-- One estimate: E, P, the peak and slope limiters' duties, and the loads per domain (R311, R314). The slope limiter holds duty only while a rise would pass its limit. -/
def Power.estimate (p : Power) (now : Nat) (l : LoadEstimate) : Power :=
  let n := match p.samples with
    | x :: _ => max 1 ((now - x.time) / 1000)
    | [] => 1
  let rising := decide (p.e + 20000 * n < l.e)
  let p := { p with
    e := slopeLimit p.e l.e n
    slopeDuty := if rising then max 2 (min 16 l.slopeDuty) else 16 }
  let p := { p with samples := ({ time := now, e := p.e, p := p.controlled, compute := l.compute, memory := l.memory, links := l.links } : PSample) :: p.samples.takeWhile (fun x => decide (now < x.time + 10000000)) }
  p.peakStep now n

/-- Whether the clusters hold work: some core of the cluster is held by a job. -/
def Dev.clusterBusy (d : Dev) (c : Nat) : Bool :=
  (upFrom 0 d.nCores).any (fun n => coreCluster d.geo n == c && (d.core n).job.isSome)

/-- Whether every actuator is at its floor (R313, Table 13-2, R324). -/
def Power.atFloor (p : Power) : Bool := p.ctlDuty == 2 && (p.ice || (p.common == 0 && (upFrom 0 4).all (fun c => p.point c == 0) && p.memK == 4 && p.linkK == 4))

/-- Follow the 10 ms mean of P against the cap: since when it is above cap + g at every floor, and the end of an overrun (R321). -/
def Power.trackOverrun (p : Power) (now : Nat) : Power :=
  let m := p.mean10 now
  let p := if p.inForce + p.guard < m ∧ p.atFloor then { p with overSince := some (p.overSince.getD now) } else { p with overSince := none }
  if p.overrun ∧ m ≤ p.inForce then { p with overrun := false } else p

/-- A record of the trail: the 1 ms mean of P in watts, the hub's junction and the four clusters' hottest junctions, two bytes each, and zero above (Table 17-11; notes/assumptions/4.md). -/
def Power.record16 (p : Power) (now : Nat) : Nat :=
  leNat (([p.mean1 now / 1000, p.hubTemp] ++ (upFrom 0 4).map (fun c => p.junctions.getD c 0)).flatMap (leBytes 2))

/-- Once a ms, power and temperatures enter the trail of the last 10 s (Table 17-11). -/
def Power.record (p : Power) (now : Nat) : Power :=
  if p.trailAt + 1000000 ≤ now then { p with trail := (p.trail ++ [p.record16 now]).drop (p.trail.length + 1 - 10000), trailAt := now } else p

/-- Every 1 µs: the governor's estimate and what follows from it. -/
def Dev.governor (d : Dev) (l : LoadEstimate) : Dev := (d.updPwr (fun p => ((p.estimate d.now l).trackOverrun d.now).record d.now)).capSettle

/-! ### The sustained controller (R312, R317) -/

/-- The next sustained duty down and up: 16, 8, 4, 2, or one step of sixteenths in Ice mode. -/
def Power.dutyDown (p : Power) : Nat := if p.ice then max 2 (p.ctlDuty - 1) else max 2 (p.ctlDuty / 2)
def Power.dutyUp (p : Power) : Nat := if p.ice then min 16 (p.ctlDuty + 1) else min 16 (p.ctlDuty * 2)

/-- Whether a domain is at its floor, and whether it is full: 0 compute, 1 memory, 2 links. -/
def Power.domainFloor (p : Power) (dom : Nat) : Bool :=
  if dom = 0 then p.ctlDuty == 2 && (p.ice || p.common == 0)
  else p.ice || (if dom = 1 then p.memK == 4 else p.linkK == 4)
def Power.domainFull (p : Power) (busy : Bool) (dom : Nat) : Bool :=
  if dom = 0 then p.ctlDuty == 16 && (p.ice || !busy || p.common == p.high)
  else p.ice || (if dom = 1 then p.memK == 16 else p.linkK == 16)

/-- Move a domain one step down: compute lowers the point, from boost first, until point 0, and then the duty (R317). -/
def Power.shed (p : Power) (dom : Nat) : Power :=
  if dom = 0 then
    if !p.ice && (upFrom 0 4).any (fun c => p.point c == 16) then { p with boostHeld := true }
    else if !p.ice && p.common != 0 then { p with common := p.common - 1 }
    else { p with ctlDuty := p.dutyDown }
  else if dom = 1 then { p with memK := max 4 (p.memK - 1) }
  else { p with linkK := max 4 (p.linkK - 1) }

/-- Move a domain one step up. -/
def Power.restore (p : Power) (busy : Bool) (dom : Nat) : Power :=
  if dom = 0 then
    if p.ctlDuty ≠ 16 then { p with ctlDuty := p.dutyUp }
    else if !p.ice && busy then { p with common := min p.high (p.common + 1) } else p
  else if dom = 1 then { p with memK := min 16 (p.memK + 1) }
  else { p with linkK := min 16 (p.linkK + 1) }

/-- The domains in the priority order in force, highest first. -/
def Power.order (p : Power) : List Nat := [bits p.prio 1 0, bits p.prio 3 2, bits p.prio 5 4]

/-- One period of the sustained controller (R312, R317). -/
def Power.sustain (p : Power) (busy : Bool) (now : Nat) : Power :=
  let m := p.mean1 now
  if p.inForce < m + p.guard then
    match p.order.reverse.find? (fun dom => !p.domainFloor dom) with
    | some dom => p.shed dom
    | none => p
  else if m + 3 * p.guard < p.inForce then
    match p.order.find? (fun dom => !p.domainFull busy dom) with
    | some dom => p.restore busy dom
    | none => p
  else p

/-- One period of a cluster's 95 °C control (Table 13-5). -/
def Power.thermalStep (p : Power) (c : Nat) : Power :=
  if bit p.thermOn c then
    if p.ice || p.point c == 0 then { p with thermDuty := p.thermDuty.put c (max 2 (p.thermDuty.getD c 16 - 1)) }
    else { p with thermPoint := p.thermPoint.put c (p.point c - 1) }
  else if p.thermDuty.getD c 16 < 16 then { p with thermDuty := p.thermDuty.put c (p.thermDuty.getD c 16 + 1) }
  else { p with thermPoint := p.thermPoint.put c (min 16 (p.thermPoint.getD c 16 + 1)) }

/-- One period of the stacks' and the hub's 95 °C controls: each lowers the rate in force by one step, whatever holds it. -/
def Power.thermalRates (p : Power) : Power :=
  { p with
    thermMem := if p.stackHot then max 4 (p.memRate - 1) else min 16 (p.thermMem + 1)
    thermLink := if p.hubHot then max 4 (p.linkRate - 1) else min 16 (p.thermLink + 1) }

/-- Whether a cluster may be in boost (R310). -/
def Dev.boostOk (d : Dev) (c : Nat) : Bool :=
  let p := d.pwr
  p.boostEn && !p.boostHeld && !p.ice && decide (p.high ≤ p.point c) && decide (p.junctions.getD c 0 < 85) && decide (p.mean10 d.now + 100000 ≤ p.inForce)
  && !p.emergency && !((d.proc 1).op.any (fun o => o.cmd.opcode == 0x0051))

/-- The point a cluster moves toward: its Ice-mode point, boost, the common point under its thermal limit, or point 0 without work (R310, R317, R324, R331). -/
def Dev.targetPoint (d : Dev) (c : Nat) : Nat :=
  let p := d.pwr
  if p.ice then p.icePoint
  else if !d.clusterBusy c then 0
  else
    let t := min p.common (p.thermPoint.getD c 16)
    if t = p.high ∧ d.boostOk c then 16 else t

/-- One step from a point toward another: boost is the step above the highest sustained point (R308, R309). -/
def Power.stepPoint (p : Power) (cur target : Nat) : Nat :=
  if cur < target then (if p.high ≤ cur then 16 else cur + 1)
  else if target < cur then (if cur = 16 then p.high else cur - 1)
  else cur

/-- Move every cluster by at most one point (R309); in READY and FROST the clusters are parked, except in Ice mode (R331). -/
def Dev.movePoints (d : Dev) : Dev :=
  if !d.pwr.ice && (d.modState == .ready || d.modState == .frost) then d
  else d.updPwr (fun p => { p with points := (upFrom 0 4).map (fun c => (c, p.stepPoint (p.point c) (d.targetPoint c))) })

/-- A control period of 100 µs (R309, R310, R312, R317, Table 13-5). -/
def Dev.controlPeriod (d : Dev) : Dev :=
  if d.powerCore && decide (d.pwr.lastPeriod + 100000 ≤ d.now ∨ d.pwr.lastPeriod = 0) then
    let busy := (upFrom 0 4).any d.clusterBusy
    let d := d.updPwr (fun p =>
      (upFrom 0 4).foldl Power.thermalStep ((({ p with boostHeld := false } : Power).thermalRates).sustain busy d.now))
    let d := d.updPwr (fun p => { p with lastPeriod := d.now })
    d.movePoints.iceSettle
  else d

/-! ### The SMU's measured value (R325, R326, R339) -/

/-- The CRC-16 of Table 14-1's portions, x^16 + x^12 + x^5 + 1, over `n` bits of a number in bit-time order, from 0 (R338; notes/assumptions/79.md). -/
def crc16 (n w : Nat) : Nat :=
  (upFrom 0 n).foldl (fun c k => (c * 2 % 65536) ^^^ (if bit c 15 != bit w k then 0x1021 else 0)) 0

/-- `n` bits that end in their CRC. -/
def withCrc (n w : Nat) : Nat := w + 2 ^ n * crc16 n w

/-- Whether a portion of `n` bits and a CRC is valid. -/
def crcHolds (n w : Nat) : Bool := bits w (n + 15) n == crc16 n (w % 2 ^ n)

/-- A window record as it arrives over the SMU bus (Table 14-1), its power in units of 0.1 W, and the device time at which its window ended. -/
structure SmuWindow where
  crcOk : Bool
  seq : Nat
  power : Nat
  valid : Bool
  overrange : Bool
  sealing : Bool
  total : Nat
  endAt : Nat
  deriving DecidableEq, Repr

/-- A window record's fields, from its 160 bits as they arrive. -/
def windowOf (w endAt : Nat) : SmuWindow :=
  { crcOk := crcHolds 144 w, seq := bits w 15 0, power := bits w 31 16, valid := bit w 32, overrange := bit w 33, sealing := bit w 34, total := bits w 103 40, endAt }

/-- Whether a window record is a valid reading (R339). -/
def Power.validRecord (p : Power) (w : SmuWindow) : Bool :=
  w.crcOk && w.valid && (match p.smuSeq with
    | some s => w.seq % 65536 == (s + 1) % 65536
    | none => true)

/-- Compare M with the mean of E over the same window (R325); nothing is compared where no estimate falls in it. -/
def Power.compare (p : Power) (w : SmuWindow) (m : Nat) : Power :=
  let xs := p.samples.filter (fun x => decide (w.endAt < x.time + 100000) && decide (x.time ≤ w.endAt))
  if xs.isEmpty then p
  else
    let e := (xs.map PSample.e).sum / xs.length
    let diff := (e - m) + (m - e)
    { p with
      disagree := if 100 * diff > 15 * m then satAdd 0xFFFF p.disagree 1 else 0
      agree := if 100 * diff ≤ 10 * m then p.agree + 1 else 0 }

/-- A window record arrives (R339): a valid one gives M and what the page keeps in an absence (R354), and the first after an absence ends it; any other record is ignored but for the page's state bits. -/
def Dev.smuWindow (d : Dev) (w : SmuWindow) : Dev :=
  if !w.crcOk then d.updPwr (fun p => { p with feedValid := false })
  else if d.pwr.validRecord w then
    let m := 100 * (w.power % 65536)
    let absent := d.pwr.smuAbsent
    let comparing := !absent && d.powerCore
    let d := d.updPwr (fun p =>
      let p := { p with m, smuSeq := some (w.seq % 65536), lastValid := d.now, feedValid := true, feedOverrange := w.overrange, smuAbsent := false }
      if absent then { p with disagree := 0, agree := 0 } else if comparing then p.compare w m else p)
    let d := { d with smu := { d.smu with shown := d.smu.regs } }
    if absent then d.class2 0x005 0 d.now else d
  else d.updPwr (fun p => { p with feedValid := false, feedOverrange := w.overrange })

/-- 1 ms without a valid reading: the SMU is absent (R326). -/
def Dev.smuAbsence (d : Dev) : Dev :=
  if !d.pwr.smuAbsent && decide (d.pwr.lastValid + 1000000 ≤ d.now) then
    (d.updPwr (fun p => { p with smuAbsent := true, smuSeq := none, feedValid := false })).class2 0x004 0 d.pwr.lastValid
  else d

/-- Watts of a milliwatt figure in a 12-bit field. -/
def watts12 (x : Nat) : Nat := min (x / 1000) 0xFFF

/-- Estimate-distrust begins after 500 disagreeing windows, and ends after 10,000 agreeing ones (R325). -/
def Dev.distrustEnter (d : Dev) : Dev :=
  if d.powerCore && !d.pwr.distrust && !d.pwr.smuAbsent && decide (500 ≤ d.pwr.disagree) then
    (d.updPwr (fun p => { p with distrust := true, agree := 0, entries := satAdd 0xFFFF p.entries 1 })).class2 0x002 (watts12 d.pwr.e) (watts12 d.pwr.m)
  else d
def Dev.distrustExit (d : Dev) : Dev :=
  if d.powerCore && d.pwr.distrust && !d.pwr.smuAbsent && decide (10000 ≤ d.pwr.agree) then
    (d.updPwr (fun p => { p with distrust := false })).class2 0x003 (watts12 d.pwr.e) (watts12 d.pwr.m)
  else d

/-- A cap overrun begins (R321). -/
def Dev.capOverrun (d : Dev) : Dev :=
  match d.pwr.overSince with
  | some s =>
    if d.powerCore && !d.pwr.overrun && decide (s + 10000000 ≤ d.now) then
      (d.updPwr (fun p => { p with overrun := true })).class2 0x001 (d.pwr.inForce / 1000) (min (d.pwr.mean10 d.now / 1000) 0x7FF)
    else d
  | none => d

/-- An emergency ends 1 s after the last condition has cleared (R329). -/
def Dev.emergencyClear (d : Dev) : Dev :=
  match d.pwr.emergencySince, d.pwr.clearSince with
  | some b, some c =>
    if d.powerCore && decide (c + 1000000000 ≤ d.now) then
      ({ d with pwr := { d.pwr with emergencySince := none, clearSince := none } } : Dev).class2 0x008 0 b
    else d
  | _, _ => d

/-! ### Temperatures (R327, R328, R283) -/

/-- DETAIL_W of a thermal record. -/
def thermalDetail (temp source : Nat) : Nat := min temp 255 + 256 * source

/-- A cluster's 95 °C control begins at 95 °C and ends at 93 °C. -/
def Dev.clusterHot (d : Dev) (c temp : Nat) : Dev :=
  if 95 ≤ temp ∧ !bit d.pwr.thermOn c then
    (d.updPwr (fun p => { p with thermOn := p.thermOn ||| 2 ^ c })).class2 0x006 (thermalDetail temp c) 0
  else if temp ≤ 93 then d.updPwr (fun p => { p with thermOn := p.thermOn &&& (15 - 2 ^ c) })
  else d

/-- The number of the largest element of a list, the first among equals. -/
def argMax (xs : List Nat) : Nat := (xs.zipIdx.foldl (fun (b : Nat × Nat) x => if b.1 < x.1 then x else b) (xs.headD 0, 0)).2

/-- The 95 °C controls of the power core (Table 13-5). -/
def Dev.hotControls (d : Dev) (x : Temperatures) : Dev :=
  let d := (upFrom 0 4).foldl (fun d c => d.clusterHot c (x.clusters.getD c 0)) d
  let h := argMax x.stackTemps
  let top := x.stackTemps.getD h 0
  let d :=
    if 95 ≤ top ∧ !d.pwr.stackHot then (d.updPwr (fun p => { p with stackHot := true })).class2 0x006 (thermalDetail top (8 + h)) 0
    else if top ≤ 93 then d.updPwr (fun p => { p with stackHot := false }) else d
  if 95 ≤ x.hub ∧ !d.pwr.hubHot then (d.updPwr (fun p => { p with hubHot := true })).class2 0x006 (thermalDetail x.hub 4) 0
  else if x.hub ≤ 93 then d.updPwr (fun p => { p with hubHot := false }) else d

/-- The 105 °C clamp of the issue governor (Table 13-5). -/
def Dev.hotClamp (d : Dev) (x : Temperatures) : Dev :=
  let js := (upFrom 0 4).map (fun c => x.clusters.getD c 0) ++ [x.hub]
  let c := argMax js
  let top := js.getD c 0
  if 105 ≤ top ∧ !d.pwr.clamp then (d.updPwr (fun p => { p with clamp := true })).class2 0x007 (thermalDetail top c) 0
  else if top ≤ 100 then d.updPwr (fun p => { p with clamp := false }) else d

/-- Where a thermal trip comes from, if one is due: a junction at 110 °C, or a stack at 105 °C. -/
def tripSource (x : Temperatures) : Option (Nat × Nat) :=
  let js := (upFrom 0 4).map (fun c => x.clusters.getD c 0) ++ [x.hub]
  let c := argMax js
  let h := argMax x.stackTemps
  if 110 ≤ js.getD c 0 then some (c, js.getD c 0)
  else if 105 ≤ x.stackTemps.getD h 0 then some (8 + h, x.stackTemps.getD h 0)
  else none

/-- The readings as the pages show them; a stack above 85 °C refreshes at the doubled rate (R283, R286). -/
def Dev.keepTemps (d : Dev) (x : Temperatures) : Dev :=
  let d := (upFrom 0 32).foldl (fun d h =>
    let t := x.stackTemps.getD h 0
    { d with drams := d.drams.put h { d.drams.getD h {} with temp := min t 255, hotRefresh := decide (85 < t) } }) d
  d.updPwr (fun p => { p with junctions := (upFrom 0 4).map (fun c => (c, min (x.clusters.getD c 0) 255)), hubTemp := min x.hub 255 })

/-- Whether stage 3 has the cluster rails to enable: in a warm bring-up only after a thermal trip dropped them (R471, Table 20-3). -/
def Boot.enables (b : Boot) : Bool := b.stage == 3 && b.failReason == 0 && (!b.warm || b.railsOff)

/-- Whether stage 3 must hold: an input supply is out of range, a cluster junction reads 85 °C or more (R471, R472), or, after a thermal trip, any junction does, the hub's included (R328). -/
def Dev.mustHold (d : Dev) : Bool := d.boot.enables && (!d.pins.vin48 || d.pwr.junctions.any (fun e => decide (85 ≤ e.2)) || (d.boot.railsOff && decide (85 ≤ d.pwr.hubTemp)))

/-- HOLD follows its conditions: a hold begins, or it ends and the wait for the SMU begins (R471, R472). -/
def Dev.trackHold (d : Dev) : Dev :=
  let b := d.boot
  let now := d.sincePower
  if d.mustHold then
    if b.hold then d else { d with boot := { b with hold := true, holdSince := now, smuWait := false } }
  else if b.enables then
    if b.hold then { d with boot := { b with hold := false, holdTotal := b.holdTotal + (now - b.holdSince), smuWait := true, smuWaitSince := now } }
    else if b.smuWait then d else { d with boot := { b with smuWait := true, smuWaitSince := now } }
  else d

/-- The sensors are read (R327): the readings, the controls of Table 13-5, and the trip. -/
def Dev.sensors (d : Dev) (x : Temperatures) : Dev :=
  let d := (d.keepTemps x).trackHold
  let d := if d.powerCore then d.hotControls x else d
  let d := d.hotClamp x
  match tripSource x with
  | some (source, temp) => d.trip source temp
  | none => d

/-! ### The rows -/

/-- SET_CAP's row of Table 2-11 and Table 13-3. -/
def specSetCap : CmdSpec :=
  { opcode := 0x0040, pfOnly := true, critical := true, states := [.frost, .active, .snowpack], noTarget := true, noCtx := true, noJob := true, proc := some 1
    mask := opBits 0x18 10 0 ||| opBits 0x18 21 16 ||| opBits 0x20 63 0 }

/-- SET_PLATFORM_LIMIT's row: only WATTS may be non-zero. -/
def specSetPlatformLimit : CmdSpec :=
  { opcode := 0x0041, pfOnly := true, critical := true, states := [.ready, .frost, .active, .snowpack], noTarget := true, noCtx := true, noJob := true, proc := some 1
    mask := opBits 0x18 10 0 ||| opBits 0x18 21 16 ||| opBits 0x20 63 0 }

/-- SET_ICE_MODE's row of Table 2-11 and Table 13-4. -/
def specSetIceMode : CmdSpec :=
  { opcode := 0x0042, pfOnly := true, states := [.frost, .active], noTarget := true, proc := some 1
    mask := opBits 0x18 0 0 ||| opBits 0x18 12 8 ||| opBits 0x20 63 0 }

/-- SET_CAP (R319). -/
def execSetCap (t ring : Nat) (s : State) : Host.Outcome State Fault Refusal :=
  s.run t (fun d => d.ringCmd ring (fun _ => specSetCap) anyForm (fun _ => none) (fun c d => d.setCapBody false c))

/-- SET_PLATFORM_LIMIT (R319). -/
def execSetPlatformLimit (t ring : Nat) (s : State) : Host.Outcome State Fault Refusal :=
  s.run t (fun d => d.ringCmd ring (fun _ => specSetPlatformLimit) anyForm (fun _ => none) (fun c d => d.setCapBody true c))

/-- SET_ICE_MODE (R323). -/
def execSetIceMode (t ring : Nat) (s : State) : Host.Outcome State Fault Refusal :=
  s.run t (fun d => d.ringCmd ring (fun _ => specSetIceMode) anyForm (fun _ => none) (fun c d => d.setIceBody c))

/-- GOVERNOR_ESTIMATE (R311, R314). -/
def execGovernorEstimate (t : Nat) (load : LoadEstimate) (s : State) : Host.Outcome State Fault Refusal :=
  s.run t (fun d => d.governor load)

/-- CONTROL_PERIOD (R312, R317). -/
def execControlPeriod (t : Nat) (s : State) : Host.Outcome State Fault Refusal :=
  s.run t (fun d => d.controlPeriod)

/-- CAP_TAKES_EFFECT (R320). -/
def execCapTakesEffect (t : Nat) (s : State) : Host.Outcome State Fault Refusal :=
  s.run t (fun d => d.capEffect)

/-- SETTLING_INTERVAL_END (R320). -/
def execSettlingIntervalEnd (t : Nat) (s : State) : Host.Outcome State Fault Refusal :=
  s.run t (fun d => d.capEnd)

/-- ICE_MODE_TAKES_EFFECT (R323). -/
def execIceModeTakesEffect (t : Nat) (s : State) : Host.Outcome State Fault Refusal :=
  s.run t (fun d => d.iceEffect)

/-- SMU_WINDOW_RECORD (R339): the record of the last frame arrives, with some bits in error; an unpowered SMU sends none. -/
def execSmuWindowRecord (t : Nat) (arrival : WindowArrival) (s : State) : Host.Outcome State Fault Refusal :=
  s.run t (fun d => if d.smu.powered then d.smuWindow (windowOf (d.smu.record ^^^ arrival.errors) arrival.endAt) else d)

/-- DISTRUST_ENTER (R325). -/
def execDistrustEnter (t : Nat) (s : State) : Host.Outcome State Fault Refusal :=
  s.run t (fun d => d.distrustEnter)

/-- DISTRUST_EXIT (R325). -/
def execDistrustExit (t : Nat) (s : State) : Host.Outcome State Fault Refusal :=
  s.run t (fun d => d.distrustExit)

/-- CAP_OVERRUN (R321). -/
def execCapOverrun (t : Nat) (s : State) : Host.Outcome State Fault Refusal :=
  s.run t (fun d => d.capOverrun)

/-- EMERGENCY_CLEAR (R329). -/
def execEmergencyClear (t : Nat) (s : State) : Host.Outcome State Fault Refusal :=
  s.run t (fun d => d.emergencyClear)

/-- SENSOR_SAMPLE (R327, R328). -/
def execSensorSample (t : Nat) (temps : Temperatures) (s : State) : Host.Outcome State Fault Refusal :=
  s.run t (fun d => d.sensors temps)

end Sys2Proof.Machine
end

