-- ==== Sys2Proof/Machine/Smu.lean ====
section
/-! DEFINITION. The Sealed Metering Unit: energy, accounts and attribution, signed readings, the seal, the event log and its supply (R335 to R356). -/

namespace Sys2Proof.Machine

/-- Metering result codes (Table 14-4). -/
def cSmuUnavailable : Nat := 0x200
def cReadingBusy : Nat := 0x201
def cMeterLogFull : Nat := 0x202

/-! ### Registers (R335) -/

/-- ENERGY_A, ENERGY_B and ENERGY_TOTAL, in µJ. -/
def SmuRegs.energyA (r : SmuRegs) : Nat := w64 (r.accA / 65536)
def SmuRegs.energyB (r : SmuRegs) : Nat := w64 (r.accB / 65536)
def SmuRegs.energyTotal (r : SmuRegs) : Nat := w64 ((r.accA + r.accB) / 65536)

/-- Update the SMU, and its registers. -/
def Dev.updSmu (d : Dev) (f : Smu → Smu) : Dev := { d with smu := f d.smu }
def Dev.updRegs (d : Dev) (f : SmuRegs → SmuRegs) : Dev := { d with smu := { d.smu with regs := f d.smu.regs } }

/-- Whether a sealing is in progress: SMU_SEAL_N is low (R351). -/
def Dev.sealing (d : Dev) : Bool := d.pins.sealN

/-- Whether the SMU answers the hub: powered, its readings arriving, no sealing in progress (R346, R354). -/
def Dev.smuUp (d : Dev) : Bool := d.smu.powered && !d.pwr.smuAbsent && !d.sealing

/-- A class-9 record; none can be queued while the module is in RESET (R355). -/
def Dev.class9 (d : Dev) (code detailW detail : Nat) : Dev :=
  if d.modState = .reset then d else d.raise 9 code UnitId.smu.page detailW detail

/-- Entries the event log holds, and those at which it raises LOG_NEAR_FULL (R352). -/
def smuLogCapacity : Nat := 4096
def smuLogNear : Nat := 3840

/-- Write an entry into the event log; a full log takes none (R352). -/
def Dev.smuLog (d : Dev) (event : SmuEvent) (a b : Nat) : Dev :=
  if smuLogCapacity ≤ d.smu.regs.log.length then d
  else
    let d := d.updRegs (fun r => { r with log := r.log ++ [{ event, a, b, total := r.energyTotal }] })
    if d.smu.regs.log.length = smuLogNear then d.class9 0x003 smuLogNear 0 else d

/-! ### Measurement (R335, R337) -/

/-- One metrology interval: the energy counts from the first sealing on, and a rail that left its range is logged. -/
def Dev.smuMetrology (d : Dev) (x : SmuSample) : Dev :=
  if d.smu.powered then
    let d := if d.smu.regs.sealCount = 0 then d else d.updRegs (fun r => { r with accA := r.accA + x.energyA, accB := r.accB + x.energyB })
    match x.outOfLimits with
    | none => d
    | some (railB, voltage) =>
      let d := d.updSmu (fun u => { u with overWindow := true })
      let d := if d.smu.regs.log.length < smuLogCapacity then d.updRegs (fun r => { r with overranges := r.overranges + 1 }) else d
      let w := b2n railB + 2 * b2n voltage
      (d.smuLog .overrange w 0).class9 0x002 w d.smu.regs.energyTotal
  else d

/-! ### Accounts and attribution (R341 to R346) -/

/-- The account that a job's energy is credited to. -/
def Dev.jobAccount (d : Dev) (id : Nat) : Nat :=
  match d.jobs.get? id with
  | some j => j.jobTag
  | none => 0

/-- Add an estimate to an account's sum; an entry of the slot saturates at 20 bits. -/
def addWeight (w : Tab Nat) (account e : Nat) : Tab Nat := w.put account (w.getD account 0 + min e 0xFFFFF)

/-- The slot-B entries of a window: one per account whose estimate is not zero (R342). -/
def Dev.slotB (d : Dev) (x : SmuFrameIn) : Tab Nat :=
  (x.jobs.foldl (fun (w : Tab Nat) e => w.put (d.jobAccount e.1) (w.getD (d.jobAccount e.1) 0 + e.2)) [(0, x.other)]).filter (fun e => e.2 != 0)

/-- The SMU logs an account change that reached it, or finds its log full. -/
def Dev.logChange (d : Dev) (x : SmuChange) : Dev :=
  if x.logged then d.updSmu (fun u => { u with changes := u.changes ++ [x] })
  else if smuLogCapacity ≤ d.smu.regs.log.length then d.finishCmd x.cmd cMeterLogFull 0 0
  else (d.smuLog (if x.label then .label else .assign) x.account (if x.label then x.value else x.ctx)).updSmu (fun u => { u with changes := u.changes ++ [{ x with logged := true }] })

/-- The attribution slot: a count, 28-bit entries of account and energy, and the CRC (Table 14-1). -/
def slotWord (w : Tab Nat) : Nat :=
  withCrc 544 ((w.zipIdx.foldl (fun n e => n + 2 ^ (8 + 28 * e.2) * (e.1.1 % 256 + 256 * min e.1.2 0xFFFFF)) 0 + w.length) % 2 ^ 544)

/-- The entries of an attribution slot as the SMU reads it. -/
def slotEntries (w : Nat) : List (Nat × Nat) := (upFrom 0 (min (w % 256) 17)).map (fun k => (bits w (8 + 28 * k + 7) (8 + 28 * k), bits w (8 + 28 * k + 27) (8 + 28 * k + 8)))

/-- The window record that a frame carries (R337, R338): a rail out of its range in the window makes it OVERRANGE and not VALID. -/
def Smu.windowRecord (u : Smu) (power : Nat) (sealing : Bool) : Nat :=
  withCrc 144 ((u.seq + 1) % 65536 + 2 ^ 16 * (power % 65536) + 2 ^ 32 * b2n (!u.overWindow) + 2 ^ 33 * b2n u.overWindow + 2 ^ 34 * b2n sealing + 2 ^ 40 * u.regs.energyTotal)

/-- What a frame does within the SMU: it forms the window record, and a slot B with a valid CRC adds to the interval's sums (R338, R342). -/
def Dev.frameWindow (d : Dev) (x : SmuFrameIn) : Dev :=
  let slot := slotWord (d.slotB x) ^^^ x.errors
  let ok := crcHolds 544 slot
  d.updSmu (fun u =>
    { u with
      seq := (u.seq + 1) % 65536, record := u.windowRecord x.power d.sealing, overWindow := false, frames := u.frames + 1
      missed := u.missed || !ok
      weights := if ok then (slotEntries slot).foldl (fun a e => addWeight a e.1 e.2) u.weights else u.weights })

/-- Account changes reach the SMU. -/
def Dev.frameChanges (d : Dev) : Dev :=
  if d.smuUp then
    let xs := d.smu.changes
    xs.foldl (fun d x => d.logChange x) (d.updSmu (fun u => { u with changes := [] }))
  else d

/-- Account changes not yet logged, when the SMU becomes unavailable: SMU_UNAVAILABLE, and nothing changes (R346). -/
def Dev.dropChanges (d : Dev) : Dev :=
  let xs := d.smu.changes.filter (fun x => !x.logged)
  let d := d.updSmu (fun u => { u with changes := u.changes.filter (fun x => x.logged) })
  xs.foldl (fun d x => d.finishCmd x.cmd cSmuUnavailable 0 0) d

/-- Give out what is left one µJ at a time: the largest remainder first, and among equals the lowest account. `rs` holds (account, remainder). -/
def largestFirst : Nat → List (Nat × Nat) → List Nat
  | 0, _ => []
  | n + 1, rs =>
    match rs with
    | [] => []
    | r :: rest =>
      let best := rest.foldl (fun b x => if b.2 < x.2 then x else b) r
      best.1 :: largestFirst n (rs.filter (fun x => x.1 != best.1))

/-- The division of an interval's energy (R343): what each account receives. -/
def divideEnergy (q : Nat) (w : Tab Nat) : Tab Nat :=
  let total := (w.map (fun e => e.2)).sum
  let shares := w.map (fun e => (e.1, q * e.2 / total))
  let left := q - (shares.map (fun e => e.2)).sum
  let extra := largestFirst left ((w.filter (fun e => e.2 != 0)).map (fun e => (e.1, q * e.2 % total)))
  shares.map (fun e => (e.1, if extra.contains e.1 then e.2 + 1 else e.2))

/-- Add shares to the accounts. -/
def SmuRegs.credit (r : SmuRegs) (shares : Tab Nat) : SmuRegs :=
  { r with energy := shares.foldl (fun t e => t.put e.1 (w64 (t.getD e.1 0 + e.2))) r.energy }

/-- A logged account change takes effect at the interval boundary, with its final record (R346). -/
def Dev.applyChange (d : Dev) (x : SmuChange) : Dev :=
  let d :=
    if x.label then d.updRegs (fun r => { r with labels := r.labels.put x.account x.value })
    else if (d.ctx x.ctx).cstate = .free then d
    else d.updCtx x.ctx (fun c => { c with tenant := x.account })
  d.finishCmd x.cmd cOk d.smu.regs.total 0

/-- An UNATTRIBUTED record, with the intervals since the last one; none is queued in RESET (R355). -/
def Dev.unattributed (d : Dev) : Dev :=
  if d.modState = .reset then d else (d.class9 0x006 d.smu.sinceUnattrib d.smu.regs.total).updSmu (fun u => { u with sinceUnattrib := 0 })

/-- The end of an attribution interval (R343, R344, R346). -/
def Dev.attribution (d : Dev) : Dev :=
  if d.smu.powered then
    let u := d.smu
    let r := u.regs
    let q := r.energyTotal - r.attributed
    let whole := !u.missed && decide (10 ≤ u.frames) && decide (0 < (u.weights.map (fun e => e.2)).sum)
    let r := if whole then r.credit (divideEnergy q u.weights) else { r.credit [(0, q)] with unattrib := satAdd 0xFFFFFFFF r.unattrib 1 }
    let r := { r with
      attributed := r.energyTotal, total := r.energyTotal, totalA := r.energyA, totalB := r.energyB
      smuTime := if r.sealCount = 0 then 0 else w64 (r.smuTime + 1) }
    let xs := u.changes.filter (fun x => x.logged)
    let d := { d with smu := { u with regs := r, frames := 0, missed := false, weights := [], changes := u.changes.filter (fun x => !x.logged) } }
    let d := xs.foldl (fun d x => d.applyChange x) d
    let d := d.updSmu (fun u => { u with sinceUnattrib := satAdd 0xFFFFFFFF u.sinceUnattrib 1 })
    if whole then d else d.unattributed
  else d

/-- Step 8 of SMU_ACCOUNT (R346). -/
def Dev.smuAccount (c : Cmd) (d : Dev) : Dev :=
  let op := c.fld 0x18 1 0
  let value := c.qw 0x20
  if 2 ≤ op ∨ (op = 0 ∧ (value ≠ 0 ∨ 64 ≤ c.ctx)) ∨ (op = 1 ∧ c.ctx ≠ 0x7F) then d.answer c cBadFormat 0 0
  else if op = 0 ∧ (d.ctx c.ctx).cstate = .free then d.answer c cIllegal 0 0
  else if !d.smuUp then d.answer c cSmuUnavailable 0 0
  else if smuLogCapacity ≤ d.smu.regs.log.length then d.answer c cMeterLogFull 0 0
  else
    (d.answerPending c 0 0).updSmu (fun u =>
      { u with changes := u.changes ++ [{ cmd := { c with interim := true }, label := op == 1, ctx := c.ctx, account := c.fld 0x18 15 8, value }] })

/-! ### Signed readings (R347, R348) -/

/-- Bytes 0x00 to 0x9F of a signed reading (Table 14-3). -/
def SmuRegs.readingBody (r : SmuRegs) (deviceId account nonce : Nat) : List Byte :=
  leBytes 4 (1 + 256 * account + 2 ^ 16 * b2n (r.unattribRead.getD account 0 != r.unattrib) + 2 ^ 17 * b2n (r.overrangeRead.getD account 0 != r.overranges))
  ++ leBytes 4 r.sealCount ++ leBytes 8 r.readingSeq ++ leBytes 16 deviceId ++ leBytes 16 nonce ++ leBytes 8 r.smuTime
  ++ leBytes 4 r.powerOns ++ leBytes 4 r.unattrib ++ leBytes 8 r.total ++ leBytes 8 r.totalA ++ leBytes 8 r.totalB
  ++ leBytes 8 (r.labels.getD account 0) ++ leBytes 8 (r.energy.getD account 0) ++ leBytes 8 0 ++ r.lrDigest

/-- Serve a signed reading of an account: READING_SEQ increments, and the SMU signs the SHA-384 digest of bytes 0x00 to 0x9F. -/
def Dev.signedReading (d : Dev) (account nonce : Nat) : List Byte × Dev :=
  let d := d.updRegs (fun r => { r with readingSeq := w64 (r.readingSeq + 1) })
  let r := d.smu.regs
  let body := r.readingBody d.sec.deviceId account nonce
  let sig := beBytes 96 (Config.smuSign (sha384 body) r.readingSeq).toNat
  (body ++ sig, d.updRegs (fun r => { r with unattribRead := r.unattribRead.put account r.unattrib, overrangeRead := r.overrangeRead.put account r.overranges }))

/-! ### The channels (R340, R356) -/

/-- The reply to a request: the SMU's values now, but for channel 0 during a sealing (R351). -/
def Dev.smuReply (d : Dev) (a : SmuAsk) : SmuReply × Dev :=
  if a.chan = 0 ∧ d.sealing = true then (.unavailable, d)
  else
    match a.ask with
    | .signed account nonce => let (bs, d) := d.signedReading account nonce; (.reading bs, d)
    | .pubkey => (.pubkey (Config.smuPublicKey 0).toNat, d)
    | .log i => (.entry d.smu.regs.log[i]?, d)

/-- Portions of 12 bytes in a reply; that of a log entry is the model's own (notes/assumptions/79.md). -/
def SmuReply.portions : SmuReply → Nat
  | .reading _ => 22
  | .pubkey _ => 8
  | .entry _ => 6
  | .unavailable => 1

/-- The oldest waiting request is served when none is. -/
def Dev.smuServe (d : Dev) : Dev :=
  match d.smu.served, d.smu.asks with
  | none, a :: as =>
    let (r, d) := (d.updSmu (fun u => { u with asks := as })).smuReply a
    d.updSmu (fun u => { u with served := some { ask := a, reply := r, left := r.portions } })
  | _, _ => d

/-- A request has arrived whole on a channel; a portion whose CRC fails is ignored, and the request with it (R338). Requests are served one at a time, in the order of their arrival. -/
def Dev.smuAsk (d : Dev) (a : SmuAsk) (crcOk : Bool) : Dev :=
  if d.smu.powered && crcOk then (d.updSmu (fun u => { u with asks := u.asks ++ [a] })).smuServe else d

/-- A reply has been carried whole: to the page that asked, or to its channel. -/
def Smu.deliver (u : Smu) (x : SmuServed) : Smu :=
  match x.ask.page, x.reply with
  | true, .reading bs => { u with fetched := if u.reading.isSome then some bs else none }
  | true, _ => { u with reading := none, readCode := cSmuUnavailable }
  | false, r => { u with replies := u.replies.put x.ask.chan r }

/-- A frame carries the next portion of the reply, and after the last one the next request is served. -/
def Dev.frameChannels (d : Dev) : Dev :=
  match d.smu.served with
  | none => d.smuServe
  | some x =>
    if 2 ≤ x.left then d.updSmu (fun u => { u with served := some { x with left := x.left - 1 } })
    else (d.updSmu (fun u => { u.deliver x with served := none })).smuServe

/-- One frame of the bus (R338). -/
def Dev.smuFrame (d : Dev) (x : SmuFrameIn) : Dev := if d.smu.powered then (d.frameWindow x).frameChanges.frameChannels else d

/-- The signed reading that the SMU page asked for has come over channel 0 and is written to host memory, or fails because the SMU does not answer (R354, R356, R371). -/
def Dev.readingWritten (d : Dev) : Dev :=
  match d.smu.reading, d.smu.fetched with
  | none, _ => d
  | some _, f =>
    if !d.smuUp then d.updSmu (fun u => { u with reading := none, fetched := none, readCode := cSmuUnavailable })
    else if d.hostStopped then d
    else
      match f with
      | none => d
      | some bs => (d.writeHost d.smu.readAddr bs).updSmu (fun u => { u with reading := none, fetched := none, readCode := cOk })

/-! ### The seal (R349 to R352) -/

/-- A reading that the SMU issues in a sealing, for the witness on channel 1 (R351). -/
def Dev.sealReading (d : Dev) : Dev :=
  let (bs, d) := d.signedReading 0 d.smu.sealNonce
  d.updSmu (fun u => { u with replies := u.replies.put 1 (.reading bs) })

/-- The reads of channel 0 that are under way complete with SMU_UNAVAILABLE: a sealing has begun, or the SMU stops (R351, R354). -/
def Smu.dropChannel0 (u : Smu) : Smu :=
  let mine := u.asks.any (fun a => a.chan == 0 && !a.page) || u.served.any (fun x => x.ask.chan == 0 && !x.ask.page)
  let u := { u with asks := u.asks.filter (fun a => a.chan != 0), served := u.served.filter (fun x => x.ask.chan != 0), fetched := none }
  let u := if mine then { u with replies := u.replies.put 0 .unavailable } else u
  if u.reading.isSome then { u with reading := none, readCode := cSmuUnavailable } else u

/-- The witness pulls SMU_SEAL_N low: steps 1 and 2 of R351. The reading is of account 0. -/
def Dev.sealAssert (d : Dev) (nonce : Nat) : Dev :=
  if d.smu.powered && !d.pins.sealN then
    let d := ({ d with pins := { d.pins with sealN := true } } : Dev).dropChanges
    (d.updSmu (fun u => { u.dropChannel0 with sealNonce := nonce })).sealReading
  else d

/-- Whether an image's signature verifies over the image, DEVICE_ID and SEAL_COUNT + 1 under one of the authority keys. -/
def Dev.sealSigned (d : Dev) (x : SmuImage) : Bool :=
  let m := x.legal ++ x.rest ++ leBytes 16 d.sec.deviceId ++ leBytes 4 (d.smu.regs.sealCount + 1)
  Config.authoritySigned 0 m x.sigR x.sigS || Config.authoritySigned 1 m x.sigR x.sigS

/-- Six free words, as the digest of a log whose layout the spec does not give. -/
def Dev.freeDigest (d : Dev) : List Byte × Dev :=
  (upFrom 0 6).foldl (fun (x : List Byte × Dev) _ =>
    let (w, d) := x.2.takeFree
    (x.1 ++ leBytes 8 w, d)) ([], d)

/-- Steps 3 to 6 of R351: the image is checked and switched in, or the failed attempt is logged. -/
def Dev.sealLoad (d : Dev) (x : SmuImage) : Dev :=
  if d.smu.powered && d.pins.sealN then
    if x.version ≤ d.smu.regs.version then (d.smuLog .sealFailed 1 0).class9 0x005 1 0
    else if !d.sealSigned x then (d.smuLog .sealFailed 2 0).class9 0x005 2 0
    else
      let (dg, d) := d.freeDigest
      let d := d.updRegs (fun r =>
        { r with
          sealCount := r.sealCount + 1, version := x.version, lrDigest := sha384 x.legal
          log := [{ event := .sealing, a := r.sealCount + 1, b := x.version, total := r.energyTotal, digest := dg }] })
      let d := d.sealReading
      d.class9 0x004 d.smu.regs.sealCount d.smu.regs.readingSeq
  else d

/-! ### Supply (R353) -/

/-- VSMU33 falls below 3.0 V: everything counted is stored, and the SMU stops. -/
def Dev.vsmuLoss (d : Dev) : Dev :=
  if d.smu.powered then
    let d := ({ d with pins := { d.pins with vsmu33 := false } } : Dev).dropChanges
    d.updSmu (fun u => { u.dropChannel0 with nv := u.regs, powered := false, frames := 0, missed := true, weights := [], overWindow := false, asks := [], served := none })
  else d

/-- VSMU33 comes up: the SMU restores its store, counts and logs the power-on, and meters. -/
def Dev.vsmuOn (d : Dev) : Dev :=
  if d.smu.powered then d
  else
    let d := { d with pins := { d.pins with vsmu33 := true } }
    let d := d.updSmu (fun u => { u with powered := true, regs := { u.nv with powerOns := (u.nv.powerOns + 1) % 2 ^ 32 }, frames := 0, missed := true, weights := [] })
    (d.smuLog .powerOn d.smu.regs.powerOns 0).class9 0x001 d.smu.regs.powerOns d.smu.regs.energyTotal

/-! ### The rows -/

/-- SMU_ACCOUNT's row of Table 2-11 and Table 14-2. -/
def specSmuAccount : CmdSpec :=
  { opcode := 0x0090, pfOnly := true, critical := true, states := [.frost, .active, .snowpack], noJob := true, proc := some 0
    mask := opBits 0x18 1 0 ||| opBits 0x18 15 8 ||| opBits 0x20 63 0 }

/-- SMU_ACCOUNT_ASSIGN (R346). -/
def execSmuAccountAssign (t ring : Nat) (s : State) : Host.Outcome State Fault Refusal :=
  s.run t (fun d => d.ringCmd ring (fun _ => specSmuAccount) (isForm (fun c => c.fld 0x18 1 0) 0 2) (fun _ => none) (fun c d => d.smuAccount c))

/-- SMU_ACCOUNT_LABEL (R346). -/
def execSmuAccountLabel (t ring : Nat) (s : State) : Host.Outcome State Fault Refusal :=
  s.run t (fun d => d.ringCmd ring (fun _ => specSmuAccount) (isForm (fun c => c.fld 0x18 1 0) 1 2) (fun _ => none) (fun c d => d.smuAccount c))

/-- SMU_METROLOGY_INTERVAL (R335). -/
def execSmuMetrologyInterval (t : Nat) (sample : SmuSample) (s : State) : Host.Outcome State Fault Refusal :=
  s.run t (fun d => d.smuMetrology sample)

/-- SMU_FRAME (R338, R342). -/
def execSmuFrame (t : Nat) (frame : SmuFrameIn) (s : State) : Host.Outcome State Fault Refusal :=
  s.run t (fun d => d.smuFrame frame)

/-- ATTRIBUTION_INTERVAL (R343). -/
def execAttributionInterval (t : Nat) (s : State) : Host.Outcome State Fault Refusal :=
  s.run t (fun d => d.attribution)

/-- READ_SIGNED (R347). -/
def execReadSigned (call : SmuCall) (account nonce : Nat) (s : State) : Host.Outcome State Fault Refusal :=
  s.run call.t (fun d => if account < 256 ∧ call.channel < 2 then d.smuAsk { chan := call.channel, ask := .signed account (nonce % 2 ^ 128) } call.crcOk else d)

/-- READ_PUBKEY (R348). -/
def execReadPubkey (call : SmuCall) (s : State) : Host.Outcome State Fault Refusal :=
  s.run call.t (fun d => if call.channel < 2 then d.smuAsk { chan := call.channel, ask := .pubkey } call.crcOk else d)

/-- READ_LOG (R340). -/
def execReadLog (call : SmuCall) (index : Nat) (s : State) : Host.Outcome State Fault Refusal :=
  s.run call.t (fun d => if call.channel < 2 then d.smuAsk { chan := call.channel, ask := .log index } call.crcOk else d)

/-- SMU_SEAL_N_ASSERT (R351). -/
def execSmuSealNAssert (t nonce : Nat) (s : State) : Host.Outcome State Fault Refusal :=
  s.run t (fun d => d.sealAssert (nonce % 2 ^ 128))

/-- SEALING_IMAGE_LOAD (R351). -/
def execSealingImageLoad (t : Nat) (image : SmuImage) (s : State) : Host.Outcome State Fault Refusal :=
  s.run t (fun d => d.sealLoad image)

/-- SMU_SEAL_N_RELEASE (R351). -/
def execSmuSealNRelease (t : Nat) (s : State) : Host.Outcome State Fault Refusal :=
  s.run t (fun d => { d with pins := { d.pins with sealN := false } })

/-- SMU_NV_STORE (R353). -/
def execSmuNvStore (t : Nat) (s : State) : Host.Outcome State Fault Refusal :=
  s.run t (fun d => if d.smu.powered then d.updSmu (fun u => { u with nv := u.regs }) else d)

/-- VSMU33_LOSS (R353). -/
def execVsmu33Loss (t : Nat) (s : State) : Host.Outcome State Fault Refusal :=
  s.run t (fun d => d.vsmuLoss)

/-- VSMU33_POWER_ON (R353). -/
def execVsmu33PowerOn (t : Nat) (s : State) : Host.Outcome State Fault Refusal :=
  s.run t (fun d => d.vsmuOn)

/-- SMU_ABSENCE_TIMEOUT (R326, R346). -/
def execSmuAbsenceTimeout (t : Nat) (s : State) : Host.Outcome State Fault Refusal :=
  s.run t (fun d => let d := d.smuAbsence; if d.pwr.smuAbsent then d.dropChanges else d)

/-- SIGNED_READING_WRITTEN (R356). -/
def execSignedReadingWritten (t : Nat) (s : State) : Host.Outcome State Fault Refusal :=
  s.run t (fun d => d.readingWritten)

end Sys2Proof.Machine
end

