-- ==== Sys2Proof/Machine/Firmware.lean ====
section
/-! DEFINITION. Firmware processors: staging, activation, restart and reversion, and the log's copy in host memory (R357 to R368, R376, R377). -/

namespace Sys2Proof.Machine

/-- The pages that a processor serves (Table 15-1). -/
def procUnits (p : Nat) : List UnitId :=
  if p = 0 then [.sec, .smu]
  else if p = 1 then [.pwr]
  else if p = 2 then .sched :: (upFrom 0 64).map .ctx
  else [.ccc (p - 3)]

/-- The longest restart of a processor, in ticks (Table 15-1). -/
def restartTime (p : Nat) : Nat :=
  if p = 0 then 250000000 else if p = 1 then 20000000 else if p = 2 then 150000000 else 100000000

/-- A class-8 record (R365). -/
def Dev.class8 (d : Dev) (code p : Nat) (c : Cmd) (detail : Nat) : Dev := d.raise 8 code (procPage p) (p + 65536 * (c.tag % 65536)) detail

/-- The rollback floor and the fused epoch of a processor (R377). -/
def Dev.floor (d : Dev) (p : Nat) : Nat := d.sec.floors.getD p 1
def Dev.fusedEpoch (d : Dev) (p : Nat) : Nat := d.sec.fusedEpochs.getD p 0

/-- The epoch of a version. -/
def verEpoch (v : Nat) : Nat := bits v 29 24

/-- Whether a processor may boot an image whose signature verifies: its root key is not revoked, its version is at or above the floor, and its epoch at or above the fused one (R376, R377). -/
def Dev.bootable (d : Dev) (p : Nat) (x : FlashImage) : Bool :=
  !bit d.sec.rootRevoked x.key && decide (d.floor p ≤ x.version) && decide (d.fusedEpoch p ≤ verEpoch x.version)

/-! ### Restarting (R358, R362, R363) -/

/-- A processor begins to restart: its pages read RESTARTING and their epochs increment; the power core first takes every cluster out of boost (R330). -/
def Dev.beginRestart (d : Dev) (p : Nat) : Dev :=
  let d := if p = 1 then d.updPwr (fun w => { w with points := w.points.map (fun (e : Nat × Nat) => (e.1, min e.2 w.high)) }) else d
  let d := (procUnits p).foldl (fun d u => (d.bumpEpoch u).updHdr u.page (fun h => { h with ustate := .restarting })) d
  d.updProc p (fun q => { q with restarting := true })

/-- The error reports that a cluster control core buffered enter the log, each with the time of its event (Table 15-3, Table 15-5). -/
def Dev.flushErrq (d : Dev) (p : Nat) : Dev :=
  if p < 3 then d
  else
    let c := d.cccs.getD (p - 3) {}
    let d := { d with cccs := d.cccs.put (p - 3) { c with errq := [] } }
    c.errq.foldl (fun d r => d.logAt r.time r.proc r.level r.point r.code r.data) d

/-- A restart of a processor is counted on the scheduler page, and that of a cluster control core on its own (FW_RESTARTS, CCC_RESTARTS). -/
def Dev.countRestart (d : Dev) (p : Nat) : Dev :=
  let d := d.updProc p (fun q => { q with restarts := satAdd 0xFFFF q.restarts 1 })
  if p < 3 then d
  else
    let c := d.cccs.getD (p - 3) {}
    { d with cccs := d.cccs.put (p - 3) { c with restarts := satAdd 0xFFFF c.restarts 1 } }

/-- A processor returns: its pages are IDLE, its restart is counted, and the commands that waited may go on. The power core finds the clusters parked where the module is READY or FROST (R331). -/
def Dev.endRestart (d : Dev) (p : Nat) : Dev :=
  let d := (procUnits p).foldl (fun d u => d.updHdr u.page (fun h => { h with ustate := .idle })) d
  let d := ((d.updProc p (fun q => { q with restarting := false })).countRestart p).flushErrq p
  if p = 1 && !d.pwr.ice && (d.modState == .ready || d.modState == .frost) then d.updPwr Power.park else d

/-! ### Staging (R359 to R361, R377) -/

/-- The root keys that an image revokes: those it names but for the one that signed it (R377). -/
def revokedBy (x : FwImage) : Nat := x.revokes % 16 - (x.revokes % 16 &&& 2 ^ x.key)

/-- The root keys that are revoked, or that the images staged for the other processors would revoke. -/
def Dev.dueRevoked (d : Dev) (p : Nat) : Nat :=
  d.procs.foldl (fun m e => if e.1 = p then m else m ||| e.2.stagedRevokes) d.sec.rootRevoked

/-- Whether an image may be staged for a processor: its type, its version's form, and one root key left unrevoked whatever is activated (checks of step 1; R377). -/
def Dev.imageFormed (d : Dev) (p : Nat) (x : FwImage) : Bool :=
  !x.malformed && x.proc == p && decide (x.version < 2 ^ 30) && decide (x.key < 4)
  && ((d.dueRevoked p ||| x.revokes) % 16 != 15)

/-- The code of a staging (R361). -/
def Dev.stageCode (d : Dev) (p : Nat) (msg : List Byte) (x : FwImage) : Nat :=
  if !d.imageFormed p x then cBadFormat
  else if bit d.sec.rootRevoked x.key || !Config.vendorSigned x.key msg x.sigR x.sigS then cAuthFail
  else if x.version ≤ d.floor p ∨ verEpoch x.version < d.fusedEpoch p then cOutOfRange
  else cOk

/-- Step 8 of FW_STAGE (R359, R360). -/
def Dev.fwStage (c : Cmd) (d : Dev) : Dev :=
  let p := fwProc c
  let n := c.dw 0x1C
  if p = 7 ∨ n < 4096 ∨ 4194304 < n ∨ c.qw 0x20 % 4096 ≠ 0 then d.answer c cBadFormat 0 0
  else
    (d.answerPending c 0 0).updProc p (fun q =>
      { q with staged := none, stagedRevokes := 0, op := some { cmd := { c with interim := true }, phase := .staging, s := 0, since := d.now } })

/-- A staging ends: the security core has copied and checked the image, and written one that passes to the other slot (R361). -/
def Dev.fwStageDone (d : Dev) (p : Nat) (x : FwImage) : Dev :=
  match (d.proc p).op with
  | none => d
  | some o =>
    if o.phase == .staging && !(d.proc 0).restarting then
      let code := d.stageCode p (memReadN d.hostMem (o.cmd.qw 0x20) (o.cmd.dw 0x1C)) x
      let d := d.updProc p (fun q =>
        if code = cOk then { q with op := none, other := some { version := x.version, key := x.key }, staged := some x.version, stagedRevokes := revokedBy x }
        else { q with op := none, staged := none, stagedRevokes := 0 })
      d.finishCmd o.cmd code (if code = cOk then x.version else 0) 0
    else d

/-! ### Activation (R362, R364) -/

/-- Step 8 of FW_ACTIVATE; IMAGE_ADDR and IMAGE_BYTES must be 0 (R55, R359). -/
def Dev.fwActivate (c : Cmd) (d : Dev) : Dev :=
  let p := fwProc c
  if p = 7 ∨ c.dw 0x1C ≠ 0 ∨ c.qw 0x20 ≠ 0 then d.answer c cBadFormat 0 0
  else
    let s := d.effective (c.qw 0x28)
    (d.answerPending c s 0).updProc p (fun q => { q with op := some { cmd := { c with interim := true }, phase := .waiting, s, since := d.now } })

/-- Whether some processor restarts, or an activation of a lower S has come and still waits: only one restarts at a time (R362). -/
def Dev.activationBlocked (d : Dev) (p s : Nat) : Bool :=
  d.procs.any (fun e => e.2.restarting || (match e.2.op with
    | some o => e.1 != p && o.phase == .waiting && decide (o.s < s ∨ (o.s = s ∧ e.1 < p)) && decide (o.s ≤ d.now)
    | none => false))

/-- An activation reaches step 1 at S, or leaves its deferral: in an emergency it is deferred; otherwise the processor restarts from the staged slot (R362, R364). -/
def Dev.activationStart (d : Dev) (p : Nat) : Dev :=
  match (d.proc p).op with
  | none => d
  | some o =>
    let due := (o.phase == .waiting && decide (o.s ≤ d.now)) || o.phase == .deferred
    if due && !d.activationBlocked p o.s then
      if d.pwr.emergency then
        if o.phase == .waiting then
          (d.updProc p (fun q => { q with op := some { o with phase := .deferred, since := d.now } })).class8 0x002 p o.cmd d.deviceTime
        else d
      else (d.updProc p (fun q => { q with op := some { o with phase := .restarting, since := d.now } })).beginRestart p
    else d

/-- The self-check of an image that may boot passes within the restart time: the image runs, the floor and the fused epoch advance, and the keys it revokes are burned (R362, R377). -/
def Dev.activationPass (d : Dev) (p : Nat) : Dev :=
  match (d.proc p).op with
  | none => d
  | some o =>
    let q := d.proc p
    let x := q.other.getD q.image
    if o.phase == .restarting && decide (d.now ≤ o.since + restartTime p) && d.bootable p x then
      let v := x.version
      let d := d.endRestart p
      let d := { d with sec := { d.sec with
        floors := d.sec.floors.put p v
        fusedEpochs := d.sec.fusedEpochs.put p (max (d.fusedEpoch p) (verEpoch v))
        rootRevoked := d.sec.rootRevoked ||| q.stagedRevokes } }
      let d := d.updProc p (fun q => { q with image := x, other := some q.image, staged := none, stagedRevokes := 0, op := none })
      (d.class8 0x001 p o.cmd v).finishCmd o.cmd cOk v 0
    else d

/-- The self-check does not pass in time: the processor returns to the slot it left (R362). -/
def Dev.activationTimeout (d : Dev) (p : Nat) : Dev :=
  match (d.proc p).op with
  | none => d
  | some o =>
    if o.phase == .restarting && decide (o.since + restartTime p < d.now) then
      let q := d.proc p
      let d := d.endRestart p
      let d := d.updProc p (fun q => { q with staged := none, stagedRevokes := 0, op := none, reverts := satAdd 0xFFFF q.reverts 1 })
      (d.class8 0x004 p o.cmd (q.staged.getD 0 + 2 ^ 32 * q.image.version)).finishCmd o.cmd cBadFormat 0 0
    else d

/-- 60 s of deferral: the activation is abandoned and the image stays staged (R364). -/
def Dev.activationAbandon (d : Dev) (p : Nat) : Dev :=
  match (d.proc p).op with
  | none => d
  | some o =>
    if o.phase == .deferred && decide (o.since + 60000000000 ≤ d.now) then
      let d := d.updProc p (fun q => { q with op := none })
      (d.class8 0x003 p o.cmd o.since).finishCmd o.cmd cDeferredEmergency 0 0
    else d

/-! ### The log's copy (R366 to R368) -/

/-- The 64 bytes of a log record (Table 15-5). -/
def LogRec.bytes (r : LogRec) : List Byte :=
  leBytes 8 r.seq ++ leBytes 8 r.time ++ leBytes 4 (r.proc + 8 * r.level + 2 ^ 16 * (r.point % 65536)) ++ leBytes 4 (r.code % 4096) ++ leBytes 40 r.data

/-- Copy the next log record into the host ring, when the scheduler core runs, host writes are allowed and a slot is free (R368). -/
def Dev.logCopy (d : Dev) : Dev :=
  let l := d.log
  let size := 2 ^ l.hostLog2
  if l.hostLog2 = 0 ∨ (d.proc 2).restarting ∨ d.hostStopped ∨ (l.hostTail + 1) % size = l.hostHead then d
  else
    match l.records.find? (fun r => decide (l.nextCopy ≤ r.seq)) with
    | none => d
    | some r =>
      { d.writeHost (l.hostBase + 64 * l.hostTail) r.bytes with
        log := { l with hostTail := (l.hostTail + 1) % size, nextCopy := r.seq + 1 } }

/-! ### The rows -/

/-- The processor named has no other FW_STAGE or FW_ACTIVATE checked and not yet completed, in progress or waiting for the security core (R358, R360); PROC 7 names none and fails at step 8. -/
def Dev.fwIdle (d : Dev) (c : Cmd) : Bool :=
  fwProc c == 7
  || ((d.proc (fwProc c)).op.isNone && !(d.proc 0).waiting.any (fun x => x != c && (x.opcode == 0x0050 || x.opcode == 0x0051) && fwProc x == fwProc c))

/-- FW_STAGE's row of Table 2-11 and Table 15-2. -/
def specFwStage : CmdSpec :=
  { opcode := 0x0050, pfOnly := true, states := [.frost, .active, .snowpack, .faulted], noTarget := true, noCtx := true, noJob := true, proc := some 0
    mask := opBits 0x18 2 0 ||| opBits 0x1C 31 0 ||| opBits 0x20 63 0 }

/-- FW_ACTIVATE's row of Table 2-11 and Table 15-2. -/
def specFwActivate : CmdSpec :=
  { opcode := 0x0051, pfOnly := true, critical := true, states := [.frost, .active, .snowpack], noTarget := true, noCtx := true, noJob := true, proc := some 0
    mask := opBits 0x18 2 0 ||| opBits 0x1C 31 0 ||| opBits 0x20 63 0 ||| opBits 0x28 63 0 }

/-- FW_STAGE (R361). -/
def execFwStage (t ring : Nat) (s : State) : Host.Outcome State Fault Refusal :=
  s.run t (fun d => d.ringCmd ring (fun _ => specFwStage) anyForm (fun c => if d.fwIdle c then none else some cIllegal) (fun c d => d.fwStage c))

/-- FW_STAGE_COMPLETE (R361). -/
def execFwStageComplete (t proc : Nat) (image : FwImage) (s : State) : Host.Outcome State Fault Refusal :=
  s.run t (fun d => d.fwStageDone proc image)

/-- FW_ACTIVATE (R362). -/
def execFwActivate (t ring : Nat) (s : State) : Host.Outcome State Fault Refusal :=
  s.run t (fun d => d.ringCmd ring (fun _ => specFwActivate) anyForm
    (fun c => if fwProc c == 7 || (d.fwIdle c && (d.proc (fwProc c)).staged.isSome) then none else some cIllegal) (fun c d => d.fwActivate c))

/-- ACTIVATION_START (R362). -/
def execActivationStart (t proc : Nat) (s : State) : Host.Outcome State Fault Refusal :=
  s.run t (fun d => d.activationStart proc)

/-- ACTIVATION_SELF_CHECK_PASS (R362). -/
def execActivationSelfCheckPass (t proc : Nat) (s : State) : Host.Outcome State Fault Refusal :=
  s.run t (fun d => d.activationPass proc)

/-- ACTIVATION_RESTART_TIMEOUT (R362). -/
def execActivationRestartTimeout (t proc : Nat) (s : State) : Host.Outcome State Fault Refusal :=
  s.run t (fun d => d.activationTimeout proc)

/-- ACTIVATION_ABANDON (R364). -/
def execActivationAbandon (t proc : Nat) (s : State) : Host.Outcome State Fault Refusal :=
  s.run t (fun d => d.activationAbandon proc)

/-- LOG_COPY (R368), after the records of corrected errors whose second has passed (R402). -/
def execLogCopy (t : Nat) (s : State) : Host.Outcome State Fault Refusal :=
  s.run t (fun d => d.flushCe.logCopy)

end Sys2Proof.Machine
end

