-- ==== Sys2Proof/Machine/Keys.lean ====
section
/-! DEFINITION. The security core's commands: key slots, the owner password, life states, debug unlock and JTAG (R376 to R396). -/

namespace Sys2Proof.Machine

/-! ### Wrapped blocks (R385) -/

/-- KEK of a command. -/
def Dev.kek (d : Dev) (c : Cmd) : List Byte :=
  hmac256 (d.sec.commandKey c.keySlot (d.keySlot c.keySlot)) (ascii "FLOSTAN-WRAP" ++ leBytes 8 c.authCounter)

/-- WRAPPED of a command record, and the block it holds, if the wrap's integrity check passes. -/
def Cmd.wrapped (c : Cmd) : Nat := c.fld 0x20 319 0
def Dev.unwrap (d : Dev) (c : Cmd) : Option (List Byte) := kwUnwrap (d.kek c) (c.bytes 0x20 40)

/-- The password of a password block: byte 0 its length, 1 to 31, then the password, then zeros. -/
def passwordOf (b : List Byte) : Option (List Byte) :=
  let n := (b.headD 0).toNat
  if 1 ≤ n ∧ n ≤ 31 ∧ leNat (b.drop (1 + n)) = 0 then some ((b.drop 1).take n) else none

/-- The verifier of a password (R386). -/
def Dev.verifierOf (d : Dev) (pw : List Byte) : Nat := leNat (pbkdf2 pw (leBytes 16 d.sec.salt) 100000)

/-! ### KEY_MANAGE (R385, R386) -/

/-- Fields of KEY_MANAGE (Table 16-2). -/
def kmOp (c : Cmd) : Nat := c.fld 0x18 2 0
def kmSlot (c : Cmd) : Nat := c.fld 0x18 6 4
def kmAdmin (c : Cmd) : Bool := c.fld 0x18 8 8 == 1

/-- Whether the fields of KEY_MANAGE hold the values that Table 16-2 states for its OP. -/
def kmStated (c : Cmd) : Bool :=
  let op := kmOp c
  decide (op < 5) && (decide (op < 3) || kmSlot c == 0) && (decide (op < 2) || !kmAdmin c) && ((op != 2 && op != 4) || c.wrapped == 0)

/-- Check 1 of R386: the block of a well-formed command, as the new key or the password's bytes; none when a field, the wrap or the block is wrong. -/
def Dev.kmBlock (d : Dev) (c : Cmd) : Option (List Byte) :=
  let op := kmOp c
  if 5 ≤ op ∨ (3 ≤ op ∧ kmSlot c ≠ 0) ∨ (2 ≤ op ∧ kmAdmin c) then none
  else if op = 2 ∨ op = 4 then (if c.wrapped = 0 then some [] else none)
  else
    match d.unwrap c with
    | none => none
    | some b => if op = 3 then passwordOf b else if leNat b = 0 then none else some b

/-- A slot after a KEY_MANAGE operation (R386). -/
def slotAfter (op : Nat) (admin : Bool) (key : Nat) : KeySlot :=
  if op = 2 then {} else { sstate := .inUse, admin, key, last := 0, reserve := 0 }

/-- Whether some slot that is not EMPTY has ADMIN. -/
def hasAdmin (slots : Tab KeySlot) : Bool := slots.any (fun e => e.2.sstate != .empty && e.2.admin)

/-- Check 2 of R386. -/
def Dev.kmIllegal (d : Dev) (c : Cmd) : Bool :=
  let op := kmOp c
  let k := d.keySlot (kmSlot c)
  d.sec.life == 3
  || (op == 0 && k.sstate != .empty)
  || ((op == 1 || op == 2) && k.sstate == .empty)
  || (decide (op ≤ 2) && !hasAdmin (d.sec.slots.put (kmSlot c) (slotAfter op (kmAdmin c) 0)))
  || (decide (3 ≤ op) && d.sec.life == 0)

/-- Step 8 of KEY_MANAGE. -/
def Dev.keyManage (c : Cmd) (d : Dev) : Dev :=
  match d.kmBlock c with
  | none => d.answer c cBadFormat 0 0
  | some b =>
    if d.kmIllegal c then d.answer c cIllegal 0 0
    else
      let x : KeyChange := { cmd := { c with interim := true }, op := kmOp c, slot := kmSlot c, admin := kmAdmin c, block := leNat b }
      (d.answerPending c 0 0).updSec (fun s => { s with keyChanges := s.keyChanges ++ [x] })

/-- What a key or password change does to the store; a password's bytes give its verifier, their number that of the block's length. -/
def Dev.applyKeyChange (d : Dev) (x : KeyChange) : Dev :=
  if x.op = 3 then
    let pw := leBytes ((Nat.log2 x.block) / 8 + 1) x.block
    d.updSec (fun s => { s with verifier := some (d.verifierOf pw) })
  else if x.op = 4 then d.updSec (fun s => { s with verifier := none })
  else d.updSec (fun s => { s with slots := s.slots.put x.slot (slotAfter x.op x.admin x.block) })

/-- The first key or password change is written and its command completes (R386). -/
def Dev.keyCommit (d : Dev) : Dev :=
  match d.sec.keyChanges with
  | [] => d
  | x :: rest =>
    if (d.proc 0).restarting then d
    else
      let d := (d.updSec (fun s => { s with keyChanges := rest })).applyKeyChange x
      d.finishCmd x.cmd cOk 0 0

/-! ### Unlock (R392 to R395) -/

/-- An unlock opens for a number of minutes: its end time, and the device with it in force. -/
def Dev.openUnlock (d : Dev) (level : UnlockLevel) (minutes : Nat) : Nat × Dev :=
  let fin := d.deviceTime + minutes * 60000000000
  (fin, (d.updSec (fun s => { s with unlock := level, unlockEnd := fin })).warnUnlock 1 fin)

/-- Fields of DEBUG_UNLOCK (Table 16-4). -/
def duOp (c : Cmd) : Nat := c.fld 0x18 1 0
def duMinutes (c : Cmd) : Nat := c.fld 0x18 26 16
def duAddr (c : Cmd) : Nat := c.qw 0x48

/-- Step 8 of an OWNER unlock (R392). -/
def Dev.unlockOwner (c : Cmd) (d : Dev) : Dev :=
  if duMinutes c = 0 ∨ 1440 < duMinutes c ∨ duAddr c ≠ 0 then d.answer c cBadFormat 0 0
  else
    match (d.unwrap c).bind passwordOf with
    | none => d.answer c cBadFormat 0 0
    | some pw =>
      if d.sec.life ≠ 2 ∨ d.sec.verifier.isNone ∨ d.sec.unlock = .vendor then d.answer c cIllegal 0 0
      else (d.answerPending c 0 0).updSec (fun s => { s with ownerUnlocks := s.ownerUnlocks ++ [({ c with interim := true }, pw, duMinutes c)] })

/-- The verifier of the first supplied password is computed (R392). -/
def Dev.ownerVerified (d : Dev) : Dev :=
  match d.sec.ownerUnlocks with
  | [] => d
  | (c, pw, minutes) :: rest =>
    if (d.proc 0).restarting then d
    else
      let d := d.updSec (fun s => { s with ownerUnlocks := rest })
      if d.sec.verifier = some (d.verifierOf pw) then
        let (fin, d) := d.openUnlock .owner minutes
        d.authPassed.finishCmd c cOk fin 0
      else (d.authFailure c cAuthFail).finishCmd c cAuthFail 0 0

/-- Step 8 of a CHALLENGE (R393). -/
def Dev.unlockChallenge (c : Cmd) (d : Dev) : Dev :=
  if duMinutes c ≠ 0 ∨ c.wrapped ≠ 0 ∨ duAddr c ≠ 0 then d.answer c cBadFormat 0 0
  else
    match d.ent.serviceCode with
    | some code => d.answer c code 0 0
    | none => d.entRequest { kind := .challenge, cmd := c, len := 32, wait := true, dest := 0 }

/-- The response block is well formed (R394). -/
def responseOk (b : List Byte) : Bool := decide (1 ≤ leNat (b.take 4)) && decide (leNat (b.take 4) ≤ 1440) && leNat ((b.drop 4).take 28) == 0

/-- Step 8 of a RESPONSE (R394): whatever its outcome, the challenge, valid for 10 minutes, is used up (R393). To a challenge that a failure of the entropy source invalidated it fails with AUTH_FAIL (R241). -/
def Dev.unlockResponse (c : Cmd) (d : Dev) : Dev :=
  let valid := d.sec.chalValid && decide (d.deviceTime < d.sec.chalTime + 600000000000)
  let voided := d.sec.chalVoided
  let d := d.updSec (fun s => { s with chalValid := false, chalVoided := false })
  let b := memReadN d.hostMem (duAddr c) 128
  if duMinutes c ≠ 0 ∨ c.wrapped ≠ 0 ∨ duAddr c % 64 ≠ 0 ∨ !responseOk b then d.answer c cBadFormat 0 0
  else if voided then (d.authFailure c cAuthFail).answer c cAuthFail 0 0
  else if !valid then d.answer c cIllegal 0 0
  else if !Config.vendorSigned 4 (leBytes 32 d.sec.nonce ++ leBytes 16 d.sec.deviceId ++ b.take 32) ((b.drop 0x20).take 48) ((b.drop 0x50).take 48) then
    (d.authFailure c cAuthFail).answer c cAuthFail 0 0
  else
    let (fin, d) := d.openUnlock .vendor (leNat (b.take 4))
    d.authPassed.answer c cOk fin 0

/-- Step 8 of a LOCK (R395). -/
def Dev.unlockLock (c : Cmd) (d : Dev) : Dev :=
  if duMinutes c ≠ 0 ∨ c.wrapped ≠ 0 ∨ duAddr c ≠ 0 then d.answer c cBadFormat 0 0 else d.endUnlock.answer c cOk 0 0

/-! ### Life states (R387 to R389) -/

/-- Burn the fuse pair of a life state. -/
def Security.burn (s : Security) (target : Nat) : Security := { s with lifeFuses := s.lifeFuses ||| 3 * 4 ^ (target - 1) }

/-- Complete every half-burned pair (R387). -/
def Security.completePairs (s : Security) : Security :=
  { s with lifeFuses := (upFrom 0 3).foldl (fun f k => if bits f (2 * k + 1) (2 * k) = 0 then f else f ||| 3 * 4 ^ k) s.lifeFuses }

/-- Step 8 of LIFE_STATE (R388). -/
def Dev.lifeStateBody (c : Cmd) (d : Dev) : Dev :=
  let target := c.fld 0x18 1 0
  if target = 0 then d.answer c cBadFormat 0 0
  else if target ≤ d.sec.life then d.answer c cIllegal 0 0
  else if target = 2 ∧ ((d.keySlot 0).sstate = .transport ∨ !(d.sec.slots.any (fun e => e.2.sstate == .inUse && e.2.admin))) then d.answer c cIllegal 0 0
  else (d.answerPending c 0 0).updSec (fun s => { s with lifeChanges := s.lifeChanges ++ [({ c with interim := true }, target)] })

/-- Destroy every context as CTX_DESTROY does (R389); its jobs end first. -/
def Dev.destroyAll (d : Dev) (write : Bool) (p : Nat → Ctx → Bool) : Dev :=
  let cs := (d.ctxs.filter (fun e => e.2.cstate != .free && p e.1 e.2)).map (fun e => e.1)
  cs.foldl (fun d n =>
    let live := (d.jobs.filter (fun e => e.2.ctx == n && !e.2.jstate.over?)).map (fun e => e.1)
    (live.foldl (fun d id => d.abortJob id write) d).destroyCtx n) d

/-- What entering RETURN does before the command completes (R389). -/
def Dev.enterReturn (d : Dev) : Dev :=
  let d := d.updSec (fun s => { s with slots := [(0, { sstate := .transport, admin := true })], verifier := none })
  { d.destroyAll true (fun _ _ => true) with devMem := [], poison := [], badShares := [], goodLines := [] }

/-- A life-state transition: it ends any unlock and any challenge, and leaving FACTORY ends the entropy test mode and re-runs the start-up tests (R247, R388, R393). -/
def Dev.enterLife (d : Dev) (target : Nat) : Dev :=
  let factory := d.sec.life = 0
  let d := (d.updSec (fun s => { s.burn target with chalValid := false, chalVoided := false })).endUnlock
  let d := (if factory then d.entEndTest else d).closeExtended
  if target = 3 then d.enterReturn else d

/-- The first life-state transition is burned and its command completes (R388). -/
def Dev.lifeCommit (d : Dev) : Dev :=
  match d.sec.lifeChanges with
  | [] => d
  | (c, target) :: rest =>
    if (d.proc 0).restarting then d
    else ((d.updSec (fun s => { s with lifeChanges := rest })).enterLife target).finishCmd c cOk 0 0

/-! ### Access by life state (R390) -/

/-- Whether boundary scan, and JTAG debug, are open (Table 16-3). -/
def Security.scanOpen (s : Security) : Bool := decide (s.life ≤ 1) || s.unlock == .vendor
def Security.debugOpen (s : Security) : Bool := s.life == 0 || s.unlock == .vendor

/-- What a JTAG access returns, with the device after it: the registers of a firmware processor are not laid out, so a read of one is free. -/
def Dev.jtagValue (d : Dev) : JtagAccess → Nat × Dev
  | .readReg tc r => ((d.tidy tc).get r, d)
  | .readPc tc => ((d.tidy tc).pc, d)
  | .readF tc r => ((d.tidy tc).f.getD (r % 32) 0, d)
  | .readV tc r lane => (((d.tidy tc).v.getD (r % 32) 0) / 2 ^ (64 * (lane % 32)) % 2 ^ 64, d)
  | .readCsr tc n => ((d.tidy tc).csrGet n, d)
  | .readMem a => ((memRead d.devMem a).toNat, d)
  | .readProcReg _ _ => d.takeFree
  | .readProcMem _ _ => d.takeFree
  | _ => (0, d)

/-- What an open JTAG access does. A step of a firmware processor, and a write of its registers and memory, change nothing that the spec gives a name. -/
def Dev.jtagDo (d : Dev) : JtagAccess → Dev
  | .haltTidy tc => if tc < 128 then d.updTidy tc (fun x => { x with halted := true, steps := 0 }) else d
  | .resumeTidy tc => if tc < 128 then d.updTidy tc (fun x => { x with halted := false, steps := 0 }) else d
  | .stepTidy tc => if tc < 128 then d.updTidy tc (fun x => if x.halted then { x with steps := 1 } else x) else d
  | .haltProc p => if p < 7 then d.updProc p (fun q => { q with halted := true }) else d
  | .resumeProc p => if p < 7 then d.updProc p (fun q => { q with halted := false }) else d
  | .writeReg tc r v => if tc < 128 then d.updTidy tc (fun x => x.set r v) else d
  | .writePc tc v => if tc < 128 then d.updTidy tc (fun x => { x with pc := w64 v }) else d
  | .writeF tc r v => if tc < 128 then d.updTidy tc (fun x => { x with f := x.f.put (r % 32) (w64 v) }) else d
  | .writeV tc r lane v => if tc < 128 then d.updTidy tc (fun x => x.vsetLane (r % 32) (lane % 32) v) else d
  | .writeCsr tc n v => if tc < 128 then d.updTidy tc (fun x => x.csrSet n v) else d
  | .writeMem a b => d.storeDev a [b]
  | _ => d

/-- A JTAG access: carried out where Table 16-3 opens it; otherwise it writes nothing, reads zero and is counted. -/
def Dev.jtag (d : Dev) (x : JtagAccess) : Dev :=
  let ok := match x with
    | .boundaryScan => d.sec.scanOpen
    | _ => d.sec.debugOpen
  if ok then
    let (v, d) := d.jtagValue x
    (d.jtagDo x).updSec (fun s => { s with jtagReply := v })
  else d.updSec (fun s => { s with jtagDenied := satAdd 0xFFFFFFFF s.jtagDenied 1, jtagReply := 0 })

/-! ### The rows -/

/-- KEY_MANAGE's row of Table 2-11, Table 16-1 and Table 16-2. -/
def specKeyManage : CmdSpec :=
  { opcode := 0x0080, pfOnly := true, critical := true, states := [.ready, .frost], noTarget := true, noCtx := true, noJob := true, proc := some 0, admin := true, stated := kmStated
    mask := opBits 0x18 2 0 ||| opBits 0x18 6 4 ||| opBits 0x18 8 8 ||| opBits 0x20 319 0 }

/-- LIFE_STATE's row of Table 2-11 and Table 16-1. -/
def specLifeState : CmdSpec :=
  { opcode := 0x0081, pfOnly := true, critical := true, states := [.ready, .frost], noTarget := true, noCtx := true, noJob := true, proc := some 0, admin := true, stated := fun c => c.fld 0x18 1 0 != 0
    mask := opBits 0x18 1 0 }

/-- DEBUG_UNLOCK's row of Table 2-11 and Table 16-4. -/
def specDebugUnlock : CmdSpec :=
  { opcode := 0x0082, pfOnly := true, critical := true, states := [.ready, .frost, .active, .faulted], noTarget := true, noCtx := true, noJob := true, proc := some 0
    mask := opBits 0x18 1 0 ||| opBits 0x18 26 16 ||| opBits 0x20 319 0 ||| opBits 0x48 63 0 }

/-- KEY_MANAGE_INSTALL (R386). -/
def execKeyManageInstall (t ring : Nat) (s : State) : Host.Outcome State Fault Refusal :=
  s.run t (fun d => d.ringCmd ring (fun _ => specKeyManage) (isForm kmOp 0 5) (fun _ => none) (fun c d => d.keyManage c))

/-- KEY_MANAGE_REPLACE (R386). -/
def execKeyManageReplace (t ring : Nat) (s : State) : Host.Outcome State Fault Refusal :=
  s.run t (fun d => d.ringCmd ring (fun _ => specKeyManage) (isForm kmOp 1 5) (fun _ => none) (fun c d => d.keyManage c))

/-- KEY_MANAGE_REVOKE (R386). -/
def execKeyManageRevoke (t ring : Nat) (s : State) : Host.Outcome State Fault Refusal :=
  s.run t (fun d => d.ringCmd ring (fun _ => specKeyManage) (isForm kmOp 2 5) (fun _ => none) (fun c d => d.keyManage c))

/-- KEY_MANAGE_SET_PASSWORD (R386). -/
def execKeyManageSetPassword (t ring : Nat) (s : State) : Host.Outcome State Fault Refusal :=
  s.run t (fun d => d.ringCmd ring (fun _ => specKeyManage) (isForm kmOp 3 5) (fun _ => none) (fun c d => d.keyManage c))

/-- KEY_MANAGE_CLEAR_PASSWORD (R386). -/
def execKeyManageClearPassword (t ring : Nat) (s : State) : Host.Outcome State Fault Refusal :=
  s.run t (fun d => d.ringCmd ring (fun _ => specKeyManage) (isForm kmOp 4 5) (fun _ => none) (fun c d => d.keyManage c))

/-- KEY_MANAGE_COMMIT (R386). -/
def execKeyManageCommit (t : Nat) (s : State) : Host.Outcome State Fault Refusal :=
  s.run t (fun d => d.keyCommit)

/-- LIFE_STATE (R388). -/
def execLifeState (t ring : Nat) (s : State) : Host.Outcome State Fault Refusal :=
  s.run t (fun d => d.ringCmd ring (fun _ => specLifeState) anyForm (fun _ => none) (fun c d => d.lifeStateBody c))

/-- LIFE_STATE_COMMIT (R388, R389). -/
def execLifeStateCommit (t : Nat) (s : State) : Host.Outcome State Fault Refusal :=
  s.run t (fun d => d.lifeCommit)

/-- DEBUG_UNLOCK_OWNER (R392). -/
def execDebugUnlockOwner (t ring : Nat) (s : State) : Host.Outcome State Fault Refusal :=
  s.run t (fun d => d.ringCmd ring (fun _ => specDebugUnlock) (isForm duOp 0 4) (fun _ => none) (fun c d => d.unlockOwner c))

/-- OWNER_VERIFIER_DONE (R392). -/
def execOwnerVerifierDone (t : Nat) (s : State) : Host.Outcome State Fault Refusal :=
  s.run t (fun d => d.ownerVerified)

/-- DEBUG_UNLOCK_CHALLENGE (R393). -/
def execDebugUnlockChallenge (t ring : Nat) (s : State) : Host.Outcome State Fault Refusal :=
  s.run t (fun d => d.ringCmd ring (fun _ => specDebugUnlock) (isForm duOp 1 4) (fun _ => none) (fun c d => d.unlockChallenge c))

/-- DEBUG_UNLOCK_RESPONSE (R394). -/
def execDebugUnlockResponse (t ring : Nat) (s : State) : Host.Outcome State Fault Refusal :=
  s.run t (fun d => d.ringCmd ring (fun _ => specDebugUnlock) (isForm duOp 2 4) (fun _ => none) (fun c d => d.unlockResponse c))

/-- DEBUG_UNLOCK_LOCK (R395). -/
def execDebugUnlockLock (t ring : Nat) (s : State) : Host.Outcome State Fault Refusal :=
  s.run t (fun d => d.ringCmd ring (fun _ => specDebugUnlock) (isForm duOp 3 4) (fun _ => none) (fun c d => d.unlockLock c))

/-- CHALLENGE_EXPIRY (R393): 10 minutes have passed. -/
def execChallengeExpiry (t : Nat) (s : State) : Host.Outcome State Fault Refusal :=
  s.run t (fun d => if d.sec.chalValid && decide (d.sec.chalTime + 600000000000 ≤ d.deviceTime) then d.updSec (fun x => { x with chalValid := false }) else d)

/-- UNLOCK_EXPIRY (R395). -/
def execUnlockExpiry (t : Nat) (s : State) : Host.Outcome State Fault Refusal :=
  s.runAt (max s.dev.now t) (fun _ => s.dueAt t)

/-- LOCKOUT_END (R384): a lockout is in force only while device time lies below its end, so its end is the clock's own. -/
def execLockoutEnd (t : Nat) (s : State) : Host.Outcome State Fault Refusal :=
  s.run t (fun d => d)

/-- JTAG_ACCESS (R390). -/
def execJtagAccess (t : Nat) (access : JtagAccess) (s : State) : Host.Outcome State Fault Refusal :=
  s.run t (fun d => d.jtag access)

end Sys2Proof.Machine
end

