-- ==== Sys2Proof/Machine/Lease.lean ====
section
/-! DEFINITION. NOP, POWER_STATE, and the driver lease with its expiry, takeover and resolution (R65, R78, R332, R369 to R374, R478). -/

namespace Sys2Proof.Machine

/-! ### SNOWPACK (R331, R332) -/

/-- The stacks enter or leave self-refresh; a stack that is not up is left alone. -/
def Dev.stacksTo (d : Dev) (sleep : Bool) : Dev :=
  (upFrom 0 32).foldl (fun d h =>
    let x := d.drams.getD h {}
    match x.hstate with
    | .active => if sleep then { d with drams := d.drams.put h { x with hstate := .selfRefresh } } else d
    | .selfRefresh => if sleep then d else { d with drams := d.drams.put h { x with hstate := .active } }
    | _ => d) d

/-- The stacks and the ports go down for SNOWPACK, and return to service. -/
def Dev.snowpackDown (d : Dev) : Dev := (d.stacksTo true).portsDown
def Dev.snowpackUp (d : Dev) : Dev := (d.stacksTo false).portsUp

/-- The module enters FROST: a cap command that awaited the next return to FROST takes its S (R319). -/
def Dev.moveFrost (d : Dev) : Dev :=
  let d := d.move .frost
  { d with pwr := { d.pwr with capOps := d.pwr.capOps.map (fun (o : CapOp) => if o.ownS.isNone then { o with ownS := some d.now } else o) } }

/-- The first POWER_STATE of a direction, and those that stay. -/
def Dev.takePowerOp (d : Dev) (p : PowerOp → Bool) : Option (PowerOp × Dev) :=
  (takeFirst p d.pwr.powerOps).map (fun e => (e.1, { d with pwr := { d.pwr with powerOps := e.2 } }))

/-- A POWER_STATE to SNOWPACK completes, once the power core is at work (R330): from FROST the module is then SNOWPACK; where an earlier one has brought it there, it completes alone. -/
def Dev.snowpackEntry (d : Dev) : Dev :=
  if d.powerCore ∧ (d.modState = .frost ∨ d.modState = .snowpack) then
    match d.takePowerOp (fun o => o.toSnowpack) with
    | none => d
    | some (o, d) =>
      let d := if d.modState = .frost then (d.snowpackDown).move .snowpack else d
      d.finishCmd o.cmd cOk 0 0
  else d

/-- A POWER_STATE to FROST completes 120 ms after its check; where the module has left SNOWPACK already, it completes alone. -/
def Dev.snowpackExit (d : Dev) : Dev :=
  if d.powerCore ∧ (d.modState = .snowpack ∨ d.modState = .frost ∨ d.modState = .active ∨ d.modState = .ready) then
    match d.takePowerOp (fun o => !o.toSnowpack && decide (o.check + 120000000 ≤ d.now)) with
    | none => d
    | some (o, d) =>
      let d := if d.modState = .snowpack then d.snowpackUp.moveFrost else d
      d.finishCmd o.cmd cOk 0 0
  else d

/-- Step 8 of POWER_STATE (R332). DEDUCED (notes/assumptions/17.md): no rule says that it is answered PENDING, so its one record is written when it completes (R49). -/
def Dev.powerState (c : Cmd) (d : Dev) : Dev :=
  let d := d.awaitRecord c
  { d with pwr := { d.pwr with powerOps := d.pwr.powerOps ++ [{ cmd := { c with interim := true }, toSnowpack := c.fld 0x18 0 0 == 1, check := d.now }] } }

/-- POWER_STATE's row of Table 2-11; it targets the module. -/
def specPowerState : CmdSpec := { opcode := 0x0043, pfOnly := true, states := [.frost, .snowpack], mask := opBits 0x18 0 0, noTarget := true, proc := some 1 }

/-- The further condition of POWER_STATE. -/
def Dev.powerStateCond (d : Dev) (c : Cmd) : Option Nat :=
  if c.fld 0x18 0 0 = 1 then (if d.modState = .frost && !d.anyLive then none else some cIllegal)
  else if d.modState = .snowpack then none else some cIllegal

/-! ### Starting and ending a lease (R369, R370) -/

/-- INTERVAL_MS of ATTACH and TAKEOVER. -/
def leaseMs (c : Cmd) : Option Nat :=
  let n := c.fld 0x18 13 0
  if n = 0 then some 500 else if 100 ≤ n ∧ n ≤ 10000 then some n else none

/-- The lease runs from now for an interval, with its status. -/
def Lease.start (l : Lease) (status : LeaseStatus) (ms now : Nat) : Lease :=
  { l with status, interval := ms, deadline := now + ms * 1000000, setAt := now, warned := false }

/-- Step 8 of ATTACH. -/
def Dev.attach (c : Cmd) (d : Dev) : Dev :=
  match leaseMs c with
  | none => d.answer c cOutOfRange 0 0
  | some ms =>
    let d := (d.updLease (fun l => l.start .held ms d.now)).moveFrost
    d.answer c cOk d.lease.deadline 0

/-- Step 8 of DETACH: the lease ends, and the module is READY; from SNOWPACK the stacks and ports return to service (R331). -/
def Dev.detach (c : Cmd) (d : Dev) : Dev :=
  let d := if d.modState = .snowpack then d.snowpackUp else d
  let d := d.updLease (fun l => { l with status := .none, warned := false, deadline := 0, setAt := 0 })
  (d.move .ready).answer c cOk 0 0

/-! ### Stored records and stopped operations (R371, R373) -/

/-- The stored records go to their rings in store order, before the records that found the store full (R50). -/
def Dev.releaseStore (d : Dev) : Dev :=
  let store := d.lease.store
  let d := d.updLease (fun l => { l with store := [] })
  { d with rings := d.rings.map (fun (e : Nat × Ring) => (e.1, { e.2 with
      held := e.2.held.filter (fun x => x.direct) ++ (store.filter (fun x => x.1 == e.1)).map (·.2) ++ e.2.held.filter (fun x => !x.direct) })) }

/-- Stopped operations resume at their first host write. -/
def Dev.resumeStopped (d : Dev) : Dev :=
  let ws := d.flt.stopped
  let d := { d with flt := { d.flt with stopped := [] } }
  (ws.foldl (fun d w => (d.writeHost w.addr w.bytes).finish w.pend w.code w.r0 w.r1) d).xqWriteAll

/-- LEASE_RENEW (R369, R371): in FAULTED or DUMPING with the lease expired it ends the stop on host writes. -/
def Dev.leaseRenew (c : Cmd) (d : Dev) : Dev :=
  let stopped := d.hostStopped && d.modState != .orphaned
  let status := if d.modState = .orphaned then LeaseStatus.takenOver else .held
  let d := d.updLease (fun l => l.start status l.interval d.now)
  if stopped then ((d.releaseStore).answer c cOk d.lease.deadline 0).resumeStopped
  else d.answer c cOk d.lease.deadline 0

/-- LEASE_RENEW's further condition: in ORPHANED it is legal on the ring of the TAKEOVER in force alone (Table 2-11). -/
def Dev.renewCond (d : Dev) (c : Cmd) : Option Nat :=
  if d.modState = .orphaned ∧ !(d.lease.status == .takenOver && d.lease.takeRing == some c.ring) then some cLeaseExpired else none

/-! ### TAKEOVER (R373) -/

/-- TAKEOVER's row of Table 2-11. -/
def specTakeover : CmdSpec := { opcode := 0x0062, pfOnly := true, critical := true, states := [.orphaned], mask := opBits 0x18 13 0 }

/-- TAKEOVER_RESULT (Table 15-7). -/
def Dev.takeResult (d : Dev) (ring code : Nat) : Dev := d.updLease (fun l => { l with resultCode := code, resultRing := ring, resultValid := true })

/-- The TAKEOVER that stands next on a ring: one that fails leaves its code in TAKEOVER_RESULT, and its completion goes to the store; one that completes OK restarts the lease and is answered on its ring (R65, R373). -/
def Dev.takeover (d : Dev) (ring : Nat) : Dev :=
  match d.headCmd ring with
  | none => d
  | some c =>
    if c.opcode != specTakeover.opcode then d
    else
      let d := d.advanceHead ring
      let d :=
        match d.preCheck c specTakeover none, leaseMs c with
        | (d, some code), _ => (d.takeResult ring code).answer c code 0 0
        | (d, none), none => (d.takeResult ring cOutOfRange).answer c cOutOfRange 0 0
        | (d, none), some ms =>
          let d := (d.takeResult ring cOk).updLease (fun l => { l.start .takenOver ms d.now with takeRing := some ring })
          d.answerDirect c cOk d.lease.deadline 0
      d.fetchUnknown 65536 ring

/-! ### ORPHAN_RESOLVE (R78, R373) -/

/-- C of an entry is no earlier than the resolution (R78). -/
def Dev.resumeLaunches (d : Dev) : Dev :=
  { d with launches := d.launches.map (fun (e : Launch) =>
      match e.sent, e.c with
      | false, some x => if x < d.now then { e with c := some d.now, held := true } else e
      | _, _ => e) }

/-- The module leaves ORPHANED with its lease HELD: to SNOWPACK where it came from there, to ACTIVE where a job is LAUNCHED, RUNNING or DRAINING, else to FROST (Table 2-12). -/
def Dev.leaveOrphaned (d : Dev) : Dev :=
  let d := d.updLease (fun l => { l with status := .held, takeRing := none })
  if d.lease.fromSnowpack then d.move .snowpack
  else if d.anyRunning then { d.move .active with frostSaves := [] }
  else { d.moveFrost with frostSaves := (d.ctxOps.filter (fun o => !o.restore)).map (·.ctx) }

/-- Stopped operations end without writing, and with no final record (R373): a save leaves its image undefined, and a reading or a transfer its record unwritten. -/
def Dev.discardStopped (d : Dev) : Dev :=
  let ws := d.flt.stopped
  let reads := d.flt.dumpReads
  let d := { d with flt := { d.flt with stopped := [], dumpReads := [] } }
  let d := ws.foldl (fun d w => d.dropPend w.pend.ring) d
  let d := reads.foldl (fun d r => d.dropPend r.pend.ring) d
  let saves := d.ctxOps.filter (fun o => !o.restore)
  let d := { d with ctxOps := d.ctxOps.filter (fun o => o.restore) }
  let d := saves.foldl (fun d o =>
    ((d.freeHost (saveAddr o.cmd) (saveLimit o.cmd)).updCtx o.ctx (fun k => { k with cstate := .idle })).dropPend o.cmd.ring) d
  let d := match d.reader.captured with | some x => d.dropPend x.1.cmd.ring | none => d
  let d := match d.reader.drain with | some c => d.dropPend c.ring | none => d
  let d := { d with reader := { d.reader with captured := none, drain := none } }
  let d := if d.smu.reading.isSome then { d with smu := { d.smu with reading := none, fetched := none, readCode := cSmuUnavailable } } else d
  (upFrom 0 portCount).foldl (fun d p => d.updXq p (fun g => { g with xfers := g.xfers.filter (fun x => x.fin.isNone) })) d

/-- Jobs from QUEUED to DRAINING, in number order. -/
def Dev.liveJobs (d : Dev) : List Nat := (d.jobs.filter (fun e => e.2.jstate.live?)).map (·.1)

/-- Step 8 of ORPHAN_RESOLVE: DISCARD gives up every live job, the stored records, those that found the store full, and the stopped operations; RESUME writes the records, answers, and lets the stopped operations and the launch scheduler go on. RESULT0 counts the stored records, RESULT1 the jobs aborted. -/
def Dev.orphanResolve (discard : Bool) (c : Cmd) (d : Dev) : Dev :=
  let stored := d.lease.store.length
  if discard then
    let ids := d.liveJobs
    let d := ids.foldl (fun d id => d.abortJob id false) d
    let d := { d with rings := d.rings.map (fun (e : Nat × Ring) => (e.1, { e.2 with held := e.2.held.filter (fun x => x.direct) })) }
    let d := (d.updLease (fun l => { l with store := [] })).discardStopped
    d.leaveOrphaned.answer c cOk stored ids.length
  else
    let d := d.releaseStore.leaveOrphaned
    ((d.answer c cOk stored 0).resumeStopped).resumeLaunches

/-- ORPHAN_RESOLVE's row of Table 2-11. -/
def specOrphanResolve : CmdSpec := { opcode := 0x0063, pfOnly := true, states := [.orphaned], mask := opBits 0x18 0 0, proc := some 2 }

/-- Its further condition: a TAKEOVER on the same ring is in force. -/
def Dev.resolveCond (d : Dev) (c : Cmd) : Option Nat := if d.lease.status == .takenOver && d.lease.takeRing == some c.ring then none else some cIllegal

/-! ### The rows -/

/-- NOP's row of Table 2-11. -/
def specNop : CmdSpec := { opcode := 0x0001, states := allStates }

/-- NOP (R478). -/
def execNop (t ring : Nat) (s : State) : Host.Outcome State Fault Refusal :=
  s.run t (fun d => d.ringCmd ring (fun _ => specNop) anyForm (fun _ => none)
    (fun c d => let b := d.bootRecord d.ent.service.code; d.answer c cOk b.1 b.2))

/-- POWER_STATE to SNOWPACK (R332). -/
def execPowerStateSnowpack (t ring : Nat) (s : State) : Host.Outcome State Fault Refusal :=
  s.run t (fun d => d.ringCmd ring (fun _ => specPowerState) (fun c => c.fld 0x18 0 0 == 1) d.powerStateCond Dev.powerState)

/-- POWER_STATE to FROST (R332). -/
def execPowerStateFrost (t ring : Nat) (s : State) : Host.Outcome State Fault Refusal :=
  s.run t (fun d => d.ringCmd ring (fun _ => specPowerState) (fun c => c.fld 0x18 0 0 == 0) d.powerStateCond Dev.powerState)

/-- SNOWPACK_ENTRY_COMPLETE (R332). -/
def execSnowpackEntryComplete (t : Nat) (s : State) : Host.Outcome State Fault Refusal :=
  s.run t (fun d => d.snowpackEntry)

/-- SNOWPACK_EXIT_COMPLETE (R332). -/
def execSnowpackExitComplete (t : Nat) (s : State) : Host.Outcome State Fault Refusal :=
  s.run t (fun d => d.snowpackExit)

/-- ATTACH's row of Table 2-11. -/
def specAttach : CmdSpec := { opcode := 0x0060, pfOnly := true, states := [.ready], mask := opBits 0x18 13 0 }

/-- LEASE_RENEW's row of Table 2-11. -/
def specLeaseRenew : CmdSpec := { opcode := 0x0061, pfOnly := true, states := [.frost, .active, .snowpack, .orphaned, .faulted, .dumping] }

/-- DETACH's row of Table 2-11. -/
def specDetach : CmdSpec := { opcode := 0x0064, pfOnly := true, states := [.frost, .snowpack] }

/-- ATTACH (R369). -/
def execAttach (t ring : Nat) (s : State) : Host.Outcome State Fault Refusal :=
  s.run t (fun d => d.ringCmd ring (fun _ => specAttach) anyForm (fun _ => none) Dev.attach)

/-- LEASE_RENEW (R369, R371, R373). -/
def execLeaseRenew (t ring : Nat) (s : State) : Host.Outcome State Fault Refusal :=
  s.run t (fun d => d.ringCmd ring (fun _ => specLeaseRenew) anyForm d.renewCond Dev.leaseRenew)

/-- TAKEOVER (R373). -/
def execTakeover (t ring : Nat) (s : State) : Host.Outcome State Fault Refusal :=
  s.run t (fun d => d.takeover ring)

/-- ORPHAN_RESOLVE with ACTION RESUME (R373). -/
def execOrphanResolveResume (t ring : Nat) (s : State) : Host.Outcome State Fault Refusal :=
  s.run t (fun d => d.ringCmd ring (fun _ => specOrphanResolve) (fun c => c.fld 0x18 0 0 == 0) d.resolveCond (Dev.orphanResolve false))

/-- ORPHAN_RESOLVE with ACTION DISCARD (R373). -/
def execOrphanResolveDiscard (t ring : Nat) (s : State) : Host.Outcome State Fault Refusal :=
  s.run t (fun d => d.ringCmd ring (fun _ => specOrphanResolve) (fun c => c.fld 0x18 0 0 == 1) d.resolveCond (Dev.orphanResolve true))

/-- DETACH (R369). -/
def execDetach (t ring : Nat) (s : State) : Host.Outcome State Fault Refusal :=
  s.run t (fun d => d.ringCmd ring (fun _ => specDetach) anyForm (fun _ => if d.anyLive then some cIllegal else none) Dev.detach)

/-- LEASE_WARNING (R370). -/
def execLeaseWarning (t : Nat) (s : State) : Host.Outcome State Fault Refusal :=
  s.runAt (max s.dev.now t) (fun _ => s.dueAt t)

/-- LEASE_EXPIRY (R370). -/
def execLeaseExpiry (t : Nat) (s : State) : Host.Outcome State Fault Refusal :=
  s.runAt (max s.dev.now t) (fun _ => s.dueAt t)

/-- TAKEOVER_LAPSE (R373). -/
def execTakeoverLapse (t : Nat) (s : State) : Host.Outcome State Fault Refusal :=
  s.runAt (max s.dev.now t) (fun _ => s.dueAt t)

end Sys2Proof.Machine
end

