-- ==== Sys2Proof/Machine/Resets.lean ====
section
/-! DEFINITION. Resets and supplies: cold, warm, host, function and unit resets, the supplies and the reference clocks (R29, R248, R322, R382, R384, R395, R413 to R421, R434, R477, R482, R485, R486). -/

namespace Sys2Proof.Machine

/-! ### What each part keeps (Table 17-8) -/

/-- Every page's epoch increments once (R29); so does that of a page which has left the tree and may return to it. -/
def Dev.resetUnits (d : Dev) : Tab UnitHdr :=
  ((UnitId.subtree d.geo .root).map UnitId.page).foldl (fun (t : Tab UnitHdr) p => t.put p { epoch := nextEpoch (d.epoch p), prev := d.epoch p, changedAt := d.now })
    (d.units.map (fun (e : Nat × UnitHdr) => (e.1, ({ epoch := nextEpoch e.2.epoch, prev := e.2.epoch, changedAt := d.now } : UnitHdr))))

/-- The power page: caps survive, a cap that has not settled leaves the one before it in force (R322); the readings of the SMU and of the sensors go on. -/
def Power.kept (p : Power) : Power :=
  let p := match p.capOps with
    | o :: _ => if o.started then p.setCap o.platform o.prevWatts o.prevPrio else p
    | [] => p
  { part140 := p.part140, cap := p.cap, platform := p.platform, prio := p.prio, entries := p.entries, smuAbsent := p.smuAbsent, smuSeq := p.smuSeq
    lastValid := p.lastValid, feedValid := p.feedValid, feedOverrange := p.feedOverrange, junctions := p.junctions, hubTemp := p.hubTemp }

/-- The SMU is never reset; its page is, and account changes it has not logged are discarded (R349, R414). -/
def Smu.kept (u : Smu) : Smu :=
  { u with
    acctSelect := 0, nonce := 0, readAddr := 0, reading := none, readCode := 0, fetched := none
    asks := u.asks.filter (fun a => !a.page), served := u.served.filter (fun x => !x.ask.page)
    changes := (u.changes.filter (fun x => x.logged)).map (fun (x : SmuChange) => { x with cmd := { x.cmd with lost := true } }) }

/-- A firmware processor keeps its images and counts; what waited for it is discarded. -/
def Proc.kept (q : Proc) : Proc := { q with restarting := false, halted := false, waiting := [], op := none }

/-- The security core's store survives; its page does not, the challenge ends, and a change already under way is written without a completion (R382, R384, R393, R414). -/
def Security.kept (s : Security) : Security :=
  { s with
    chalValid := false, chalVoided := false, nonce := 0, chalSeq := 0, ctrSelect := 0, rollSelect := 0, jtagDenied := 0, jtagReply := 0, ownerUnlocks := []
    keyChanges := s.keyChanges.map (fun (x : KeyChange) => { x with cmd := { x.cmd with lost := true } })
    lifeChanges := s.lifeChanges.map (fun (x : Cmd × Nat) => ({ x.1 with lost := true }, x.2)) }

/-- The entropy source runs on; held requests are discarded, and the generator is instantiated afresh (R248). -/
def Entropy.kept (e : Entropy) : Entropy := { e with queue := [], renew := true }

/-- The log ring and its numbering are kept; its copy in host memory is switched off. -/
def LogRing.kept (l : LogRing) : LogRing := { records := l.records, seq := l.seq, nextCopy := l.nextCopy }

/-- A stack loses nothing but the counts of its page; it must retrain. -/
def Dram.kept (x : Dram) : Dram := { temp := x.temp, hotRefresh := x.hotRefresh }

/-- Retirements that waited for a job take effect (R20). -/
def Geometry.kept (g : Geometry) : Geometry := { g with retired := g.retired ||| g.pendingRetire, pendingRetire := 0, generation := 0 }

/-- A warm reset (Table 17-8): every unit is reset; device time, the contents of DRAM, the dump, the log ring and the auxiliary domain are kept. -/
def Dev.warmReset (d : Dev) : Dev :=
  let d := (d.endUnlock.logCe (fun _ => true)).move .reset
  let d := (upFrom 3 4).foldl (fun d p => d.flushErrq p) d
  { now := d.now, reply := d.reply, free := d.free, hostMem := d.hostMem, msix := d.msix
    modState := d.modState, prevState := d.prevState, transitions := d.transitions
    devMem := d.devMem.filter (fun c => isDram c.1)
    poison := d.poison.filter (fun l => isDram (64 * l)), badShares := d.badShares, goodLines := d.goodLines
    units := d.resetUnits
    views := d.views.map (fun (e : Nat × FnView) => (e.1, { bar2Log2 := e.2.bar2Log2 }))
    time := { running := d.time.running, lockOffset := d.time.lockOffset, steps := d.time.steps }
    nextJob := d.nextJob
    drams := d.drams.map (fun (e : Nat × Dram) => (e.1, e.2.kept))
    geom := d.geom.kept
    procs := d.procs.map (fun (e : Nat × Proc) => (e.1, e.2.kept))
    log := d.log.kept
    cccs := d.cccs.map (fun (e : Nat × Ccc) => (e.1, { e.2 with errq := [], dropped := 0 }))
    lease := { expiries := d.lease.expiries }
    sec := d.sec.kept, ent := d.ent.kept
    flt := { dump := d.flt.dump }
    pwr := d.pwr.kept, smu := d.smu.kept
    hostIf := { gen := d.hostIf.gen, width := d.hostIf.width, flit := d.hostIf.flit, vfEnabled := d.hostIf.vfEnabled }
    boot := d.boot, pins := d.pins }

/-- A cold reset with VAUX33 kept (Table 17-8, R413): device time restarts, epochs return to 1, and DRAM with the dump and the log ring is lost. -/
def Dev.coldReset (d : Dev) : Dev :=
  let since := d.sincePower
  let d := d.warmReset
  { d with
    now := 0, time := {}, units := [], views := [], devMem := [], poison := [], badShares := [], goodLines := [], drams := []
    log := { seq := d.log.seq, nextCopy := d.log.nextCopy }
    flt := {}
    ent := { d.ent with retestFrom := d.ent.retestFrom - since }
    pwr := { d.pwr with lastValid := 0, smuSeq := none, smuAbsent := false, feedValid := false, feedOverrange := false }
    hostIf := {}
    boot := { railsOff := d.boot.railsOff, tripped := d.boot.tripped } }

/-- Loss of VAUX33: the state of the auxiliary domain goes as well. Each slot's counter becomes its reserve mark, and a lockout in force begins again at full length when power returns (R248, R322, R382, R384). -/
def Dev.auxLoss (d : Dev) : Dev :=
  let locked := d.lockedOut
  let d := d.coldReset
  { d with
    ent := {}
    pwr := { d.pwr with cap := 1200, platform := 1200, prio := 0x24, entries := 0 }
    lease := {}
    log := {}
    cccs := []
    procs := d.procs.map (fun (e : Nat × Proc) => (e.1, { e.2 with restarts := 0, reverts := 0 }))
    sec := { d.sec with
      keyChanges := [], lifeChanges := []
      slots := d.sec.slots.map (fun (e : Nat × KeySlot) => (e.1, { e.2 with last := e.2.reserve }))
      lockoutEnd := if locked then d.sec.lockoutLen else 0, lockoutAgain := locked } }

/-! ### Entering BOOT (R414, R476, R477) -/

/-- The module enters BOOT: TRANSITIONS counts from here (R36). -/
def Dev.enterBoot (d : Dev) (b : Boot) : Dev := { d.move .boot with transitions := 0, boot := b }

/-- The release of a warm, host or function reset: a warm bring-up, its stages 0 and 1 complete at once; after a boot failure a bring-up from stage 1. -/
def Dev.releaseReset (d : Dev) : Dev :=
  let b : Boot := { startAt := d.sincePower, images := d.boot.images, railsOff := d.boot.railsOff, tripped := d.boot.tripped }
  d.enterBoot (if d.boot.failReason = 0 then { b with stage := 2, warm := true } else { b with stage := 1, images := 0x7F })

/-- Reference clocks back, PERST_N released or the hot reset over: a host reset ends. -/
def Dev.perstRelease (d : Dev) : Dev :=
  if !d.pins.perst then d
  else
    let d := { d with pins := { d.pins with perst := false, hostRef := true } }
    if d.modState = .reset ∧ d.pins.hubPower then d.releaseReset else d

/-- A lockout that was in force when VAUX33 was lost begins again, with its record (R384). -/
def Dev.lockoutBegins (d : Dev) : Dev :=
  if d.sec.lockoutAgain then (d.updSec (fun x => { x with lockoutAgain := false })).raise 1 cAuthLockout UnitId.sec.page d.sec.level d.sec.lockoutEnd else d

/-- SYS_RST_N is released with VAUX33 in range: BOOT, stage 0 of a cold bring-up (R469). The board's clocks run again (R485). -/
def Dev.powerGood (d : Dev) : Dev :=
  if d.modState = .reset ∧ !d.pins.hubPower then
    (({ d with pins := { d.pins with hubPower := true, sysRef := true } } : Dev).enterBoot { railsOff := d.boot.railsOff, tripped := d.boot.tripped }).lockoutBegins
  else d

/-- Configuration space returns to its defaults: BAR2 of 256 MiB, no virtual function (R41, R445, Table 17-8). -/
def Dev.resetConfig (d : Dev) : Dev :=
  { d with views := d.views.map (fun (e : Nat × FnView) => (e.1, { e.2 with bar2Log2 := 28 })), hostIf := { d.hostIf with vfEnabled := 0 } }

/-- The host link trains again at the highest rate and width that both ends support (R448), which are those of the first training. -/
def HostIf.trained (h : HostIf) : HostIf := { h with gen := ({} : HostIf).gen, width := ({} : HostIf).width, flit := ({} : HostIf).flit }

/-- A host reset: a warm reset that holds the module in RESET, resets the configuration space and retrains the link; already in RESET nothing more is lost. -/
def Dev.hostReset (d : Dev) : Dev :=
  let d := (if d.modState = .reset then d else d.warmReset).resetConfig
  { d with pins := { d.pins with perst := true }, hostIf := d.hostIf.trained }

/-! ### Function resets (R415, R421) -/

/-- Commands of a function that await something: saves and restores, entropy requests, and those that wait for a processor. -/
def Dev.dropCommands (d : Dev) (fn : Nat) : Dev :=
  { d with
    ctxOps := d.ctxOps.filter (fun o => o.cmd.fn != fn)
    ent := { d.ent with queue := d.ent.queue.filter (fun q => q.cmd.fn != fn) }
    procs := d.procs.map (fun (e : Nat × Proc) => (e.1, { e.2 with waiting := e.2.waiting.filter (fun c => c.fn != fn) }))
    flt := { d.flt with stopped := d.flt.stopped.filter (fun w => (d.ring w.pend.ring).owner != fn) } }

/-- A VF Function Level Reset: the function's jobs end without completions, its contexts are destroyed, its rings disabled and its queue emptied. -/
def Dev.vfReset (d : Dev) (fn : Nat) : Dev :=
  if fn = 0 ∨ d.fnActs fn = false ∨ d.modState = .reset ∨ d.flt.vfResets.contains fn then d
  else
    let mine := (upFrom 0 64).filter (fun n => d.ctxOwned fn n)
    let ids := (d.jobs.filter (fun e => mine.contains e.2.ctx && !e.2.jstate.over?)).map (·.1)
    let d := ids.foldl (fun d id => d.abortJob id false) d
    let d := (d.dropCommands fn).updSec (fun x => { x with chalValid := false, chalVoided := false })
    let d := mine.foldl (fun d n => d.destroyCtx n) d
    let d := { d with
      rings := d.rings.map (fun (e : Nat × Ring) => if e.2.owner = fn then (e.1, { e.2 with enable := false, halted := false, held := [], awaiting := 0 }) else e)
      attnqs := d.attnqs.del fn
      flt := { d.flt with vfResets := d.flt.vfResets ++ [fn] } }
    d.evalLaunches

/-- A VF reset completes: its class-6 record names the function. -/
def Dev.vfResetDone (d : Dev) (fn : Nat) : Dev :=
  if d.flt.vfResets.contains fn then
    ({ d with flt := { d.flt with vfResets := d.flt.vfResets.filter (fun f => f != fn) } } : Dev).class6 UnitId.hostIf.page fn 3
  else d

/-! ### Unit resets (R63, R418 to R421) -/

/-- Whether Table 17-9 lets a unit be reset. -/
def UnitId.resettable : UnitId → Bool
  | .core _ => true
  | .me _ => true
  | .sua _ => true
  | .acc _ => true
  | .tidy _ _ => true
  | .router _ => true
  | .dram _ => true
  | .ccc _ => true
  | .sched => true
  | .pwr => true
  | .cluster _ => true
  | .sholo _ => true
  | .eth _ => true
  | _ => false

/-- The logical cores of a unit that a job in LAUNCHED to DRAINING holds. -/
def Dev.heldByJob (d : Dev) (u : UnitId) : Bool :=
  (UnitId.subtree d.geo u).any (fun v => match v.coreOf with
    | some n => match (d.core n).job.bind d.jobs.get? with
      | some j => j.jstate.running?
      | none => false
    | none => false)

/-- Whether a unit reset needs no authentication: a large core, or part of one, held by a context that the issuer owns (R63). -/
def Dev.ownReset (d : Dev) (c : Cmd) : Bool :=
  match (d.viewPage c.fn c.target).bind unitOf with
  | some u => u.coreOf.isSome && (match d.holder u with
      | some ctx => d.ctxOwned c.fn ctx
      | none => false)
  | none => false

/-- UNIT_RESET's row of Table 2-11. -/
def Dev.specUnitReset (d : Dev) (c : Cmd) : CmdSpec := { opcode := 0x0070, pfOnly := true, critical := !d.ownReset c, states := [.frost, .active] }

/-- Its further condition: not the root, and not held by a job in LAUNCHED to DRAINING. -/
def Dev.unitResetCond (d : Dev) (c : Cmd) : Option Nat :=
  match (d.viewPage c.fn c.target).bind unitOf with
  | some .root => some cIllegal
  | some u => if d.heldByJob u then some cIllegal else none
  | none => none

/-- What may not be reset now: Table 17-9's "no" rows, the power core in an emergency (R330), and the home of the dump and the plan store (R420). -/
def Dev.resetBarred (d : Dev) (u : UnitId) : Bool :=
  !u.resettable || (u == .pwr && d.pwr.emergency) || ((u == .dram 0 || u == .cluster 0) && (d.flt.dump.isSome || !d.jobs.isEmpty))

/-- The mapped regions that have a share of a stack (R254). -/
def Dev.regionsOn (d : Dev) (h : Nat) : List Nat :=
  (d.regions.filter (fun e => e.2.mode == 1 || (e.2.mode == 2 && e.2.target == h / 8) || (e.2.mode == 3 && e.2.target == h))).map (·.1)

/-- Every line of a stack is poisoned until it is written (R420). -/
def Dev.poisonStack (d : Dev) (h : Nat) : Dev :=
  let rs := d.regionsOn h
  { d with
    badShares := d.badShares ++ (rs.map (fun r => (r, h))).filter (fun x => !d.badShares.contains x)
    goodLines := d.goodLines.filter (fun l => !(rs.contains (regionOf (64 * l)) && d.stackOf (64 * l) == h)) }

/-- A processor restarts from its running image; the power core first takes every cluster out of boost (R330). -/
def Dev.restartProc (d : Dev) (p : Nat) : Dev :=
  let d := if p = 1 then d.updPwr (fun w => { w with points := w.points.map (fun (e : Nat × Nat) => (e.1, min e.2 w.high)) }) else d
  d.updProc p (fun q => { q with restarting := true })

/-- The hardware state of one unit is re-initialised (R419, R420). -/
def Dev.initUnit (d : Dev) (u : UnitId) : Dev :=
  match u with
  | .core n => d.freshCore n
  | .me n => d.updCore n (fun c =>
      { c with
        matrixQ := [], moveQ := [], nextTicket := 1, nextMove := 1, lastDoneM := 0, lastDoneS := 0, lastDoneMove := 0, lastIssuerM := none
        firstNetAdd := none, lastNetAdd := none, netCount := [], rejects := 0, rejectCode := 0, rejectTidy := 0, rejectTag := 0
        issuerM := 0, issuerS := 0, unbound := true })
  | .sua n => d.updCore n (fun c => { c with suaQ := [], lastIssuerS := none, groupCount := [], sua := {} })
  | .acc n => d.updCore n (fun c =>
      { c with
        tiles := [], tileInt := 0, shadow := [], spill := 0, accOf := false, accNv := false, accNanIn := false, accTrunc := false, accIov := false
        flagTiles := 0, flagTag := 0, flagTagValid := false, truncRuns := 0, spills := 0 })
  | .tidy n m => { d with tidies := d.tidies.del (8 * n + m) }
  | .router c => { d with routers := d.routers.del c }
  | .dram h =>
    let x := d.drams.getD h {}
    ({ d with drams := d.drams.put h { x.kept with hstate := .training }, tracks := d.tracks.del h } : Dev).poisonStack h
  | .ccc c => d.restartProc (3 + c)
  | .sched => d.restartProc 2
  | .pwr => d.restartProc 1
  | .sholo k => d.resetPort k
  | .eth e => d.resetPort (18 + e)
  | _ => d

/-- A unit and its descendants go to RESETTING (R419): epochs increment, held requests are answered, counter windows return to their reset values. -/
def Dev.beginReset (d : Dev) (u : UnitId) : Dev :=
  let us := UnitId.subtree d.geo u
  let d := us.foldl (fun d v => ((d.bumpEpoch v).updHdr v.page (fun h => { h with ustate := .resetting })).dropHeld v) d
  (us.foldl (fun d v => d.initUnit v) d).clearWindows us

/-- Step 8 of UNIT_RESET; a challenge ends at it as at any reset (R393). -/
def Dev.unitReset (c : Cmd) (d : Dev) : Dev :=
  match (d.viewPage c.fn c.target).bind unitOf with
  | none => d.answer c cUnitOffline 0 0
  | some u =>
    if d.resetBarred u then d.answer c cIllegal 0 0
    else
      let old := d.epoch u.page
      let d := d.answerPending c 0 0
      let op : UnitResetOp := { page := u.page, oldEpoch := old, pend := d.pendOf c }
      let d := d.updSec (fun x => { x with chalValid := false, chalVoided := false })
      (({ d with flt := { d.flt with unitResets := d.flt.unitResets ++ [op] } } : Dev)).beginReset u

/-- A unit of a completed reset is IDLE: its stack is up, its processor back, its port may train. -/
def Dev.endUnit (d : Dev) (u : UnitId) : Dev :=
  let d := d.updHdr u.page (fun h => { h with ustate := .idle })
  match u with
  | .dram h =>
    let x := d.drams.getD h {}
    { d with drams := d.drams.put h { x with hstate := if x.hstate = .training then (if d.modState = .snowpack then .selfRefresh else .active) else x.hstate } }
  | .ccc c => d.endRestart (3 + c)
  | .sched => d.endRestart 2
  | .pwr => d.endRestart 1
  | .sholo k => d.updPort k (fun g => if g.enable && g.pstate == .disabled && d.mayTrain then { g with pstate := .training } else g)
  | .eth e => d.updPort (18 + e) (fun g => if g.enable && g.pstate == .disabled && d.mayTrain then { g with pstate := .training } else g)
  | _ => d

/-- A unit reset completes: every unit is IDLE, the class-6 record, and the final record with the new epoch. -/
def Dev.unitResetDone (d : Dev) (page : Nat) : Dev :=
  match d.flt.unitResets.find? (fun o => o.page == page), unitOf page with
  | some o, some u =>
    let d := { d with flt := { d.flt with unitResets := d.flt.unitResets.filter (fun x => x.page != page) } }
    let d := (UnitId.subtree d.geo u).foldl (fun d v => d.endUnit v) d
    (d.class6 page o.oldEpoch 1).finish o.pend cOk (d.epoch page) 0
  | _, _ => d

/-! ### The supplies (R486) -/

/-- Write the power core's WARN record about an input supply; the spec gives its POINT and DATA no values. -/
def Dev.warnSupply (d : Dev) : Dev :=
  let (point, d) := d.takeFree
  let (data, d) := d.takeFree
  d.logRec 1 lvWarn (point % 65536) 0 data

/-- A VIN48 group leaves 38 V to 62 V for 100 µs: a cold reset with VAUX33 kept. With hub power good the module boots again at once, and its first log record is the WARN. -/
def Dev.vin48Loss (d : Dev) : Dev :=
  if !d.pins.vin48 then d
  else
    let d := ({ d with pins := { d.pins with vin48 := false, excursion := 0 } } : Dev).coldReset
    if d.pins.hubPower then (d.enterBoot { railsOff := d.boot.railsOff, tripped := d.boot.tripped }).warnSupply else d

/-! ### The rows -/

/-- UNIT_RESET (R419). -/
def execUnitReset (t ring : Nat) (s : State) : Host.Outcome State Fault Refusal :=
  s.run t (fun d => d.ringCmd ring d.specUnitReset anyForm d.unitResetCond Dev.unitReset)

/-- UNIT_RESET_COMPLETE (R419, R421). -/
def execUnitResetComplete (t page : Nat) (s : State) : Host.Outcome State Fault Refusal :=
  s.run t (fun d => d.unitResetDone page)

/-- MODULE_RESET's row of Table 2-11. -/
def specModuleReset : CmdSpec := { opcode := 0x0071, pfOnly := true, critical := true, states := [.ready, .frost, .active, .snowpack, .orphaned, .faulted] }

/-- MODULE_RESET (R64, R413): no completion. -/
def execModuleReset (t ring : Nat) (s : State) : Host.Outcome State Fault Refusal :=
  s.run t (fun d => d.ringCmd ring (fun _ => specModuleReset) anyForm (fun _ => none) (fun _ d => d.warmReset.releaseReset))

/-- COLD_RESET (R413): SYS_RST_N is held low; device time restarts. -/
def execColdReset (t : Nat) (s : State) : Host.Outcome State Fault Refusal :=
  s.runAt 0 (fun _ =>
    let d := (s.dueAt t).coldReset
    { d with pins := { d.pins with hubPower := false }, sec := { d.sec with keyChanges := [], lifeChanges := [] } })

/-- HOST_RESET (R413): PERST_N, a hot reset or the link down. -/
def execHostReset (t : Nat) (s : State) : Host.Outcome State Fault Refusal :=
  s.run t (fun d => d.hostReset)

/-- PF_FUNCTION_LEVEL_RESET (R413, R477): as a host reset, except that the link stays trained. -/
def execPfFunctionLevelReset (t : Nat) (s : State) : Host.Outcome State Fault Refusal :=
  s.run t (fun d => if d.modState = .reset then d else d.warmReset.resetConfig.releaseReset)

/-- VF_FUNCTION_LEVEL_RESET (R415). -/
def execVfFunctionLevelReset (t fn : Nat) (s : State) : Host.Outcome State Fault Refusal :=
  s.run t (fun d => d.vfReset fn)

/-- VF_RESET_COMPLETE (R415, R421). -/
def execVfResetComplete (t fn : Nat) (s : State) : Host.Outcome State Fault Refusal :=
  s.run t (fun d => d.vfResetDone fn)

/-- SYS_REFCLK_LOSS (R482): the auxiliary domain moves to its internal oscillator, and the loss is a FATAL error of the time base. -/
def execSysRefclkLoss (t : Nat) (s : State) : Host.Outcome State Fault Refusal :=
  s.run t (fun d => if d.pins.hubPower && d.pins.sysRef then ({ d with pins := { d.pins with sysRef := false } } : Dev).fatal 0x02 UnitId.timeBase.page 0x09 0 else d)

/-- HOST_REFCLK_LOSS (R482): a host reset. -/
def execHostRefclkLoss (t : Nat) (s : State) : Host.Outcome State Fault Refusal :=
  s.run t (fun d => let d := d.hostReset; { d with pins := { d.pins with hostRef := false } })

/-- VIN48_LOSS (R486). -/
def execVin48Loss (t : Nat) (s : State) : Host.Outcome State Fault Refusal :=
  s.runAt (if s.dev.pins.vin48 then 0 else max s.dev.now t) (fun _ => (s.dueAt t).vin48Loss)

/-- VIN48_EXCURSION_BEGIN (R486). -/
def execVin48ExcursionBegin (t group : Nat) (s : State) : Host.Outcome State Fault Refusal :=
  s.run t (fun d => if group < 2 ∧ d.pins.vin48 ∧ !bit d.pins.excursion group ∧ d.modState ≠ .reset then ({ d with pins := { d.pins with excursion := setBit d.pins.excursion group } } : Dev).warnSupply else d)

/-- VIN48_EXCURSION_END (R486). -/
def execVin48ExcursionEnd (t group : Nat) (s : State) : Host.Outcome State Fault Refusal :=
  s.run t (fun d => if group < 2 ∧ bit d.pins.excursion group ∧ d.modState ≠ .reset then ({ d with pins := { d.pins with excursion := d.pins.excursion - 2 ^ group } } : Dev).warnSupply else d)

/-- VAUX33_LOSS (R486): a cold reset with loss of auxiliary state. -/
def execVaux33Loss (t : Nat) (s : State) : Host.Outcome State Fault Refusal :=
  s.runAt 0 (fun _ => let d := (s.dueAt t).auxLoss; { d with pins := { d.pins with hubPower := false } })

/-- HUB_POWER_GOOD (R469): time is counted from here until the time domain locks. -/
def execHubPowerGood (t : Nat) (s : State) : Host.Outcome State Fault Refusal :=
  s.runAt (if s.dev.modState == .reset && !s.dev.pins.hubPower then 0 else max s.dev.now t) (fun _ => (s.dueAt t).powerGood)

/-- PERST_N_RELEASE (R477). -/
def execPerstNRelease (t : Nat) (s : State) : Host.Outcome State Fault Refusal :=
  s.run t (fun d => d.perstRelease)

end Sys2Proof.Machine
end

