-- ==== Sys2Proof/Machine/Bringup.lean ====
section
/-! DEFINITION. Bring-up: the stages of a cold and of a warm bring-up, its holds and waits, DRAM training, the slot self-test, the final geometry and boot failures (R18, R19, R22, R423, R469 to R480). -/

namespace Sys2Proof.Machine

/-- Whether a stage is in progress: the module is in BOOT without a boot failure. -/
def Dev.inStage (d : Dev) (n : Nat) : Bool := d.modState == .boot && d.boot.failReason == 0 && d.boot.stage == n

/-- Update the boot state. -/
def Dev.updBoot (d : Dev) (f : Boot → Boot) : Dev := { d with boot := f d.boot }

/-- Time since the bring-up started, in ns. -/
def Dev.bootElapsed (d : Dev) : Nat := d.sincePower - d.boot.startAt

/-- The part of it that counts toward the bound of R470 and R477: time in a hold does not. -/
def Dev.bootCounted (d : Dev) : Nat := d.bootElapsed - d.boot.holdTotal - (if d.boot.hold then d.sincePower - d.boot.holdSince else 0)

/-- The bound: 12 s, or 5 s in a warm bring-up. -/
def Boot.bound (b : Boot) : Nat := if b.warm then 5000000000 else 12000000000

/-- A boot failure: the module stays in BOOT at its stage, and one class-15 record is queued (R476). -/
def Dev.bootFail (d : Dev) (reason : Nat) : Dev :=
  let d := d.updBoot (fun b => { b with failReason := reason, hold := false, smuWait := false })
  d.raise 15 cDeviceFatal 0 (reason + 16 * d.boot.stage + 2 ^ 31) d.deviceTime

/-- The next stage is entered; ELAPSED_MS is the time of its entry (Table 20-4). -/
def Dev.enterStage (d : Dev) (n : Nat) : Dev := d.updBoot (fun b => { b with stage := n, elapsedMs := min (d.bootElapsed / 1000000) 0xFFFF })

/-- The class-14 record of a held dump (R423). -/
def Dev.class14 (d : Dev) : Dev :=
  match d.flt.dump with
  | none => d
  | some x => d.raise 14 cDeviceFatal UnitId.sec.page (x.cause + 256 * b2n x.minimal + 65536 * x.laterFatals) x.time

/-! ### The final geometry (R18, R19, R22, R475) -/

/-- Whether a slot may serve: not retired, and its cluster up. -/
def Dev.slotGood (d : Dev) (s : Nat) : Bool := !bit d.geom.retired s && bit d.boot.clustersUp (s / 5)

/-- The slots of a cluster in service: its first four, each but the first retired one's successor, where the spare stands in last in number. -/
def Dev.clusterSlots (d : Dev) (c : Nat) : List Nat :=
  let own := (upFrom (5 * c) 4).filter d.slotGood
  if own.length = 4 then own else if d.slotGood (spareSlot c) then own ++ [spareSlot c] else own

/-- The slot of each logical core: in place, the spare for the one retired slot, while every cluster keeps four; otherwise every slot in service in increasing order. -/
def Dev.finalSlots (d : Dev) : List Nat :=
  if (upFrom 0 4).all (fun c => (d.clusterSlots c).length == 4) then
    (upFrom 0 16).map (fun n => let s := 5 * (n / 4) + n % 4; if d.slotGood s then s else spareSlot (n / 4))
  else (upFrom 0 4).flatMap d.clusterSlots

/-- A substitution made in this bring-up: its class-1 record and an INFO log record, whose DATA holds the slot; its POINT is not stated. -/
def Dev.bootSubstituted (d : Dev) (slot n : Nat) : Dev :=
  let d := d.raise 1 0x306 UnitId.geom.page (slot + 2 ^ 8 * spareSlot (slot / 5) + 2 ^ 16 * n) 0
  let (point, d) := d.takeFree
  d.logRec 0 lvInfo (point % 65536) 0 slot

/-- The geometry page is written (R475). -/
def Dev.writeGeometry (d : Dev) : Dev :=
  let slots := d.finalSlots
  let spares := (upFrom 0 4).foldl (fun m c => if slots.contains (spareSlot c) then setBit m c else m) 0
  let d := { d with geom := { d.geom with slots, spareIn := spares, offline := 0 } }
  let d := d.updBoot (fun b => { b with logicalCores := slots.length })
  (upFrom 0 20).foldl (fun d s =>
    let spare := spareSlot (s / 5)
    if bit d.boot.retiredNow s && s != spare && slots.contains spare then d.bootSubstituted s (slots.idxOf spare) else d) d

/-! ### The stages (Table 20-1, Table 20-3) -/

/-- A slot fails its test or its cluster's chain: it is retired in fuses (R20, R474). -/
def Dev.bootRetire (d : Dev) (s : Nat) : Dev :=
  if bit d.geom.retired s then d
  else ({ d with geom := { d.geom with retired := setBit d.geom.retired s } } : Dev).updBoot (fun b => { b with retiredNow := setBit b.retiredNow s })

/-- The stacks of a cluster that is not up read FAILED (R475). -/
def Dev.failStacks (d : Dev) (up : Nat) : Dev :=
  (upFrom 0 32).foldl (fun d h =>
    if bit up (h / 8) then d
    else ({ d with drams := d.drams.put h { d.drams.getD h {} with hstate := .failed } } : Dev).updBoot (fun b => { b with stacksFailed := setBit b.stacksFailed h })) d

/-- Every stack has been trained, or has failed. -/
def Dev.stacksDone (d : Dev) : Bool := (upFrom 0 32).all (fun h => (d.drams.getD h {}).hstate != .training)

/-- Every slot of a cluster that is up has been tested. -/
def Dev.slotsDone (d : Dev) : Bool := (upFrom 0 20).all (fun s => !bit d.boot.clustersUp (s / 5) || bit d.boot.tested s)

/-- The security core verifies the images of a processor in the boot flash: the one it last ran and then the other; the operands say which no longer reads as it was signed. A processor for which neither passes is not started (R376). -/
def Dev.bootImage (d : Dev) (p : Nat) (badRun badOther : Bool) : Dev :=
  let q := d.proc p
  if !badRun && d.bootable p q.image then d.updBoot (fun b => { b with images := setBit b.images p })
  else
    match q.other with
    | some x =>
      if !badOther && d.bootable p x then (d.updProc p (fun q => { q with image := x, other := some q.image, staged := none, stagedRevokes := 0 })).updBoot (fun b => { b with images := setBit b.images p })
      else d.updBoot (fun b => { b with images := b.images - (b.images &&& 2 ^ p) })
    | none => d.updBoot (fun b => { b with images := b.images - (b.images &&& 2 ^ p) })

/-- Stage 2 ends: the images have been verified, or each processor has restarted from its running image. -/
def Dev.stageFirmware (d : Dev) (badRun badOther : Nat) : Dev :=
  if d.boot.warm then
    (((upFrom 0 7).foldl Dev.countRestart d).enterStage 3).trackHold
  else
    let d := (upFrom 1 6).foldl (fun d p => d.bootImage p (bit badRun p) (bit badOther p)) d
    if bit d.boot.images 1 && bit d.boot.images 2 then (d.enterStage 3).trackHold else d.bootFail 2

/-- Stage 3 ends: no hold, and where the rails are to be enabled an SMU reading or the SMU found absent; the rails are up. -/
def Dev.stagePower (d : Dev) : Dev :=
  let b := d.boot
  if b.hold || (b.enables && d.pwr.smuSeq.isNone && !d.pwr.smuAbsent) then d
  else
    let d := { d with pins := { d.pins with thermTrip := false } }
    ((d.updBoot (fun b => { b with smuWait := false, railsOff := false, tripped := false })).enterStage 4).startPorts

/-- Stage 4 ends: the clusters that have come up. -/
def Dev.stageClusters (d : Dev) (clusters : Nat) : Dev :=
  let up := clusters &&& (d.boot.images >>> 3) &&& 15
  if bit up 0 then ((d.updBoot (fun b => { b with clustersUp := up })).failStacks up).enterStage 5
  else (d.updBoot (fun b => { b with clustersUp := up })).bootFail 5

/-- Stage 7 ends: the geometry, and READY; the tree is final (R479), and a held dump is reported again (R414). -/
def Dev.stageFinal (d : Dev) : Dev :=
  let d := d.writeGeometry
  if d.nCores = 0 then d.bootFail 6
  else (((d.enterStage 8).move .ready).treeChanged).class14

/-- One running-sum chain over the slots of a cluster about to be in service: the first link, in slot order, whose output differs fails its slot (R474). -/
def Dev.chainRun (d : Dev) (differs c : Nat) : Dev :=
  match (d.clusterSlots c).find? (fun s => bit differs s) with
  | some s => d.bootRetire s
  | none => d

/-- A cluster's chain, run again once on the new set of slots where it has failed (R474). -/
def Dev.chainTest (d : Dev) (differs c : Nat) : Dev := (d.chainRun differs c).chainRun differs c

/-- The stage in progress ends (R469), where what it waits for has come. -/
def Dev.stageEnd (d : Dev) (r : StageResult) : Dev :=
  if d.inStage 0 then d.enterStage 1
  else if d.inStage 1 then
    let d := d.bootImage 0 (bit r.badRun 0) (bit r.badOther 0)
    if bit d.boot.images 0 then (d.updSec Security.completePairs).enterStage 2 else d.bootFail 1
  else if d.inStage 2 then d.stageFirmware r.badRun r.badOther
  else if d.inStage 3 then d.stagePower
  else if d.inStage 4 then d.stageClusters r.clusters
  else if d.inStage 5 then
    if !d.stacksDone then d
    else if bit d.boot.stacksFailed 0 then d.bootFail 4
    else d.enterStage 6
  else if d.inStage 6 then
    if d.slotsDone then ((upFrom 0 4).foldl (fun d c => d.chainTest r.chainFailed c) d).enterStage 7 else d
  else if d.inStage 7 then d.stageFinal
  else d

/-- One training attempt of a stack (R473): the third that fails leaves it FAILED. -/
def Dev.trainStack (d : Dev) (h : Nat) (pass : Bool) : Dev :=
  let x := d.drams.getD h {}
  if !d.inStage 5 || !decide (h < 32) || x.hstate != .training then d
  else if pass then { d with drams := d.drams.put h { x with hstate := .active, attempts := x.attempts + 1 } }
  else if x.attempts + 1 < 3 then { d with drams := d.drams.put h { x with attempts := x.attempts + 1 } }
  else ({ d with drams := d.drams.put h { x with hstate := .failed, attempts := x.attempts + 1 } } : Dev).updBoot (fun b => { b with stacksFailed := setBit b.stacksFailed h })

/-- A slot's self-test (R474): a cluster tests its slots in slot order. -/
def Dev.testSlot (d : Dev) (s : Nat) (pass : Bool) : Dev :=
  if d.inStage 6 && decide (s < 20) && bit d.boot.clustersUp (s / 5) && !bit d.boot.tested s && (upFrom (s / 5 * 5) (s % 5)).all (fun x => bit d.boot.tested x) then
    let d := d.updBoot (fun b => { b with tested := setBit b.tested s })
    if pass then d else d.bootRetire s
  else d

/-! ### The rows -/

/-- BRINGUP_STAGE_END (R469). -/
def execBringupStageEnd (t : Nat) (result : StageResult) (s : State) : Host.Outcome State Fault Refusal :=
  s.run t (fun d => d.stageEnd result)

/-- INPUT_POWER_TIMEOUT (R471): stage 3 has waited for VIN48 for more than 10 s. -/
def execInputPowerTimeout (t : Nat) (s : State) : Host.Outcome State Fault Refusal :=
  s.run t (fun d => if d.inStage 3 && d.boot.hold && !d.pins.vin48 && decide (d.boot.holdSince + 10000000000 < d.sincePower) then d.bootFail 3 else d)

/-- SMU_WAIT_TIMEOUT (R471): 100 ms without a valid reading; the rails are enabled with the SMU absent. -/
def execSmuWaitTimeout (t : Nat) (s : State) : Host.Outcome State Fault Refusal :=
  s.run t (fun d =>
    if d.inStage 3 && d.boot.smuWait && d.pwr.smuSeq.isNone && !d.pwr.smuAbsent && decide (d.boot.smuWaitSince + 100000000 ≤ d.sincePower) then
      (d.updPwr (fun p => { p with smuAbsent := true, feedValid := false })).class2 0x004 0 d.pwr.lastValid
    else d)

/-- BRINGUP_TIMEOUT (R470, R477). -/
def execBringupTimeout (t : Nat) (s : State) : Host.Outcome State Fault Refusal :=
  s.run t (fun d => if d.modState == .boot && d.boot.failReason == 0 && decide (d.boot.bound < d.bootCounted) then d.bootFail 7 else d)

/-- DRAM_TRAINING_ATTEMPT (R473). -/
def execDramTrainingAttempt (t stack : Nat) (pass : Bool) (s : State) : Host.Outcome State Fault Refusal :=
  s.run t (fun d => d.trainStack stack pass)

/-- SLOT_SELF_TEST (R474). -/
def execSlotSelfTest (t slot : Nat) (pass : Bool) (s : State) : Host.Outcome State Fault Refusal :=
  s.run t (fun d => d.testSlot slot pass)

/-- VIN48_IN_RANGE (R471). -/
def execVin48InRange (t : Nat) (s : State) : Host.Outcome State Fault Refusal :=
  s.run t (fun d => ({ d with pins := { d.pins with vin48 := true } } : Dev).trackHold)

end Sys2Proof.Machine
end

