-- ==== Sys2Proof/Machine/PageReads.lean ====
section
/-! DEFINITION. What every register of every page reads (R24, R27, R34 to R41, R43, R57, R71, R81, R115, R116, R140, R171, R249, R284 to R286, R307, R334, R356, R374, R375, R396, R429, R444, R465 to R467), and the effects of a read: fields that clear, halves that latch (R5, R6, R42, R70). -/

namespace Sys2Proof.Machine

/-! ### The tree in a function's view (R36, R40) -/

/-- The page index of a unit in a function's BAR0 (Table 2-5, Table 2-5a). -/
def UnitId.pageFor (fn : Nat) (u : UnitId) : Nat :=
  if fn = 0 then u.page
  else
    match u with
    | .ring r => 0x100 + r
    | .attnq _ => 0x200
    | _ => u.page

/-- The children of a unit in a function's view, in sibling order. -/
def Dev.kids (d : Dev) (fn : Nat) (u : UnitId) : List UnitId :=
  if fn = 0 then u.children d.geo
  else
    match u with
    | .root =>
      ((upFrom 0 64).filter (d.ctxOwned fn)).map .ctx ++ ((upFrom 0 256).filter (fun r => (d.ring r).owner == fn)).map .ring ++ [.attnq fn]
    | _ => []

/-- The parent of a unit in a function's view. -/
def Dev.parentOf (d : Dev) (fn : Nat) (u : UnitId) : Option UnitId :=
  if fn = 0 then u.parent d.geo else if u = .root then none else some .root

/-- The entry after `u` in a list of siblings. -/
def nextAfter (u : UnitId) : List UnitId → Option UnitId
  | a :: b :: rest => if a = u then some b else nextAfter u (b :: rest)
  | _ => none

/-! ### Summaries (R27, Table 1-6) -/

/-- The busy, fault, degraded and offline summaries of a unit. -/
structure Summary where
  busy : Bool
  fault : Bool
  degraded : Bool
  offline : Bool
  deriving DecidableEq, Repr

/-- Whether a cluster lacks one of its four expected large cores. -/
def Dev.lacksCore (d : Dev) (u : UnitId) : Bool :=
  match u with
  | .cluster c => decide (((upFrom 0 d.nCores).filter (fun n => coreCluster d.geo n == c)).length < 4)
  | _ => false

/-- Whether a group has a function of its own: only the hub, cluster and large core pages have nothing but a header (Table 2-4). -/
def UnitId.headerOnly : UnitId → Bool
  | .hub => true
  | .cluster _ => true
  | .core _ => true
  | _ => false

/-- The summaries of a unit from its own state and its children's, recursively; the tree is less than `depth` deep. -/
def Dev.summary (d : Dev) (fn : Nat) : Nat → UnitId → Summary
  | 0, _ => ⟨false, false, false, false⟩
  | depth + 1, u =>
    let ks := (d.kids fn u).map (fun v => (d.unitState v, d.summary fn depth v))
    let down := ks.any (fun k => k.1 == .offline) || d.lacksCore u
    { busy := ks.any (fun k => k.1 == .busy || k.2.busy)
      fault := d.unitState u == .faulted || ks.any (fun k => k.1 == .faulted || k.2.fault)
      degraded := (down && ks.any (fun k => k.1 != .offline)) || ks.any (fun k => k.2.degraded)
      offline := !ks.isEmpty && ks.all (fun k => k.1 == .offline) && (u.headerOnly || d.offline u) }

/-! ### The common header (R34, Table 2-2) -/

/-- PENDING of UNIT_ATTN: classes of the records in the function's queue from the unit or a descendant; on the root every pending class. -/
def Dev.attnOf (d : Dev) (fn : Nat) (u : UnitId) : Nat :=
  let q := d.attnq fn
  if u = .root then q.pendingMask
  else q.records.foldl (fun m r => match unitOf r.sourcePage with
    | some v => if u.under d.geo v || v == u then m ||| 2 ^ r.cls else m
    | none => m) 0

/-- UNIT_STATUS. A child change within 1 µs of the read, which R28 lets a summary miss, is always reflected (DESIGN CHOICE, notes/assumptions/72.md). -/
def Dev.statusReg (d : Dev) (fn : Nat) (u : UnitId) : Nat :=
  let s := d.summary fn 5 u
  (d.unitState u).code + 2 ^ 8 * b2n s.busy + 2 ^ 9 * b2n s.fault + 2 ^ 10 * b2n s.degraded + 2 ^ 11 * b2n s.offline + 2 ^ 16 * (d.holder u).getD 0x7F

/-- FW_BUILD: the low half of the serving image's version. -/
def Dev.fwBuild (d : Dev) (u : UnitId) : Nat :=
  match u.server with
  | some p => (d.proc p).image.version % 65536
  | none => 0

/-- A register of the common header. -/
def Dev.headerReg (d : Dev) (fn : Nat) (u : UnitId) (off : Nat) : Nat :=
  if off = 0x000 then u.type + 2 ^ 16 * u.inst + 2 ^ 31 * b2n u.emulated
  else if off = 0x004 then 0x01 + 2 ^ 8 * 0xB0 + 2 ^ 16 * d.fwBuild u
  else if off = 0x008 then d.statusReg fn u
  else if off = 0x00C then b2n (d.hdr u.page).countersRun
  else if off = 0x010 then highestClass (d.attnOf fn u) + 2 ^ 16 * d.attnOf fn u
  else if off = 0x014 then d.epoch u.page
  else if off = 0x018 then
    match d.kids fn u with
    | v :: _ => v.pageFor fn
    | [] => 0
  else if off = 0x01C then (d.kids fn u).length
  else if off = 0x020 then
    match d.parentOf fn u with
    | some p => ((nextAfter u (d.kids fn p)).map (UnitId.pageFor fn)).getD 0
    | none => 0
  else if off = 0x024 then
    match d.parentOf fn u with
    | some p => p.pageFor fn
    | none => 0xFFFF
  else 0

/-! ### Hub pages -/

/-- Word k, of 32 bits, of a number. -/
def word32 (v k : Nat) : Nat := v / 2 ^ (32 * k) % 2 ^ 32

/-- The root page (Table 2-3). -/
def Dev.rootReg (d : Dev) (fn off : Nat) : Nat :=
  if off = 0x040 then d.modState.code + 2 ^ 4 * d.prevState + 2 ^ 16 * (d.transitions % 65536)
  else if off = 0x044 then (d.view fn).treeGeneration % 65536
  else if off = 0x048 then fn
  else if off = 0x04C then (UnitId.attnq fn).pageFor fn
  else if off = 0x050 then word32 (d.view fn).bar2Base 0
  else if off = 0x054 then word32 (d.view fn).bar2Base 1
  else 0

/-- The geometry page (R24). -/
def Dev.geomReg (d : Dev) (off : Nat) : Nat :=
  let g := d.geom
  if off = 0x040 then d.nCores + 2 ^ 8 * 16 + 2 ^ 16 * 8 + 2 ^ 24 * 4
  else if off = 0x044 then g.spareIn + 2 ^ 4 * ((upFrom 0 4).map (fun c => 2 ^ c * b2n (bit g.retired (spareSlot c)))).sum
  else if off = 0x048 then g.retired
  else if off = 0x04C then g.pendingRetire
  else if off = 0x050 then g.generation
  else if 0x090 ≤ off ∧ off < 0x0D0 then
    let n := (off - 0x090) / 4
    match g.slots[n]? with
    | some s => s + 2 ^ 8 + 2 ^ 9 * b2n (s % 5 == 4) + 2 ^ 10 * b2n (bit g.offline n)
    | none => 0
  else 0

/-- A ring page (Table 2-6). -/
def Dev.ringReg (d : Dev) (r off : Nat) : Nat :=
  let g := d.ring r
  if off = 0x040 then b2n g.enable + 2 * b2n (d.drained r) + 4 * b2n g.halted
  else if off = 0x044 then g.log2Sq + 2 ^ 8 * g.log2Cq
  else if off = 0x048 then word32 g.sqBase 0
  else if off = 0x04C then word32 g.sqBase 1
  else if off = 0x050 then word32 g.cqBase 0
  else if off = 0x054 then word32 g.cqBase 1
  else if off = 0x058 then g.sqTail
  else if off = 0x05C then g.sqHead
  else if off = 0x060 then g.cqTail
  else if off = 0x064 then g.cqHead
  else if off = 0x068 then g.vector + 2 ^ 16 * b2n g.armed
  else if off = 0x06C then g.owner
  else if off = 0x070 then g.errCode + 2 ^ 16 * g.errIndex
  else 0

/-- An attention record as its 32 bytes (Table 2-10), little-endian. -/
def AttnRec.word (r : AttnRec) : Nat :=
  r.cls + 2 ^ 8 * r.count + 2 ^ 16 * r.code + 2 ^ 32 * r.seq + 2 ^ 64 * r.sourcePage + 2 ^ 80 * r.sourceEpoch + 2 ^ 96 * r.detailW + 2 ^ 128 * r.time + 2 ^ 192 * r.detail

/-- An attention queue page (Table 2-10a). -/
def Dev.attnqReg (d : Dev) (f off : Nat) : Nat :=
  let q := d.attnq f
  if off = 0x040 then q.records.length + 2 ^ 16 * highestClass q.pendingMask
  else if off = 0x044 then q.pendingMask
  else if off = 0x048 then q.logDropped
  else if off = 0x04C then q.lostClasses + 2 ^ 16 * q.lostCount
  else if 0x060 ≤ off ∧ off < 0x080 then
    match q.records with
    | r :: _ => word32 r.word ((off - 0x060) / 4)
    | [] => 0
  else 0

/-- The time base page (Table 3-1). -/
def Dev.timeReg (d : Dev) (off : Nat) : Nat :=
  if off = 0x040 then word32 d.deviceTime 0
  else if off = 0x044 then word32 d.deviceTime 1
  else if off = 0x048 then d.time.status
  else if off = 0x04C then b2n d.time.enable + 2 * b2n d.time.source + 4 * b2n d.time.allowStep + 2 ^ 4 * d.time.log2Interval
  else if off = 0x050 then unsigned 32 (clampInt (-2147483647) 2147483647 d.time.offset)
  else if off = 0x054 then unsigned 16 d.time.rate
  else if off = 0x058 then d.time.steps
  else 0

/-- The launch scheduler page (Table 3-5). -/
def Dev.launchReg (d : Dev) (off : Nat) : Nat :=
  if off = 0x040 then d.launches.length + 2 ^ 16 * 4096
  else if off = 0x044 then launchLead
  else if off = 0x048 then d.lateLaunches
  else if off = 0x04C then word32 d.nextRelease 0
  else if off = 0x050 then word32 d.nextRelease 1
  else 0

/-- The directory front end page (Table 11-11). -/
def Dev.dirReg (d : Dev) (off : Nat) : Nat :=
  if off = 0x040 then b2n d.placing + 2 ^ 16 * d.regions.length
  else if off = 0x044 then d.regionIndex
  else if off = 0x048 then (if d.regionIndex < regionCount then d.region d.regionIndex else {}).word
  else if off = 0x04C then d.trackStack
  else if off = 0x050 then (d.track d.trackStack).inUse
  else if off = 0x054 then (d.track d.trackStack).peak
  else if off = 0x058 then (d.track d.trackStack).waits
  else if off = 0x05C then d.stackFree d.trackStack
  else if off = 0x060 then d.planFree
  else if off = 0x064 then d.hotRowCount
  else 0

/-- The entropy page (Table 10-6). -/
def Dev.entropyReg (d : Dev) (off : Nat) : Nat :=
  let e := d.ent
  if off = 0x040 then e.service.code + 2 ^ 3 * e.activeSrc + 2 ^ 4 * e.src0.sstate.code + 2 ^ 8 * e.src1.sstate.code
  else if off = 0x044 then b2n ((e.src0.retest && e.src0.sstate == .startup) || (e.src1.retest && e.src1.sstate == .startup))
  else if off = 0x048 then word32 e.seq 0
  else if off = 0x04C then word32 e.seq 1
  else if off = 0x050 then word32 e.suspect 0
  else if off = 0x054 then word32 e.suspect 1
  else if off = 0x058 then e.reseeds
  else if off = 0x05C then e.genCount
  else if off = 0x060 then e.src0.rctFails + 2 ^ 8 * e.src0.aptFails + 2 ^ 16 * e.src1.rctFails + 2 ^ 24 * e.src1.aptFails
  else if off = 0x064 then e.src0.poolLen + 2 ^ 10 * e.src1.poolLen + 2 ^ 20 * e.held
  else if off = 0x068 then e.readyTime
  else if off = 0x06C then b2n e.testSelect + 2 * e.testSource
  else if off = 0x070 then e.testLo
  else if off = 0x074 then word32 e.pattern 1
  else 0

/-- The counter reader page (Table 18-10). -/
def Dev.readerReg (d : Dev) (off : Nat) : Nat :=
  let r := d.reader
  let bw := r.bwCounts.getD r.bwSelect (0, 0)
  if off = 0x040 then b2n r.frozen + 2 * b2n r.snapshotBusy
  else if off = 0x044 then word32 r.freezeTime 0
  else if off = 0x048 then word32 r.freezeTime 1
  else if off = 0x04C then r.period
  else if off = 0x050 then r.samples.length
  else if off = 0x058 then r.lost
  else if off = 0x05C then r.bwWindow
  else if off = 0x060 then r.bwSelect
  else if off = 0x064 then word32 bw.1 0
  else if off = 0x068 then word32 bw.1 1 + 2 ^ 31 * b2n r.bwEnd.isSome
  else if off = 0x06C then word32 bw.2 0
  else if off = 0x070 then word32 bw.2 1
  else if off = 0x074 then word32 (r.bwEnd.getD 0) 0
  else if off = 0x078 then word32 (r.bwEnd.getD 0) 1
  else if 0x0C0 ≤ off ∧ off < 0x100 then word32 (r.samples.headD 0) ((off - 0x0C0) / 4)
  else 0

/-- The host interface page (Table 19-10). -/
def Dev.hostIfReg (d : Dev) (off : Nat) : Nat :=
  let h := d.hostIf
  if off = 0x040 then h.gen + 2 ^ 4 * h.width + 2 ^ 9 * b2n h.flit
  else if off = 0x044 then h.retrains
  else if off = 0x048 then h.corrected
  else if off = 0x04C then h.uncorrected
  else if off = 0x050 then h.vfEnabled
  else if off = 0x054 then h.sysPosition
  else 0

/-! ### Link pages (Table 19-11 to Table 19-13) -/

/-- PORT_STATUS.STATE. -/
def PortState.code : PortState → Nat
  | .disabled => 0
  | .training => 1
  | .discovery => 2
  | .up => 3
  | .lowPower => 4
  | .loopback => 5

/-- The identity frame that the port page reports: a Sholo port's partner while UP or LOOPBACK, the selected peer while VERIFIED. -/
def Port.identity (p : Nat) (g : Port) : Option Identity :=
  if isEth p then
    let x := g.peers.getD g.peerSelect {}
    if x.verified then x.ident else none
  else if g.pstate == .up || g.pstate == .loopback then g.partner
  else none

/-- The transfer ring registers XQ_CONTROL to XQ_WAKE. -/
def XferRing.reg (g : XferRing) (off : Nat) : Nat :=
  if off = 0x074 then b2n g.enable + 2 * b2n g.drained + 4 * b2n g.halted
  else if off = 0x078 then g.log2Sq + 2 ^ 8 * g.log2Cq
  else if off = 0x07C then word32 g.sqBase 0
  else if off = 0x080 then word32 g.sqBase 1
  else if off = 0x084 then word32 g.cqBase 0
  else if off = 0x088 then word32 g.cqBase 1
  else if off = 0x08C then g.sqTail
  else if off = 0x090 then g.sqHead
  else if off = 0x094 then g.cqTail
  else if off = 0x098 then g.cqHead
  else if off = 0x09C then g.vector + 2 ^ 16 * b2n g.armed
  else 0

/-- The registers that an Ethernet port adds. A MAC address is fused; it reads zero here (notes/assumptions/15.md). -/
def Port.ethReg (g : Port) (off : Nat) : Nat :=
  let x := g.peers.getD g.peerSelect {}
  if 0x0A8 ≤ off ∧ off < 0x0B8 then word32 g.ipv6 ((off - 0x0A8) / 4)
  else if off = 0x0B8 then g.udp
  else if off = 0x0BC then g.peerSelect
  else if 0x0C0 ≤ off ∧ off < 0x0D0 then word32 x.addr ((off - 0x0C0) / 4)
  else if off = 0x0D0 then x.udp + 2 ^ 16 * b2n x.valid
  else if off = 0x0D4 then b2n x.verified
  else if off = 0x0D8 then g.dropped
  else if off = 0x0DC then g.retransmits
  else 0

/-- A Sholo or Ethernet port page. -/
def Dev.portReg (d : Dev) (p off : Nat) : Nat :=
  let g := d.port p
  if off = 0x040 then g.pstate.code + 2 ^ 4 * g.gen + 2 ^ 6 * b2n g.half + 2 ^ 7 * b2n (!isEth p && d.time.sourcePort == p)
  else if off = 0x044 then b2n g.enable + 2 * b2n g.gen2En
  else if off = 0x048 then
    match g.identity p with
    | some x => b2n x.fs8 + 2 ^ 2 * x.gens + 2 ^ 4 * x.port + 2 ^ 16 * x.position + 2 ^ 31
    | none => 0
  else if 0x04C ≤ off ∧ off < 0x05C then
    match g.identity p with
    | some x => word32 x.deviceId ((off - 0x04C) / 4)
    | none => 0
  else if off = 0x05C then g.replays
  else if off = 0x060 then g.retrains
  else if off = 0x064 then g.maxDelay
  else if off = 0x068 then g.xferCtx
  else if off = 0x06C then b2n g.rxwEnable + 2 * b2n (!g.inbound.isEmpty) + 2 ^ 8 * g.rxwCtx
  else if off = 0x070 then g.rxwFirst + 2 ^ 16 * g.rxwCount
  else if 0x074 ≤ off ∧ off < 0x0A0 then g.xq.reg off
  else if isEth p then g.ethReg off
  else 0

/-! ### Cluster pages -/

/-- A cluster router page (Table 11-13). -/
def Dev.routerReg (d : Dev) (c off : Nat) : Nat :=
  let r := d.routers.getD c {}
  if off = 0x040 then r.merged
  else if off = 0x044 then r.combines
  else if off = 0x048 then r.maxAge
  else if off = 0x04C then r.ctlMax
  else 0

/-- HBM_STATUS.STATE. -/
def HbmState.code : HbmState → Nat
  | .training => 0
  | .active => 1
  | .selfRefresh => 2
  | .failed => 3

/-- A DRAM controller and stack page (Table 11-14). -/
def Dev.dramReg (d : Dev) (h off : Nat) : Nat :=
  let x := d.drams.getD h {}
  if off = 0x040 then x.hstate.code + 2 ^ 8 * (x.temp % 256) + 2 ^ 16 * b2n x.hotRefresh
  else if off = 0x044 then d.stackUnits h
  else if off = 0x048 then x.refreshes
  else if off = 0x04C then x.refreshWaits
  else 0

/-- The descriptor that runs in a queue. -/
def runningDesc (q : List Desc) : Option Desc := q.find? (fun x => x.started && !x.landed)

/-- A matrix engine page (Table 4-10). -/
def Dev.meReg (d : Dev) (n off : Nat) : Nat :=
  let c := d.core n
  let run := c.arrayDesc
  if off = 0x040 then
    c.matrixQ.length + 2 ^ 13 * b2n run.isSome
    + (match run with
       | some x => 2 ^ 8 * dsTile x.word + 2 ^ 16 * dsShape x.word
       | none => 0)
  else if off = 0x044 then 0x00FF003F
  else if off = 0x048 then c.issuerM + 2 ^ 4 * c.issuerS + 2 ^ 7 * b2n c.unbound
  else if off = 0x04C then c.rejects
  else if off = 0x050 then c.rejectCode + 2 ^ 12 * c.rejectTidy + 2 ^ 16 * c.rejectTag
  else if off = 0x054 then c.tileInt
  else if off = 0x058 then c.lastDoneM
  else 0

/-- MODE of SUA_STATUS for a running descriptor. -/
def Desc.mode (x : Desc) : Nat :=
  match groupKind x.token x.word with
  | .sweep => suaMode x.word
  | .anneal => 3
  | .fields => 0
  | .token => 0

/-- Whether the head of a core's SUA queue waits for other members of its group (R155). -/
def Dev.groupWait (d : Dev) (n : Nat) : Bool :=
  match (d.core n).suaQ with
  | [] => false
  | x :: _ => !x.started && !x.landed && (d.core n).fenceOpen x && maskCores (descMask x.word) != [n] && (d.groupReady n (groupKind x.token x.word)).isNone

/-- A SUA page (Table 6-10). A DEMOTE replay is part of its beat, so DEMOTED_NOW reads 0. -/
def Dev.suaReg (d : Dev) (n off : Nat) : Nat :=
  let c := d.core n
  let s := c.sua
  let run := runningDesc c.suaQ
  if off = 0x040 then
    c.suaQ.length + 2 ^ 8 * b2n run.isSome + 2 ^ 9 * ((run.map Desc.mode).getD 0) + 2 ^ 11 * b2n (d.groupWait n)
  else if off = 0x044 then 0x000F0010
  else if off = 0x048 then s.flags
  else if off = 0x04C then s.conflictI
  else if off = 0x050 then s.conflictJ
  else if off = 0x054 then s.demotions
  else if off = 0x058 then word32 s.staleCount 0
  else if off = 0x05C then word32 s.staleCount 1
  else if off = 0x060 then word32 s.evals 0
  else if off = 0x064 then word32 s.evals 1
  else if off = 0x068 then word32 s.discards 0
  else if off = 0x06C then word32 s.discards 1
  else if off = 0x070 then s.tableIndex
  else if off = 0x074 then decisionEntry s.tableIndex
  else if off = 0x078 then c.lastDoneS
  else 0

/-- The chain of the link that waits in a shadow set, if one does. -/
def Core.chainWaiting (c : Core) : Option Nat :=
  (c.shadow.find? (fun e => e.2.use == .chainWait || e.2.use == .chainSend)).map (fun e => dsChain e.2.word)

/-- An accumulator memory page (Table 5-7). -/
def Dev.accReg (d : Dev) (n off : Nat) : Nat :=
  let c := d.core n
  if off = 0x040 then (c.shadow.map (fun e => 2 ^ e.1)).sum + 2 ^ 8 * b2n c.chainWaiting.isSome + 2 ^ 16 * c.chainWaiting.getD 0
  else if off = 0x044 then c.spill
  else if off = 0x048 then c.accFlags
  else if off = 0x04C then c.flagTiles
  else if off = 0x050 then c.flagTag + 2 ^ 16 * b2n c.flagTagValid
  else if off = 0x054 then c.truncRuns
  else if off = 0x058 then c.spills
  else 0

/-- TC_STATE.STATE. -/
def TidyState.code : TidyState → Nat
  | .idle => 0
  | .running => 1
  | .waitEngine => 2
  | .waitSync => 3
  | .trapped => 4

/-- A tidy-core page (Table 4-12). -/
def Dev.tidyReg (d : Dev) (k off : Nat) : Nat :=
  let x := d.tidy k
  if off = 0x040 then x.tstate.code
  else if off = 0x044 then k
  else if off = 0x048 then x.trapCause
  else if off = 0x04C then x.fflags
  else if off = 0x050 then word32 x.trapPc 0
  else if off = 0x054 then word32 x.trapPc 1
  else if off = 0x058 then word32 x.trapTval 0
  else if off = 0x05C then word32 x.trapTval 1
  else 0

/-! ### The counter window (Table 18-1) -/

/-- A register of a page's counter window. -/
def CntWin.reg (w : CntWin) (off : Nat) : Nat :=
  if off < 0xF20 then (w.counter ((off - 0xF00) / 4)).sel
  else if off < 0xF60 then word32 (w.counter ((off - 0xF20) / 8)).value ((off - 0xF20) / 4 % 2)
  else if off = 0xF60 then w.ovf
  else 0

/-! ### Firmware-served pages -/

/-- CTX_STATE.STATE; an idle context with a job from LAUNCHED to DRAINING reads RUNNING (notes/assumptions/16.md). -/
def Dev.ctxStateCode (d : Dev) (n : Nat) : Nat :=
  match (d.ctx n).cstate with
  | .free => 0
  | .idle => if d.anyJob (fun j => j.ctx == n && j.jstate.running?) then 2 else 1
  | .running => 2
  | .saving => 3
  | .restoring => 4

/-- A context page (Table 12-7). -/
def Dev.ctxReg (d : Dev) (n off : Nat) : Nat :=
  let c := d.ctx n
  if off = 0x040 then d.ctxStateCode n + 2 ^ 3 * b2n c.throughput + 2 ^ 8 * c.owner
  else if off = 0x044 then c.geomCores + 2 ^ 5 * b2n c.fromFs8 + 2 ^ 8 * c.log2Rows + 2 ^ 12 * c.log2Cols
  else if off = 0x048 then c.realiseWord
  else if off = 0x04C then c.shapeWord
  else if off = 0x050 then word32 c.tdcTotal 0
  else if off = 0x054 then word32 c.tdcTotal 1
  else if off = 0x058 then c.tdcIssue
  else if off = 0x05C then c.tdcSlate
  else if off = 0x060 then c.tdcFloat
  else if off = 0x064 then c.tdcNet
  else if off = 0x068 then c.tdcRestore
  else if off = 0x06C then c.jobSelect
  else if off = 0x070 then
    match d.jobs.get? c.jobSelect with
    | some j => if j.ctx = n then min j.tdc 0xFFFFFFFE else ones 32
    | none => ones 32
  else 0

/-- SEC_STATUS (Table 16-6). -/
def Dev.secStatus (d : Dev) : Nat :=
  let s := d.sec
  s.life + 2 ^ 2 * b2n d.lockedOut
  + 2 ^ 3 * (match s.unlock with
             | .none => 0
             | .owner => 1
             | .vendor => 2)
  + 2 ^ 5 * b2n s.verifier.isSome + 2 ^ 6 * b2n (s.chalValid && decide (d.deviceTime < s.chalTime + 600000000000))

/-- SLOT_STATE: STATE and ADMIN of the eight slots. -/
def Dev.slotStates (d : Dev) : Nat :=
  ((upFrom 0 8).map (fun k =>
    let x := d.keySlot k
    16 ^ k * ((match x.sstate with
               | .empty => 0
               | .transport => 1
               | .inUse => 2) + 4 * b2n x.admin))).sum

/-- The security core page (Table 16-5). -/
def Dev.secReg (d : Dev) (off : Nat) : Nat :=
  let s := d.sec
  let k := d.keySlot s.ctrSelect
  let unlockEnd := if s.unlock = .none then 0 else s.unlockEnd
  if off = 0x040 then d.secStatus
  else if off = 0x044 then d.slotStates
  else if off = 0x048 then min s.fails 31 + 2 ^ 8 * min s.level 15 + 2 ^ 16 * min s.total 0xFFFF
  else if off = 0x04C then word32 s.lockoutEnd 0
  else if off = 0x050 then word32 s.lockoutEnd 1
  else if off = 0x054 then s.ctrSelect
  else if off = 0x058 then word32 k.last 0
  else if off = 0x05C then word32 k.last 1
  else if off = 0x060 then word32 k.reserve 0
  else if off = 0x064 then word32 k.reserve 1
  else if off = 0x068 then word32 unlockEnd 0
  else if off = 0x06C then word32 unlockEnd 1
  else if 0x070 ≤ off ∧ off < 0x080 then word32 s.deviceId ((off - 0x070) / 4)
  else if 0x080 ≤ off ∧ off < 0x090 then word32 s.salt ((off - 0x080) / 4)
  else if 0x090 ≤ off ∧ off < 0x0B0 then word32 s.nonce ((off - 0x090) / 4)
  else if off = 0x0B0 then word32 s.chalSeq 0
  else if off = 0x0B4 then word32 s.chalSeq 1
  else if off = 0x0B8 then s.rollSelect
  else if off = 0x0BC then d.floor s.rollSelect
  else if off = 0x0C0 then d.fusedEpoch s.rollSelect
  else if off = 0x0C4 then s.rootRevoked
  else if off = 0x0C8 then s.jtagDenied
  else 0

/-- Watts of a number of milliwatts, as the power page shows them. -/
def pageWatts (mw : Nat) : Nat := min (mw / 1000) 0xFFF

/-- The hottest stack: its number and temperature. -/
def Dev.stackMax (d : Dev) : Nat × Nat :=
  (upFrom 0 32).foldl (fun m h => if m.2 < (d.drams.getD h {}).temp then (h, (d.drams.getD h {}).temp) else m) (0, 0)

/-- PWR_STATUS (Table 13-8). -/
def Power.statusReg (p : Power) : Nat :=
  b2n p.ice + 2 * b2n p.distrust + 2 ^ 2 * b2n p.smuAbsent + 2 ^ 3 * b2n p.emergency + 2 ^ 4 * b2n (p.capOps.any (·.started)) + 2 ^ 5 * b2n p.overrun + 2 ^ 6 * b2n p.clamp
  + ((upFrom 0 4).map (fun c => 2 ^ (8 + c) * b2n (p.point c == 16) + 2 ^ (12 + c) * b2n (bit p.thermOn c))).sum + 2 ^ 16 * (if p.ice then p.icePoint else 0)

/-- The power page (Table 13-7). -/
def Dev.pwrReg (d : Dev) (off : Nat) : Nat :=
  let p := d.pwr
  let ms (f : PSample → Nat) : Nat := p.mean f d.now 1000000
  if off = 0x040 then p.statusReg
  else if off = 0x044 then p.cap + 2 ^ 16 * p.prio
  else if off = 0x048 then p.platform
  else if off = 0x04C then ((upFrom 0 4).map (fun c => 2 ^ (8 * c) * p.point c)).sum
  else if off = 0x050 then ((upFrom 0 4).map (fun c => 2 ^ (8 * c) * p.duty c)).sum
  else if off = 0x054 then p.memRate + 2 ^ 8 * p.linkRate
  else if off = 0x058 then pageWatts (ms PSample.e)
  else if off = 0x05C then pageWatts p.m
  else if off = 0x060 then pageWatts (ms PSample.p)
  else if off = 0x064 then min (ms PSample.compute) 0x3FF + 2 ^ 10 * min (ms PSample.memory) 0x3FF + 2 ^ 20 * min (ms PSample.links) 0x3FF
  else if off = 0x068 then ((upFrom 0 4).map (fun c => 2 ^ (8 * c) * min (p.junctions.getD c 0) 255)).sum
  else if off = 0x06C then min p.hubTemp 255 + 2 ^ 8 * min d.stackMax.2 255 + 2 ^ 16 * d.stackMax.1
  else if off = 0x070 then b2n p.boostEn
  else if off = 0x074 then p.thrCap
  else if off = 0x078 then p.thrPeak
  else if off = 0x07C then p.thrSlope
  else if off = 0x080 then p.thrThermal
  else if off = 0x084 then p.thrIce
  else if off = 0x088 then p.disagree + 2 ^ 16 * p.entries
  else 0

/-- FW_STATE (Table 15-7). -/
def Dev.fwStateReg (d : Dev) (q : Proc) : Nat :=
  let idle := if q.restarting then 5 else if q.staged.isSome then 2 else 0
  match q.op with
  | some o =>
    match o.phase with
    | .staging => 1
    | .waiting => 3
    | .deferred => 4 + 2 ^ 16 * min ((d.now - o.since) / 1000000000) 0xFFFF
    | .restarting => 5
  | none => idle

/-- LEASE_STATE.LEASE. -/
def LeaseStatus.code : LeaseStatus → Nat
  | .none => 0
  | .held => 1
  | .expired => 2
  | .takenOver => 3

/-- The scheduler core and lease page (Table 15-6). -/
def Dev.schedReg (d : Dev) (off : Nat) : Nat :=
  let l := d.lease
  let q := d.proc d.fwSelect
  let deadline := if l.status = .none then 0 else l.deadline
  if off = 0x040 then l.status.code + 2 ^ 2 * b2n l.warned + 2 ^ 3 * b2n d.storeFull
  else if off = 0x044 then l.interval
  else if off = 0x048 then word32 deadline 0
  else if off = 0x04C then word32 deadline 1
  else if off = 0x050 then l.expiries
  else if off = 0x054 then l.store.length
  else if off = 0x058 then l.resultCode + 2 ^ 16 * l.resultRing + 2 ^ 31 * b2n l.resultValid
  else if off = 0x05C then d.log.traceEn
  else if off = 0x060 then word32 d.log.hostBase 0
  else if off = 0x064 then word32 d.log.hostBase 1
  else if off = 0x068 then d.log.hostLog2
  else if off = 0x06C then d.log.hostTail
  else if off = 0x070 then d.log.hostHead
  else if off = 0x074 then word32 d.log.seq 0
  else if off = 0x078 then word32 d.log.seq 1
  else if off = 0x07C then d.log.dropped
  else if off = 0x080 then d.fwSelect
  else if off = 0x084 then d.fwStateReg q
  else if off = 0x088 then q.image.version
  else if off = 0x08C then q.staged.getD 0
  else if off = 0x090 then q.restarts + 2 ^ 16 * q.reverts
  else 0

/-- CCC_STATUS.PHASE: TRAINING in stage 5 of bring-up, SELF_TEST in stage 6, then SERVICE; OFF where the core does not run (R375, Table 20-1). -/
def Dev.cccPhase (d : Dev) (c : Nat) : Nat :=
  if d.offline (.ccc c) || d.boot.stage < 5 then 0 else if d.boot.stage = 5 then 1 else if d.boot.stage = 6 then 2 else 3

/-- A cluster control core page (Table 15-8). -/
def Dev.cccReg (d : Dev) (c off : Nat) : Nat :=
  let x := d.cccs.getD c {}
  if off = 0x040 then d.cccPhase c + 2 ^ 8 * ((upFrom 0 8).map (fun k => 2 ^ k * b2n ((d.drams.getD (8 * c + k) {}).hstate == .active))).sum
  else if off = 0x044 then x.errq.length + 2 ^ 16 * x.dropped
  else if off = 0x048 then x.restarts
  else 0

/-- The SMU page (Table 14-6); while the SMU is absent it keeps the values of the last valid window record (R354). -/
def Dev.smuReg (d : Dev) (off : Nat) : Nat :=
  let u := d.smu
  let r := if d.pwr.smuAbsent then u.shown else u.regs
  if off = 0x040 then
    (if !u.powered then 0 else if d.sealing then 2 else if d.pwr.smuSeq.isNone then 0 else 1)
    + 2 ^ 3 * b2n d.pwr.feedValid + 2 ^ 4 * b2n d.pwr.feedOverrange + 2 ^ 5 * b2n (decide (smuLogCapacity ≤ r.log.length))
  else if off = 0x044 then r.powerOns
  else if off = 0x048 then r.sealCount
  else if off = 0x04C then r.log.length
  else if off = 0x050 then word32 r.total 0
  else if off = 0x054 then word32 r.total 1
  else if off = 0x058 then r.unattrib
  else if off = 0x05C then u.acctSelect
  else if off = 0x060 then word32 (r.labels.getD u.acctSelect 0) 0
  else if off = 0x064 then word32 (r.labels.getD u.acctSelect 0) 1
  else if off = 0x068 then word32 (r.energy.getD u.acctSelect 0) 0
  else if off = 0x06C then word32 (r.energy.getD u.acctSelect 0) 1
  else if 0x070 ≤ off ∧ off < 0x080 then word32 u.nonce ((off - 0x070) / 4)
  else if off = 0x080 then word32 u.readAddr 0
  else if off = 0x084 then word32 u.readAddr 1
  else if off = 0x08C then b2n u.reading.isSome + 2 ^ 4 * u.readCode
  else if 0x100 ≤ off ∧ off < 0x160 then word32 (Config.smuPublicKey 0).toNat ((off - 0x100) / 4)
  else if 0x160 ≤ off ∧ off < 0x190 then leNat ((r.lrDigest.drop (off - 0x160)).take 4)
  else 0

/-! ### Reading a register -/

/-- The value of a unit-specific register, before any latch. -/
def Dev.unitReg (d : Dev) (fn : Nat) (u : UnitId) (off : Nat) : Nat :=
  match u with
  | .root => d.rootReg fn off
  | .geom => d.geomReg off
  | .hub => 0
  | .hostIf => d.hostIfReg off
  | .sec => d.secReg off
  | .pwr => d.pwrReg off
  | .sched => d.schedReg off
  | .launch => d.launchReg off
  | .timeBase => d.timeReg off
  | .sync => 0
  | .counter => d.readerReg off
  | .dir => d.dirReg off
  | .entropy => d.entropyReg off
  | .smu => d.smuReg off
  | .eth e => d.portReg (18 + e) off
  | .sholo k => d.portReg k off
  | .cluster _ => 0
  | .ccc c => d.cccReg c off
  | .ctx n => d.ctxReg n off
  | .router c => d.routerReg c off
  | .core _ => 0
  | .me n => d.meReg n off
  | .sua n => d.suaReg n off
  | .acc n => d.accReg n off
  | .tidy n m => d.tidyReg (8 * n + m) off
  | .dram h => d.dramReg h off
  | .ring r => d.ringReg r off
  | .attnq f => d.attnqReg f off

/-- A page's register from 0x040 up, before any latch; the counter window at its end (R35, R429). -/
def Dev.liveReg (d : Dev) (fn : Nat) (u : UnitId) (off : Nat) : Nat :=
  if !d.unitActs u then 0
  else if off < 0xF00 then d.unitReg fn u off
  else if u.hasWindow then (d.cnt u.page).reg off
  else 0

/-- The LO registers of a page whose read latches the next register. -/
def UnitId.loRegs : UnitId → List Nat
  | .timeBase => [0x040]
  | .sua _ => [0x058, 0x060, 0x068]
  | .entropy => [0x048, 0x050]
  | .counter => [0x044]
  | .ctx _ => [0x050]
  | .sec => [0x04C, 0x058, 0x060, 0x068, 0x0B0]
  | .sched => [0x048, 0x074]
  | .smu => [0x050, 0x060, 0x068]
  | _ => []

/-- Whether counter n + 1 of a window is chained to counter n. -/
def CntWin.chained (w : CntWin) (n : Nat) : Bool := n % 2 == 0 && (w.counter (n + 1)).chain

/-- The registers that a read of one latches (R70, R432, R441). -/
def Dev.latchedBy (d : Dev) (u : UnitId) (off : Nat) : List Nat :=
  if u.loRegs.contains off then [off + 4]
  else if u = .counter ∧ off = 0x064 then [0x068, 0x06C, 0x070, 0x074, 0x078]
  else if u.hasWindow && decide (0xF20 ≤ off) && decide (off < 0xF60) && off % 8 == 0 then
    let n := (off - 0xF20) / 8
    if (d.cnt u.page).chained n then [off + 4, off + 8, off + 12]
    else if n % 2 = 1 ∧ (d.cnt u.page).chained (n - 1) then []
    else [off + 4]
  else []

/-- Whether a register reads as latched. -/
def Dev.readsLatched (d : Dev) (u : UnitId) (off : Nat) : Bool :=
  u.loRegs.contains (off - 4) || (u == .counter && [0x068, 0x06C, 0x070, 0x074, 0x078].contains off)
  || (u.hasWindow && decide (0xF20 ≤ off) && decide (off < 0xF60)
      && (off % 8 == 4 || ((off - 0xF20) / 8 % 2 == 1 && (d.cnt u.page).chained ((off - 0xF20) / 8 - 1))))

/-- What a latched register reads before anything has been latched: its reset value, or what the store holds. -/
def Dev.latchReset (d : Dev) (fn : Nat) (u : UnitId) (off : Nat) : Nat :=
  match u with
  | .entropy => if off = 0x054 then ones 32 else 0
  | .sec => d.liveReg fn u off
  | .smu => d.liveReg fn u off
  | _ => 0

/-- The key of a latched register for a function. -/
def latchKey (fn page off : Nat) : Nat := fn * 2 ^ 32 + page * 4096 + off

/-- What a register reads for a function. -/
def Dev.regValue (d : Dev) (fn : Nat) (u : UnitId) (off : Nat) : Nat :=
  if off < 0x040 then d.headerReg fn u off
  else if !d.unitActs u then 0
  else if d.readsLatched u off then d.hiLatch.getD (latchKey fn u.page off) (d.latchReset fn u off)
  else d.liveReg fn u off

/-- Clear the RC field that a read of a register clears (Table 0-4). -/
def Dev.rcClear (d : Dev) (u : UnitId) (off : Nat) : Dev :=
  match u with
  | .attnq f => if off = 0x048 then { d with attnqs := d.attnqs.put f { d.attnq f with logDropped := 0 } } else d
  | .launch => if off = 0x048 then { d with lateLaunches := 0 } else d
  | .me n => if off = 0x04C then d.updCore n (fun c => { c with rejects := 0 }) else d
  | .acc n =>
    if off = 0x054 then d.updCore n (fun c => { c with truncRuns := 0 })
    else if off = 0x058 then d.updCore n (fun c => { c with spills := 0 })
    else d
  | .dir =>
    if off = 0x054 then d.updTrack d.trackStack (fun x => { x with peak := 0 })
    else if off = 0x058 then d.updTrack d.trackStack (fun x => { x with waits := 0 })
    else d
  | .router c =>
    if off = 0x040 then d.updRouter c (fun r => { r with merged := 0 })
    else if off = 0x044 then d.updRouter c (fun r => { r with combines := 0 })
    else if off = 0x048 then d.updRouter c (fun r => { r with maxAge := 0 })
    else if off = 0x04C then d.updRouter c (fun r => { r with ctlMax := 0 })
    else d
  | .dram h =>
    if off = 0x048 then { d with drams := d.drams.put h { d.drams.getD h {} with refreshes := 0 } }
    else if off = 0x04C then { d with drams := d.drams.put h { d.drams.getD h {} with refreshWaits := 0 } }
    else d
  | .hostIf =>
    if off = 0x044 then { d with hostIf := { d.hostIf with retrains := 0 } }
    else if off = 0x048 then { d with hostIf := { d.hostIf with corrected := 0 } }
    else if off = 0x04C then { d with hostIf := { d.hostIf with uncorrected := 0 } }
    else d
  | .sholo k => portClear k
  | .eth e => portClear (18 + e)
  | .counter => if off = 0x058 then { d with reader := { d.reader with lost := 0 } } else d
  | .pwr =>
    if off = 0x074 then { d with pwr := { d.pwr with thrCap := 0 } }
    else if off = 0x078 then { d with pwr := { d.pwr with thrPeak := 0 } }
    else if off = 0x07C then { d with pwr := { d.pwr with thrSlope := 0 } }
    else if off = 0x080 then { d with pwr := { d.pwr with thrThermal := 0 } }
    else if off = 0x084 then { d with pwr := { d.pwr with thrIce := 0 } }
    else d
  | .sched => if off = 0x07C then { d with log := { d.log with dropped := 0 } } else d
  | .sec => if off = 0x0C8 then { d with sec := { d.sec with jtagDenied := 0 } } else d
  | _ => d
where
  portClear (p : Nat) : Dev :=
    if off = 0x05C then d.updPort p (fun g => { g with replays := 0 })
    else if off = 0x060 then d.updPort p (fun g => { g with retrains := 0 })
    else if off = 0x064 then d.updPort p (fun g => { g with maxDelay := 0 })
    else if isEth p && off == 0x0D8 then d.updPort p (fun g => { g with dropped := 0 })
    else if isEth p && off == 0x0DC then d.updPort p (fun g => { g with retransmits := 0 })
    else d

/-- The effects of a 32-bit read: the halves it latches for the function, and the RC field it clears. -/
def Dev.readEffect (d : Dev) (fn : Nat) (u : UnitId) (off : Nat) : Dev :=
  if off < 0x040 || !d.unitActs u then d
  else
    let d := { d with hiLatch := (d.latchedBy u off).foldl (fun (t : Tab Nat) o => t.put (latchKey fn u.page o) (d.liveReg fn u o)) d.hiLatch }
    d.rcClear u off

end Sys2Proof.Machine
end

