-- ==== Sys2Proof/Machine/PageWrites.lean ====
section
/-! DEFINITION. What a 32-bit write of every register does (R4, R5, R41, R45, R46, R71, R140, R171, R249, R284, R307, R334, R356, R374, R396, R432, R444, R454, R465 to R467). -/

namespace Sys2Proof.Machine

/-- Replace word `k`, of 32 bits, of a number. -/
def setWord32 (v k x : Nat) : Nat := v - word32 v k * 2 ^ (32 * k) + x % 2 ^ 32 * 2 ^ (32 * k)

/-- A number with its bits below 2^n cleared. -/
def alignDown (v n : Nat) : Nat := v / 2 ^ n * 2 ^ n

/-! ### Hardware pages -/

/-- Write BAR2_BASE: the bits below the BAR2 size are ignored (Table 2-3). -/
def Dev.bar2Write32 (d : Dev) (fn k data : Nat) : Dev :=
  let v := d.view fn
  { d with views := d.views.put fn { v with bar2Base := alignDown (setWord32 v.bar2Base k data) v.bar2Log2 } }

/-- Write RING_SIZE, a base or RING_OWNER: only while DRAINED is 1, and sizes only from 6 to 16 (R46). -/
def Dev.ringConfig (d : Dev) (fn r off data : Nat) : Dev :=
  let page := (UnitId.ring r).page
  if !d.drained r then d.refuse fn page off 4 data cIllegal
  else if off = 0x044 then
    let sq := bits data 4 0
    let cq := bits data 12 8
    if 6 ≤ sq ∧ sq ≤ 16 ∧ 6 ≤ cq ∧ cq ≤ 16 then d.updRing r (fun g => { g with log2Sq := sq, log2Cq := cq })
    else d.refuse fn page off 4 data cOutOfRange
  else if off = 0x048 then d.updRing r (fun g => { g with sqBase := alignDown (setWord32 g.sqBase 0 data) 12 })
  else if off = 0x04C then d.updRing r (fun g => { g with sqBase := setWord32 g.sqBase 1 data })
  else if off = 0x050 then d.updRing r (fun g => { g with cqBase := alignDown (setWord32 g.cqBase 0 data) 12 })
  else if off = 0x054 then d.updRing r (fun g => { g with cqBase := setWord32 g.cqBase 1 data })
  else if off = 0x06C then
    let old := (d.ring r).owner
    let new := bits data 4 0
    if old = new then d
    else
      let d := d.updRing r (fun g => { g with owner := new })
      let d := if old = 0 then d else d.bumpTree old
      if new = 0 then d else d.bumpTree new
  else d

/-- Write a ring page (Table 2-6). A virtual function's RING_OWNER is RO, as SQ_HEAD, CQ_TAIL, RING_ERROR and reserved space are for every function. -/
def Dev.ringWrite (d : Dev) (fn r off data : Nat) : Dev :=
  if off = 0x040 then
    if bit data 0 then d.ringEnable fn r data else d.ringDisable r
  else if off = 0x058 then d.sqTail fn r data
  else if off = 0x064 then d.cqHead r (data % 65536)
  else if off = 0x068 then d.ringWake fn r data
  else if off = 0x06C ∧ fn ≠ 0 then d
  else if (0x044 ≤ off ∧ off ≤ 0x054) ∨ off = 0x06C then d.ringConfig fn r off data
  else d

/-- Write an attention queue page (Table 2-10a). -/
def Dev.attnqWrite (d : Dev) (f off data : Nat) : Dev :=
  if off = 0x04C then
    let q := d.attnq f
    let left := q.lostClasses - (q.lostClasses &&& (data % 65536))
    { d with attnqs := d.attnqs.put f { q with lostClasses := left, lostCount := if left = 0 then 0 else q.lostCount } }
  else if off = 0x050 then if bit data 0 then d.attnPop f else d
  else d

/-- Write XQ_SIZE or a base: only while DRAINED is 1, and sizes only from 6 to 12 (R46, R454). -/
def Dev.xqConfig (d : Dev) (p off data : Nat) : Dev :=
  let page := (portUnit p).page
  if !(d.port p).xq.drained then d.refuse 0 page off 4 data cIllegal
  else if off = 0x078 then
    let sq := bits data 4 0
    let cq := bits data 12 8
    if 6 ≤ sq ∧ sq ≤ 12 ∧ 6 ≤ cq ∧ cq ≤ 12 then d.updXq p (fun g => { g with log2Sq := sq, log2Cq := cq })
    else d.refuse 0 page off 4 data cOutOfRange
  else if off = 0x07C then d.updXq p (fun g => { g with sqBase := alignDown (setWord32 g.sqBase 0 data) 12 })
  else if off = 0x080 then d.updXq p (fun g => { g with sqBase := setWord32 g.sqBase 1 data })
  else if off = 0x084 then d.updXq p (fun g => { g with cqBase := alignDown (setWord32 g.cqBase 0 data) 12 })
  else d.updXq p (fun g => { g with cqBase := setWord32 g.cqBase 1 data })

/-- Write XCQ_HEAD: a value not below the size halts the ring; any other frees slots for completions that wait (R47, R50, R454). -/
def Dev.xcqHead (d : Dev) (p value : Nat) : Dev :=
  if 2 ^ (d.port p).xq.log2Cq ≤ value then d.updXq p (fun g => { g with halted := true })
  else (d.updXq p (fun g => { g with cqHead := value })).xqWrite p

/-- Write XQ_WAKE (R51, R454). -/
def Dev.xqArm (d : Dev) (p data : Nat) : Dev :=
  let d := d.updXq p (fun g => { g with vector := bits data 10 0, armed := bit data 16 })
  let g := (d.port p).xq
  if g.armed && g.cqTail != g.cqHead && !d.hostStopped then d.xqWake p else d

/-- Whether the selected peer's entry may be written: VALID is 0, or no transfer to the peer is started (Table 19-13). -/
def Port.peerFree (g : Port) : Bool :=
  let x := g.peers.getD g.peerSelect {}
  !x.valid || g.xq.active.all (fun t => t.peer != g.peerSelect)

/-- Write an entry of the peer table. A VERIFIED peer whose address or port changes, or whose VALID clears, is dropped. -/
def Dev.peerWrite (d : Dev) (p : Nat) (f : Peer → Peer) : Dev :=
  let g := d.port p
  if !g.peerFree then d
  else
    let old := g.peers.getD g.peerSelect {}
    let new := f old
    if old.verified && new != old then d.dropPeer p g.peerSelect new
    else d.updPort p (fun g => { g with peers := g.peers.put g.peerSelect new })

/-- Write the registers an Ethernet port adds (Table 19-13). -/
def Dev.ethWrite (d : Dev) (p off data : Nat) : Dev :=
  if 0x0A8 ≤ off ∧ off < 0x0B8 then d.updPort p (fun g => { g with ipv6 := setWord32 g.ipv6 ((off - 0x0A8) / 4) data })
  else if off = 0x0B8 then d.updPort p (fun g => { g with udp := bits data 15 0 })
  else if off = 0x0BC then d.updPort p (fun g => { g with peerSelect := bits data 7 0 })
  else if 0x0C0 ≤ off ∧ off < 0x0D0 then d.peerWrite p (fun x => { x with addr := setWord32 x.addr ((off - 0x0C0) / 4) data })
  else if off = 0x0D0 then d.peerWrite p (fun x => { x with udp := bits data 15 0, valid := bit data 16 })
  else d

/-- Write a Sholo or Ethernet port page (Table 19-11). -/
def Dev.portWrite (d : Dev) (p off data : Nat) : Dev :=
  let g := d.port p
  if off = 0x044 then d.portControl p data
  else if off = 0x068 then if g.xq.drained then d.updPort p (fun g => { g with xferCtx := bits data 6 0 }) else d
  else if off = 0x06C then d.rxwControl p data
  else if off = 0x070 then
    let n := bits data 26 16
    if n = 0 ∨ regionCount < n then d.refuse 0 (portUnit p).page off 4 data cOutOfRange
    else if g.rxwEnable || !g.inbound.isEmpty then d
    else d.updPort p (fun g => { g with rxwFirst := bits data 10 0, rxwCount := n })
  else if off = 0x074 then d.xqControl p data
  else if 0x078 ≤ off ∧ off ≤ 0x088 then d.xqConfig p off data
  else if off = 0x08C then d.xqTail p data
  else if off = 0x098 then d.xcqHead p (data % 65536)
  else if off = 0x09C then d.xqArm p data
  else if isEth p then d.ethWrite p off data
  else d

/-- Write ACC_SPILL: ignored and logged while a job holds the core (R140). -/
def Dev.accSpill (d : Dev) (n data : Nat) : Dev :=
  if (d.core n).job.isSome then d.refuse 0 (UnitId.acc n).page 0x044 4 data cIllegal
  else d.updCore n (fun c => { c with spill := bits data 3 0 })

/-- Write SAMPLE_PERIOD: a write of 0 is ignored and logged (Table 18-11). -/
def Dev.samplePeriod (d : Dev) (data : Nat) : Dev :=
  if data % 2 ^ 32 = 0 then d.refuse 0 UnitId.counter.page 0x04C 4 data cOutOfRange
  else { d with reader := { d.reader with period := data % 2 ^ 32 } }

/-- Write the counter reader page (Table 18-10). -/
def Dev.readerWrite (d : Dev) (off data : Nat) : Dev :=
  if off = 0x04C then d.samplePeriod data
  else if off = 0x054 then d.samplePop data
  else if off = 0x05C then d.bwWrite data
  else if off = 0x060 then { d with reader := { d.reader with bwSelect := bits data 6 0 } }
  else d

/-- Write the entropy page (Table 10-6). -/
def Dev.entropyWrite (d : Dev) (fn off data : Nat) : Dev :=
  if off = 0x044 then d.entRetest fn data
  else if off = 0x06C then d.entTestCtrl fn data
  else if off = 0x070 then d.entTestLo fn data
  else if off = 0x074 then d.entTestHi fn data
  else d

/-- Write the directory front end page (Table 11-11). -/
def Dev.dirWrite (d : Dev) (off data : Nat) : Dev :=
  if off = 0x044 then { d with regionIndex := bits data 10 0 }
  else if off = 0x04C then { d with trackStack := bits data 4 0 }
  else d

/-- Write a register of a counter window (R429, R432, R433). -/
def Dev.windowWrite (d : Dev) (p off data : Nat) : Dev :=
  if off < 0xF20 then d.selWrite p ((off - 0xF00) / 4) data
  else if off < 0xF60 then
    let n := (off - 0xF20) / 8
    if off % 8 = 0 then d.cntLo p n data else d.cntHi p n data
  else if off = 0xF60 then d.updCnt p (fun w => { w with ovf := w.ovf - (w.ovf &&& (data % 256)) })
  else d

/-- Write a unit-specific register of a hardware page. RO registers and reserved space ignore writes (R4, R5). -/
def Dev.unitWrite (d : Dev) (fn : Nat) (u : UnitId) (off data : Nat) : Dev :=
  match u with
  | .root =>
    if off = 0x050 then d.bar2Write32 fn 0 data
    else if off = 0x054 then d.bar2Write32 fn 1 data
    else d
  | .hostIf => if off = 0x054 then { d with hostIf := { d.hostIf with sysPosition := bits data 12 0 } } else d
  | .timeBase => if off = 0x04C then d.alignControl fn data else d
  | .counter => d.readerWrite off data
  | .dir => d.dirWrite off data
  | .entropy => d.entropyWrite fn off data
  | .eth e => d.portWrite (18 + e) off data
  | .sholo k => d.portWrite k off data
  | .sua n =>
    if off = 0x048 then d.updCore n (fun c => { c with sua := c.sua.clearFlags data })
    else if off = 0x070 then d.updCore n (fun c => { c with sua := { c.sua with tableIndex := bits data 12 0 } })
    else d
  | .acc n =>
    if off = 0x044 then d.accSpill n data
    else if off = 0x048 then d.updCore n (fun c => c.clearAccFlags data)
    else d
  | .ring r => d.ringWrite fn r off data
  | .attnq f => d.attnqWrite f off data
  | _ => d

/-- A 32-bit write of a hardware page, or of the header of any page: UNIT_CONTROL is the header's one RW register (R5, R34, R35). A virtual function's root page shares the header of the physical function's, which holds COUNTERS_RUN and the epoch once per unit: the spec does not say (DESIGN CHOICE, notes/assumptions/72.md). -/
def Dev.hwWrite (d : Dev) (fn : Nat) (u : UnitId) (off data : Nat) : Dev :=
  if off < 0x040 then
    if off = 0x00C then d.updHdr u.page (fun h => { h with countersRun := bit data 0 }) else d
  else if !d.unitActs u then d
  else if off < 0xF00 then d.unitWrite fn u off data
  else if u.hasWindow then d.windowWrite u.page off data
  else d

/-! ### Firmware-served pages: the effect of a write, and its code -/

/-- A write that firmware refuses: logged, with the code that the next read of the page reports (R45, R491). -/
def Dev.emuRefuse (d : Dev) (fn page off data code : Nat) : Dev × Nat := (d.refuse fn page off 4 data code, code)

/-- SMU_READ_REQ: GO starts a signed reading with the nonce (Table 14-7). -/
def Dev.smuGo (d : Dev) (data : Nat) : Dev × Nat :=
  let u := d.smu
  if !bit data 8 then (d, cOk)
  else if u.reading.isSome then (d, cReadingBusy)
  else if u.readAddr = 0 then (d.updSmu (fun u => { u with readCode := cBadFormat }), cBadFormat)
  else
    let d := d.updSmu (fun u => { u with reading := some (bits data 7 0, u.nonce), fetched := none })
    (if d.smuUp then d.smuAsk { chan := 0, ask := .signed (bits data 7 0) u.nonce, page := true } true else d, cOk)

/-- Write the SMU page (Table 14-6). -/
def Dev.smuPageWrite (d : Dev) (fn off data : Nat) : Dev × Nat :=
  let page := UnitId.smu.page
  if off = 0x05C then (d.updSmu (fun u => { u with acctSelect := bits data 7 0 }), cOk)
  else if 0x070 ≤ off ∧ off < 0x080 then (d.updSmu (fun u => { u with nonce := setWord32 u.nonce ((off - 0x070) / 4) data }), cOk)
  else if off = 0x080 then
    if data % 256 ≠ 0 then d.emuRefuse fn page off data cOutOfRange
    else (d.updSmu (fun u => { u with readAddr := setWord32 u.readAddr 0 data }), cOk)
  else if off = 0x084 then (d.updSmu (fun u => { u with readAddr := setWord32 u.readAddr 1 data }), cOk)
  else if off = 0x088 then d.smuGo data
  else (d, cOk)

/-- LOG_HOST_SIZE: 0 turns the host log ring off, 8 to 20 on; its indices return to 0 (Table 15-7). -/
def Dev.logHostSize (d : Dev) (fn data : Nat) : Dev × Nat :=
  let n := bits data 4 0
  if n = 0 ∨ (8 ≤ n ∧ n ≤ 20) then ({ d with log := { d.log with hostLog2 := n, hostTail := 0, hostHead := 0 } }, cOk)
  else d.emuRefuse fn UnitId.sched.page 0x068 data cOutOfRange

/-- LOG_HOST_BASE: a multiple of 4,096, written only while LOG_HOST_SIZE is 0 (Table 15-7). -/
def Dev.logHostBase (d : Dev) (fn k data : Nat) : Dev × Nat :=
  if k = 0 ∧ data % 4096 ≠ 0 then d.emuRefuse fn UnitId.sched.page 0x060 data cOutOfRange
  else if d.log.hostLog2 ≠ 0 then (d, cIllegal)
  else ({ d with log := { d.log with hostBase := setWord32 d.log.hostBase k data } }, cOk)

/-- Write the scheduler core and lease page (Table 15-6, R367). -/
def Dev.schedPageWrite (d : Dev) (fn off data : Nat) : Dev × Nat :=
  if off = 0x05C then
    if d.sec.logOpen then ({ d with log := { d.log with traceEn := bits data 6 0 } }, cOk)
    else d.emuRefuse fn UnitId.sched.page off data cIllegal
  else if off = 0x060 then d.logHostBase fn 0 data
  else if off = 0x064 then d.logHostBase fn 1 data
  else if off = 0x068 then d.logHostSize fn data
  else if off = 0x070 then ({ d with log := { d.log with hostHead := bits data 19 0 } }, cOk)
  else if off = 0x080 then ({ d with fwSelect := min (bits data 2 0) 6 }, cOk)
  else (d, cOk)

/-- Write the security core page (Table 16-5). -/
def Dev.secPageWrite (d : Dev) (off data : Nat) : Dev × Nat :=
  if off = 0x054 then (d.updSec (fun s => { s with ctrSelect := bits data 2 0 }), cOk)
  else if off = 0x0B8 then (d.updSec (fun s => { s with rollSelect := min (bits data 2 0) 6 }), cOk)
  else (d, cOk)

/-- The effect of a write that a processor applies to its page, and the write's code. -/
def Dev.emuEffect (d : Dev) (fn : Nat) (u : UnitId) (off data : Nat) : Dev × Nat :=
  match u with
  | .ctx n => if off = 0x06C then (d.updCtx n (fun c => { c with jobSelect := data % 2 ^ 32 }), cOk) else (d, cOk)
  | .sec => d.secPageWrite off data
  | .pwr => if off = 0x070 then (d.updPwr (fun p => { p with boostEn := bit data 0 }), cOk) else (d, cOk)
  | .sched => d.schedPageWrite fn off data
  | .smu => d.smuPageWrite fn off data
  | _ => (d, cOk)

end Sys2Proof.Machine
end

