-- ==== Sys2Proof/Machine/Pages.lean ====
section
/-! DEFINITION. Accesses through BAR0 and BAR2: hardware and firmware-served registers, the synchronisation window, and device memory (R39 to R45, R85, R251, R332, R401, R491). -/

namespace Sys2Proof.Machine

/-! ### BAR0 (R39, R40, R42) -/

/-- The unit whose page a function reaches at a page index of its BAR0; none in reserved space and for a removed page. -/
def Dev.barUnit (d : Dev) (fn page : Nat) : Option UnitId := if d.fnActs fn then (d.viewPage fn page).bind unitOf else none

/-- Whether a page index of a function's BAR0 lies in the synchronisation window (R85). -/
def inSyncWindow (fn page : Nat) : Bool := fn == 0 && decide (0x2000 ≤ page) && decide (page < 0x2400)

/-- The object whose slot holds a byte of the window. -/
def windowObject (page off : Nat) : Nat := (page - 0x2000) * 16 + off / 256

/-- The bytes of a dword that a read of `len` bytes at `off` returns, in their own byte lanes (R42). -/
def lanes (off len data : Nat) : Nat :=
  if 4 ≤ len then data % 2 ^ 32 else data / 2 ^ (8 * (off % 4)) % 2 ^ (8 * len) * 2 ^ (8 * (off % 4)) % 2 ^ 32

/-- Set the answer of a read of `len` bytes at `off`, made as a read of the dword that holds them. -/
def Dev.answerRead (d : Dev) (fn page off len data status : Nat) : Dev :=
  { d with reply := some { fn, page, off := off / 4 * 4, data := lanes off len data, status } }

/-! ### Firmware-served registers (R43 to R45) -/

/-- The queue of writes to an emulated page. -/
def Dev.emuPage (d : Dev) (u : UnitId) : EmuPage := d.emu.getD u.page {}

/-- Update it. -/
def Dev.updEmu (d : Dev) (u : UnitId) (f : EmuPage → EmuPage) : Dev := { d with emu := d.emu.put u.page (f (d.emuPage u)) }

/-- Record the code of a write that failed, unless an earlier one is recorded. -/
def Dev.emuFail (d : Dev) (u : UnitId) (code : Nat) : Dev :=
  d.updEmu u (fun e => if code = cOk || e.failed != cOk then e else { e with failed := code })

/-- Whether the processor that serves a page does not answer: RESTARTING, or not yet started (R44, R479). -/
def Dev.notServing (d : Dev) (u : UnitId) : Bool :=
  d.offline u || (match u.server with
    | some p => (d.proc p).restarting
    | none => false)

/-- Whether the processor that serves a page is halted through JTAG: it serves no more until it runs on. -/
def Dev.serverHalted (d : Dev) (u : UnitId) : Bool :=
  match u.server with
  | some p => (d.proc p).halted
  | none => false

/-- A 32-bit write arrives at a page's queue of 16 (R45). -/
def Dev.emuPut (d : Dev) (fn : Nat) (u : UnitId) (off data : Nat) : Dev :=
  if d.notServing u then d.emuFail u cUnitOffline
  else if 16 ≤ (d.emuPage u).writes.length then d.emuFail u cNoResource
  else { d.updEmu u (fun e => { e with writes := e.writes ++ [({ fn, off, data := data % 2 ^ 32, seq := d.emuSeq } : EmuWrite)] }) with emuSeq := d.emuSeq + 1 }

/-- The oldest write of a page is applied. -/
def Dev.emuTake (d : Dev) (u : UnitId) : Dev :=
  if d.notServing u || d.serverHalted u then d
  else
    match (d.emuPage u).writes with
    | [] => d
    | w :: rest =>
      let d := d.updEmu u (fun e => { e with writes := rest })
      let (d, code) := d.emuEffect w.fn u w.off w.data
      d.emuFail u code

/-- The writes that wait at the pages of the processor that serves a page, each with its page. -/
def Dev.emuWaiting (d : Dev) (u : UnitId) : List (UnitId × Nat) :=
  d.emu.flatMap (fun e => match unitOf e.1 with
    | some v => if v.server = u.server then e.2.writes.map (fun w => (v, w.seq)) else []
    | none => [])

/-- The page among them whose write arrived first; the page itself where none waits. -/
def emuFirst (u : UnitId) : List (UnitId × Nat) → UnitId
  | [] => u
  | x :: xs => (xs.foldl (fun (b : UnitId × Nat) y => if y.2 < b.2 then y else b) x).1

/-- The processor that serves a page serves the first `n` of them: one at a time, in the order in which they arrived (R358). -/
def Dev.emuServe (u : UnitId) : Nat → Dev → Dev
  | 0, d => d
  | n + 1, d => Dev.emuServe u n (d.emuTake (emuFirst u (d.emuWaiting u)))

/-- The processor applies the oldest write of a page, after every write that reached its pages before it. -/
def Dev.emuApply (d : Dev) (u : UnitId) : Dev :=
  match (d.emuPage u).writes with
  | [] => d
  | w :: _ => Dev.emuServe u ((d.emuWaiting u).filter (fun x => decide (x.2 ≤ w.seq))).length d

/-- The result code of a read: that of the first write that failed since the read before, or the read's own (R45). -/
def EmuPage.code (e : EmuPage) (own : Nat) : Nat := if e.failed = cOk then own else e.failed

/-- A read is answered without its register: data 0 and UNIT_OFFLINE (R44). -/
def Dev.emuNoAnswer (d : Dev) (fn page off len : Nat) (u : UnitId) : Dev :=
  let code := (d.emuPage u).code cUnitOffline
  (d.answerRead fn page off len 0 (if len = 8 then d.statusWord fn code else 0)).updEmu u (fun e => { e with failed := cOk })

/-- A read of a firmware-served register, with the status word where it is of 64 bits (R43); every write that reached the processor's pages before is applied first (R45, R358). A read while the processor is halted has no answer yet. -/
def Dev.emuRead (d : Dev) (fn page off len : Nat) (u : UnitId) : Dev :=
  let o := off / 4 * 4
  if d.notServing u then d.emuNoAnswer fn page off len u
  else if d.serverHalted u then { d with reply := none }
  else
    let d := Dev.emuServe u (d.emuWaiting u).length d
    let v := d.regValue fn u o
    let code := (d.emuPage u).code cOk
    let d := (d.readEffect fn u o).updEmu u (fun e => { e with failed := cOk })
    d.answerRead fn page off len v (if len = 8 then d.statusWord fn code else 0)

/-! ### Reads and writes of BAR0 -/

/-- A read of at most 4 bytes of a function's BAR0, made as a read of the dword that holds them, or a 64-bit read of a firmware-served register (R42, R43). -/
def Dev.barRead32 (d : Dev) (fn page off len : Nat) : Dev :=
  let o := off / 4 * 4
  if inSyncWindow fn page then
    d.answerRead fn page off len (if d.unitActs .sync then d.syncRead (windowObject page o) (o % 256) else 0) 0
  else
    match d.barUnit fn page with
    | none => d.answerRead fn page off len 0 0
    | some u =>
      if u.emulated && decide (0x040 ≤ o) then d.emuRead fn page off len u
      else (d.readEffect fn u o).answerRead fn page off len (d.regValue fn u o) 0

/-- Whether an offset of a page is served by firmware in 64 bits (R43). -/
def Dev.firmwareServed (d : Dev) (fn page off : Nat) : Bool :=
  !inSyncWindow fn page && decide (0x040 ≤ off) && (match d.barUnit fn page with
    | some u => u.emulated
    | none => false)

/-- The second of two 32-bit reads joins the first as the high dword of their answer. -/
def Dev.joinReads (d : Dev) (first : Option Reply) : Dev :=
  match first, d.reply with
  | some a, some b => { d with reply := some { a with data := a.data + 2 ^ 32 * b.data } }
  | _, _ => d

/-- A read of 1, 2, 4 or 8 bytes of a function's BAR0: one of 8 bytes where hardware answers is two of 4, the lower address first (R42, R43). A function that does not exist has no BAR. -/
def Dev.barRead (d : Dev) (fn page off len : Nat) : Dev :=
  let o := off % 4096
  if d.modState = .reset || !d.fnActs fn then d
  else if len = 8 && !d.firmwareServed fn page o then
    let d := d.barRead32 fn page o 4
    (d.barRead32 fn page (o + 4) 4).joinReads d.reply
  else d.barRead32 fn page o len

/-- A 32-bit write. -/
def Dev.barWrite32 (d : Dev) (fn page off data : Nat) : Dev :=
  if inSyncWindow fn page then if d.unitActs .sync then d.syncWrite fn (windowObject page off) (off % 256) data else d
  else
    match d.barUnit fn page with
    | none => d
    | some u => if u.emulated && decide (0x040 ≤ off) then d.emuPut fn u off data else d.hwWrite fn u off data

/-- A write narrower than 32 bits is ignored, and logged where a page or an object is written (R42, R45). -/
def Dev.narrowWrite (d : Dev) (fn page off len data : Nat) : Dev :=
  if inSyncWindow fn page then d.refuse fn UnitId.sync.page (off % 256) len (data % 2 ^ 32 + 2 ^ 32 * windowObject page off) cBadFormat
  else
    match d.barUnit fn page with
    | none => d
    | some u => d.refuse fn u.page off len data cBadFormat

/-- A write of 1, 2, 4 or 8 bytes through BAR0, aligned to its length or to 4 bytes; one of 8 bytes is two of 4, the lower address first (R42, R45). -/
def Dev.barWrite (d : Dev) (fn page off len data : Nat) : Dev :=
  let o := off % 4096
  if d.modState = .reset || !d.fnActs fn then d
  else if len < 4 then d.narrowWrite fn page o len data
  else
    let d := d.barWrite32 fn page (o / 4 * 4) (data % 2 ^ 32)
    if len = 8 then d.barWrite32 fn page (o / 4 * 4 + 4) (data / 2 ^ 32 % 2 ^ 32) else d

/-- The page index, just past BAR0, at which a REGISTER_WRITE row reaches a function's configuration space. PCI Express lays that space out, not the spec; the two offsets are the model's (DESIGN CHOICE, notes/assumptions/71.md). -/
def configPage : Nat := 0x4000

/-- A write of configuration space (R41, R445): at offset 0 the log2 of the function's BAR2 size, 28 to 41 for the physical function and 28 to 38 for a virtual one; at offset 4, of the physical function, the number of virtual functions enabled. -/
def Dev.configWrite (d : Dev) (fn off data : Nat) : Dev :=
  if off = 0 then
    if 28 ≤ data ∧ data ≤ (if fn = 0 then 41 else 38) then
      { d with views := d.views.put fn { d.view fn with bar2Log2 := data, bar2Base := alignDown (d.view fn).bar2Base data } }
    else d
  else if off = 4 ∧ fn = 0 ∧ data < 32 then { d with hostIf := { d.hostIf with vfEnabled := data } }
  else d

/-- REGISTER_WRITE (R5). -/
def execRegisterWrite (t fn page off len data : Nat) (s : State) : Host.Outcome State Fault Refusal :=
  s.run t (fun d => if page = configPage then (if d.modState = .reset || !d.fnActs fn then d else d.configWrite fn off data) else d.barWrite fn page off len data)

/-- RC_READ (R6). -/
def execRcRead (t fn page : Nat) (span : Span) (s : State) : Host.Outcome State Fault Refusal :=
  s.run t (fun d => d.barRead fn page span.off span.len)

/-- LATCHING_LO_READ (R70). -/
def execLatchingLoRead (t fn page : Nat) (span : Span) (s : State) : Host.Outcome State Fault Refusal :=
  s.run t (fun d => d.barRead fn page span.off span.len)

/-- EMULATED_PAGE_READ (R45). -/
def execEmulatedPageRead (t fn page : Nat) (span : Span) (s : State) : Host.Outcome State Fault Refusal :=
  s.run t (fun d => d.barRead fn page span.off span.len)

/-- EMULATED_PAGE_WRITE (R45). -/
def execEmulatedPageWrite (t fn page off len data : Nat) (s : State) : Host.Outcome State Fault Refusal :=
  s.run t (fun d => d.barWrite fn page off len data)

/-- EMULATED_WRITE_APPLY (R45), of a page by its index in the physical function's BAR0. -/
def execEmulatedWriteApply (t page : Nat) (s : State) : Host.Outcome State Fault Refusal :=
  s.run t (fun d => match unitOf page with
    | some u => d.emuApply u
    | none => d)

/-- EMULATED_READ_TIMEOUT (R44): a 64-bit read of a firmware-served register that has gone unanswered for 1 ms. -/
def execEmulatedReadTimeout (t fn page off : Nat) (s : State) : Host.Outcome State Fault Refusal :=
  s.run t (fun d => match d.barUnit fn page with
    | some u => if u.emulated && decide (0x040 ≤ off % 4096) && d.modState != .reset then d.emuNoAnswer fn page (off % 4096 / 4 * 4) 8 u else d
    | none => d)

/-- Write a firmware-served register of the physical function's view and have it applied. -/
def Dev.emuWriteNow (d : Dev) (fn : Nat) (u : UnitId) (off data : Nat) : Dev :=
  if fn ≠ 0 || d.modState = .reset then d
  else
    let d := d.emuPut fn u off data
    Dev.emuServe u (d.emuWaiting u).length d

/-- SMU_READ_REQ_GO (R356): a write of SMU_READ_REQ, applied. -/
def execSmuReadReqGo (t fn data : Nat) (s : State) : Host.Outcome State Fault Refusal :=
  s.run t (fun d => d.emuWriteNow fn .smu 0x088 data)

/-- LOG_HOST_SIZE_WRITE (R368): a write of LOG_HOST_SIZE, applied. -/
def execLogHostSizeWrite (t data : Nat) (s : State) : Host.Outcome State Fault Refusal :=
  s.run t (fun d => d.emuWriteNow 0 .sched 0x068 data)

/-! ### BAR2 (R41, R251) -/

/-- Whether a function may reach a range of device memory: the physical function every mapped region and the share of every large core in service; a virtual function the regions of its contexts and the memory granted to their placed jobs. -/
def Dev.bar2Reaches (d : Dev) (fn a len : Nat) (write : Bool) : Bool :=
  if fn = 0 then
    d.inRegions a len (fun _ => true) || (upFrom 0 d.nCores).any (fun n => inShare n a len && !d.offline (.core n))
  else
    d.inRegions a len (fun r => d.ctxOwned fn r.owner)
    || d.jobs.any (fun e => d.ctxOwned fn e.2.ctx && e.2.jstate != .defined
        && ((maskCores e.2.cores).any (fun n => inShare n a len && !d.offline (.core n)) && !(write && e.2.inReplica a len)))

/-- Whether the stacks are in self-refresh: in SNOWPACK, and in ORPHANED entered from it (R332, Table 2-12). -/
def Dev.dramAsleep (d : Dev) : Bool := d.modState == .snowpack || (d.modState == .orphaned && d.lease.fromSnowpack)

/-- The code with which a BAR2 access is refused, if it is (Table 2-10b). An access that a unit of its path answers UNIT_OFFLINE or UNIT_RESET (R406, R417) is refused likewise, with that code: the spec names no record of it (DESIGN CHOICE, notes/assumptions/72.md). -/
def Dev.bar2Code (d : Dev) (fn a len : Nat) (write : Bool) : Option Nat :=
  if !d.bar2Reaches fn a len write then some cOutOfRange
  else if isDram a && d.dramAsleep then some cIllegal
  else d.pathFault none a len

/-- The class-1 record of a BAR2 access. -/
def Dev.bar2Log (d : Dev) (fn len : Nat) (write : Bool) (code a : Nat) : Dev :=
  d.raiseFor fn 1 code UnitId.hostIf.page (accessFields fn 0 len write) a

/-- A BAR2 read: bytes of a poisoned line are free, the Poisoned bit is set, and each such line is logged (R401). -/
def Dev.bar2ReadAt (d : Dev) (fn off len : Nat) : Dev :=
  let a := (d.view fn).bar2Base + off
  let answer (d : Dev) (data : Nat) (poisoned : Bool) : Dev := { d with reply := some { fn, page := 0, off, data, status := 0, poisoned } }
  match d.bar2Code fn a len false with
  | some code => answer (d.bar2Log fn len false code a) 0 false
  | none =>
    let bad := d.poisonedIn a len
    let d := d.trackPass none a len false
    if bad.isEmpty then answer d (leNat (d.readDev a len)) false
    else
      let key := d.free
      let d := { d with free := d.free + 1 }
      let bs := (upFrom 0 len).map (fun i => if bad.contains ((a + i) / 64) then (Config.freeByte key 0 i) else memRead d.devMem (a + i))
      let d := bad.foldl (fun d l => d.bar2Log fn len false 0x301 (64 * l)) d
      answer d (leNat bs) true

/-- A replica of a hot row that a host write reaches may take the new bytes or keep the old ones (R267). -/
def Dev.staleRow (d : Dev) (a len : Nat) (r : HotRow) : Dev :=
  if rangesMeet a len r.addr r.bytes then
    let (w, d) := d.takeFree
    if bit w 0 then d.writeDev r.replica (d.readDev r.addr r.bytes) else d
  else d

/-- A BAR2 write. -/
def Dev.bar2WriteAt (d : Dev) (fn off : Nat) (bs : List Byte) : Dev :=
  let a := (d.view fn).bar2Base + off
  match d.bar2Code fn a bs.length true with
  | some code => d.bar2Log fn bs.length true code a
  | none => d.jobs.foldl (fun d e => e.2.hotRows.foldl (fun d r => d.staleRow a bs.length r) d) ((d.trackPass none a bs.length true).storeDev a bs)

/-- Whether a BAR2 access lies within the function's BAR. -/
def Dev.inBar2 (d : Dev) (fn off len : Nat) : Bool :=
  d.fnActs fn && decide (0 < len) && decide (off + len ≤ 2 ^ (d.view fn).bar2Log2) && d.modState != .reset

/-- BAR2_READ (R41). -/
def execBar2Read (t fn off len : Nat) (s : State) : Host.Outcome State Fault Refusal :=
  s.run t (fun d => if d.inBar2 fn off len then d.bar2ReadAt fn off len else d)

/-- BAR2_WRITE (R41). -/
def execBar2Write (t fn off : Nat) (bytes : List Byte) (s : State) : Host.Outcome State Fault Refusal :=
  s.run t (fun d => if d.inBar2 fn off bytes.length then d.bar2WriteAt fn off bytes else d)

end Sys2Proof.Machine
end

