-- ==== Sys2Proof/Machine/Dump.lean ====
section
/-! DEFINITION. The Moraine dump: its layout, its writing, reading and release (R423 to R428). -/

namespace Sys2Proof.Machine

/-! ### Layout (R425) -/

/-- Offset and size of the sections of Table 17-11, in order. -/
def dumpSections : List (Nat × Nat) :=
  [(0x00001000, 0x10000), (0x00020000, 0x40000), (0x00060000, 0x1000000), (0x01060000, 0x40000), (0x010A0000, 0x400000), (0x014A0000, 0x40000),
   (0x014E0000, 0x2000), (0x014E2000, 0x100000), (0x015E2000, 0x400000), (0x019E2000, 0x28000), (0x01A0A000, 0x2000)]

/-- DUMP_BYTES: of a minimal dump, the header and the fault section. -/
def Dump.size (x : Dump) : Nat := if x.minimal then 0x11000 else 0x01A0C000

/-- Bytes padded with zeros to a length. -/
def padTo (n : Nat) (bs : List Byte) : List Byte := (bs ++ List.replicate (n - bs.length) 0).take n

/-- The bytes of a section: zero when it was not captured. -/
def Dump.section (x : Dump) (k size : Nat) : List Byte :=
  if !bit x.valid k then List.replicate size 0
  else padTo size (x.sections.getD k [])

/-- Bytes 0x1000 to DUMP_BYTES − 1: the sections in order, with zeros between them. -/
def Dump.bodyFrom (x : Dump) : Nat → Nat → List (Nat × Nat) → List Byte
  | _, _, [] => []
  | k, at_, (off, size) :: rest => List.replicate (off - at_) 0 ++ x.section k size ++ x.bodyFrom (k + 1) (off + size) rest

/-- The bytes that DIGEST covers. -/
def Dump.body (x : Dump) : List Byte := x.bodyFrom 0 0x1000 (if x.minimal then dumpSections.take 1 else dumpSections)

/-- The header (Table 17-12). -/
def Dump.header (x : Dump) : List Byte :=
  padTo 0xFD0
    (leBytes 4 (0x01 + 2 ^ 8 * b2n x.minimal + 2 ^ 9 * b2n x.mirrored + 2 ^ 10 * b2n x.unpowered)
     ++ leBytes 4 (x.cause + 2 ^ 8 * x.prev + 2 ^ 16 * x.laterFatals) ++ leBytes 8 x.time ++ leBytes 16 x.deviceId ++ leBytes 8 x.size
     ++ leBytes 4 x.valid ++ leBytes 4 0 ++ x.versions.flatMap (leBytes 4))
  ++ sha384 x.body

/-- The dump's bytes. -/
def Dump.bytes (x : Dump) : List Byte := x.header ++ x.body

/-! ### Capturing the sections -/

/-- The fault records: the one that triggered, then the latest 2,047 of the log ring in time order. -/
def Dev.dumpFaults (d : Dev) (f : Fatal) : List Byte :=
  let rs := (d.log.records.filter (fun r => r.point == pointFault)).map (fun r => r.data)
  leBytes 32 f.record ++ (rs.drop (rs.length - 2047)).flatMap (leBytes 32)

/-- Page indices below which every unit page of the physical function lies, but for ring and attention queue pages. -/
def pageLimit : Nat := 0x220

/-- The headers of the pages. -/
def Dev.dumpHeaders (d : Dev) : List Byte :=
  (upFrom 0 pageLimit).flatMap (fun p => match d.barUnit 0 p with
    | some u => (upFrom 0 16).flatMap (fun k => leBytes 4 (d.headerReg 0 u (4 * k)))
    | none => List.replicate 64 0)

/-- The unit-specific registers of the hardware pages, each at its offset within its page's 4 KiB. -/
def Dev.dumpRegs (d : Dev) : List Byte :=
  (upFrom 0 pageLimit).flatMap (fun p => match d.barUnit 0 p with
    | some u =>
      if u.emulated then List.replicate 4096 0
      else List.replicate 0x40 0 ++ (upFrom 16 944).flatMap (fun k => leBytes 4 (d.liveReg 0 u (4 * k))) ++ List.replicate 0x100 0
    | none => List.replicate 4096 0)

/-- The slots of the synchronisation objects (Table 3-8). -/
def Dev.dumpSyncs (d : Dev) : List Byte :=
  (upFrom 0 16384).flatMap (fun i => (upFrom 0 13).flatMap (fun k => leBytes 4 (d.syncRead i (4 * k))) ++ List.replicate 204 0)

/-- The attention queues of the 32 functions, each of 1,024 records, head first. -/
def Dev.dumpAttn (d : Dev) : List Byte :=
  (upFrom 0 32).flatMap (fun f => padTo 0x8000 ((d.attnq f).records.flatMap (fun r => leBytes 32 r.word)))

/-- Records of `size` bytes whose layout the spec does not give: the model names the first fields, and the bytes beyond them are free (notes/assumptions/4.md). -/
def openRecords (key k size : Nat) (rs : List (List Byte)) : List Byte :=
  rs.zipIdx.flatMap (fun r => (r.1 ++ (upFrom r.1.length (size - r.1.length)).map (fun o => Config.freeByte key k (r.2 * size + o))).take size)

/-- A launch entry: job, condition and object with their count, the times of Table 3-4, C, and whether the release is sent and it was held. -/
def Launch.dumped (e : Launch) : List Byte :=
  leBytes 4 e.job ++ leBytes 4 (e.cond.ctorIdx + 2 ^ 8 * b2n e.waiting + 2 ^ 9 * b2n e.sent + 2 ^ 10 * b2n e.held + 2 ^ 11 * b2n e.c.isSome) ++ leBytes 4 e.waitSync
  ++ leBytes 4 e.waitCount ++ leBytes 8 e.launchTime ++ leBytes 8 e.checkTime ++ leBytes 8 (e.c.getD 0)

/-- A job of the job table: JOB_ID, context, state and ring. -/
def Job.dumped (id : Nat) (j : Job) : List Byte := leBytes 4 id ++ leBytes 4 j.ctx ++ leBytes 4 j.jstate.ctorIdx ++ leBytes 4 (j.ring.getD 0xFFFFFFFF)

/-- A tidy core's trap state: its state, cause, pc and trap value (Table 4-13). -/
def Tidy.dumped (x : Tidy) : List Byte := leBytes 4 x.tstate.ctorIdx ++ leBytes 4 x.trapCause ++ leBytes 8 x.trapPc ++ leBytes 8 x.trapTval

/-- The sections of a full dump. -/
def Dev.dumpCapture (d : Dev) (f : Fatal) : Tab (List Byte) :=
  [(0, d.dumpFaults f), (1, d.dumpHeaders), (2, d.dumpRegs), (3, openRecords d.free 3 64 (d.launches.map Launch.dumped)), (4, d.dumpSyncs),
   (5, openRecords d.free 5 64 (d.jobs.map (fun (e : Nat × Job) => e.2.dumped e.1))), (6, (upFrom 0 regionCount).flatMap (fun r => leBytes 4 (d.region r).word)),
   (7, d.dumpAttn), (8, d.log.records.flatMap LogRec.bytes), (9, d.pwr.trail.flatMap (leBytes 16)),
   (10, openRecords d.free 10 64 ((upFrom 0 128).map (fun i => (d.tidy i).dumped)))]

/-! ### Writing (R423, R424, R426) -/

/-- Whether the summary is mirrored: the lease is valid, LOG_HOST_SIZE is not zero, and the scheduler core runs. -/
def Dev.mirrors (d : Dev) : Bool := d.lease.status == .held && d.log.hostLog2 != 0 && !(d.proc 2).restarting && !(d.proc 2).halted

/-- The 456 log records of a mirrored summary. -/
def Dev.mirror (d : Dev) (x : Dump) : Dev :=
  let summary := x.bytes.take 16384
  (upFrom 0 456).foldl (fun d n => d.logRec 0 lvWarn 0x0D00 0 (n + 2 ^ 32 * leNat ((summary.drop (36 * n)).take 36))) d

/-- The dump is finished, or was not needed: the class-14 record, and FAULTED. -/
def Dev.dumpDone (d : Dev) (x : Option Dump) : Dev :=
  let d := match x with
    | some x => ({ d with flt := { d.flt with dump := some x } } : Dev).class14
    | none => d
  ({ d with flt := { d.flt with fatal := none } } : Dev).move .faulted

/-- The dump of a fatal error. -/
def Dev.dumpOf (d : Dev) (f : Fatal) (minimal : Bool) : Dump × Dev :=
  let valid := if minimal then 1 else if d.boot.railsOff then 0x3FF else 0x7FF
  ({ cause := f.cause, prev := f.prev, time := f.time, minimal, mirrored := d.mirrors, unpowered := d.boot.railsOff, laterFatals := f.laterFatals
     deviceId := d.sec.deviceId, valid, versions := (upFrom 0 7).map (fun p => (d.proc p).image.version)
     sections := if minimal then [(0, d.dumpFaults f)] else d.dumpCapture f, openKey := d.free },
   { d with free := d.free + 1 })

/-- A dump is written, and its summary mirrored where that can be (R426). -/
def Dev.dumpOut (d : Dev) (x : Dump) : Dev := (if x.mirrored then d.mirror x else d).dumpDone (some x)

/-- The security core finishes the dump. It writes none while it restarts, and none for cause 0x03. -/
def Dev.dumpWritten (d : Dev) : Dev :=
  match d.flt.fatal with
  | none => d
  | some f =>
    if d.modState != .dumping || (d.proc 0).restarting || (d.proc 0).halted then d
    else if f.later then d.dumpDone none
    else if f.cause = 3 then d
    else
      let (x, d) := (d.logCe (fun _ => true)).dumpOf f false
      d.dumpOut x

/-- Hub hardware writes the minimal dump: 2 s after the fatal error, or for cause 0x03. -/
def Dev.dumpTimeout (d : Dev) : Dev :=
  match d.flt.fatal with
  | none => d
  | some f =>
    if d.modState != .dumping || !(f.cause == 3 || decide (f.time + 2000000000 ≤ d.deviceTime)) then d
    else if f.later then d.dumpDone none
    else
      let (x, d) := d.dumpOf f true
      d.dumpOut x

/-! ### Reading and release (R427, R428) -/

/-- Operands of DUMP_READ. -/
def drOffset (c : Cmd) : Nat := c.dw 0x18
def drBytes (c : Cmd) : Nat := c.dw 0x1C
def drDest (c : Cmd) : Nat := c.qw 0x20

/-- DUMP_READ at step 8. -/
def Dev.dumpRead (c : Cmd) (d : Dev) : Dev :=
  if drOffset c % 4096 ≠ 0 ∨ drBytes c % 4096 ≠ 0 ∨ drBytes c < 4096 ∨ 16777216 < drBytes c ∨ drDest c % 4096 ≠ 0 then d.answer c cBadFormat 0 0
  else
    match d.flt.dump with
    | none => d.answer c cIllegal 0 0
    | some x =>
      if x.size ≤ drOffset c then d.answer c cOutOfRange 0 0
      else
        let d := d.answerPending c 0 0
        { d with flt := { d.flt with dumpReads := d.flt.dumpReads ++ [{ pend := d.pendOf c, dump := x, offset := drOffset c, bytes := drBytes c, dest := drDest c }] } }

/-- The copy of the oldest DUMP_READ ends; it waits while host writes are stopped (R371). -/
def Dev.dumpReadDone (d : Dev) : Dev :=
  match d.flt.dumpReads with
  | [] => d
  | r :: rest =>
    if d.hostStopped || d.modState == .dumping || d.modState == .reset || (d.proc 0).restarting then d
    else
      let d := d.writeHost r.dest (padTo r.bytes ((r.dump.bytes.drop r.offset).take r.bytes))
      ({ d with flt := { d.flt with dumpReads := rest } } : Dev).finish r.pend cOk r.dump.size r.dump.time

/-- DUMP_RELEASE at step 8. -/
def Dev.dumpRelease (c : Cmd) (d : Dev) : Dev := ({ d with flt := { d.flt with dump := none } } : Dev).answer c cOk 0 0

def specDumpRead : CmdSpec :=
  { opcode := 0x00C0, pfOnly := true, states := [.ready, .frost, .faulted], mask := opBits 0x18 31 0 ||| opBits 0x1C 31 0 ||| opBits 0x20 63 0
    noTarget := true, noCtx := true, noJob := true, proc := some 0 }

def specDumpRelease : CmdSpec := { opcode := 0x00C1, pfOnly := true, states := [.ready, .frost, .faulted], proc := some 0 }

/-- Table 2-11's further condition: a dump is held. -/
def Dev.dumpCond (d : Dev) : Option Nat := if d.flt.dump.isSome then none else some cIllegal

/-- DUMP_READ (R427). -/
def execDumpRead (t ring : Nat) (s : State) : Host.Outcome State Fault Refusal :=
  s.run t (fun d => d.ringCmd ring (fun _ => specDumpRead) anyForm (fun _ => d.dumpCond) Dev.dumpRead)

/-- DUMP_READ_DONE (R427). -/
def execDumpReadDone (t : Nat) (s : State) : Host.Outcome State Fault Refusal := s.run t (fun d => d.dumpReadDone)

/-- DUMP_RELEASE (R428). -/
def execDumpRelease (t ring : Nat) (s : State) : Host.Outcome State Fault Refusal :=
  s.run t (fun d => d.ringCmd ring (fun _ => specDumpRelease) anyForm (fun _ => d.dumpCond) Dev.dumpRelease)

/-- DUMP_WRITTEN (R423). -/
def execDumpWritten (t : Nat) (s : State) : Host.Outcome State Fault Refusal := s.run t (fun d => d.dumpWritten)

/-- DUMP_WRITE_TIMEOUT (R423). -/
def execDumpWriteTimeout (t : Nat) (s : State) : Host.Outcome State Fault Refusal := s.run t (fun d => d.dumpTimeout)

end Sys2Proof.Machine
end

