-- ==== Sys2Proof/Machine/RvFloat.lean ====
section
/-! DEFINITION. Floating-point arithmetic of the F, D and V extensions that the tidy cores implement (R17, R107, R108; notes/assumptions/30.md): every operation computes the exact result and rounds it once under the rounding mode in force. -/

namespace Sys2Proof.Machine

/-- The divide-by-zero flag, beside those of Table 4-13. -/
def ffDZ : Nat := 8

/-- Round a magnitude `m × 2^e` to a multiple of 2^ulp under a rounding mode: 0 nearest even, 1 toward zero, 2 down, 3 up, 4 nearest away, 5 to odd. The Bool says whether it changed. -/
def rmMag (rm : Nat) (neg : Bool) (m : Nat) (e ulp : Int) : Nat × Bool :=
  if ulp ≤ e then (m * 2 ^ (e - ulp).toNat, false)
  else
    let d := (ulp - e).toNat
    let q := m / 2 ^ d
    let r := m % 2 ^ d
    let half := 2 ^ (d - 1)
    let up :=
      match rm with
      | 1 => false
      | 2 => neg && r != 0
      | 3 => !neg && r != 0
      | 4 => decide (half ≤ r)
      | 5 => r != 0 && q % 2 == 0
      | _ => decide (half < r) || (r == half && q % 2 == 1)
    (q + b2n up, r != 0)

/-- Width of a format's word. -/
def Fmt.width (f : Fmt) : Nat := 1 + f.ebits + f.mbits

/-- The canonical NaN. -/
def Fmt.nan (f : Fmt) : Nat := (2 ^ f.ebits - 1) * 2 ^ f.mbits + 2 ^ (f.mbits - 1)

/-- An infinity. -/
def Fmt.inf (f : Fmt) (neg : Bool) : Nat := f.sign neg + (2 ^ f.ebits - 1) * 2 ^ f.mbits

/-- Whether a word is a NaN, and whether it is a signalling one. -/
def Fmt.isNan (f : Fmt) (w : Nat) : Bool := f.decode w == .nan
def Fmt.isSig (f : Fmt) (w : Nat) : Bool := f.isNan w && !bit w (f.mbits - 1)

/-- Round a signed magnitude `m × 2^e`: the word, and the flags (tininess after rounding). -/
def Fmt.roundTo (f : Fmt) (rm : Nat) (neg : Bool) (m : Nat) (e : Int) : Nat × Nat :=
  if m = 0 then (f.sign neg, 0)
  else
    let lg := (Nat.log2 m : Int) + e
    let ulp := max (lg - f.mbits) f.emin
    let (q, nx) := rmMag rm neg m e ulp
    if f.maxFinite.lt ⟨q, ulp⟩ then
      let toInf := match rm with | 1 => false | 2 => neg | 3 => !neg | 5 => false | _ => true
      (if toInf then f.inf neg else f.sign neg + f.maxBits, ffOF + ffNX)
    else
      let free := rmMag rm neg m e (lg - f.mbits)
      let tiny := Dyadic.lt ⟨free.1, lg - f.mbits⟩ ⟨1, 1 - f.bias⟩
      (f.sign neg + f.encodeMag ⟨q, ulp⟩, (if nx then ffNX else 0) + (if nx && tiny then ffUF else 0))

/-- A NaN result: invalid when an operand is signalling. -/
def Fmt.nanOf (f : Fmt) (ws : List Nat) : Nat × Nat := (f.nan, if ws.any f.isSig then ffNV else 0)

/-- The rounded sum of two values that are no NaNs. -/
def Fmt.sum (f : Fmt) (rm : Nat) : FVal → FVal → Nat × Nat
  | .inf s, .inf t => if s == t then (f.inf s, 0) else (f.nan, ffNV)
  | .inf s, _ => (f.inf s, 0)
  | _, .inf t => (f.inf t, 0)
  | .fin s m e, .fin t n d =>
    let r := (FVal.fin s m e).dyadic.add (FVal.fin t n d).dyadic
    if r.m = 0 then (f.sign (if s == t then s else rm == 2), 0) else f.roundTo rm (decide (r.m < 0)) r.m.natAbs r.e
  | _, _ => (f.nan, 0)

/-- A word with its sign flipped. -/
def Fmt.flip (f : Fmt) (w : Nat) : Nat := w ^^^ 2 ^ (f.width - 1)

/-- a + b. -/
def Fmt.fadd (f : Fmt) (rm a b : Nat) : Nat × Nat :=
  if f.isNan a || f.isNan b then f.nanOf [a, b] else f.sum rm (f.decode a) (f.decode b)

/-- a − b. -/
def Fmt.fsub (f : Fmt) (rm a b : Nat) : Nat × Nat :=
  if f.isNan a || f.isNan b then f.nanOf [a, b] else f.sum rm (f.decode a) (f.decode (f.flip b))

/-- A value rounded: an infinity or a NaN stays one, and a NaN that a product made is invalid. -/
def Fmt.roundVal (f : Fmt) (rm : Nat) : FVal → Nat × Nat
  | .nan => (f.nan, ffNV)
  | .inf s => (f.inf s, 0)
  | .fin s m e => f.roundTo rm s m e

/-- a × b. -/
def Fmt.fmul (f : Fmt) (rm a b : Nat) : Nat × Nat :=
  if f.isNan a || f.isNan b then f.nanOf [a, b] else f.roundVal rm (fvMul (f.decode a) (f.decode b))

/-- a × b + c, rounded once; an infinity times zero is invalid whatever c is. -/
def Fmt.fma (f : Fmt) (rm a b c : Nat) : Nat × Nat :=
  let p := fvMul (f.decode a) (f.decode b)
  if p == .nan && !(f.isNan a || f.isNan b) then (f.nan, ffNV)
  else if f.isNan a || f.isNan b || f.isNan c then f.nanOf [a, b, c]
  else f.sum rm p (f.decode c)

/-- a / b. -/
def Fmt.fdiv (f : Fmt) (rm a b : Nat) : Nat × Nat :=
  if f.isNan a || f.isNan b then f.nanOf [a, b]
  else
    match f.decode a, f.decode b with
    | .inf _, .inf _ => (f.nan, ffNV)
    | .inf s, .fin t _ _ => (f.inf (s != t), 0)
    | .fin s _ _, .inf t => (f.sign (s != t), 0)
    | .fin s m e, .fin t n d =>
      if n = 0 then (if m = 0 then (f.nan, ffNV) else (f.inf (s != t), ffDZ))
      else
        let p := m * 2 ^ 128
        f.roundTo rm (s != t) (2 * (p / n) + b2n (p % n != 0)) (e - d - 129)
    | _, _ => (f.nan, 0)

/-- The square root of n below 2^(2k), rounded down, one bit at a time. -/
def isqrt : Nat → Nat → Nat → Nat
  | 0, r, _ => r
  | k + 1, r, n => if (r + 2 ^ k) * (r + 2 ^ k) ≤ n then isqrt k (r + 2 ^ k) n else isqrt k r n

/-- The square root. -/
def Fmt.fsqrt (f : Fmt) (rm a : Nat) : Nat × Nat :=
  match f.decode a with
  | .nan => f.nanOf [a]
  | .inf s => if s then (f.nan, ffNV) else (f.inf false, 0)
  | .fin s m e =>
    if m = 0 then (f.sign s, 0)
    else if s then (f.nan, ffNV)
    else
      let odd := e % 2 != 0
      let p := m * 2 ^ (if odd then 129 else 128)
      let r := isqrt 96 0 p
      f.roundTo rm false (2 * r + b2n (r * r != p)) ((if odd then e - 129 else e - 128) / 2 - 1)

/-- An order key that puts −0 beside +0, and one that puts it below. -/
def Fmt.key (f : Fmt) (w : Nat) : Int := let m := w % 2 ^ (f.width - 1); if bit w (f.width - 1) then -(m : Int) else m
def Fmt.total (f : Fmt) (w : Nat) : Int := let m := w % 2 ^ (f.width - 1); if bit w (f.width - 1) then -(m : Int) - 1 else m

/-- The lesser or the greater of two words; of a NaN and a number, the number. -/
def Fmt.pick (f : Fmt) (greater : Bool) (a b : Nat) : Nat × Nat :=
  let nv := (f.nanOf [a, b]).2
  if f.isNan a && f.isNan b then (f.nan, nv)
  else if f.isNan a then (b, nv)
  else if f.isNan b then (a, nv)
  else (if greater == decide (f.total a < f.total b) then b else a, 0)

/-- a = b, a < b and a ≤ b: equality is invalid on signalling NaNs alone, the others on any. -/
def Fmt.feq (f : Fmt) (a b : Nat) : Bool × Nat :=
  if f.isNan a || f.isNan b then (false, (f.nanOf [a, b]).2) else (f.key a == f.key b, 0)
def Fmt.flt (f : Fmt) (a b : Nat) : Bool × Nat :=
  if f.isNan a || f.isNan b then (false, ffNV) else (decide (f.key a < f.key b), 0)
def Fmt.fle (f : Fmt) (a b : Nat) : Bool × Nat :=
  if f.isNan a || f.isNan b then (false, ffNV) else (decide (f.key a ≤ f.key b), 0)

/-- Sign injection: b's sign, its complement, or the two signs' difference. -/
def Fmt.inject (f : Fmt) (how a b : Nat) : Nat :=
  let top := 2 ^ (f.width - 1)
  let s := match how with | 0 => bit b (f.width - 1) | 1 => !bit b (f.width - 1) | _ => bit a (f.width - 1) != bit b (f.width - 1)
  a % top + (if s then top else 0)

/-- The class mask of a word: −∞, −normal, −subnormal, −0, +0, +subnormal, +normal, +∞, signalling NaN, quiet NaN from bit 0 up. -/
def Fmt.classMask (f : Fmt) (w : Nat) : Nat :=
  match f.decode w with
  | .nan => if f.isSig w then 256 else 512
  | .inf s => if s then 1 else 128
  | .fin s m _ =>
    if m = 0 then (if s then 8 else 16)
    else if m < 2 ^ f.mbits then (if s then 4 else 32)
    else if s then 2 else 64

/-- A value as an integer of n bits, signed or not, saturating with the invalid flag. -/
def Fmt.toInt (f : Fmt) (rm n : Nat) (sgn : Bool) (w : Nat) : Nat × Nat :=
  let top := unsigned n (if sgn then 2 ^ (n - 1) - 1 else 2 ^ n - 1)
  let bottom := if sgn then 2 ^ (n - 1) else 0
  match f.decode w with
  | .nan => (top, ffNV)
  | .inf s => (if s then bottom else top, ffNV)
  | .fin s m e =>
    let (q, nx) := rmMag rm s m e 0
    let v : Int := if s then -(q : Int) else q
    let (lo, hi) : Int × Int := if sgn then (-(2 ^ (n - 1)), 2 ^ (n - 1) - 1) else (0, 2 ^ n - 1)
    if v < lo then (bottom, ffNV) else if hi < v then (top, ffNV) else (unsigned n v, if nx then ffNX else 0)

/-- An integer of n bits as a value. -/
def Fmt.ofInt (f : Fmt) (rm n : Nat) (sgn : Bool) (v : Nat) : Nat × Nat :=
  let i : Int := if sgn then signed n v else ((v % 2 ^ n : Nat) : Int)
  f.roundTo rm (decide (i < 0)) i.natAbs 0

/-- A word of another format in this one. -/
def Fmt.ofFmt (f g : Fmt) (rm w : Nat) : Nat × Nat :=
  if g.isNan w then (f.nan, if g.isSig w then ffNV else 0) else f.roundVal rm (g.decode w)

/-- Bits [6:0] of the reciprocal estimate of 1.i, and of the reciprocal square root of one whose exponent's low bit and six high fraction bits are i (the tables of vfrec7.v and vfrsqrt7.v). -/
def rec7Table : List Nat :=
  [127, 125, 123, 121, 119, 117, 116, 114, 112, 110, 109, 107, 105, 104, 102, 100, 99, 97, 96, 94, 93, 91, 90, 88, 87, 85, 84, 83, 81, 80, 79, 77]
  ++ [76, 75, 74, 72, 71, 70, 69, 68, 66, 65, 64, 63, 62, 61, 60, 59, 58, 57, 56, 55, 54, 53, 52, 51, 50, 49, 48, 47, 46, 45, 44, 43]
  ++ [42, 41, 40, 40, 39, 38, 37, 36, 35, 35, 34, 33, 32, 31, 31, 30, 29, 28, 28, 27, 26, 25, 25, 24, 23, 23, 22, 21, 21, 20, 19, 19]
  ++ [18, 17, 17, 16, 15, 15, 14, 14, 13, 12, 12, 11, 11, 10, 9, 9, 8, 8, 7, 7, 6, 5, 5, 4, 4, 3, 3, 2, 2, 1, 1, 0]
def rsqrt7Table : List Nat :=
  [52, 51, 50, 48, 47, 46, 44, 43, 42, 41, 40, 39, 38, 36, 35, 34, 33, 32, 31, 30, 30, 29, 28, 27, 26, 25, 24, 23, 23, 22, 21, 20]
  ++ [19, 19, 18, 17, 16, 16, 15, 14, 14, 13, 12, 12, 11, 10, 10, 9, 9, 8, 7, 7, 6, 6, 5, 4, 4, 3, 3, 2, 2, 1, 1, 0]
  ++ [127, 125, 123, 121, 119, 118, 116, 114, 113, 111, 109, 108, 106, 105, 103, 102, 100, 99, 97, 96, 95, 93, 92, 91, 90, 88, 87, 86, 85, 84, 83, 82]
  ++ [80, 79, 78, 77, 76, 75, 74, 73, 72, 71, 70, 70, 69, 68, 67, 66, 65, 64, 63, 63, 62, 61, 60, 59, 59, 58, 57, 56, 56, 55, 54, 53]

/-- A non-zero magnitude as exponent and fraction of the format, a subnormal normalised (its exponent then at or below 0). -/
def Fmt.split (f : Fmt) (m : Nat) (e : Int) : Int × Nat :=
  let lg := Nat.log2 m
  ((lg : Int) + e + f.bias, (m * 2 ^ (f.mbits - lg)) % 2 ^ f.mbits)

/-- The 7-bit reciprocal estimate. -/
def Fmt.rec7 (f : Fmt) (rm a : Nat) : Nat × Nat :=
  match f.decode a with
  | .nan => f.nanOf [a]
  | .inf s => (f.sign s, 0)
  | .fin s m e =>
    if m = 0 then (f.inf s, ffDZ)
    else
      let (ex, frac) := f.split m e
      if ex < -1 then
        let toInf := match rm with | 1 => false | 2 => s | 3 => !s | _ => true
        (if toInf then f.inf s else f.sign s + f.maxBits, ffOF + ffNX)
      else
        let sig := 2 ^ f.mbits + rec7Table.getD (frac / 2 ^ (f.mbits - 7)) 0 * 2 ^ (f.mbits - 7)
        let out : Int := 2 * f.bias - 1 - ex
        if 1 ≤ out then (f.sign s + out.toNat * 2 ^ f.mbits + sig % 2 ^ f.mbits, 0)
        else (f.sign s + sig / 2 ^ (1 - out).toNat, 0)

/-- The 7-bit reciprocal square root estimate. -/
def Fmt.rsqrt7 (f : Fmt) (a : Nat) : Nat × Nat :=
  match f.decode a with
  | .nan => f.nanOf [a]
  | .inf s => if s then (f.nan, ffNV) else (0, 0)
  | .fin s m e =>
    if m = 0 then (f.inf s, ffDZ)
    else if s then (f.nan, ffNV)
    else
      let (ex, frac) := f.split m e
      let i := (ex % 2).toNat * 64 + frac / 2 ^ (f.mbits - 6)
      let out := (3 * (f.bias : Int) - 1 - ex) / 2
      (out.toNat * 2 ^ f.mbits + rsqrt7Table.getD i 0 * 2 ^ (f.mbits - 7), 0)

end Sys2Proof.Machine
end

