-- ==== Sys2Proof/Machine/RvScalar.lean ====
section
/-! DEFINITION. The scalar base instructions of the tidy cores, RV64GC, as their published specification gives them (R17; notes/assumptions/30.md): the 16-bit encodings expand to 32-bit ones, and each instruction gives the core's next registers with the memory it loads and stores. -/

namespace Sys2Proof.Machine

/-- What an instruction sees of memory: the bytes it would read, and whether the job may read them. -/
structure RvMem where
  read : Nat → Nat → Nat
  may : Nat → Nat → Bool

/-- What an instruction does: the core's next state with the ranges loaded and the bytes stored, or an exception. An encoding that nothing defines is illegal. -/
inductive RvOut where
  | next (x : Tidy) (loads : List (Nat × Nat)) (stores : List Host.Cell)
  | trap (cause tval : Nat)
  | illegal

/-- Exception codes of the base privileged architecture that the spec does not list. -/
def exFetchAccess : Nat := 1
def exBreakpoint : Nat := 3
def exStoreMisaligned : Nat := 6
def exCall : Nat := 8

/-- Sign-extend the low n bits to 64. -/
def sext (n w : Nat) : Nat := unsigned 64 (signed n w)

/-- a + b on 64 bits, b a signed offset already extended. -/
def add64 (a b : Nat) : Nat := w64 (a + b)

/-! ### Encodings -/

/-- The immediates of the 32-bit encodings, sign-extended. -/
def immI (w : Nat) : Nat := sext 12 (bits w 31 20)
def immS (w : Nat) : Nat := sext 12 (bits w 31 25 * 32 + bits w 11 7)
def immB (w : Nat) : Nat := sext 13 (bits w 31 31 * 4096 + bits w 7 7 * 2048 + bits w 30 25 * 32 + bits w 11 8 * 2)
def immU (w : Nat) : Nat := sext 32 (bits w 31 12 * 4096)
def immJ (w : Nat) : Nat := sext 21 (bits w 31 31 * 2 ^ 20 + bits w 19 12 * 4096 + bits w 20 20 * 2048 + bits w 30 21 * 2)

/-- Words of the 32-bit formats, for the expansion of the 16-bit ones. -/
def encI (op f3 rd rs1 imm : Nat) : Nat := op + 128 * rd + 4096 * f3 + 2 ^ 15 * rs1 + 2 ^ 20 * (imm % 4096)
def encS (op f3 rs1 rs2 imm : Nat) : Nat := op + 128 * (imm % 32) + 4096 * f3 + 2 ^ 15 * rs1 + 2 ^ 20 * rs2 + 2 ^ 25 * (imm / 32 % 128)
def encB (f3 rs1 imm : Nat) : Nat :=
  0x63 + 128 * (bits imm 4 1 * 2 + bits imm 11 11) + 4096 * f3 + 2 ^ 15 * rs1 + 2 ^ 25 * (bits imm 12 12 * 64 + bits imm 10 5)
def encJ (rd imm : Nat) : Nat := 0x6F + 128 * rd + 4096 * (bits imm 20 20 * 2 ^ 19 + bits imm 10 1 * 2 ^ 9 + bits imm 11 11 * 2 ^ 8 + bits imm 19 12)

/-- Quadrant 0 of the 16-bit encodings. -/
def expandQ0 (h : Nat) : Option Nat :=
  let rd := 8 + bits h 4 2
  let rs := 8 + bits h 9 7
  let w4 := bits h 12 10 * 8 + bits h 6 6 * 4 + bits h 5 5 * 64
  let w8 := bits h 12 10 * 8 + bits h 6 5 * 64
  match bits h 15 13 with
  | 0 =>
    let imm := bits h 12 11 * 16 + bits h 10 7 * 64 + bits h 6 6 * 4 + bits h 5 5 * 8
    if imm = 0 then none else some (encI 0x13 0 rd 2 imm)
  | 1 => some (encI 0x07 3 rd rs w8)
  | 2 => some (encI 0x03 2 rd rs w4)
  | 3 => some (encI 0x03 3 rd rs w8)
  | 5 => some (encS 0x27 3 rs rd w8)
  | 6 => some (encS 0x23 2 rs rd w4)
  | 7 => some (encS 0x23 3 rs rd w8)
  | _ => none

/-- Quadrant 1. -/
def expandQ1 (h : Nat) : Option Nat :=
  let rd := bits h 11 7
  let imm6 := sext 6 (bits h 12 12 * 32 + bits h 6 2)
  let sh := bits h 12 12 * 32 + bits h 6 2
  let rp := 8 + bits h 9 7
  let r2 := 8 + bits h 4 2
  let jump := sext 12 (bits h 12 12 * 2048 + bits h 11 11 * 16 + bits h 10 9 * 256 + bits h 8 8 * 1024 + bits h 7 7 * 64 + bits h 6 6 * 128 + bits h 5 3 * 2 + bits h 2 2 * 32)
  let branch := sext 9 (bits h 12 12 * 256 + bits h 11 10 * 8 + bits h 6 5 * 64 + bits h 4 3 * 2 + bits h 2 2 * 32)
  let reg (op f3 f7 : Nat) : Option Nat := some (rType op f3 f7 rp rp r2)
  match bits h 15 13 with
  | 0 => some (encI 0x13 0 rd rd imm6)
  | 1 => if rd = 0 then none else some (encI 0x1B 0 rd rd imm6)
  | 2 => some (encI 0x13 0 rd 0 imm6)
  | 3 =>
    if rd = 2 then
      let imm := sext 10 (bits h 12 12 * 512 + bits h 6 6 * 16 + bits h 5 5 * 64 + bits h 4 3 * 128 + bits h 2 2 * 32)
      if imm = 0 then none else some (encI 0x13 0 2 2 imm)
    else if sh = 0 then none
    else some (0x37 + 128 * rd + 4096 * (imm6 % 2 ^ 20))
  | 4 =>
    match bits h 11 10 with
    | 0 => some (encI 0x13 5 rp rp sh)
    | 1 => some (encI 0x13 5 rp rp (1024 + sh))
    | 2 => some (encI 0x13 7 rp rp imm6)
    | _ =>
      match bits h 12 12 * 4 + bits h 6 5 with
      | 0 => reg 0x33 0 32
      | 1 => reg 0x33 4 0
      | 2 => reg 0x33 6 0
      | 3 => reg 0x33 7 0
      | 4 => reg 0x3B 0 32
      | 5 => reg 0x3B 0 0
      | _ => none
  | 5 => some (encJ 0 jump)
  | 6 => some (encB 0 rp branch)
  | _ => some (encB 1 rp branch)

/-- Quadrant 2. -/
def expandQ2 (h : Nat) : Option Nat :=
  let rd := bits h 11 7
  let rs2 := bits h 6 2
  let sh := bits h 12 12 * 32 + bits h 6 2
  let l4 := bits h 12 12 * 32 + bits h 6 4 * 4 + bits h 3 2 * 64
  let l8 := bits h 12 12 * 32 + bits h 6 5 * 8 + bits h 4 2 * 64
  let s4 := bits h 12 9 * 4 + bits h 8 7 * 64
  let s8 := bits h 12 10 * 8 + bits h 9 7 * 64
  match bits h 15 13 with
  | 0 => some (encI 0x13 1 rd rd sh)
  | 1 => some (encI 0x07 3 rd 2 l8)
  | 2 => if rd = 0 then none else some (encI 0x03 2 rd 2 l4)
  | 3 => if rd = 0 then none else some (encI 0x03 3 rd 2 l8)
  | 4 =>
    if bit h 12 then
      if rs2 = 0 then (if rd = 0 then some 0x00100073 else some (encI 0x67 0 1 rd 0)) else some (rType 0x33 0 0 rd rd rs2)
    else if rs2 = 0 then (if rd = 0 then none else some (encI 0x67 0 0 rd 0))
    else some (rType 0x33 0 0 rd 0 rs2)
  | 5 => some (encS 0x27 3 2 rs2 s8)
  | 6 => some (encS 0x23 2 2 rs2 s4)
  | _ => some (encS 0x23 3 2 rs2 s8)

/-- The 32-bit instruction that a 16-bit one stands for. -/
def expandC (h : Nat) : Option Nat :=
  match h % 4 with
  | 0 => expandQ0 h
  | 1 => expandQ1 h
  | 2 => expandQ2 h
  | _ => none

/-! ### Integer arithmetic -/

/-- The operations of OP and OP-IMM on n bits; `alt` selects subtraction and the arithmetic shift. The result is sign-extended. -/
def aluOp (n f3 : Nat) (alt : Bool) (a b : Nat) : Nat :=
  let s := b % n
  let u := a % 2 ^ n
  sext n (match f3 with
    | 0 => if alt then a + 2 ^ 64 - b else a + b
    | 1 => u <<< s
    | 2 => b2n (decide (signed n a < signed n b))
    | 3 => b2n (decide (u < b % 2 ^ n))
    | 4 => a ^^^ b
    | 5 => if alt then unsigned n (signed n a / 2 ^ s) else u >>> s
    | 6 => a ||| b
    | _ => a &&& b)

/-- The operations of the M extension on n bits: a division by zero gives all ones and the dividend. -/
def mulOp (n f3 a b : Nat) : Nat :=
  let sa := signed n a
  let sb := signed n b
  let ua : Int := (a % 2 ^ n : Nat)
  let ub : Int := (b % 2 ^ n : Nat)
  sext n (unsigned n (match f3 with
    | 0 => sa * sb
    | 1 => sa * sb / 2 ^ n
    | 2 => sa * ub / 2 ^ n
    | 3 => ua * ub / 2 ^ n
    | 4 => if sb = 0 then -1 else sa.tdiv sb
    | 5 => if ub = 0 then -1 else ua / ub
    | 6 => if sb = 0 then sa else sa.tmod sb
    | _ => if ub = 0 then ua else ua % ub))

/-- Whether a branch is taken. -/
def branchTaken (f3 a b : Nat) : Option Bool :=
  match f3 with
  | 0 => some (a == b)
  | 1 => some (a != b)
  | 4 => some (decide (signed 64 a < signed 64 b))
  | 5 => some (!decide (signed 64 a < signed 64 b))
  | 6 => some (decide (a < b))
  | 7 => some (!decide (a < b))
  | _ => none

/-- What an atomic memory operation of n bits stores. -/
def amoOp (n f5 a b : Nat) : Option Nat :=
  match f5 with
  | 0x00 => some ((a + b) % 2 ^ n)
  | 0x01 => some (b % 2 ^ n)
  | 0x04 => some (a ^^^ b % 2 ^ n)
  | 0x08 => some (a ||| b % 2 ^ n)
  | 0x0C => some (a &&& b % 2 ^ n)
  | 0x10 => some (if signed n a < signed n b then a else b % 2 ^ n)
  | 0x14 => some (if signed n b < signed n a then a else b % 2 ^ n)
  | 0x18 => some (min a (b % 2 ^ n))
  | 0x1C => some (max a (b % 2 ^ n))
  | _ => none

/-! ### Registers of the F and D extensions -/

/-- A floating register as a word of a format: a narrower word that is not boxed in ones reads as the canonical NaN. -/
def Tidy.fget (x : Tidy) (f : Fmt) (r : Nat) : Nat :=
  let w := x.f.getD (r % 32) 0
  if f.width = 64 then w else if w / 2 ^ 32 = 2 ^ 32 - 1 then w % 2 ^ 32 else f.nan

/-- Write a floating register, a narrower word boxed in ones. -/
def Tidy.fset (x : Tidy) (f : Fmt) (r w : Nat) : Tidy :=
  { x with f := x.f.put (r % 32) (if f.width = 64 then w else w % 2 ^ 32 + (2 ^ 64 - 2 ^ 32)) }

/-- The rounding mode of an instruction: its own, or the one in frm. -/
def Tidy.rm (x : Tidy) (rm : Nat) : Option Nat :=
  let r := if rm = 7 then x.fcsr / 32 % 8 else rm
  if r ≤ 4 then some r else none

/-- binary32 or binary64 of an instruction's fmt field. -/
def fmtField (n : Nat) : Option Fmt :=
  match n with
  | 0 => some fmt32
  | 1 => some fmt64
  | _ => none

/-- The format that a width field of LOAD-FP or STORE-FP names. -/
def fmtWidth (f3 : Nat) : Option Fmt :=
  match f3 with
  | 2 => some fmt32
  | 3 => some fmt64
  | _ => none

/-! ### Execution -/

/-- The core past an instruction of `len` bytes. -/
def Tidy.past (x : Tidy) (len : Nat) : Tidy := { x with pc := add64 x.pc len }

/-- An instruction that writes rd and goes on. -/
def Tidy.done (x : Tidy) (len rd v : Nat) : RvOut := .next ((x.set rd v).past len) [] []

/-- The little-endian bytes of a store. -/
def storeCells (a n v : Nat) : List Host.Cell := (leBytes n v).zipIdx.map (fun e => (w64 (a + e.2), e.1))

/-- One that writes a floating register. -/
def Tidy.fdone (x : Tidy) (len : Nat) (f : Fmt) (rd : Nat) (r : Nat × Nat) : RvOut := .next (((x.fset f rd r.1).accrue r.2).past len) [] []

/-- LOAD. -/
def rvLoad (m : RvMem) (x : Tidy) (len w : Nat) : RvOut :=
  let a := add64 (x.get (bits w 19 15)) (immI w)
  let f3 := bits w 14 12
  let n := 2 ^ (f3 % 4)
  if f3 = 7 then .illegal
  else
    let v := m.read a n
    .next ((x.set (bits w 11 7) (if f3 < 4 then sext (8 * n) v else v)).past len) [(a, n)] []

/-- STORE. -/
def rvStore (x : Tidy) (len w : Nat) : RvOut :=
  let a := add64 (x.get (bits w 19 15)) (immS w)
  if bits w 14 12 ≤ 3 then .next (x.past len) [] (storeCells a (2 ^ bits w 14 12) (x.get (bits w 24 20))) else .illegal

/-- OP and OP-32 on n bits. -/
def rvOp (x : Tidy) (len w n : Nat) : RvOut :=
  let a := x.get (bits w 19 15)
  let b := x.get (bits w 24 20)
  let f3 := bits w 14 12
  let narrow := n == 32
  match bits w 31 25 with
  | 0 => if narrow && f3 != 0 && f3 != 1 && f3 != 5 then .illegal else x.done len (bits w 11 7) (aluOp n f3 false a b)
  | 0x20 => if f3 = 0 ∨ f3 = 5 then x.done len (bits w 11 7) (aluOp n f3 true a b) else .illegal
  | 1 => if narrow && (f3 == 1 || f3 == 2 || f3 == 3) then .illegal else x.done len (bits w 11 7) (mulOp n f3 a b)
  | _ => .illegal

/-- OP-IMM and OP-IMM-32 on n bits. -/
def rvOpImm (x : Tidy) (len w n : Nat) : RvOut :=
  let a := x.get (bits w 19 15)
  let f3 := bits w 14 12
  let top := if n = 64 then bits w 31 26 else 2 * bits w 31 26 + bits w 25 25
  let alt := if n = 64 then 0x10 else 0x20
  if f3 = 1 then (if top = 0 then x.done len (bits w 11 7) (aluOp n 1 false a (bits w 25 20)) else .illegal)
  else if f3 = 5 then (if top = 0 ∨ top = alt then x.done len (bits w 11 7) (aluOp n 5 (top == alt) a (bits w 25 20)) else .illegal)
  else if n = 64 ∨ f3 = 0 then x.done len (bits w 11 7) (aluOp n f3 false a (immI w))
  else .illegal

/-- The A extension; an address must be aligned to the operand, and an operation whose memory the job may not read is a store access fault. -/
def rvAmo (m : RvMem) (x : Tidy) (len w : Nat) : RvOut :=
  let f3 := bits w 14 12
  let n := 2 ^ f3
  let a := x.get (bits w 19 15)
  let b := x.get (bits w 24 20)
  let rd := bits w 11 7
  let f5 := bits w 31 27
  if f3 ≠ 2 ∧ f3 ≠ 3 then .illegal
  else if f5 = 2 then
    if bits w 24 20 ≠ 0 then .illegal
    else if a % n ≠ 0 then .trap exLoadMisaligned a
    else .next ({ x.set rd (sext (8 * n) (m.read a n)) with reservation := some a }.past len) [(a, n)] []
  else if f5 = 3 then
    if a % n ≠ 0 then .trap exStoreMisaligned a
    else
      let held := x.reservation == some a
      .next ({ x.set rd (b2n !held) with reservation := none }.past len) [] (if held then storeCells a n b else [])
  else
    let old := m.read a n
    match amoOp (8 * n) f5 old b with
    | none => .illegal
    | some v => if a % n ≠ 0 then .trap exStoreMisaligned a else if !m.may a n then .trap exStoreAccess a else .next ((x.set rd (sext (8 * n) old)).past len) [(a, n)] (storeCells a n v)

/-- The CSRs of the user level. -/
def csrKnown (n : Nat) : Bool := [1, 2, 3, 0x008, 0x009, 0x00A, 0x00F, 0x800, 0x801, 0xC20, 0xC21, 0xC22].contains n

/-- SYSTEM: calls and breakpoints trap, and the CSR instructions return the old value. -/
def rvSystem (x : Tidy) (len w : Nat) : RvOut :=
  let f3 := bits w 14 12
  let rs1 := bits w 19 15
  let csr := bits w 31 20
  if f3 % 4 = 0 then
    if w = 0x00000073 then .trap exCall 0 else if w = 0x00100073 then .trap exBreakpoint x.pc else .illegal
  else
    let a := if f3 < 4 then x.get rs1 else rs1
    let writes := f3 % 4 == 1 || rs1 != 0
    if !csrKnown csr || (writes && decide (0xC00 ≤ csr)) then .illegal
    else
      let old := x.csrGet csr
      let v := match f3 % 4 with | 1 => a | 2 => old ||| a | _ => old &&& (ones 64 - a)
      .next (((if writes then x.csrSet csr v else x).set (bits w 11 7) old).past len) [] []

/-- LOAD-FP and STORE-FP of the scalar widths. -/
def rvLoadFp (m : RvMem) (x : Tidy) (len w : Nat) (f : Fmt) : RvOut :=
  let a := add64 (x.get (bits w 19 15)) (immI w)
  let n := f.width / 8
  .next ((x.fset f (bits w 11 7) (m.read a n)).past len) [(a, n)] []
def rvStoreFp (x : Tidy) (len w : Nat) (f : Fmt) : RvOut :=
  .next (x.past len) [] (storeCells (add64 (x.get (bits w 19 15)) (immS w)) (f.width / 8) (x.f.getD (bits w 24 20) 0 % 2 ^ f.width))

/-- The fused multiply-adds: `np` negates the product, `nc` the addend. -/
def rvFma (x : Tidy) (len w : Nat) (np nc : Bool) : RvOut :=
  match fmtField (bits w 26 25), x.rm (bits w 14 12) with
  | some f, some rm =>
    let a := x.fget f (bits w 19 15)
    let c := x.fget f (bits w 31 27)
    x.fdone len f (bits w 11 7) (f.fma rm (if np then f.flip a else a) (x.fget f (bits w 24 20)) (if nc then f.flip c else c))
  | _, _ => .illegal

/-- OP-FP. -/
def rvOpFp (x : Tidy) (len w : Nat) : RvOut :=
  match fmtField (bits w 26 25) with
  | none => .illegal
  | some f =>
    let f3 := bits w 14 12
    let rd := bits w 11 7
    let rs2 := bits w 24 20
    let a := x.fget f (bits w 19 15)
    let b := x.fget f rs2
    let round (g : Nat → Nat × Nat) : RvOut := match x.rm f3 with | some rm => x.fdone len f rd (g rm) | none => .illegal
    let test (r : Bool × Nat) : RvOut := .next (((x.set rd (b2n r.1)).accrue r.2).past len) [] []
    let n := if rs2 < 2 then 32 else 64
    match bits w 31 27 with
    | 0x00 => round (fun rm => f.fadd rm a b)
    | 0x01 => round (fun rm => f.fsub rm a b)
    | 0x02 => round (fun rm => f.fmul rm a b)
    | 0x03 => round (fun rm => f.fdiv rm a b)
    | 0x0B => if rs2 = 0 then round (fun rm => f.fsqrt rm a) else .illegal
    | 0x04 => if f3 ≤ 2 then x.fdone len f rd (f.inject f3 a b, 0) else .illegal
    | 0x05 => if f3 ≤ 1 then x.fdone len f rd (f.pick (f3 == 1) a b) else .illegal
    | 0x08 =>
      match fmtField rs2 with
      | some g => if g = f then .illegal else round (fun rm => f.ofFmt g rm (x.fget g (bits w 19 15)))
      | none => .illegal
    | 0x14 =>
      match f3 with
      | 0 => test (f.fle a b)
      | 1 => test (f.flt a b)
      | 2 => test (f.feq a b)
      | _ => .illegal
    | 0x18 =>
      match x.rm f3 with
      | some rm => if rs2 ≤ 3 then let r := f.toInt rm n (rs2 % 2 == 0) a; .next (((x.set rd (sext n r.1)).accrue r.2).past len) [] [] else .illegal
      | none => .illegal
    | 0x1A => if rs2 ≤ 3 then round (fun rm => f.ofInt rm n (rs2 % 2 == 0) (x.get (bits w 19 15))) else .illegal
    | 0x1C =>
      if rs2 ≠ 0 then .illegal
      else if f3 = 0 then x.done len rd (sext f.width (x.f.getD (bits w 19 15) 0))
      else if f3 = 1 then x.done len rd (f.classMask a)
      else .illegal
    | 0x1E => if rs2 = 0 ∧ f3 = 0 then x.fdone len f rd (x.get (bits w 19 15) % 2 ^ f.width, 0) else .illegal
    | _ => .illegal

/-- A 32-bit instruction of RV64G outside the vector extension and the custom opcodes; `len` is 2 for one that a 16-bit encoding stands for. -/
def rvScalar (m : RvMem) (x : Tidy) (len w : Nat) : RvOut :=
  let rd := bits w 11 7
  let rs1 := x.get (bits w 19 15)
  match bits w 6 0 with
  | 0x37 => x.done len rd (immU w)
  | 0x17 => x.done len rd (add64 x.pc (immU w))
  | 0x6F => .next { x.set rd (add64 x.pc len) with pc := add64 x.pc (immJ w) } [] []
  | 0x67 =>
    if bits w 14 12 = 0 then
      let a := add64 rs1 (immI w)
      .next { x.set rd (add64 x.pc len) with pc := a - a % 2 } [] []
    else .illegal
  | 0x63 =>
    match branchTaken (bits w 14 12) rs1 (x.get (bits w 24 20)) with
    | some true => .next { x with pc := add64 x.pc (immB w) } [] []
    | some false => .next (x.past len) [] []
    | none => .illegal
  | 0x03 => rvLoad m x len w
  | 0x23 => rvStore x len w
  | 0x13 => rvOpImm x len w 64
  | 0x1B => rvOpImm x len w 32
  | 0x33 => rvOp x len w 64
  | 0x3B => rvOp x len w 32
  | 0x0F => if bits w 14 12 ≤ 1 then .next (x.past len) [] [] else .illegal
  | 0x2F => rvAmo m x len w
  | 0x73 => rvSystem x len w
  | 0x07 => match fmtWidth (bits w 14 12) with | some f => rvLoadFp m x len w f | none => .illegal
  | 0x27 => match fmtWidth (bits w 14 12) with | some f => rvStoreFp x len w f | none => .illegal
  | 0x43 => rvFma x len w false false
  | 0x47 => rvFma x len w false true
  | 0x4B => rvFma x len w true false
  | 0x4F => rvFma x len w true true
  | 0x53 => rvOpFp x len w
  | _ => .illegal

end Sys2Proof.Machine
end

