-- ==== Sys2Proof/Machine/RvVector.lean ====
section
/-! DEFINITION. The vector extension of the tidy cores, version 1.0 with VLEN 2,048, as its published specification gives it (R17, R107, R108; notes/assumptions/30.md). Tail and masked-off elements keep their values, and a reserved encoding is illegal. -/

namespace Sys2Proof.Machine

/-! ### The vector configuration -/

/-- SEW in bits, and LMUL in eighths. -/
def vsew (vtype : Nat) : Nat := 8 * 2 ^ (bits vtype 5 3)
def lmul8 (vtype : Nat) : Nat :=
  match vtype % 8 with
  | 0 => 8
  | 1 => 16
  | 2 => 32
  | 3 => 64
  | 5 => 1
  | 6 => 2
  | 7 => 4
  | _ => 0

/-- A legal vtype: SEW up to 64, LMUL not below SEW / 64, no reserved bit. -/
def vtypeOk (v : Nat) : Bool := decide (v < 256) && decide (bits v 5 3 ≤ 3) && decide (vsew v ≤ 8 * lmul8 v)

/-- VLMAX. -/
def vlmax (v : Nat) : Nat := vlen * lmul8 v / (8 * vsew v)

/-- Set vtype, and vl from an application vector length; an illegal vtype sets vill and vl to 0. -/
def Tidy.setVl (x : Tidy) (vtype avl : Nat) : Tidy :=
  if vtypeOk vtype then { x with vtype, vl := min avl (vlmax vtype), csrs := x.csrs.put 0x008 0 } else { x with vtype := 2 ^ 63, vl := 0, csrs := x.csrs.put 0x008 0 }

/-- vsetvli, vsetivli and vsetvl. -/
def rvVset (x : Tidy) (len w : Nat) : RvOut :=
  let rd := bits w 11 7
  let rs1 := bits w 19 15
  let avl := if rs1 ≠ 0 then x.get rs1 else if rd ≠ 0 then ones 64 else x.vl
  let go (y : Tidy) : RvOut := .next ((y.set rd y.vl).past len) [] []
  if !bit w 31 then go (x.setVl (bits w 30 20) avl)
  else if bit w 30 then go (x.setVl (bits w 29 20) rs1)
  else if bits w 29 25 = 0 then go (x.setVl (x.get (bits w 24 20)) avl)
  else .illegal

/-! ### Elements -/

/-- Element i of n bits in the group that starts at register r. -/
def Tidy.vel (x : Tidy) (r n i : Nat) : Nat := (x.v.getD ((r + i * n / vlen) % 32) 0 >>> (i * n % vlen)) % 2 ^ n

/-- Write one. -/
def Tidy.vput (x : Tidy) (r n i v : Nat) : Tidy :=
  let k := (r + i * n / vlen) % 32
  let old := x.v.getD k 0
  let at' := i * n % vlen
  { x with v := x.v.put k (old - ((old >>> at') % 2 ^ n) <<< at' + (v % 2 ^ n) <<< at') }

/-- Write several. -/
def Tidy.vputs (x : Tidy) (r n : Nat) (es : List (Nat × Nat)) : Tidy := es.foldl (fun x e => x.vput r n e.1 e.2) x

/-- A mask bit of a register. -/
def Tidy.vbit (x : Tidy) (r i : Nat) : Bool := bit (x.v.getD r 0) i

/-- The first element to run, and those that do: from vstart to vl, and under the mask where vm is 0. -/
def Tidy.vstart (x : Tidy) : Nat := x.csrs.getD 0x008 0
def Tidy.actives (x : Tidy) (vm : Bool) : List Nat := (upFrom 0 x.vl).filter (fun i => decide (x.vstart ≤ i) && (vm || x.vbit 0 i))

/-- Past a vector instruction: vstart returns to 0. -/
def Tidy.vpast (x : Tidy) (len : Nat) : Tidy := { x.past len with csrs := x.csrs.put 0x008 0 }
def Tidy.vdone (x : Tidy) (len : Nat) : RvOut := .next (x.vpast len) [] []

/-- Whether a register starts a group of `l8` eighths. -/
def groupAt (r l8 : Nat) : Bool := r % (max 8 l8 / 8) == 0 && decide (l8 ≤ 64)

/-! ### Fixed-point and integer operations -/

/-- Round v / 2^d under vxrm: to nearest up, to nearest even, down, or to odd. -/
def roundShift (rm : Nat) (v : Int) (d : Nat) : Int :=
  if d = 0 then v
  else
    let q := v / 2 ^ d
    let r := v % 2 ^ d
    let half : Int := 2 ^ (d - 1)
    let up :=
      match rm with
      | 0 => decide (half ≤ r)
      | 1 => decide (half < r) || (r == half && q % 2 != 0)
      | 2 => false
      | _ => r != 0 && q % 2 == 0
    if up then q + 1 else q

/-- An integer clipped to n bits: the pattern, and whether it saturated. -/
def clip (sgn : Bool) (n : Nat) (v : Int) : Nat × Bool :=
  let (lo, hi) : Int × Int := if sgn then (-(2 ^ (n - 1)), 2 ^ (n - 1) - 1) else (0, 2 ^ n - 1)
  (unsigned n (clampInt lo hi v), decide (v < lo) || decide (hi < v))

/-- The single-width integer operations: a is from vs2, b from vs1, rs1 or the immediate, c is the old destination. `m` is the OPM half of the map. The Bool says that the result saturated. -/
def vIntOp (m : Bool) (f6 n rm a b c : Nat) : Option (Nat × Bool) :=
  let sa := signed n a
  let sb := signed n b
  let ua : Int := a
  let ub : Int := b
  let s := b % n
  let word (v : Int) : Option (Nat × Bool) := some (unsigned n v, false)
  if m then
    match f6 with
    | 0x08 => word (roundShift rm (ua + ub) 1)
    | 0x09 => word (roundShift rm (sa + sb) 1)
    | 0x0A => word (roundShift rm (ua - ub) 1)
    | 0x0B => word (roundShift rm (sa - sb) 1)
    | 0x20 => word (if b = 0 then -1 else ua / ub)
    | 0x21 => word (if b = 0 then -1 else sa.tdiv sb)
    | 0x22 => word (if b = 0 then ua else ua % ub)
    | 0x23 => word (if b = 0 then sa else sa.tmod sb)
    | 0x24 => word (ua * ub / 2 ^ n)
    | 0x25 => word (sa * sb)
    | 0x26 => word (sa * ub / 2 ^ n)
    | 0x27 => word (sa * sb / 2 ^ n)
    | 0x29 => word (b * c + a)
    | 0x2B => word (a - ub * c)
    | 0x2D => word (b * a + c)
    | 0x2F => word (c - ub * a)
    | _ => none
  else
    match f6 with
    | 0x00 => word (ua + ub)
    | 0x02 => word (ua - ub)
    | 0x03 => word (ub - ua)
    | 0x04 => word (min a b : Nat)
    | 0x05 => word (min sa sb)
    | 0x06 => word (max a b : Nat)
    | 0x07 => word (max sa sb)
    | 0x09 => word (a &&& b : Nat)
    | 0x0A => word (a ||| b : Nat)
    | 0x0B => word (a ^^^ b : Nat)
    | 0x20 => some (clip false n (ua + ub))
    | 0x21 => some (clip true n (sa + sb))
    | 0x22 => some (clip false n (ua - ub))
    | 0x23 => some (clip true n (sa - sb))
    | 0x25 => word (a <<< s : Nat)
    | 0x27 => some (clip true n (roundShift rm (sa * sb) (n - 1)))
    | 0x28 => word (a >>> s : Nat)
    | 0x29 => word (sa / 2 ^ s)
    | 0x2A => word (roundShift rm ua s)
    | 0x2B => word (roundShift rm sa s)
    | _ => none

/-- The widening operations of the OPM map: a (of 2n bits in the .w forms) and b of n bits, c the old destination, on 2n bits. From 0x3C on, a is the operand vs1 or rs1 and b is vs2. -/
def vWideOp (f6 n a b c : Nat) : Option Nat :=
  let sa := signed n a
  let sb := signed n b
  let ua : Int := a
  let ub : Int := b
  let word (v : Int) : Option Nat := some (unsigned (2 * n) v)
  match f6 with
  | 0x30 => word (ua + ub)
  | 0x31 => word (sa + sb)
  | 0x32 => word (ua - ub)
  | 0x33 => word (sa - sb)
  | 0x34 => word (ua + ub)
  | 0x35 => word (ua + sb)
  | 0x36 => word (ua - ub)
  | 0x37 => word (ua - sb)
  | 0x38 => word (ua * ub)
  | 0x3A => word (sa * ub)
  | 0x3B => word (sa * sb)
  | 0x3C => word (ua * ub + c)
  | 0x3D => word (sa * sb + c)
  | 0x3E => word (ua * sb + c)
  | 0x3F => word (sa * ub + c)
  | _ => none

/-- The comparisons, b being the second operand. -/
def vCompare (f6 n a b : Nat) : Option Bool :=
  let sa := signed n a
  let sb := signed n b
  match f6 with
  | 0x18 => some (a == b)
  | 0x19 => some (a != b)
  | 0x1A => some (decide (a < b))
  | 0x1B => some (decide (sa < sb))
  | 0x1C => some (decide (a ≤ b))
  | 0x1D => some (decide (sa ≤ sb))
  | 0x1E => some (decide (b < a))
  | 0x1F => some (decide (sb < sa))
  | _ => none

/-- The single-width reductions' step. -/
def vRedOp (f6 n a b : Nat) : Nat :=
  match f6 with
  | 0 => (a + b) % 2 ^ n
  | 1 => a &&& b
  | 2 => a ||| b
  | 3 => a ^^^ b
  | 4 => min a b
  | 5 => unsigned n (min (signed n a) (signed n b))
  | 6 => max a b
  | _ => unsigned n (max (signed n a) (signed n b))

/-! ### An arithmetic instruction's operands -/

/-- A decoded vector arithmetic instruction on a core: its fields, SEW and LMUL. -/
structure VInst where
  f6 : Nat
  vm : Bool
  vd : Nat
  vs2 : Nat
  vs1 : Nat
  f3 : Nat
  sew : Nat
  l8 : Nat
  deriving DecidableEq, Repr

/-- Read one from its word and vtype. -/
def vInst (x : Tidy) (w : Nat) : VInst :=
  { f6 := bits w 31 26, vm := bit w 25, vd := bits w 11 7, vs2 := bits w 24 20, vs1 := bits w 19 15, f3 := bits w 14 12, sew := vsew x.vtype, l8 := lmul8 x.vtype }

/-- Whether operand b is a vector; a shift's immediate is not sign-extended. -/
def VInst.vv (v : VInst) : Bool := v.f3 == 0 || v.f3 == 1 || v.f3 == 2
def VInst.uimm (v : VInst) : Bool := [0x25, 0x28, 0x29, 0x2A, 0x2B, 0x2C, 0x2D, 0x2E, 0x2F, 0x0C, 0x0E, 0x0F].contains v.f6

/-- The scalar operand b on n bits. -/
def Tidy.vscalar (x : Tidy) (v : VInst) (n : Nat) : Nat :=
  (match v.f3 with
    | 3 => if v.uimm then v.vs1 else sext 5 v.vs1
    | 5 => if n = 64 then x.fget fmt64 v.vs1 else x.fget fmt32 v.vs1
    | _ => x.get v.vs1) % 2 ^ n

/-- Operand b of element i on n bits. -/
def Tidy.vopB (x : Tidy) (v : VInst) (n i : Nat) : Nat := if v.vv then x.vel v.vs1 n i else x.vscalar v n

/-- A masked instruction may not write the mask register. -/
def VInst.maskOk (v : VInst) : Bool := v.vm || v.vd != 0

/-- Whether the groups of a destination and of the vector sources start at multiples of their size. -/
def VInst.aligned (v : VInst) (dst src2 src1 : Nat) : Bool := groupAt v.vd dst && groupAt v.vs2 src2 && (!v.vv || groupAt v.vs1 src1)

/-- Raise vxsat. -/
def Tidy.saturate (x : Tidy) (s : Bool) : Tidy := if s then { x with csrs := x.csrs.put 0x009 1 } else x

/-- Write one bit of a mask register for each listed element. -/
def Tidy.vmaskPut (x : Tidy) (r : Nat) (es : List (Nat × Bool)) : Tidy := x.vputs r 1 (es.map (fun e => (e.1, b2n e.2)))

/-! ### OPI: integer, permutation and narrowing instructions -/

/-- Gather element numbers: out of range gives 0. -/
def Tidy.vpickEl (x : Tidy) (v : VInst) (k : Nat) : Nat := if k < vlmax x.vtype then x.vel v.vs2 v.sew k else 0

/-- The OPI map. -/
def rvOpi (x : Tidy) (len : Nat) (v : VInst) : RvOut :=
  let n := v.sew
  let act := x.actives v.vm
  let single := v.aligned v.l8 v.l8 v.l8 && v.maskOk
  let noImm := v.f3 != 3
  let b := x.vopB v n
  let a := x.vel v.vs2 n
  let rm := x.csrs.getD 0x00A 0
  let off := x.vscalar v 64
  match v.f6 with
  | 0x0C =>
    if single then (x.vputs v.vd n (act.map (fun i => (i, x.vpickEl v (if v.vv then b i else off))))).vdone len else .illegal
  | 0x0E =>
    if v.vv then
      if v.maskOk && groupAt v.vd v.l8 && groupAt v.vs2 v.l8 && groupAt v.vs1 (v.l8 * 16 / n) then
        (x.vputs v.vd n (act.map (fun i => (i, x.vpickEl v (x.vel v.vs1 16 i))))).vdone len
      else .illegal
    else if single then (x.vputs v.vd n ((act.filter (fun i => decide (off ≤ i))).map (fun i => (i, a (i - off))))).vdone len
    else .illegal
  | 0x0F => if single && !v.vv then (x.vputs v.vd n (act.map (fun i => (i, x.vpickEl v (i + off))))).vdone len else .illegal
  | 0x10 =>
    if !v.vm && single then (x.vputs v.vd n ((x.actives true).map (fun i => (i, a i + b i + b2n (x.vbit 0 i))))).vdone len else .illegal
  | 0x12 =>
    if !v.vm && single && noImm then (x.vputs v.vd n ((x.actives true).map (fun i => (i, a i + 2 ^ (n + 1) - b i - b2n (x.vbit 0 i))))).vdone len else .illegal
  | 0x11 => (x.vmaskPut v.vd ((x.actives true).map (fun i => (i, decide (2 ^ n ≤ a i + b i + b2n (!v.vm && x.vbit 0 i)))))).vdone len
  | 0x13 => if noImm then (x.vmaskPut v.vd ((x.actives true).map (fun i => (i, decide (a i < b i + b2n (!v.vm && x.vbit 0 i)))))).vdone len else .illegal
  | 0x17 =>
    if v.vm && v.vs2 != 0 || !single && !(v.vm && groupAt v.vd v.l8) then .illegal
    else (x.vputs v.vd n ((x.actives true).map (fun i => (i, if v.vm || x.vbit 0 i then b i else a i)))).vdone len
  | 0x30 =>
    if v.vv && groupAt v.vs2 v.l8 && decide (n ≤ 32) then
      (if x.vl = 0 then x else x.vput v.vd (2 * n) 0 (act.foldl (fun s i => s + a i) (x.vel v.vs1 (2 * n) 0))).vdone len
    else .illegal
  | 0x31 =>
    if v.vv && groupAt v.vs2 v.l8 && decide (n ≤ 32) then
      (if x.vl = 0 then x else x.vput v.vd (2 * n) 0 (act.foldl (fun s i => s + unsigned (2 * n) (signed n (a i))) (x.vel v.vs1 (2 * n) 0))).vdone len
    else .illegal
  | f6 =>
    if f6 = 0x27 ∧ v.f3 = 3 then
      let k := v.vs1 + 1
      if v.vm && (k == 1 || k == 2 || k == 4 || k == 8) && v.vd % k == 0 && v.vs2 % k == 0 then
        (x.vputs v.vd 64 ((upFrom 0 (k * 32)).map (fun i => (i, x.vel v.vs2 64 i)))).vdone len
      else .illegal
    else if 0x2C ≤ f6 ∧ f6 ≤ 0x2F then
      if n ≤ 32 && v.maskOk && v.aligned v.l8 (2 * v.l8) v.l8 then
        let rs := act.map (fun i =>
          let wide := x.vel v.vs2 (2 * n) i
          let s := (if v.vv then x.vel v.vs1 n i else off) % (2 * n)
          (i, match f6 with
            | 0x2C => (wide >>> s, false)
            | 0x2D => (unsigned n (signed (2 * n) wide / 2 ^ s), false)
            | 0x2E => clip false n (roundShift rm wide s)
            | _ => clip true n (roundShift rm (signed (2 * n) wide) s)))
        ((x.vputs v.vd n (rs.map (fun r => (r.1, r.2.1)))).saturate (rs.any (fun r => r.2.2))).vdone len
      else .illegal
    else
      match vCompare f6 n 0 0 with
      | some _ =>
        if (f6 < 0x1E || !v.vv) && !(noImm == false && (f6 == 0x1A || f6 == 0x1B)) && groupAt v.vs2 v.l8 && (!v.vv || groupAt v.vs1 v.l8) then
          (x.vmaskPut v.vd (act.map (fun i => (i, (vCompare f6 n (a i) (b i)).getD false)))).vdone len
        else .illegal
      | none =>
        let legal := (match f6 with | 0x02 => noImm | 0x03 => !v.vv | 0x22 => noImm | 0x23 => noImm | _ => !(decide (4 ≤ f6) && decide (f6 ≤ 7)) || noImm) && single
        let rs := act.map (fun i => (i, vIntOp false f6 n rm (a i) (b i) 0))
        if legal && (vIntOp false f6 n rm 0 0 0).isSome then
          ((x.vputs v.vd n (rs.map (fun r => (r.1, (r.2.getD (0, false)).1)))).saturate (rs.any (fun r => (r.2.getD (0, false)).2))).vdone len
        else .illegal

/-! ### OPM: mask, multiply, divide and widening instructions -/

/-- The mask-register operations. -/
def vMaskOp (f6 : Nat) (a b : Bool) : Bool :=
  match f6 with
  | 0x18 => a && !b
  | 0x19 => a && b
  | 0x1A => a || b
  | 0x1B => a != b
  | 0x1C => a || !b
  | 0x1D => !(a && b)
  | 0x1E => !(a || b)
  | _ => a == b

/-- The unary mask instructions, from the first set bit k of the source among the active elements: before-first, only-first and including-first. -/
def vFirstMask (how : Nat) (k : Option Nat) (i : Nat) : Bool :=
  match how, k with
  | 1, some k => decide (i < k)
  | 2, some k => i == k
  | 3, some k => decide (i ≤ k)
  | 2, none => false
  | _, none => true
  | _, _ => false

/-- The OPM map. -/
def rvOpm (x : Tidy) (len : Nat) (v : VInst) : RvOut :=
  let n := v.sew
  let act := x.actives v.vm
  let single := v.aligned v.l8 v.l8 v.l8 && v.maskOk
  let a := x.vel v.vs2 n
  let b := x.vopB v n
  let rm := x.csrs.getD 0x00A 0
  let set (i : Nat) : Bool := x.vbit v.vs2 i
  let scalar (r : Nat) : RvOut := .next ((x.set v.vd r).vpast len) [] []
  if v.f6 ≤ 7 then
    if v.vv && groupAt v.vs2 v.l8 then
      (if x.vl = 0 then x else x.vput v.vd n 0 (act.foldl (fun s i => vRedOp v.f6 n s (a i)) (x.vel v.vs1 n 0))).vdone len
    else .illegal
  else
  match v.f6 with
  | 0x0E => if single && !v.vv then (x.vputs v.vd n (act.map (fun i => (i, if i = 0 then b 0 else a (i - 1))))).vdone len else .illegal
  | 0x0F => if single && !v.vv then (x.vputs v.vd n (act.map (fun i => (i, if i + 1 = x.vl then b 0 else x.vpickEl v (i + 1))))).vdone len else .illegal
  | 0x10 =>
    if v.vv then
      match v.vs1 with
      | 0x00 => if v.vm then scalar (sext n (a 0)) else .illegal
      | 0x10 => scalar (act.filter set).length
      | 0x11 => scalar (match act.find? set with | some i => i | none => ones 64)
      | _ => .illegal
    else if v.vs2 = 0 ∧ v.vm then (if x.vl = 0 then x else x.vput v.vd n 0 (b 0)).vdone len
    else .illegal
  | 0x12 =>
    let d := match v.vs1 / 2 with | 1 => 8 | 2 => 4 | 3 => 2 | _ => 0
    if v.vv && d != 0 && decide (8 * d ≤ n) && groupAt v.vd v.l8 && groupAt v.vs2 (v.l8 / d) && v.maskOk then
      (x.vputs v.vd n (act.map (fun i => let e := x.vel v.vs2 (n / d) i; (i, if v.vs1 % 2 = 1 then unsigned n (signed (n / d) e) else e)))).vdone len
    else .illegal
  | 0x14 =>
    if !v.vv then .illegal
    else if v.vs1 = 0x10 then
      if v.maskOk && groupAt v.vd v.l8 then (x.vputs v.vd n (act.map (fun i => (i, ((act.filter (fun k => decide (k < i))).filter set).length)))).vdone len else .illegal
    else if v.vs1 = 0x11 then
      if v.maskOk && groupAt v.vd v.l8 && v.vs2 == 0 then (x.vputs v.vd n (act.map (fun i => (i, i)))).vdone len else .illegal
    else if 1 ≤ v.vs1 ∧ v.vs1 ≤ 3 ∧ v.maskOk then (x.vmaskPut v.vd (act.map (fun i => (i, vFirstMask v.vs1 (act.find? set) i)))).vdone len
    else .illegal
  | 0x17 =>
    if v.vv && v.vm && groupAt v.vd v.l8 && groupAt v.vs2 v.l8 then
      (x.vputs v.vd n (((upFrom 0 x.vl).filter (x.vbit v.vs1)).zipIdx.map (fun e => (e.2, a e.1)))).vdone len
    else .illegal
  | f6 =>
    if 0x18 ≤ f6 ∧ f6 ≤ 0x1F then
      if v.vv && v.vm then (x.vmaskPut v.vd ((x.actives true).map (fun i => (i, vMaskOp f6 (set i) (x.vbit v.vs1 i))))).vdone len else .illegal
    else if 0x30 ≤ f6 then
      let wideA := decide (0x34 ≤ f6) && decide (f6 ≤ 0x37)
      let src (i : Nat) : Nat := if wideA then x.vel v.vs2 (2 * n) i else a i
      if n ≤ 32 && (vWideOp f6 n 0 0 0).isSome && v.maskOk && v.aligned (2 * v.l8) (if wideA then 2 * v.l8 else v.l8) v.l8 && (f6 != 0x3E || !v.vv) then
        let second := decide (0x3C ≤ f6)
        let vs (i : Nat) : Option Nat := if second then vWideOp f6 n (b i) (src i) (x.vel v.vd (2 * n) i) else vWideOp f6 n (src i) (b i) 0
        (x.vputs v.vd (2 * n) (act.map (fun i => (i, (vs i).getD 0)))).vdone len
      else .illegal
    else if (vIntOp true f6 n rm 0 0 0).isSome && single then
      (x.vputs v.vd n (act.map (fun i => (i, ((vIntOp true f6 n rm (a i) (b i) (x.vel v.vd n i)).getD (0, false)).1)))).vdone len
    else .illegal

/-! ### OPF: floating-point instructions -/

/-- The format of an element width. -/
def fmtSew (n : Nat) : Option Fmt :=
  match n with
  | 32 => some fmt32
  | 64 => some fmt64
  | _ => none

/-- The single-width operations: a from vs2, b the other operand, c the old destination. -/
def vFpOp (f : Fmt) (f6 rm a b c : Nat) : Option (Nat × Nat) :=
  match f6 with
  | 0x00 => some (f.fadd rm a b)
  | 0x02 => some (f.fsub rm a b)
  | 0x04 => some (f.pick false a b)
  | 0x06 => some (f.pick true a b)
  | 0x08 => some (f.inject 0 a b, 0)
  | 0x09 => some (f.inject 1 a b, 0)
  | 0x0A => some (f.inject 2 a b, 0)
  | 0x20 => some (f.fdiv rm a b)
  | 0x21 => some (f.fdiv rm b a)
  | 0x24 => some (f.fmul rm a b)
  | 0x27 => some (f.fsub rm b a)
  | 0x28 => some (f.fma rm b c a)
  | 0x29 => some (f.fma rm (f.flip b) c (f.flip a))
  | 0x2A => some (f.fma rm b c (f.flip a))
  | 0x2B => some (f.fma rm (f.flip b) c a)
  | 0x2C => some (f.fma rm b a c)
  | 0x2D => some (f.fma rm (f.flip b) a (f.flip c))
  | 0x2E => some (f.fma rm b a (f.flip c))
  | 0x2F => some (f.fma rm (f.flip b) a c)
  | _ => none

/-- The widening operations on the wide format g: the operands are already wide. -/
def vFpWide (g : Fmt) (f6 rm a b c : Nat) : Option (Nat × Nat) :=
  match f6 with
  | 0x30 => some (g.fadd rm a b)
  | 0x32 => some (g.fsub rm a b)
  | 0x34 => some (g.fadd rm a b)
  | 0x36 => some (g.fsub rm a b)
  | 0x38 => some (g.fmul rm a b)
  | 0x3C => some (g.fma rm b a c)
  | 0x3D => some (g.fma rm (g.flip b) a (g.flip c))
  | 0x3E => some (g.fma rm b a (g.flip c))
  | 0x3F => some (g.fma rm (g.flip b) a c)
  | _ => none

/-- The comparisons. -/
def vFpCompare (f : Fmt) (f6 a b : Nat) : Option (Bool × Nat) :=
  match f6 with
  | 0x18 => some (f.feq a b)
  | 0x19 => some (f.fle a b)
  | 0x1B => some (f.flt a b)
  | 0x1C => let r := f.feq a b; some (!r.1, r.2)
  | 0x1D => some (f.flt b a)
  | 0x1F => some (f.fle b a)
  | _ => none

/-- The conversions of VFUNARY0 on an element: source width, destination width, and the conversion under a rounding mode. -/
def vFpConvert (how n : Nat) : Option (Nat × Nat × (Nat → Nat → Nat × Nat)) :=
  let kind := how % 8
  let (src, dst) := if how < 8 then (n, n) else if how < 16 then (n, 2 * n) else (2 * n, n)
  let toInt (sgn rtz : Bool) : Option (Nat × Nat × (Nat → Nat → Nat × Nat)) := (fmtSew src).map (fun f => (src, dst, fun rm a => f.toInt (if rtz then 1 else rm) dst sgn a))
  let ofInt (sgn : Bool) : Option (Nat × Nat × (Nat → Nat → Nat × Nat)) := (fmtSew dst).map (fun f => (src, dst, fun rm a => f.ofInt rm src sgn a))
  let ofFmt (odd : Bool) : Option (Nat × Nat × (Nat → Nat → Nat × Nat)) :=
    match fmtSew src, fmtSew dst with
    | some f, some g => some (src, dst, fun rm a => g.ofFmt f (if odd then 5 else rm) a)
    | _, _ => none
  match kind with
  | 0 => toInt false false
  | 1 => toInt true false
  | 2 => ofInt false
  | 3 => ofInt true
  | 4 => if how < 8 then none else ofFmt false
  | 5 => if how < 16 then none else ofFmt true
  | 6 => toInt false true
  | _ => toInt true true

/-- The unary operations of VFUNARY1. -/
def vFpUnary (f : Fmt) (how rm a : Nat) : Option (Nat × Nat) :=
  match how with
  | 0x00 => some (f.fsqrt rm a)
  | 0x04 => some (f.rsqrt7 a)
  | 0x05 => some (f.rec7 rm a)
  | 0x10 => some (f.classMask a, 0)
  | _ => none

/-- Write results with their flags; none is illegal. -/
def Tidy.vfdone (x : Tidy) (len r n : Nat) (es : List (Nat × Nat × Nat)) : RvOut :=
  ((x.vputs r n (es.map (fun e => (e.1, e.2.1)))).accrue (es.foldl (fun a e => a ||| e.2.2) 0)).vdone len

/-- The sum of a reduction, in increasing element order from the scalar operand (R108): its word and flags. -/
def vFpSum (f : Fmt) (rm start : Nat) (es : List Nat) : Nat × Nat :=
  es.foldl (fun s e => let r := f.fadd rm s.1 e; (r.1, s.2 ||| r.2)) (start, 0)

/-- A conversion instruction. -/
def rvVConvert (x : Tidy) (len : Nat) (v : VInst) (rm : Nat) : RvOut :=
  match vFpConvert v.vs1 v.sew with
  | none => .illegal
  | some (src, dst, f) =>
    if v.maskOk && dst ≤ 64 && src ≤ 64 && groupAt v.vd (v.l8 * dst / v.sew) && groupAt v.vs2 (v.l8 * src / v.sew) then
      x.vfdone len v.vd dst ((x.actives v.vm).map (fun i => (i, f rm (x.vel v.vs2 src i))))
    else .illegal

/-- The OPF map, under the rounding mode in frm. -/
def rvOpf (x : Tidy) (len : Nat) (v : VInst) : RvOut :=
  let n := v.sew
  let act := x.actives v.vm
  let single := v.aligned v.l8 v.l8 v.l8 && v.maskOk
  let a := x.vel v.vs2 n
  let b := x.vopB v n
  match x.rm 7, if v.f6 = 0x12 then some fmt32 else fmtSew n with
  | some rm, some f =>
    match v.f6 with
    | 0x0E => if single && !v.vv then (x.vputs v.vd n (act.map (fun i => (i, if i = 0 then b 0 else a (i - 1))))).vdone len else .illegal
    | 0x0F => if single && !v.vv then (x.vputs v.vd n (act.map (fun i => (i, if i + 1 = x.vl then b 0 else x.vpickEl v (i + 1))))).vdone len else .illegal
    | 0x10 =>
      if v.vv then (if v.vs1 = 0 ∧ v.vm then .next ((x.fset f v.vd (a 0)).vpast len) [] [] else .illegal)
      else if v.vs2 = 0 ∧ v.vm then (if x.vl = 0 then x else x.vput v.vd n 0 (b 0)).vdone len
      else .illegal
    | 0x12 => if v.vv then rvVConvert x len v rm else .illegal
    | 0x13 =>
      if v.vv && single && (vFpUnary f v.vs1 rm 0).isSome then x.vfdone len v.vd n (act.map (fun i => (i, (vFpUnary f v.vs1 rm (a i)).getD (0, 0)))) else .illegal
    | 0x17 =>
      if v.vv || (v.vm && v.vs2 != 0) || !single then .illegal
      else (x.vputs v.vd n ((x.actives true).map (fun i => (i, if v.vm || x.vbit 0 i then b i else a i)))).vdone len
    | f6 =>
      let reduce (k : Nat) (r : Nat × Nat) : RvOut := if x.vl = 0 then x.vdone len else ((x.vput v.vd k 0 r.1).accrue r.2).vdone len
      if v.vv && (f6 == 0x01 || f6 == 0x03) then
        if groupAt v.vs2 v.l8 then reduce n (vFpSum f rm (x.vel v.vs1 n 0) (act.map a)) else .illegal
      else if v.vv && (f6 == 0x05 || f6 == 0x07) then
        if groupAt v.vs2 v.l8 then
          reduce n ((act.map a).foldl (fun s e => let r := f.pick (f6 == 0x07) s.1 e; (r.1, s.2 ||| r.2)) (x.vel v.vs1 n 0, 0))
        else .illegal
      else if 0x30 ≤ f6 then
        if n ≠ 32 then .illegal
        else
          let up (y : Nat) : Nat × Nat := fmt64.ofFmt fmt32 0 y
          if v.vv && (f6 == 0x31 || f6 == 0x33) then
            if groupAt v.vs2 v.l8 then
              let es := act.map (fun i => up (a i))
              let r := vFpSum fmt64 rm (x.vel v.vs1 64 0) (es.map (fun e => e.1))
              reduce 64 (r.1, es.foldl (fun s e => s ||| e.2) r.2)
            else .illegal
          else
            let wideA := f6 == 0x34 || f6 == 0x36
            if v.maskOk && (vFpWide fmt64 f6 rm 0 0 0).isSome && v.aligned (2 * v.l8) (if wideA then 2 * v.l8 else v.l8) v.l8 then
              x.vfdone len v.vd 64 (act.map (fun i =>
                let ea := if wideA then (x.vel v.vs2 64 i, 0) else up (a i)
                let eb := up (b i)
                let r := (vFpWide fmt64 f6 rm ea.1 eb.1 (x.vel v.vd 64 i)).getD (0, 0)
                (i, r.1, r.2 ||| ea.2 ||| eb.2)))
            else .illegal
      else if (vFpCompare f f6 0 0).isSome then
        if (f6 < 0x1D || !v.vv) && groupAt v.vs2 v.l8 && (!v.vv || groupAt v.vs1 v.l8) then
          let rs := act.map (fun i => (i, (vFpCompare f f6 (a i) (b i)).getD (false, 0)))
          ((x.vmaskPut v.vd (rs.map (fun r => (r.1, r.2.1)))).accrue (rs.foldl (fun s r => s ||| r.2.2) 0)).vdone len
        else .illegal
      else if (vFpOp f f6 rm 0 0 0).isSome && single && !(v.vv && (f6 == 0x21 || f6 == 0x27)) then
        x.vfdone len v.vd n (act.map (fun i => (i, (vFpOp f f6 rm (a i) (b i) (x.vel v.vd n i)).getD (0, 0))))
      else .illegal
  | _, _ => .illegal

/-! ### Loads and stores -/

/-- A vector access: its element width in bits, and for each active element and field its register, element number and address. -/
structure VAccess where
  bitsEach : Nat
  items : List (Nat × Nat × Nat)
  deriving DecidableEq, Repr

/-- The accesses of a vector load or store (`none` is illegal). -/
def rvVAccess (x : Tidy) (w : Nat) : Option VAccess :=
  let width := bits w 14 12
  let eew := match width with | 0 => 8 | 5 => 16 | 6 => 32 | _ => 64
  let base := x.get (bits w 19 15)
  let vd := bits w 11 7
  let nf := bits w 31 29 + 1
  let vm := bit w 25
  let um := bits w 24 20
  let load := bits w 6 0 = 0x07
  let sew := vsew x.vtype
  let l8 := lmul8 x.vtype
  let ok := vtypeOk x.vtype
  let fields (n l : Nat) (act : List Nat) (addr : Nat → Nat) : Option VAccess :=
    let regs := max 8 l / 8
    if ok && groupAt vd l && decide (1 ≤ l) && decide (nf * regs ≤ 8) && decide (vd + nf * regs ≤ 32) && (vm || vd != 0 || !load) then
      some ⟨n, act.flatMap (fun i => (upFrom 0 nf).map (fun k => (vd + k * regs, i, w64 (addr i + k * (n / 8)))))⟩
    else none
  let act := x.actives vm
  let l := l8 * eew / sew
  if bit w 28 then none
  else
    match bits w 27 26 with
    | 0 =>
      match um with
      | 0x00 => fields eew l act (fun i => base + i * nf * (eew / 8))
      | 0x10 => if load then fields eew l act (fun i => base + i * nf * (eew / 8)) else none
      | 0x08 =>
        if vm && (nf == 1 || nf == 2 || nf == 4 || nf == 8) && vd % nf == 0 && (load || width == 0) then
          some ⟨eew, (upFrom x.vstart (nf * vlen / eew - x.vstart)).map (fun i => (vd, i, w64 (base + i * (eew / 8))))⟩
        else none
      | 0x0B =>
        if vm && nf == 1 && width == 0 && ok then some ⟨8, (upFrom x.vstart ((x.vl + 7) / 8 - x.vstart)).map (fun i => (vd, i, w64 (base + i)))⟩ else none
      | _ => none
    | 2 => fields eew l act (fun i => base + i * x.get um)
    | _ => if groupAt um l && decide (1 ≤ l) then fields sew l8 act (fun i => base + x.vel um eew i) else none

/-- A vector load; a fault-only-first one shortens vl at the first element past element 0 that the job may not read. -/
def rvVLoad (m : RvMem) (x : Tidy) (len w : Nat) : RvOut :=
  match rvVAccess x w with
  | none => .illegal
  | some v =>
    let n := v.bitsEach / 8
    let stop : Option Nat := if bits w 27 26 = 0 ∧ bits w 24 20 = 0x10 then (v.items.find? (fun e => e.2.1 != 0 && !m.may e.2.2 n)).map (fun e => e.2.1) else none
    let items : List (Nat × Nat × Nat) := match stop with | some k => v.items.filter (fun e => decide (e.2.1 < k)) | none => v.items
    let y := items.foldl (fun y e => y.vput e.1 v.bitsEach e.2.1 (m.read e.2.2 n)) x
    let y := match stop with | some k => { y with vl := k } | none => y
    .next (y.vpast len) (items.map (fun e => (e.2.2, n))) []

/-- A vector store. -/
def rvVStore (x : Tidy) (len w : Nat) : RvOut :=
  match rvVAccess x w with
  | none => .illegal
  | some v => .next (x.vpast len) [] (v.items.flatMap (fun e => storeCells e.2.2 (v.bitsEach / 8) (x.vel e.1 v.bitsEach e.2.1)))

/-- The vector instructions: configuration, arithmetic, loads and stores. -/
def rvVector (m : RvMem) (x : Tidy) (len w : Nat) : RvOut :=
  match bits w 6 0 with
  | 0x07 => rvVLoad m x len w
  | 0x27 => rvVStore x len w
  | _ =>
    let v := vInst x w
    if v.f3 = 7 then rvVset x len w
    else if v.f6 = 0x27 ∧ v.f3 = 3 then rvOpi x len v
    else if !vtypeOk x.vtype then .illegal
    else
      match v.f3 with
      | 0 => rvOpi x len v
      | 3 => rvOpi x len v
      | 4 => rvOpi x len v
      | 2 => rvOpm x len v
      | 6 => rvOpm x len v
      | _ => rvOpf x len v

end Sys2Proof.Machine
end

