-- ==== Sys2Proof/Machine/Riscv.lean ====
section
/-! DEFINITION. A tidy core's own instruction: fetched at its pc, decoded, and run as a base instruction (R17, R253) or as a custom one of Table 4-7, R196 and R269 (R109, R117). -/

namespace Sys2Proof.Machine

/-! ### The custom encodings (R109, R196, R269) -/

/-- Run the custom instruction that a word in one of the four custom opcodes encodes; `none` where Table 4-7, R196 and R269 define no such encoding. A register field that an instruction does not name is 0 (DESIGN CHOICE, notes/assumptions/30.md). -/
def Dev.customOf (d : Dev) (tc w : Nat) : Option Dev :=
  let rd := bits w 11 7
  let rs1 := bits w 19 15
  let rs2 := bits w 24 20
  let f3 := bits w 14 12
  let f7 := bits w 31 25
  let fmt := bits w 29 26
  let when' (c : Bool) (e : Dev) : Option Dev := if c then some e else none
  let plain := f7 == 0 && rs2 == 0
  let conversion := bit w 25 && !bit w 30 && decide (fmt ≤ 7)
  match bits w 6 0 with
  | 0x0B =>
    match f3 with
    | 0 => when' plain (d.xmIssue tc rd rs1)
    | 1 => when' plain (d.ticketWait tc rd rs1 false)
    | 2 => when' plain (d.xmDone tc rd rs1)
    | 3 => if f7 = 0 then some (d.xsPost tc rd rs1 rs2) else when' (f7 == 1 && rs2 == 0) (d.xsClear tc rd rs1)
    | _ => none
  | 0x2B => when' (f3 == 0 && plain) (d.xtDraw tc rd rs1)
  | 0x5B =>
    match f3 with
    | 0 => when' (conversion && rs1 == 0) (d.xcCvt tc rd rs2 fmt (bit w 31))
    | 1 => when' conversion (d.xcSrnd tc rd rs2 rs1 fmt (bit w 31))
    | 2 => when' (f7 == 1 && rs2 == 0) (d.xrDraw tc rd rs1)
    | 3 => when' (f7 == 1) (d.xrDmask tc rd rs1 rs2)
    | 4 => when' (f7 == 1 && rs2 == 0) (d.xrSlate tc rd rs1)
    | _ => none
  | 0x7B =>
    match f3 with
    | 0 => when' plain (d.xdMove tc rd rs1)
    | 1 => when' plain (d.ticketWait tc rd rs1 true)
    | _ => none
  | _ => none

/-- Whether a word lies in one of the four custom opcodes. -/
def isCustom (w : Nat) : Bool := [0x0B, 0x2B, 0x5B, 0x7B].contains (bits w 6 0)

/-! ### Fetch and execution -/

/-- A base instruction: the vector ones by their opcode, and by their width among the loads and stores of the floating registers. -/
def rvBase (m : RvMem) (x : Tidy) (len w : Nat) : RvOut :=
  let op := bits w 6 0
  if op = 0x57 ∨ ((op = 0x07 ∨ op = 0x27) ∧ (bits w 14 12 = 0 ∨ 5 ≤ bits w 14 12)) then rvVector m x len w else rvScalar m x len w

/-- Memory as an instruction of a job sees it: a replicated row is read from its replica (R268). -/
def Dev.rvMem (d : Dev) (j : Job) : RvMem := { read := fun a n => leNat (d.jobRead j a n), may := fun a n => d.granted j a n false }

/-- The word at an address, of 2 bytes or, where its two low bits are set, of 4. -/
def Dev.fetchLen (d : Dev) (j : Job) (a : Nat) : Nat := if (d.rvMem j).read a 2 % 4 = 3 then 4 else 2

/-- Run a base instruction of `len` bytes: an encoding that nothing defines is an illegal instruction (2), TC_TRAP_TVAL holding it. -/
def Dev.tidyExec (d : Dev) (id tc : Nat) (j : Job) (x : Tidy) (len w : Nat) : Dev :=
  let out := if len = 4 then rvBase (d.rvMem j) x 4 w else match expandC w with | some v => rvBase (d.rvMem j) x 2 v | none => .illegal
  match out with
  | .next y loads stores => d.tidyApply id tc j loads stores (fun _ => y)
  | .trap cause tval => d.tidyTrap id tc cause tval
  | .illegal => d.tidyTrap id tc exIllegal w

/-- Fetch the instruction at the pc and run it. The fetch is a load of the job's (R251, R400); one outside the granted memory is an instruction access fault. -/
def Dev.tidyFetch (d : Dev) (tc : Nat) : Dev :=
  match d.tidyJob tc with
  | none => d
  | some (_, j) =>
    let pc := (d.tidy tc).pc
    let half := d.granted j pc 2 false && !d.jobPoison j pc 2
    let len := d.fetchLen j pc
    let w := (d.rvMem j).read pc len
    let custom := if half && d.granted j pc 4 false && !d.jobPoison j pc len && (d.lostPath (tc / 8) [(j.redirect pc, len)]).isNone && isCustom w then some (d.customOf tc w) else none
    match custom with
    | some (some d) => d
    | _ =>
      d.tidyRun tc (fun id j x d =>
        if !d.granted j pc (if half then len else 2) false then d.tidyTrap id tc exFetchAccess pc
        else
          match d.lostPath (tc / 8) [(j.redirect pc, len)], d.jobPoisonLine j pc len with
          | some e, _ => d.faultJob id 0x0B 0 e.1 (tidyPage tc) e.2
          | none, some a => d.faultJob id 0x0A 0 cJobFault (tidyPage tc) a
          | none, none => d.tidyExec id tc j x len w)

/-- TIDY_CORE_INSTRUCTION (R17, R117): a tidy core's next instruction. -/
def execTidyCoreInstruction (t tc : Nat) (effect : TidyEffect) (s : State) : Host.Outcome State Fault Refusal :=
  s.run t (fun d => if effect = .fetch then d.tidyFetch tc else d.tidyBase tc effect)

end Sys2Proof.Machine
end

