-- ==== Sys2Proof/Machine/Dispatch.lean ====
section
/-! DEFINITION. Dispatch: one arm per command. -/

namespace Sys2Proof.Machine

/-- The effect of a command on everything but the queue. -/
def exec (i : Instr) (s : State) : Host.Outcome State Fault Refusal :=
  match i with
  | .nop t ring => Sys2Proof.Machine.execNop t ring s
  | .ctxCreate t ring => Sys2Proof.Machine.execCtxCreate t ring s
  | .ctxDestroy t ring => Sys2Proof.Machine.execCtxDestroy t ring s
  | .ctxSave t ring => Sys2Proof.Machine.execCtxSave t ring s
  | .ctxSaveDone t ctx => Sys2Proof.Machine.execCtxSaveDone t ctx s
  | .ctxRestore t ring => Sys2Proof.Machine.execCtxRestore t ring s
  | .ctxRestoreDone t ctx => Sys2Proof.Machine.execCtxRestoreDone t ctx s
  | .jobDefine t ring => Sys2Proof.Machine.execJobDefine t ring s
  | .jobPlace t ring => Sys2Proof.Machine.execJobPlace t ring s
  | .jobQueue t ring => Sys2Proof.Machine.execJobQueue t ring s
  | .jobAbort t ring => Sys2Proof.Machine.execJobAbort t ring s
  | .jobRelease t ring => Sys2Proof.Machine.execJobRelease t ring s
  | .seedRequest t ring => Sys2Proof.Machine.execSeedRequest t ring s
  | .entropyRead t ring => Sys2Proof.Machine.execEntropyRead t ring s
  | .setCap t ring => Sys2Proof.Machine.execSetCap t ring s
  | .setPlatformLimit t ring => Sys2Proof.Machine.execSetPlatformLimit t ring s
  | .setIceMode t ring => Sys2Proof.Machine.execSetIceMode t ring s
  | .powerStateSnowpack t ring => Sys2Proof.Machine.execPowerStateSnowpack t ring s
  | .powerStateFrost t ring => Sys2Proof.Machine.execPowerStateFrost t ring s
  | .fwStage t ring => Sys2Proof.Machine.execFwStage t ring s
  | .fwStageComplete t proc image => Sys2Proof.Machine.execFwStageComplete t proc image s
  | .fwActivate t ring => Sys2Proof.Machine.execFwActivate t ring s
  | .activationStart t proc => Sys2Proof.Machine.execActivationStart t proc s
  | .activationSelfCheckPass t proc => Sys2Proof.Machine.execActivationSelfCheckPass t proc s
  | .activationRestartTimeout t proc => Sys2Proof.Machine.execActivationRestartTimeout t proc s
  | .activationAbandon t proc => Sys2Proof.Machine.execActivationAbandon t proc s
  | .attach t ring => Sys2Proof.Machine.execAttach t ring s
  | .leaseRenew t ring => Sys2Proof.Machine.execLeaseRenew t ring s
  | .takeover t ring => Sys2Proof.Machine.execTakeover t ring s
  | .orphanResolveResume t ring => Sys2Proof.Machine.execOrphanResolveResume t ring s
  | .orphanResolveDiscard t ring => Sys2Proof.Machine.execOrphanResolveDiscard t ring s
  | .detach t ring => Sys2Proof.Machine.execDetach t ring s
  | .unitReset t ring => Sys2Proof.Machine.execUnitReset t ring s
  | .unitResetComplete t page => Sys2Proof.Machine.execUnitResetComplete t page s
  | .moduleReset t ring => Sys2Proof.Machine.execModuleReset t ring s
  | .keyManageInstall t ring => Sys2Proof.Machine.execKeyManageInstall t ring s
  | .keyManageReplace t ring => Sys2Proof.Machine.execKeyManageReplace t ring s
  | .keyManageRevoke t ring => Sys2Proof.Machine.execKeyManageRevoke t ring s
  | .keyManageSetPassword t ring => Sys2Proof.Machine.execKeyManageSetPassword t ring s
  | .keyManageClearPassword t ring => Sys2Proof.Machine.execKeyManageClearPassword t ring s
  | .keyManageCommit t => Sys2Proof.Machine.execKeyManageCommit t s
  | .lifeState t ring => Sys2Proof.Machine.execLifeState t ring s
  | .lifeStateCommit t => Sys2Proof.Machine.execLifeStateCommit t s
  | .debugUnlockOwner t ring => Sys2Proof.Machine.execDebugUnlockOwner t ring s
  | .ownerVerifierDone t => Sys2Proof.Machine.execOwnerVerifierDone t s
  | .debugUnlockChallenge t ring => Sys2Proof.Machine.execDebugUnlockChallenge t ring s
  | .debugUnlockResponse t ring => Sys2Proof.Machine.execDebugUnlockResponse t ring s
  | .debugUnlockLock t ring => Sys2Proof.Machine.execDebugUnlockLock t ring s
  | .smuAccountAssign t ring => Sys2Proof.Machine.execSmuAccountAssign t ring s
  | .smuAccountLabel t ring => Sys2Proof.Machine.execSmuAccountLabel t ring s
  | .counterFreezeFreeze t ring => Sys2Proof.Machine.execCounterFreezeFreeze t ring s
  | .counterFreezeUnfreeze t ring => Sys2Proof.Machine.execCounterFreezeUnfreeze t ring s
  | .counterFreezeSnapshot t ring => Sys2Proof.Machine.execCounterFreezeSnapshot t ring s
  | .counterFreezeSampleDrain t ring => Sys2Proof.Machine.execCounterFreezeSampleDrain t ring s
  | .dumpRead t ring => Sys2Proof.Machine.execDumpRead t ring s
  | .dumpReadDone t => Sys2Proof.Machine.execDumpReadDone t s
  | .dumpRelease t ring => Sys2Proof.Machine.execDumpRelease t ring s
  | .ringEnable t fn ring => Sys2Proof.Machine.execRingEnable t fn ring s
  | .ringDisable t fn ring => Sys2Proof.Machine.execRingDisable t fn ring s
  | .sqTailDoorbell t fn ring value host => Sys2Proof.Machine.execSqTailDoorbell t fn ring value host s
  | .cqHeadWrite t fn ring value => Sys2Proof.Machine.execCqHeadWrite t fn ring value s
  | .ringWakeArm t fn ring vector => Sys2Proof.Machine.execRingWakeArm t fn ring vector s
  | .completionWrite t ring => Sys2Proof.Machine.execCompletionWrite t ring s
  | .attnqPop t fn queue => Sys2Proof.Machine.execAttnqPop t fn queue s
  | .registerWrite t fn page off len data => Sys2Proof.Machine.execRegisterWrite t fn page off len data s
  | .rcRead t fn page span => Sys2Proof.Machine.execRcRead t fn page span s
  | .latchingLoRead t fn page span => Sys2Proof.Machine.execLatchingLoRead t fn page span s
  | .emulatedPageRead t fn page span => Sys2Proof.Machine.execEmulatedPageRead t fn page span s
  | .emulatedPageWrite t fn page off len data => Sys2Proof.Machine.execEmulatedPageWrite t fn page off len data s
  | .emulatedWriteApply t page => Sys2Proof.Machine.execEmulatedWriteApply t page s
  | .emulatedReadTimeout t fn page off => Sys2Proof.Machine.execEmulatedReadTimeout t fn page off s
  | .bar2Read t fn off len => Sys2Proof.Machine.execBar2Read t fn off len s
  | .bar2Write t fn off bytes => Sys2Proof.Machine.execBar2Write t fn off bytes s
  | .timeDomainLock t => Sys2Proof.Machine.execTimeDomainLock t s
  | .alignInterval t => Sys2Proof.Machine.execAlignInterval t s
  | .alignMessage t port msg => Sys2Proof.Machine.execAlignMessage t port msg s
  | .alignHoldover t => Sys2Proof.Machine.execAlignHoldover t s
  | .launchReleaseSend t job => Sys2Proof.Machine.execLaunchReleaseSend t job s
  | .jobLaunch t job => Sys2Proof.Machine.execJobLaunch t job s
  | .jobDone t job => Sys2Proof.Machine.execJobDone t job s
  | .jobFaultFinal t job => Sys2Proof.Machine.execJobFaultFinal t job s
  | .syncConfigWrite t obj data => Sys2Proof.Machine.execSyncConfigWrite t obj data s
  | .syncCountWrite t obj data => Sys2Proof.Machine.execSyncCountWrite t obj data s
  | .syncExpectedWrite t obj data => Sys2Proof.Machine.execSyncExpectedWrite t obj data s
  | .syncPost t obj data => Sys2Proof.Machine.execSyncPost t obj data s
  | .syncClear t obj data => Sys2Proof.Machine.execSyncClear t obj data s
  | .barrierFiring t obj => Sys2Proof.Machine.execBarrierFiring t obj s
  | .tidyCoreInstruction t tc effect => Sys2Proof.Machine.execTidyCoreInstruction t tc effect s
  | .xrCsrWrite t tc swap rs1 => Sys2Proof.Machine.execXrCsrWrite t tc swap rs1 s
  | .xmIssue t tc rd rs1 => Sys2Proof.Machine.execXmIssue t tc rd rs1 s
  | .xmWait t tc rd rs1 => Sys2Proof.Machine.execXmWait t tc rd rs1 s
  | .xmDone t tc rd rs1 => Sys2Proof.Machine.execXmDone t tc rd rs1 s
  | .xsPost t tc rd rs1 rs2 => Sys2Proof.Machine.execXsPost t tc rd rs1 rs2 s
  | .xsClear t tc rd rs1 => Sys2Proof.Machine.execXsClear t tc rd rs1 s
  | .xcCvt t tc vd vs2 fmt sat => Sys2Proof.Machine.execXcCvt t tc vd vs2 fmt sat s
  | .xcSrnd t tc vd vs2 rs1 fmt sat => Sys2Proof.Machine.execXcSrnd t tc vd vs2 rs1 fmt sat s
  | .xrDraw t tc vd rs1 => Sys2Proof.Machine.execXrDraw t tc vd rs1 s
  | .xrDmask t tc vd rs1 rs2 => Sys2Proof.Machine.execXrDmask t tc vd rs1 rs2 s
  | .xrSlate t tc vd rs1 => Sys2Proof.Machine.execXrSlate t tc vd rs1 s
  | .xtDraw t tc rd rs1 => Sys2Proof.Machine.execXtDraw t tc rd rs1 s
  | .xdMove t tc rd rs1 => Sys2Proof.Machine.execXdMove t tc rd rs1 s
  | .xdWait t tc rd rs1 => Sys2Proof.Machine.execXdWait t tc rd rs1 s
  | .matmul t core => Sys2Proof.Machine.execMatmul t core s
  | .reduce t core => Sys2Proof.Machine.execReduce t core s
  | .tileClear t core => Sys2Proof.Machine.execTileClear t core s
  | .tileDrain t core => Sys2Proof.Machine.execTileDrain t core s
  | .tileLoad t core => Sys2Proof.Machine.execTileLoad t core s
  | .tileCopy t core => Sys2Proof.Machine.execTileCopy t core s
  | .chainAdd t core => Sys2Proof.Machine.execChainAdd t core s
  | .runningSumHandover t core => Sys2Proof.Machine.execRunningSumHandover t core s
  | .writeOutEnd t core buffer => Sys2Proof.Machine.execWriteOutEnd t core buffer s
  | .descriptorComplete t core queue => Sys2Proof.Machine.execDescriptorComplete t core queue s
  | .suaFields t core => Sys2Proof.Machine.execSuaFields t core s
  | .suaSweep t core whole => Sys2Proof.Machine.execSuaSweep t core whole s
  | .chromaticBeat t core => Sys2Proof.Machine.execChromaticBeat t core s
  | .windowStep t core => Sys2Proof.Machine.execWindowStep t core s
  | .synchronousBeat t core => Sys2Proof.Machine.execSynchronousBeat t core s
  | .annealRun t core whole => Sys2Proof.Machine.execAnnealRun t core whole s
  | .annealStep t core => Sys2Proof.Machine.execAnnealStep t core s
  | .tokenDraw t core => Sys2Proof.Machine.execTokenDraw t core s
  | .copy t core => Sys2Proof.Machine.execCopy t core s
  | .gather t core arrivals => Sys2Proof.Machine.execGather t core arrivals s
  | .netAdd t core arrivals => Sys2Proof.Machine.execNetAdd t core arrivals s
  | .sourceSettled t src => Sys2Proof.Machine.execSourceSettled t src s
  | .repetitionCountFailure t src => Sys2Proof.Machine.execRepetitionCountFailure t src s
  | .adaptiveProportionFailure t src => Sys2Proof.Machine.execAdaptiveProportionFailure t src s
  | .entropyWindowEnd t src raw => Sys2Proof.Machine.execEntropyWindowEnd t src raw s
  | .drbgInstantiateDone t => Sys2Proof.Machine.execDrbgInstantiateDone t s
  | .drbgReseed t => Sys2Proof.Machine.execDrbgReseed t s
  | .generateRequest t => Sys2Proof.Machine.execGenerateRequest t s
  | .entRetest t data => Sys2Proof.Machine.execEntRetest t data s
  | .testPatternSelect t data => Sys2Proof.Machine.execTestPatternSelect t data s
  | .testPatternDeselect t data => Sys2Proof.Machine.execTestPatternDeselect t data s
  | .entTestHiWrite t data => Sys2Proof.Machine.execEntTestHiWrite t data s
  | .governorEstimate t load => Sys2Proof.Machine.execGovernorEstimate t load s
  | .controlPeriod t => Sys2Proof.Machine.execControlPeriod t s
  | .capTakesEffect t => Sys2Proof.Machine.execCapTakesEffect t s
  | .settlingIntervalEnd t => Sys2Proof.Machine.execSettlingIntervalEnd t s
  | .iceModeTakesEffect t => Sys2Proof.Machine.execIceModeTakesEffect t s
  | .smuWindowRecord t arrival => Sys2Proof.Machine.execSmuWindowRecord t arrival s
  | .smuAbsenceTimeout t => Sys2Proof.Machine.execSmuAbsenceTimeout t s
  | .distrustEnter t => Sys2Proof.Machine.execDistrustEnter t s
  | .distrustExit t => Sys2Proof.Machine.execDistrustExit t s
  | .capOverrun t => Sys2Proof.Machine.execCapOverrun t s
  | .emergencyClear t => Sys2Proof.Machine.execEmergencyClear t s
  | .sensorSample t temps => Sys2Proof.Machine.execSensorSample t temps s
  | .snowpackEntryComplete t => Sys2Proof.Machine.execSnowpackEntryComplete t s
  | .snowpackExitComplete t => Sys2Proof.Machine.execSnowpackExitComplete t s
  | .smuMetrologyInterval t sample => Sys2Proof.Machine.execSmuMetrologyInterval t sample s
  | .smuFrame t frame => Sys2Proof.Machine.execSmuFrame t frame s
  | .attributionInterval t => Sys2Proof.Machine.execAttributionInterval t s
  | .readSigned call account nonce => Sys2Proof.Machine.execReadSigned call account nonce s
  | .readPubkey call => Sys2Proof.Machine.execReadPubkey call s
  | .readLog call index => Sys2Proof.Machine.execReadLog call index s
  | .smuSealNAssert t nonce => Sys2Proof.Machine.execSmuSealNAssert t nonce s
  | .sealingImageLoad t image => Sys2Proof.Machine.execSealingImageLoad t image s
  | .smuSealNRelease t => Sys2Proof.Machine.execSmuSealNRelease t s
  | .smuNvStore t => Sys2Proof.Machine.execSmuNvStore t s
  | .vsmu33Loss t => Sys2Proof.Machine.execVsmu33Loss t s
  | .vsmu33PowerOn t => Sys2Proof.Machine.execVsmu33PowerOn t s
  | .smuReadReqGo t fn data => Sys2Proof.Machine.execSmuReadReqGo t fn data s
  | .signedReadingWritten t => Sys2Proof.Machine.execSignedReadingWritten t s
  | .logCopy t => Sys2Proof.Machine.execLogCopy t s
  | .logHostSizeWrite t data => Sys2Proof.Machine.execLogHostSizeWrite t data s
  | .leaseWarning t => Sys2Proof.Machine.execLeaseWarning t s
  | .leaseExpiry t => Sys2Proof.Machine.execLeaseExpiry t s
  | .takeoverLapse t => Sys2Proof.Machine.execTakeoverLapse t s
  | .challengeExpiry t => Sys2Proof.Machine.execChallengeExpiry t s
  | .unlockExpiry t => Sys2Proof.Machine.execUnlockExpiry t s
  | .correctedError t error => Sys2Proof.Machine.execCorrectedError t error s
  | .uncorrectableError t error => Sys2Proof.Machine.execUncorrectableError t error s
  | .patrolScrub t address corrected => Sys2Proof.Machine.execPatrolScrub t address corrected s
  | .fatalError t cause page detail => Sys2Proof.Machine.execFatalError t cause page detail s
  | .dumpWritten t => Sys2Proof.Machine.execDumpWritten t s
  | .dumpWriteTimeout t => Sys2Proof.Machine.execDumpWriteTimeout t s
  | .securityWatchdog t => Sys2Proof.Machine.execSecurityWatchdog t s
  | .controlMessageTimeout t page => Sys2Proof.Machine.execControlMessageTimeout t page s
  | .slotRetirement t slot => Sys2Proof.Machine.execSlotRetirement t slot s
  | .spareSubstitution t core selfTestPass => Sys2Proof.Machine.execSpareSubstitution t core selfTestPass s
  | .networkRequestArrival t req => Sys2Proof.Machine.execNetworkRequestArrival t req s
  | .networkReplyArrival t id => Sys2Proof.Machine.execNetworkReplyArrival t id s
  | .epochNotice t port page epoch => Sys2Proof.Machine.execEpochNotice t port page epoch s
  | .trackingEntryGrant t stack => Sys2Proof.Machine.execTrackingEntryGrant t stack s
  | .dramRefresh t stack waits => Sys2Proof.Machine.execDramRefresh t stack waits s
  | .coldReset t => Sys2Proof.Machine.execColdReset t s
  | .hostReset t => Sys2Proof.Machine.execHostReset t s
  | .pfFunctionLevelReset t => Sys2Proof.Machine.execPfFunctionLevelReset t s
  | .vfFunctionLevelReset t fn => Sys2Proof.Machine.execVfFunctionLevelReset t fn s
  | .vfResetComplete t fn => Sys2Proof.Machine.execVfResetComplete t fn s
  | .counterWrap t page index occurrences item => Sys2Proof.Machine.execCounterWrap t page index occurrences item s
  | .sampleRecordWrite t page outcome => Sys2Proof.Machine.execSampleRecordWrite t page outcome s
  | .samplePop t fn data => Sys2Proof.Machine.execSamplePop t fn data s
  | .cntSelWrite t fn page index data => Sys2Proof.Machine.execCntSelWrite t fn page index data s
  | .cntHiWrite t fn page index data => Sys2Proof.Machine.execCntHiWrite t fn page index data s
  | .counterFreezeAtS t => Sys2Proof.Machine.execCounterFreezeAtS t s
  | .snapshotWriteOut t => Sys2Proof.Machine.execSnapshotWriteOut t s
  | .bwWindowEnd t counts => Sys2Proof.Machine.execBwWindowEnd t counts s
  | .bwWindowWrite t fn data => Sys2Proof.Machine.execBwWindowWrite t fn data s
  | .pcieLinkRetrain t gen width flit => Sys2Proof.Machine.execPcieLinkRetrain t gen width flit s
  | .sholoTrainingComplete t port gen half => Sys2Proof.Machine.execSholoTrainingComplete t port gen half s
  | .identityFrame t port ident => Sys2Proof.Machine.execIdentityFrame t port ident s
  | .flitCrcFail t port delay => Sys2Proof.Machine.execFlitCrcFail t port delay s
  | .replayLimitRetrain t port => Sys2Proof.Machine.execReplayLimitRetrain t port s
  | .signalLoss t port => Sys2Proof.Machine.execSignalLoss t port s
  | .retrainTimeout t port => Sys2Proof.Machine.execRetrainTimeout t port s
  | .portEnableWrite t port data => Sys2Proof.Machine.execPortEnableWrite t port data s
  | .xqControlEnable t port data => Sys2Proof.Machine.execXqControlEnable t port data s
  | .xqTailDoorbell t port value host => Sys2Proof.Machine.execXqTailDoorbell t port value host s
  | .transferWrite t port => Sys2Proof.Machine.execTransferWrite t port s
  | .transferRead t port => Sys2Proof.Machine.execTransferRead t port s
  | .incomingTransfer t port xfer => Sys2Proof.Machine.execIncomingTransfer t port xfer s
  | .transferComplete t port index result => Sys2Proof.Machine.execTransferComplete t port index result s
  | .rxwEnableWrite t port data => Sys2Proof.Machine.execRxwEnableWrite t port data s
  | .ethDatagram t port datagram => Sys2Proof.Machine.execEthDatagram t port datagram s
  | .ethResendTimeout t port peer resend => Sys2Proof.Machine.execEthResendTimeout t port peer resend s
  | .linkRefclkLoss t => Sys2Proof.Machine.execLinkRefclkLoss t s
  | .sysRefclkLoss t => Sys2Proof.Machine.execSysRefclkLoss t s
  | .hostRefclkLoss t => Sys2Proof.Machine.execHostRefclkLoss t s
  | .vin48Loss t => Sys2Proof.Machine.execVin48Loss t s
  | .vin48ExcursionBegin t group => Sys2Proof.Machine.execVin48ExcursionBegin t group s
  | .vin48ExcursionEnd t group => Sys2Proof.Machine.execVin48ExcursionEnd t group s
  | .vaux33Loss t => Sys2Proof.Machine.execVaux33Loss t s
  | .hubPowerGood t => Sys2Proof.Machine.execHubPowerGood t s
  | .bringupStageEnd t result => Sys2Proof.Machine.execBringupStageEnd t result s
  | .inputPowerTimeout t => Sys2Proof.Machine.execInputPowerTimeout t s
  | .smuWaitTimeout t => Sys2Proof.Machine.execSmuWaitTimeout t s
  | .bringupTimeout t => Sys2Proof.Machine.execBringupTimeout t s
  | .dramTrainingAttempt t stack pass => Sys2Proof.Machine.execDramTrainingAttempt t stack pass s
  | .slotSelfTest t slot pass => Sys2Proof.Machine.execSlotSelfTest t slot pass s
  | .vin48InRange t => Sys2Proof.Machine.execVin48InRange t s
  | .perstNRelease t => Sys2Proof.Machine.execPerstNRelease t s
  | .lockoutEnd t => Sys2Proof.Machine.execLockoutEnd t s
  | .jtagAccess t access => Sys2Proof.Machine.execJtagAccess t access s
  | .partnerLowPower t port => Sys2Proof.Machine.execPartnerLowPower t port s
  | .linkRefclkReturn t => Sys2Proof.Machine.execLinkRefclkReturn t s

end Sys2Proof.Machine
end

