-- ==== Sys2Proof/Safety.lean ====
section
/-! DEFINITION. The terms in which claims about the module are made: where a command takes its place, the state it ends in, a command that its ring brings to execution, and the invariants of every step. -/

namespace Sys2Proof

/-- The commands that may restart the clock: the time domain locks and device time starts from 0 (R66), or the hub loses its power or leaves a cold reset. -/
def Instr.restartsClock : Instr → Bool
  | .timeDomainLock .. => true
  | .coldReset .. => true
  | .vin48Loss .. => true
  | .vaux33Loss .. => true
  | .hubPowerGood .. => true
  | _ => false

end Sys2Proof

namespace Sys2Proof.Machine

/-- The state a command of time `t` ends in when its effect leaves the device `d`: the queue is the command's, FROST or ACTIVE follows from the work in progress (Table 2-12), and the counters have counted what the command did (R430). -/
def State.endsWith (s : State) (t : Nat) (d : Dev) : State := { pending := s.pending, dev := ({ d.settle with now := max s.dev.now t } : Dev).tally }

/-- The state after a ring command: unknown opcodes that follow it in ring `r` are completed as they are fetched (R48, R55). -/
def State.endsRing (s : State) (t r : Nat) (d : Dev) : State := s.endsWith t (d.fetchUnknown 65536 r)

/-- FROST and ACTIVE agree with the work in progress (Table 2-12). -/
def Dev.coherent (d : Dev) : Bool := !(d.modState == .active && !d.working) && !(d.modState == .frost && d.working)

/-- The device once the record at the head of ring `r`, read as `c`, has been taken and has been through steps 1 to 7 of Table 2-9: the ring's head has moved on, and the authentication has left its counts. -/
def Dev.taken (d : Dev) (r : Nat) (c : Cmd) (sp : CmdSpec) (cond : Option Nat) : Dev := ((d.advanceHead r).preCheck c sp cond).1

/-- Whether a command executes normally, said of the device alone: the record `c` stands at the head of ring `r` and carries the opcode of `sp`, no check of steps 1 to 7 of Table 2-9 answers a code under `sp` and the further condition `cond`, the processor that executes it, if there is one, is free, and the key slot it is signed with is an ADMIN's where step 8 asks for one. -/
def Dev.admits (d : Dev) (r : Nat) (c : Cmd) (sp : CmdSpec) (cond : Option Nat) : Prop :=
  d.headCmd r = some c ∧ c.opcode = sp.opcode ∧ ((d.advanceHead r).preCheck c sp cond).2 = none
  ∧ (∀ p, sp.proc = some p → d.procBusy p = false) ∧ (sp.admin = true → ((d.taken r c sp cond).keySlot c.keySlot).admin = true)

/-- Both memories keep the one form that a memory has. -/
def Dev.memoriesWf (d : Dev) : Bool := Memory.wf d.hostMem && Memory.wf d.devMem

end Sys2Proof.Machine
end

