-- ==== Sys2Proof/Certificates/Slice0/Obligations.lean ====
section
/-! DEFINITION. The statements for the provers, one definition each; OBLIGATIONS.json lists them. -/

open Sys2Proof Sys2Proof.Machine

/-- For every command c and every state s, the step of s with c at the front of its queue is exec of c on s with the rest of the queue; with no command waiting the block idles and stays as it is (the idle step is the model's choice, assumption 1). (00_scope.md, Table 2-12) -/
def Obligations.StepRunsFrontCommand : Prop :=
  ∀ (c : Instr) (rest : List Instr) (s : State),
    step { s with pending := c :: rest } = exec c { s with pending := rest } ∧ step { s with pending := [] } = .next { s with pending := [] }

/-- Right after reset the module is in BOOT at stage 0 with no failure, device time does not run and reads 0, no ring is enabled, no command waits, no context exists and no job, the lease is NONE, both memories list nothing and are canonical, FROST and ACTIVE agree with the work in progress, and every unit has epoch 1. (R61, R36, R66, R46, R29, R369) -/
def Obligations.ResetState : Prop :=
  State.reset.pending = [] ∧ State.reset.dev.modState = .boot ∧ State.reset.dev.boot.stage = 0 ∧ State.reset.dev.boot.failReason = 0
  ∧ State.reset.dev.deviceTime = 0 ∧ State.reset.dev.time.running = false ∧ (∀ r, (State.reset.dev.ring r).enable = false)
  ∧ (∀ n, (State.reset.dev.ctx n).cstate = .free) ∧ State.reset.dev.jobs = [] ∧ State.reset.dev.lease.status = .none
  ∧ State.reset.dev.memoriesWf = true ∧ State.reset.dev.coherent = true ∧ (∀ p, State.reset.dev.epoch p = 1)

/-- For every state in which FROST and ACTIVE agree with the work in progress (in ACTIVE some job is LAUNCHED, RUNNING or DRAINING or some context is saved or restored; in FROST none is), every next state of a step agrees as well; and the next state of any command agrees, whatever the state before it. (Table 2-12, 02_pages_rings_replies.md) -/
def Obligations.EveryStepKeepsFrostAndActive : Prop :=
  (∀ s u : State, s.dev.coherent = true → step s = .next u → u.dev.coherent = true)
  ∧ ∀ (i : Instr) (s u : State), exec i s = .next u → u.dev.coherent = true

/-- For every command and every state, exec answers a next state, never a fault or a refusal, and the commands that wait are those that waited. (spec/opcode_table.json, R48) -/
def Obligations.EveryCommandCompletes : Prop :=
  ∀ (i : Instr) (s : State), ∃ u, exec i s = .next u ∧ u.pending = s.pending

/-- For every state and every next state of a command that is not one of those that restart the clock at its reset (TIME_DOMAIN_LOCK, COLD_RESET, VIN48_LOSS, VAUX33_LOSS, HUB_POWER_GOOD), the clock after is at least the clock before and at least the command's time. The serial order of commands is by that clock. (R66, R48) -/
def Obligations.DeviceTimeNeverDecreases : Prop :=
  ∀ (i : Instr) (s u : State), i.restartsClock = false → exec i s = .next u → s.dev.now ≤ u.dev.now

/-- Through a BAR0 that shows ring r: enabling a DRAINED ring sets its four indices to 0 and its phase to 1, and enabling one that is not DRAINED is ignored and logged with ILLEGAL_IN_STATE; disabling stops fetching and clears HALTED; an in-range SQ_TAIL or CQ_HEAD takes the value written (unknown opcodes at the head are then completed), an out-of-range one halts the ring with OUT_OF_RANGE and the value in the error index; arming an idle ring stores VECTOR and ARMED, and where completions wait unconsumed the message goes at once and ARMED clears. (R46, R47, R51, R55, R491) -/
def Obligations.RingPageWrites : Prop :=
  ∀ (s : State) (t fn r v : Nat) (host : List Host.Cell), (s.dueAt t).ringVisible fn r = true →
    let d := s.dueAt t
    let g := d.ring r
    (d.drained r = true → exec (.ringEnable t fn r) s = .next (s.endsWith t
      { d with rings := d.rings.put r { g with enable := true, sqTail := 0, sqHead := 0, cqTail := 0, cqHead := 0, phase := true } }))
    ∧ (d.drained r = false → exec (.ringEnable t fn r) s = .next (s.endsWith t (d.refuse fn (0x1000 + r) 0x040 4 1 cIllegal)))
    ∧ exec (.ringDisable t fn r) s = .next (s.endsWith t { d with rings := d.rings.put r { g with enable := false, halted := false } })
    ∧ (g.enable = true → v < 2 ^ g.log2Sq → v < 65536 → exec (.sqTailDoorbell t fn r v host) s = .next (s.endsRing t r
        { d with hostMem := memWriteCells d.hostMem host, rings := d.rings.put r { g with sqTail := v } }))
    ∧ (g.enable = true → 2 ^ g.log2Sq ≤ v → v < 65536 → exec (.sqTailDoorbell t fn r v host) s = .next (s.endsWith t
        { d with hostMem := memWriteCells d.hostMem host, rings := d.rings.put r { g with halted := true, errCode := cOutOfRange, errIndex := v } }))
    ∧ (v < 2 ^ g.log2Cq → v < 65536 → exec (.cqHeadWrite t fn r v) s = .next (s.endsRing t r { d with rings := d.rings.put r { g with cqHead := v } }))
    ∧ (2 ^ g.log2Cq ≤ v → v < 65536 → exec (.cqHeadWrite t fn r v) s = .next (s.endsWith t
        { d with rings := d.rings.put r { g with halted := true, errCode := cOutOfRange, errIndex := v } }))
    ∧ (v < 2048 → (g.owner = 0 ∨ v < 64) → g.cqTail = g.cqHead → exec (.ringWakeArm t fn r v) s = .next (s.endsWith t
        { d with rings := d.rings.put r { g with vector := v, armed := true } }))
    ∧ (v < 2048 → (g.owner = 0 ∨ v < 64) → g.cqTail ≠ g.cqHead → d.hostStopped = false →
        ∃ u, exec (.ringWakeArm t fn r v) s = .next u ∧ u.dev.msix = d.msix ++ [{ fn := g.owner, vector := v }] ∧ u.dev.ring r = { g with vector := v, armed := false })

/-- COMPLETION_WRITE completes. Where ring r has a free completion slot, its first held completion may be written (host writes go on, or the record is one that goes to its ring in ORPHANED) and the canonical host memory is given, COMPLETION_WRITE answers a next state in which the 64 bytes at CQ_BASE + 64 x CQ_TAIL are the record, every other byte of host memory reads as before, the canonical form holds, CQ_TAIL advances modulo the ring size and device memory and every job are unchanged. (R50, R54, R7) -/
def Obligations.CompletionIsWrittenInOrder : Prop :=
  ∀ (s : State) (t r : Nat) (c : Completion) (rest : List Completion),
    let d := s.dueAt t
    let g := d.ring r
    g.cqFull = false → g.held = c :: rest → (c.direct || !d.hostStopped) = true → Memory.wf d.hostMem = true →
    ∃ u, exec (.completionWrite t r) s = .next u
      ∧ memReadN u.dev.hostMem (g.cqBase + 64 * g.cqTail) 64 = d.completionBytes r g c
      ∧ (∀ a, a < g.cqBase + 64 * g.cqTail ∨ g.cqBase + 64 * g.cqTail + 64 ≤ a → memRead u.dev.hostMem a = memRead d.hostMem a)
      ∧ Memory.wf u.dev.hostMem = true ∧ (u.dev.ring r).cqTail = (g.cqTail + 1) % 2 ^ g.log2Cq ∧ rest <+: (u.dev.ring r).held
      ∧ u.dev.devMem = d.devMem ∧ u.dev.jobs = d.jobs ∧ u.dev.ctxs = d.ctxs

/-- COMPLETION_WRITE completes. While host writes are stopped and the completion store has room, forming a completion that is not written directly appends it to the store with its ring and leaves every ring as it was; with the store full it waits at its ring; and COMPLETION_WRITE on a ring whose held records are all ordinary leaves the module as it was. (R65, R371, R372) -/
def Obligations.HeldRecordsWaitWhileHostWritesStop : Prop :=
  (∀ (d : Dev) (r : Nat) (c : Completion), d.hostStopped = true → c.direct = false → d.lease.store.length < 65536 →
      d.complete r c = { d with lease := { d.lease with store := d.lease.store ++ [(r, c)] } })
  ∧ (∀ (d : Dev) (r : Nat) (c : Completion), d.hostStopped = true → c.direct = false → 65536 ≤ d.lease.store.length →
      d.complete r c = { d with rings := d.rings.put r { d.ring r with held := (d.ring r).held ++ [c] } })
  ∧ ∀ (s : State) (t r : Nat), (s.dueAt t).hostStopped = true → (∀ c ∈ ((s.dueAt t).ring r).held, c.direct = false) →
      exec (.completionWrite t r) s = .next (s.endsWith t (s.dueAt t))

/-- ATTNQ_POP completes. A pop by the queue's own function, or by the physical function, each enabled, removes the head record of that attention queue; the rest of the queue, its sequence numbers and its lost counts stay, and every other queue stays. A pop of another function's queue changes nothing. (R58) -/
def Obligations.AttentionPopTakesTheHead : Prop :=
  ∀ (s : State) (t fn f : Nat), f < 32 → (s.dueAt t).hostOpen (.attnq f) = true → (s.dueAt t).fnActs fn = true →
    ((fn = 0 ∨ fn = f) → exec (.attnqPop t fn f) s = .next (s.endsWith t { s.dueAt t with attnqs := (s.dueAt t).attnqs.put f { (s.dueAt t).attnq f with records := ((s.dueAt t).attnq f).records.drop 1 } }))
    ∧ (fn ≠ 0 → fn ≠ f → exec (.attnqPop t fn f) s = .next (s.endsWith t (s.dueAt t)))

/-- SYNC_CONFIG_WRITE, SYNC_COUNT_WRITE, SYNC_EXPECTED_WRITE, SYNC_POST and SYNC_CLEAR complete. For an object that no launch entry waits on, through an open window: SYNC_CONFIG (no job of its owner QUEUED to DRAINING, owner a context or none) stores TYPE, AUTO_CLEAR, REARM and OWNER and returns COUNT to 0 where TYPE changes; SYNC_COUNT and SYNC_EXPECTED store their value; POST adds to a semaphore, saturating, sets an event, and adds to a timed barrier; CLEAR empties a semaphore or a barrier, resets an event and clears OVERFLOW. A POST or CLEAR of an UNUSED object leaves it as it was. A timed barrier that reaches EXPECTED becomes due. Statement for every type: a barrier is taken through its reach. (R83, R84, R85, Table 3-7, Table 3-8) -/
def Obligations.SyncObjectWrites : Prop :=
  ∀ (s : State) (t i v : Nat), (s.dueAt t).syncOpen i = true → (∀ e ∈ (s.dueAt t).launches, e.waiting = true → e.waitSync ≠ i) →
    let d := s.dueAt t
    let o := d.sync i
    let stored (x : SyncObj) : SyncObj := if x.type = .timedBarrier then x.reach d.now else x
    (d.syncBusy i = false → v < 2 ^ 32 → (bits v 14 8 < 64 ∨ bits v 14 8 = 0x7F) → (bits v 1 0 ≠ 3 ∨ o.type = .timedBarrier) →
      ∃ u, exec (.syncConfigWrite t i v) s = .next u ∧ (u.dev.sync i).type = syncTypeOf (bits v 1 0) ∧ (u.dev.sync i).owner = bits v 14 8
        ∧ (u.dev.sync i).autoClear = bit v 2 ∧ (u.dev.sync i).rearm = bit v 3
        ∧ (o.type ≠ syncTypeOf (bits v 1 0) → (u.dev.sync i).count = 0 ∧ (u.dev.sync i).generation = 0 ∧ (u.dev.sync i).setFired = false))
    ∧ (v < 2 ^ 32 → ∃ u, exec (.syncCountWrite t i v) s = .next u ∧ u.dev.sync i = stored { o with count := v })
    ∧ (d.syncBusy i = false → 0 < v → v < 65536 → ∃ u, exec (.syncExpectedWrite t i v) s = .next u ∧ u.dev.sync i = stored { o with expected := v })
    ∧ (o.type = .semaphore → 0 < v → o.count + v < 2 ^ 32 → ∃ u, exec (.syncPost t i v) s = .next u ∧ u.dev.sync i = { o with count := o.count + v })
    ∧ (o.type = .semaphore → v < 2 ^ 32 → 2 ^ 32 ≤ o.count + v → 0 < v → ∃ u, exec (.syncPost t i v) s = .next u ∧ (u.dev.sync i).count = 0xFFFFFFFF ∧ (u.dev.sync i).overflow = true)
    ∧ (o.type = .event → 0 < v → v < 2 ^ 32 → ∃ u, exec (.syncPost t i v) s = .next u ∧ u.dev.sync i = { o with setFired := true })
    ∧ (o.type = .semaphore → ∃ u, exec (.syncClear t i 1) s = .next u ∧ (u.dev.sync i).count = 0 ∧ (u.dev.sync i).overflow = false)
    ∧ (o.type = .event → ∃ u, exec (.syncClear t i 1) s = .next u ∧ (u.dev.sync i).setFired = false ∧ (u.dev.sync i).generation = o.generation)
    ∧ (o.type = .unused → ∃ u, exec (.syncClear t i 1) s = .next u ∧ u.dev.sync i = o)

/-- Whatever the launch entries, serving a semaphore leaves a count which, with the WAIT_COUNT of every entry it has just served, makes up the count before: no entry is served that the count does not cover, entries keep their order and number, and an entry it did not serve is unchanged. (R83, Table 3-7) -/
def Obligations.SemaphoreServesWhatItHolds : Prop :=
  ∀ (i now : Nat) (o : SyncObj) (es : List Launch),
    let r := serveSemaphore i now o es
    r.2.length = es.length
    ∧ r.1.count + (((es.zip r.2).filter (fun p => p.1.waiting && !p.2.waiting)).map (fun p => p.1.waitCount)).sum = o.count
    ∧ ∀ p ∈ es.zip r.2, p.1 = p.2 ∨ (p.1.waiting = true ∧ p.1.waitSync = i ∧ p.2 = { p.1 with waiting := false, condTime := some now })

/-- BARRIER_FIRING completes. A timed barrier due from A, once device time has reached F, the larger of FIRE_TIME and A, fires: LAST_FIRE takes F, GENERATION increments modulo 2^32, and LATE sets where FIRE_TIME is not zero and lies less than 2,000 ticks after A. Without REARM the barrier reads FIRED and is due no more. Before F it does not fire. (R84) -/
def Obligations.TimedBarrierFires : Prop :=
  ∀ (s : State) (t i a : Nat), ((s.dueAt t).sync i).type = .timedBarrier → ((s.dueAt t).sync i).due = some a →
    let d := s.dueAt t
    let o := d.sync i
    (max o.fireTime a ≤ d.now → o.rearm = false → ∃ u, exec (.barrierFiring t i) s = .next u
      ∧ u.dev.sync i = { o with lastFire := max o.fireTime a, generation := (o.generation + 1) % 2 ^ 32, due := none, setFired := true,
                                late := o.late || (o.fireTime != 0 && decide (o.fireTime < a + 2000)) })
    ∧ (max o.fireTime a ≤ d.now → o.rearm = true → ∃ u, exec (.barrierFiring t i) s = .next u ∧ (u.dev.sync i).lastFire = max o.fireTime a
        ∧ (u.dev.sync i).generation = (o.generation + 1) % 2 ^ 32 ∧ (u.dev.sync i).count = o.count - o.expected ∧ (u.dev.sync i).setFired = o.setFired)
    ∧ (d.now < max o.fireTime a → exec (.barrierFiring t i) s = .next (s.endsWith t d))

/-- TIME_DOMAIN_LOCK, ALIGN_INTERVAL, ALIGN_MESSAGE and ALIGN_HOLDOVER complete. TIME_DOMAIN_LOCK starts device time at 0, the time since hub power-good going on. An interval in which alignment is enabled and some Sholo port is UP notes its exchange. A message that the module takes (R87: no port with fewer hops, or as many and a lower number, has brought one within eight intervals) without a step leaves the clock, stores the port, its hops and the offset clamped to 32 bits signed, and a rate of at most 500 ppm. A message that makes the module step moves the clock forward by the offset's size and counts the step. Eight intervals without a message move ALIGNED or ACQUIRING to HOLDOVER. The slew rate rests on assumption 11. (R66, R71, R87, R88) -/
def Obligations.TimeBaseCommands : Prop :=
  ∀ (s : State) (t p k : Nat) (off : Int),
    let d := s.dueAt t
    (s.dev.time.running = false → s.dev.modState ≠ .reset → ∃ u, exec (.timeDomainLock t) s = .next u ∧ u.dev.time.running = true ∧ u.dev.deviceTime = 0 ∧ u.dev.sincePower = d.now)
    ∧ (d.time.running = true → d.time.enable = true → d.someSholoUp = true → exec (.alignInterval t) s = .next (s.endsWith t { d with time := { d.time with lastExchange := d.now } }))
    ∧ (d.alignTakes p k = true → d.alignSteps p k off = false → ∃ u, exec (.alignMessage t p ⟨k, off⟩) s = .next u ∧ u.dev.now = d.now ∧ u.dev.time.sourcePort = p ∧ u.dev.time.sourceHops = k
        ∧ u.dev.time.offset = clampInt (-(2 ^ 31 - 1)) (2 ^ 31 - 1) off ∧ -500 ≤ u.dev.time.rate ∧ u.dev.time.rate ≤ 500 ∧ u.dev.time.steps = d.time.steps)
    ∧ (d.alignSteps p k off = true → ∃ u, exec (.alignMessage t p ⟨k, off⟩) s = .next u ∧ u.dev.now = d.now + off.natAbs ∧ u.dev.time.steps = satAdd 0xFFFF d.time.steps 1)
    ∧ (d.time.enable = true → d.time.source = false → d.time.alignState = .acquiring → d.time.lastMessage + d.time.eightIntervals ≤ d.now →
        exec (.alignHoldover t) s = .next (s.endsWith t { d with time := { d.time with smallRun := 0, alignState := .holdover } }))
    ∧ (d.time.enable = true → d.time.source = false → d.time.alignState = .aligned → d.time.lastMessage + d.time.eightIntervals ≤ d.now →
        ∃ u, exec (.alignHoldover t) s = .next u ∧ u.dev.time.alignState = .holdover ∧ u.dev.time.rate = d.time.rate)

/-- REGISTER_WRITE completes. Outside RESET, through the physical function: a write narrower than 32 bits to a page of BAR0 is ignored and logged with BAD_FORMAT, for the function that owns the page; a write of 8 bytes is two of 4, the lower address first; a 32-bit write of BAR2_BASE low replaces the low word of the function's BAR2_BASE and clears the bits below the BAR2 size, and changes nothing else. (R5, R41, R42, R491, Table 2-3) -/
def Obligations.RegisterWriteEffects : Prop :=
  ∀ (s : State) (t page off v : Nat) (u : UnitId), (s.dueAt t).modState ≠ .reset →
    let d := s.dueAt t
    (∀ len, len < 4 → page < 0x4000 → inSyncWindow 0 page = false → d.barUnit 0 page = some u → exec (.registerWrite t 0 page off len v) s =
      .next (s.endsWith t (d.raiseFor (d.pageOwner u.page) 1 cBadFormat u.page (accessFields 0 (off % 4096) len true) v)))
    ∧ (page < 0x4000 → exec (.registerWrite t 0 page off 8 v) s = .next (s.endsWith t
        ((d.barWrite32 0 page (off % 4096 / 4 * 4) (v % 2 ^ 32)).barWrite32 0 page (off % 4096 / 4 * 4 + 4) (v / 2 ^ 32 % 2 ^ 32))))
    ∧ (d.unitActs .root = true → exec (.registerWrite t 0 0 0x050 4 v) s = .next (s.endsWith t
        { d with views := d.views.put 0 { d.view 0 with bar2Base := alignDown (setWord32 (d.view 0).bar2Base 0 (v % 2 ^ 32)) (d.view 0).bar2Log2 } }))

/-- RC_READ and LATCHING_LO_READ complete. Outside RESET, through the physical function: a 4-byte read of LATE_LAUNCHES answers the count and clears it, and changes no other register; a 4-byte read of DEVICE_TIME low answers the low word of device time, and from then on the HI half reads the high word of that same moment, whatever the clock has come to; an 8-byte read of it answers all 64 bits of device time. (R6, R42, R70) -/
def Obligations.RegisterReadEffects : Prop :=
  ∀ (s : State) (t : Nat), (s.dueAt t).modState ≠ .reset →
    let d := s.dueAt t
    (d.unitActs .launch = true → exec (.rcRead t 0 UnitId.launch.page ⟨0x048, 4⟩) s = .next (s.endsWith t
      { d with lateLaunches := 0, reply := some { fn := 0, page := UnitId.launch.page, off := 0x048, data := d.lateLaunches % 2 ^ 32, status := 0 } }))
    ∧ (d.unitActs .timeBase = true → ∃ u, exec (.latchingLoRead t 0 UnitId.timeBase.page ⟨0x040, 4⟩) s = .next u
        ∧ u.dev.reply = some { fn := 0, page := UnitId.timeBase.page, off := 0x040, data := d.deviceTime % 2 ^ 32, status := 0 }
        ∧ ∀ n, ({ u.dev with now := n } : Dev).unitActs .timeBase = true → ({ u.dev with now := n } : Dev).regValue 0 .timeBase 0x044 = d.deviceTime / 2 ^ 32 % 2 ^ 32)
    ∧ (d.unitActs .timeBase = true → ∃ u, exec (.latchingLoRead t 0 UnitId.timeBase.page ⟨0x040, 8⟩) s = .next u
        ∧ u.dev.reply = some { fn := 0, page := UnitId.timeBase.page, off := 0x040, data := d.deviceTime % 2 ^ 32 + 2 ^ 32 * (d.deviceTime / 2 ^ 32 % 2 ^ 32), status := 0 })

/-- EMULATED_PAGE_WRITE, EMULATED_PAGE_READ, EMULATED_READ_TIMEOUT and EMULATED_WRITE_APPLY complete. For a register of an emulated page u outside its header, through the physical function and outside RESET: a 32-bit write joins the page's queue of 16, or with the queue full is dropped and recorded as NO_RESOURCE unless an earlier failure is recorded; the processor applies the oldest write (shown for CTX_JOB_SELECT, where it arrived first of those that wait at the processor); a 64-bit read with no write waiting at the processor answers the register and the status word with code OK, a 32-bit read the register alone; a 64-bit read unanswered for 1 ms answers 0 and the code of the first failed write or UNIT_OFFLINE, which then clears. (R43, R44, R45, R358) -/
def Obligations.EmulatedPageQueue : Prop :=
  ∀ (s : State) (t page off v : Nat) (u : UnitId), (s.dueAt t).modState ≠ .reset → inSyncWindow 0 page = false → (s.dueAt t).barUnit 0 page = some u → u.emulated = true →
    0x040 ≤ off → off < 4096 → off % 4 = 0 →
    let d := s.dueAt t
    (d.notServing u = false → (d.emuPage u).writes.length < 16 → exec (.emulatedPageWrite t 0 page off 4 v) s = .next (s.endsWith t
        { d with emu := d.emu.put u.page { d.emuPage u with writes := (d.emuPage u).writes ++ [{ fn := 0, off, data := v % 2 ^ 32, seq := d.emuSeq }] }, emuSeq := d.emuSeq + 1 }))
    ∧ (d.notServing u = false → 16 ≤ (d.emuPage u).writes.length → (d.emuPage u).failed = cOk → exec (.emulatedPageWrite t 0 page off 4 v) s = .next (s.endsWith t
        { d with emu := d.emu.put u.page { d.emuPage u with failed := cNoResource } }))
    ∧ (d.notServing u = false → d.serverHalted u = false → d.emuWaiting u = [] → (d.emuPage u).failed = cOk →
        ∃ w, exec (.emulatedPageRead t 0 page ⟨off, 8⟩) s = .next w ∧ ∃ st, w.dev.reply = some { fn := 0, page, off, data := d.regValue 0 u off % 2 ^ 32, status := st } ∧ st % 4096 = cOk)
    ∧ (d.notServing u = false → d.serverHalted u = false → d.emuWaiting u = [] →
        ∃ w, exec (.emulatedPageRead t 0 page ⟨off, 4⟩) s = .next w ∧ w.dev.reply = some { fn := 0, page, off, data := d.regValue 0 u off % 2 ^ 32, status := 0 })
    ∧ (exec (.emulatedReadTimeout t 0 page off) s = .next (s.endsWith t
        { d with reply := some { fn := 0, page, off, data := 0, status := d.statusWord 0 (if (d.emuPage u).failed = cOk then cUnitOffline else (d.emuPage u).failed) }
                 emu := d.emu.put u.page { d.emuPage u with failed := cOk } }))
    ∧ (∀ n w rest, n < 64 → d.notServing (.ctx n) = false → d.serverHalted (.ctx n) = false → (d.emuPage (.ctx n)).writes = w :: rest → w.off = 0x06C →
        emuFirst (.ctx n) (d.emuWaiting (.ctx n)) = .ctx n → (d.emuWaiting (.ctx n)).filter (fun x => decide (x.2 ≤ w.seq)) = [(.ctx n, w.seq)] →
        exec (.emulatedWriteApply t (UnitId.ctx n).page) s = .next (s.endsWith t
          { d with emu := d.emu.put (UnitId.ctx n).page { d.emuPage (.ctx n) with writes := rest }, ctxs := d.ctxs.put n { d.ctx n with jobSelect := w.data % 2 ^ 32 } }))

/-- BAR2_WRITE and BAR2_READ complete. For a BAR2 access that lies in the BAR, that its function reaches and that is not refused: a write, with no replica of a row in its range, leaves exactly its bytes at BAR2_BASE + offset, every other byte of device memory and all of host memory as before, and the canonical form; a read with no poisoned line in its range answers those bytes as a little-endian number and changes no memory. A refused write stores nothing. (R41, R251, R401) -/
def Obligations.Bar2WritesOnlyItsBytes : Prop :=
  ∀ (s : State) (t fn off len : Nat) (bs : List Byte),
    let d := s.dueAt t
    let a := (d.view fn).bar2Base + off
    (d.inBar2 fn off bs.length = true → d.bar2Code fn a bs.length true = none → Memory.wf d.devMem = true → (∀ e ∈ d.jobs, ∀ r ∈ e.2.hotRows, rangesMeet a bs.length r.addr r.bytes = false) →
      ∃ u, exec (.bar2Write t fn off bs) s = .next u ∧ memReadN u.dev.devMem a bs.length = bs
        ∧ (∀ x, x < a ∨ a + bs.length ≤ x → memRead u.dev.devMem x = memRead d.devMem x) ∧ Memory.wf u.dev.devMem = true ∧ u.dev.hostMem = d.hostMem)
    ∧ (∀ code, d.inBar2 fn off bs.length = true → d.bar2Code fn a bs.length true = some code →
        ∃ u, exec (.bar2Write t fn off bs) s = .next u ∧ u.dev.devMem = d.devMem ∧ u.dev.hostMem = d.hostMem)
    ∧ (d.inBar2 fn off len = true → d.bar2Code fn a len false = none → d.poisonedIn a len = [] →
        ∃ u, exec (.bar2Read t fn off len) s = .next u ∧ u.dev.reply = some { fn, page := 0, off, data := leNat (d.readDev a len), status := 0, poisoned := false }
          ∧ u.dev.devMem = d.devMem ∧ u.dev.hostMem = d.hostMem)

/-- NOP completes. In every state in which rings are serviced, a NOP at the head of its ring that passes its checks is answered OK with the boot record in RESULT0 and RESULT1; beyond the ring (and the unknown opcodes behind it) nothing changes: memories, jobs, contexts and the module state are as before. (R478) -/
def Obligations.NopReturnsTheBootRecord : Prop :=
  ∀ (s : State) (t r : Nat) (c : Cmd), (s.dueAt t).admits r c specNop none → let d1 := (s.dueAt t).taken r c specNop none;
    exec (.nop t r) s = .next (s.endsRing t r (d1.answer c cOk (d1.bootRecord d1.ent.service.code).1 (d1.bootRecord d1.ent.service.code).2))
    ∧ ∃ u, exec (.nop t r) s = .next u ∧ u.dev.devMem = (s.dueAt t).devMem ∧ u.dev.hostMem = (s.dueAt t).hostMem ∧ u.dev.jobs = (s.dueAt t).jobs ∧ u.dev.ctxs = (s.dueAt t).ctxs

/-- ATTACH, LEASE_RENEW, DETACH and TAKEOVER complete. Once admitted (Table 2-9 passes): ATTACH with an interval in range (0 stands for 500 ms) starts the lease HELD with D that many milliseconds away, moves READY to FROST and returns D; out of range it answers OUT_OF_RANGE and changes nothing else. LEASE_RENEW with host writes going on restarts D by the interval in force. DETACH from FROST ends the lease and moves the module to READY. A TAKEOVER that passes its checks restarts the lease TAKEN_OVER, records its ring and its result, and its completion goes to its own ring. (R369, R373, R65, Table 2-12) -/
def Obligations.LeaseCommands : Prop :=
  ∀ (s : State) (t r : Nat) (c : Cmd),
    let d := s.dueAt t
    (∀ ms, d.admits r c specAttach none → let d1 := d.taken r c specAttach none; leaseMs c = some ms → exec (.attach t r) s = .next (s.endsRing t r
      (({ d1 with lease := { d1.lease with status := .held, interval := ms, deadline := d1.now + ms * 1000000, setAt := d1.now, warned := false } } : Dev).moveFrost.answer c cOk (d1.now + ms * 1000000) 0)))
    ∧ (d.admits r c specAttach none → let d1 := d.taken r c specAttach none; leaseMs c = none → exec (.attach t r) s = .next (s.endsRing t r (d1.answer c cOutOfRange 0 0)))
    ∧ (d.admits r c specLeaseRenew (d.renewCond c) → let d1 := d.taken r c specLeaseRenew (d.renewCond c); d1.hostStopped = false → d1.modState ≠ .orphaned → exec (.leaseRenew t r) s = .next (s.endsRing t r
        (({ d1 with lease := { d1.lease with status := .held, deadline := d1.now + d1.lease.interval * 1000000, setAt := d1.now, warned := false } } : Dev).answer c cOk (d1.now + d1.lease.interval * 1000000) 0)))
    ∧ (d.admits r c specDetach (if d.anyLive then some cIllegal else none) → let d1 := d.taken r c specDetach (if d.anyLive then some cIllegal else none); d1.modState = .frost → exec (.detach t r) s = .next (s.endsRing t r
        ((({ d1 with lease := { d1.lease with status := .none, warned := false, deadline := 0, setAt := 0 } } : Dev).move .ready).answer c cOk 0 0)))
    ∧ (∀ ms, d.admits r c specTakeover none → let d1 := d.taken r c specTakeover none; leaseMs c = some ms → exec (.takeover t r) s = .next (s.endsRing t r
        (({ d1 with lease := { d1.lease with status := .takenOver, interval := ms, deadline := d1.now + ms * 1000000, setAt := d1.now, warned := false, takeRing := some r, resultCode := cOk, resultRing := r, resultValid := true } } : Dev).answerDirect c cOk (d1.now + ms * 1000000) 0)))

/-- ORPHAN_RESOLVE with RESUME and with DISCARD completes. Once admitted on the ring of the TAKEOVER in force: RESUME puts the stored records back before the records held at their rings, makes the lease HELD, leaves ORPHANED, answers OK with the number of stored records, and then lets the stopped operations and the held launches go on; DISCARD ends every job from QUEUED to DRAINING without a completion, drops the stored records and those that found the store full, ends the stopped operations and answers OK with the numbers of records and jobs. The state it leaves to is SNOWPACK where it came from there, ACTIVE with a job LAUNCHED, RUNNING or DRAINING, else FROST (a save or restore in progress does not make it ACTIVE). (R373, R78, Table 2-12) -/
def Obligations.OrphanResolution : Prop :=
  ∀ (s : State) (t r : Nat) (c : Cmd),
    let d := s.dueAt t
    d.admits r c specOrphanResolve (d.resolveCond c) → let d1 := d.taken r c specOrphanResolve (d.resolveCond c);
    (c.fld 0x18 0 0 = 0 → exec (.orphanResolveResume t r) s = .next (s.endsRing t r
      (((d1.releaseStore.leaveOrphaned.answer c cOk d1.lease.store.length 0).resumeStopped).resumeLaunches)))
    ∧ (c.fld 0x18 0 0 = 1 → exec (.orphanResolveDiscard t r) s = .next (s.endsRing t r
      ((((({ d1.liveJobs.foldl (fun d id => d.abortJob id false) d1 with rings := (d1.liveJobs.foldl (fun d id => d.abortJob id false) d1).rings.map (fun (e : Nat × Ring) => (e.1, { e.2 with held := e.2.held.filter (fun x => x.direct) })) } : Dev).updLease (fun l => { l with store := [] })).discardStopped).leaveOrphaned).answer c cOk d1.lease.store.length d1.liveJobs.length)))
    ∧ ∀ x : Dev, x.leaveOrphaned.lease.status = .held ∧ x.leaveOrphaned.lease.takeRing = none
        ∧ x.leaveOrphaned.modState = if x.lease.fromSnowpack then .snowpack else if x.anyRunning then .active else .frost

/-- LEASE_WARNING, LEASE_EXPIRY and TAKEOVER_LAPSE complete at their times, whatever the command that brings the clock there: these three rows only bring it. Once device time reaches 75% of the interval since the command that set D, up to D, the lease has warned once, with a class-4 LEASE_WARNING of that moment. At the first tick past D a HELD lease is EXPIRED and counted, and from FROST, ACTIVE or SNOWPACK the module is ORPHANED; a takeover's lease past D is EXPIRED again and its ring forgotten. Before those times the lease is as it was. Jobs are unchanged throughout. (R370, R371, R372, R373) -/
def Obligations.LeaseTimes : Prop :=
  ∀ (s : State) (t : Nat),
    let l := s.dev.lease
    let now := max s.dev.now t
    ((l.status = .held ∨ l.status = .takenOver) → l.warned = false → l.setAt + 750000 * l.interval ≤ now → now ≤ l.deadline → s.dev.sec.unlock = .none →
        ∃ u, exec (.leaseWarning t) s = .next u ∧ u.dev.lease = { l with warned := true } ∧ u.dev.attnqs = (({ s.dev with now := l.setAt + 750000 * l.interval } : Dev).class4 0x001).attnqs)
    ∧ (l.status = .held → l.deadline < now → (s.dev.modState = .frost ∨ s.dev.modState = .active ∨ s.dev.modState = .snowpack) → ∃ u, exec (.leaseExpiry t) s = .next u
        ∧ u.dev.modState = .orphaned ∧ u.dev.lease.status = .expired ∧ u.dev.lease.expiries = satAdd 0xFFFFFFFF l.expiries 1 ∧ u.dev.lease.fromSnowpack = (s.dev.modState == .snowpack) ∧ u.dev.jobs = s.dev.jobs)
    ∧ (l.status = .takenOver → l.deadline < now → ∃ u, exec (.takeoverLapse t) s = .next u
        ∧ u.dev.lease.status = .expired ∧ u.dev.lease.takeRing = none ∧ u.dev.lease.expiries = satAdd 0xFFFFFFFF l.expiries 1 ∧ u.dev.jobs = s.dev.jobs)
    ∧ (now < l.setAt + 750000 * l.interval → now ≤ l.deadline → ∃ u v w, exec (.leaseWarning t) s = .next u ∧ exec (.leaseExpiry t) s = .next v ∧ exec (.takeoverLapse t) s = .next w
        ∧ u.dev.lease = l ∧ v.dev.lease = l ∧ w.dev.lease = l)

/-- POWER_STATE to SNOWPACK and to FROST, SNOWPACK_ENTRY_COMPLETE and SNOWPACK_EXIT_COMPLETE complete. Once admitted, POWER_STATE waits with its time of check, its ring waiting for its one record (this model reads R49 so: notes/assumptions/17.md). With the power core at work, from FROST a waiting entry puts the stacks into self-refresh and the ports into low power, moves the module to SNOWPACK and completes OK. A waiting exit completes OK 120 ms after its check and not before: the stacks and ports return and the module is FROST again. (R332, Table 2-12) -/
def Obligations.SnowpackEntryAndExit : Prop :=
  ∀ (s : State) (t r : Nat) (c : Cmd) (o : PowerOp) (rest : List PowerOp),
    let d := s.dueAt t
    (d.admits r c specPowerState (d.powerStateCond c) → let d1 := d.taken r c specPowerState (d.powerStateCond c);
      (c.fld 0x18 0 0 = 1 → exec (.powerStateSnowpack t r) s = .next (s.endsRing t r
        { d1.awaitRecord c with pwr := { (d1.awaitRecord c).pwr with powerOps := (d1.awaitRecord c).pwr.powerOps ++ [{ cmd := { c with interim := true }, toSnowpack := true, check := (d1.awaitRecord c).now }] } }))
      ∧ (c.fld 0x18 0 0 = 0 → exec (.powerStateFrost t r) s = .next (s.endsRing t r
        { d1.awaitRecord c with pwr := { (d1.awaitRecord c).pwr with powerOps := (d1.awaitRecord c).pwr.powerOps ++ [{ cmd := { c with interim := true }, toSnowpack := false, check := (d1.awaitRecord c).now }] } })))
    ∧ (d.powerCore = true → d.modState = .frost → d.pwr.powerOps = o :: rest → o.toSnowpack = true → exec (.snowpackEntryComplete t) s = .next (s.endsWith t
        (((({ d with pwr := { d.pwr with powerOps := rest } } : Dev).stacksTo true).portsDown.move .snowpack).finishCmd o.cmd cOk 0 0)))
    ∧ (d.powerCore = true → d.modState = .snowpack → d.pwr.powerOps = o :: rest → o.toSnowpack = false → o.check + 120000000 ≤ d.now → exec (.snowpackExitComplete t) s = .next (s.endsWith t
        (((({ d with pwr := { d.pwr with powerOps := rest } } : Dev).stacksTo false).portsUp.moveFrost).finishCmd o.cmd cOk 0 0)))
    ∧ (d.pwr.powerOps = [o] → d.now < o.check + 120000000 → exec (.snowpackExitComplete t) s = .next (s.endsWith t d))

/-- JOB_DEFINE, JOB_PLACE, JOB_ABORT and JOB_RELEASE complete. Once admitted: JOB_DEFINE of a well-formed plan of 128 bytes to 16 MiB at a multiple of 64, on cores that are present and with room in the plan store, creates a job in DEFINED with the next JOB_ID and answers OK with it. JOB_PLACE with a record address that is 0 or a multiple of 64 writes the placement record there and answers OK with the regions mapped and the rows replicated; a placement that fails answers its code and changes nothing else. JOB_ABORT ends the job as ABORTED and JOB_RELEASE frees its handle; each answers OK. (R257, R258, R261, R60, R266) -/
def Obligations.JobsAreDefinedPlacedAndEnded : Prop :=
  ∀ (s : State) (t r : Nat) (c : Cmd),
    let d := s.dueAt t
    (d.admits r c specJobDefine (d.ctxCond c) → let d1 := d.taken r c specJobDefine (d.ctxCond c); c.qw 0x18 % 64 = 0 → 128 ≤ c.dw 0x20 → c.dw 0x20 ≤ 16777216 → planOk (memReadN d1.hostMem (c.qw 0x18) (c.dw 0x20)) = true →
      planCores (memReadN d1.hostMem (c.qw 0x18) (c.dw 0x20)) < 2 ^ d1.nCores → d1.jobs.length < 4096 → planUnits (memReadN d1.hostMem (c.qw 0x18) (c.dw 0x20)) ≤ d1.planFree → d1.nextJob < 0xFFFFFFFF →
      ∃ u, exec (.jobDefine t r) s = .next u ∧ u.dev.nextJob = d1.nextJob + 1 ∧ u.dev.jobs = d1.jobs.put d1.nextJob
        { ctx := c.ctx, jstate := .defined, plan := memReadN d1.hostMem (c.qw 0x18) (c.dw 0x20), cores := planCores (memReadN d1.hostMem (c.qw 0x18) (c.dw 0x20)), seed := planSeed (memReadN d1.hostMem (c.qw 0x18) (c.dw 0x20)) })
    ∧ (∀ j j' d2, d.admits r c specJobPlace (d.jobCond c (fun js => js == .defined)) → let d1 := d.taken r c specJobPlace (d.jobCond c (fun js => js == .defined)); d1.jobs.get? c.job = some j → c.qw 0x18 % 64 = 0 → d1.placeJob c.job j = .ok (j', d2) →
        exec (.jobPlace t r) s = .next (s.endsRing t r ((if c.qw 0x18 = 0 then d2 else d2.writeHost (c.qw 0x18) (placementRecord j'.tensors)).answer c cOk
          (j'.tensors.foldl (fun n q => if q.mode != 0 && !q.reused then n + q.regions else n) 0 + 2 ^ 32 * j'.hotRows.length) 0)))
    ∧ (∀ j e, d.admits r c specJobPlace (d.jobCond c (fun js => js == .defined)) → let d1 := d.taken r c specJobPlace (d.jobCond c (fun js => js == .defined)); d1.jobs.get? c.job = some j → c.qw 0x18 % 64 = 0 → d1.placeJob c.job j = .error e →
        exec (.jobPlace t r) s = .next (s.endsRing t r (d1.answer c e 0 0)))
    ∧ (d.admits r c specJobAbort (d.jobCond c (fun js => !js.over?)) → let d1 := d.taken r c specJobAbort (d.jobCond c (fun js => !js.over?)); exec (.jobAbort t r) s = .next (s.endsRing t r ((d1.abortJob c.job true).answer c cOk 0 0)))
    ∧ (d.admits r c specJobRelease (d.jobCond c JobState.over?) → let d1 := d.taken r c specJobRelease (d.jobCond c JobState.over?); exec (.jobRelease t r) s = .next (s.endsRing t r ((d1.releaseJob c.job).answer c cOk 0 0)))

/-- JOB_QUEUE completes. Once admitted: with the checks of R74 passed, the job is QUEUED, its entry joins the launch entries in check order, its completion synchronisation object is noted, and the answer is PENDING. A condition whose fields disagree, an object of another context, a launch time more than 2^44 ticks away, a time already too near with REJECT_LATE, or 4,096 entries taken, answers BAD_FORMAT, ILLEGAL_IN_STATE, OUT_OF_RANGE, OUT_OF_RANGE or NO_RESOURCE and changes nothing else. (R73, R74, Table 3-4) -/
def Obligations.JobQueueTakesALaunchEntry : Prop :=
  ∀ (s : State) (t r : Nat) (c : Cmd) (j : Job), (s.dueAt t).admits r c specJobQueue ((s.dueAt t).jobQueueCond c) → let d1 := (s.dueAt t).taken r c specJobQueue ((s.dueAt t).jobQueueCond c); d1.jobs.get? c.job = some j →
    (∀ code, d1.queueCheck c = some code → exec (.jobQueue t r) s = .next (s.endsRing t r (d1.answer c code 0 0)))
    ∧ (d1.queueCheck c = none → (d1.queueEntry c).waiting = false → ∃ u, exec (.jobQueue t r) s = .next u
        ∧ u.dev.jobs = d1.jobs.put c.job { j with jstate := .queued, pend := some (d1.pendOf c), ring := some c.ring, doneSync := (if c.fld 0x28 14 14 = 1 then some (c.fld 0x28 13 0) else none), held := false, late := false, startS := 0 }
        ∧ u.dev.launches.map Launch.job = d1.launches.map Launch.job ++ [c.job])
    ∧ (d1.queueCheck c = none ↔ d1.queueConsistent c = true
        ∧ ¬ ((c.fld 0x18 1 0 = 2 ∨ c.fld 0x18 1 0 = 3) ∧ (d1.sync (c.fld 0x1C 13 0)).owner ≠ c.ctx) ∧ ¬ (c.fld 0x28 14 14 = 1 ∧ (d1.sync (c.fld 0x28 13 0)).owner ≠ c.ctx)
        ∧ ¬ ((c.fld 0x18 1 0 = 1 ∨ c.fld 0x18 1 0 = 3) ∧ d1.now + 2 ^ 44 < c.qw 0x20) ∧ ¬ (c.fld 0x18 2 2 = 1 ∧ d1.queueKnown c < d1.now + 2000) ∧ d1.launches.length < 4096)

/-- LAUNCH_RELEASE_SEND, JOB_LAUNCH, JOB_DONE and JOB_FAULT_FINAL complete. For a launch entry whose start S is determined: its release is sent once device time plus the lead of 2,000 ticks has reached S, in FROST or ACTIVE, and not before; at S, with the release sent, the job starts on its units and leaves the launch entries. A DRAINING job whose cores hold nothing in progress writes back its slate positions and is DONE: its cores are free and its final completion is OK. A faulted job whose units have stopped gets its final completion and frees its cores. (R75, R76, R60, R79, R404) -/
def Obligations.LaunchSchedulerAndJobEnds : Prop :=
  ∀ (s : State) (t id : Nat) (e : Launch) (j : Job) (S : Nat),
    let d := s.dueAt t
    (d.entryOf id = some e → d.entryS e = some S → d.releases = true → S ≤ d.now + 2000 → exec (.launchReleaseSend t id) s = .next (s.endsWith t
        { d with launches := d.launches.map (fun x => if x.job = id then { x with sent := true } else x) }))
    ∧ (d.entryOf id = some e → d.entryS e = some S → d.now + 2000 < S → exec (.launchReleaseSend t id) s = .next (s.endsWith t d))
    ∧ (d.entryOf id = some e → d.jobs.get? id = some j → d.entryS e = some S → e.sent = true → d.jobsRun = true → S ≤ d.now → exec (.jobLaunch t id) s = .next (s.endsWith t (d.launchJob e j S)))
    ∧ (d.entryOf id = some e → d.jobs.get? id = some j → d.entryS e = some S → d.now < S → exec (.jobLaunch t id) s = .next (s.endsWith t d))
    ∧ (d.jobs.get? id = some j → d.jobsRun = true → j.jstate = .draining → d.coresDrained j.cores = true → j.slateBind = [] → j.doneSync = none →
        ∃ x, x = (maskCores j.cores).foldl (fun d n => (upFrom 0 8).foldl (fun d m => d.updTidy (8 * n + m) (fun x => { x with slate := [], tstate := .idle })) d) d
          ∧ exec (.jobDone t id) s = .next (s.endsWith t ((((x.updJob id (fun j => { j with jstate := .done })).freeCores id j.cores).jobFinal id cOk).flushDeferred.evalLaunches)))
    ∧ (∀ code, d.jobs.get? id = some j → d.jobsRun = true → j.faultCode = some code → exec (.jobFaultFinal t id) s = .next (s.endsWith t
        ((((d.jobFinal id code).updJob id (fun j => { j with faultCode := none })).freeCores id j.cores).evalLaunches)))

/-- CTX_CREATE and CTX_DESTROY complete. Once admitted: CTX_CREATE gives the lowest FREE context, IDLE with the six native shapes at 256 by 256 tiles, the policy of its record and its function as owner, and answers OK with the number; with no FREE context it answers NO_RESOURCE and changes nothing else. CTX_DESTROY of a context with no transfer under way answers OK; its ports, jobs and contents are released, and no region and no synchronisation object belongs to it any more. A CTX_DESTROY whose context has transfers under way waits and changes nothing. (R288, R289, Table 12-1, Table 19-8) -/
def Obligations.ContextsComeAndGo : Prop :=
  ∀ (s : State) (t r : Nat) (c : Cmd),
    let d := s.dueAt t
    (∀ n, d.admits r c specCtxCreate none → let d1 := d.taken r c specCtxCreate none; (upFrom 0 64).find? (fun n => (d1.ctx n).cstate == .free) = some n → exec (.ctxCreate t r) s = .next (s.endsRing t r
      ((({ d1 with ctxs := d1.ctxs.put n { cstate := .idle, throughput := c.fld 0x18 0 0 == 1, owner := c.fn, geomCores := d1.nCores, log2Rows := 8, log2Cols := 8, shapes := nativeShapes } } : Dev).ctxTree c.fn).answer c cOk n 0)))
    ∧ (d.admits r c specCtxCreate none → let d1 := d.taken r c specCtxCreate none; (upFrom 0 64).find? (fun n => (d1.ctx n).cstate == .free) = none → exec (.ctxCreate t r) s = .next (s.endsRing t r (d1.answer c cNoResource 0 0)))
    ∧ (d.admits r c specCtxDestroy (d.ctxJobsCond c JobState.live?) → let d1 := d.taken r c specCtxDestroy (d.ctxJobsCond c JobState.live?); d.destroyWaits r = false → exec (.ctxDestroy t r) s = .next (s.endsRing t r ((d1.destroyCtx c.ctx).answer c cOk 0 0)))
    ∧ (d.destroyWaits r = true → exec (.ctxDestroy t r) s = .next (s.endsWith t d))
    ∧ ∀ (x : Dev) (n : Nat), n ≠ 0x7F → (x.destroyCtx n).regions.all (fun e => e.2.owner != n) = true ∧ (x.destroyCtx n).syncs.all (fun e => e.2.owner != n) = true

/-- CTX_SAVE, CTX_SAVE_DONE, CTX_RESTORE and CTX_RESTORE_DONE complete. Once admitted: CTX_SAVE with its address and share length multiples of 4,096, cores named, present and in service, and a limit that holds the image is answered PENDING and the context is SAVING; CTX_RESTORE of an image that passes its checks maps the image's regions, is answered PENDING and the context is RESTORING. When no job holds a core of the operation any more, a save writes the image at its address and answers OK with the size and the number of poisoned lines, and a restore gives the context the geometry, shapes and slate positions of the image; either keeps the image's share bytes for a later substitute (assumption 74), leaves the context IDLE, ends the operation and touches no byte of host memory but the image's, the stored and completion records apart. (R408, R409, R305, R306, R302, Table 17-4, Table 12-6) -/
def Obligations.ContextsAreSavedAndRestored : Prop :=
  ∀ (s : State) (t r : Nat) (c : Cmd),
    let d := s.dueAt t
    (d.admits r c specCtxSave (d.ctxJobsCond c JobState.running?) → let d1 := d.taken r c specCtxSave (d.ctxJobsCond c JobState.running?); saveAddr c % 4096 = 0 → (maskCores (saveCores c)).isEmpty = false → saveShare c % 4096 = 0 → saveShare c ≤ shareBytes →
      (maskCores (saveCores c)).all (fun n => decide (n < d1.nCores) && !d1.offline (.core n)) = true → imageSize (d1.saveLengths c) ≤ saveLimit c → imageSize (d1.saveLengths c) < 2 ^ 32 →
      exec (.ctxSave t r) s = .next (s.endsRing t r
        (((d1.answerPending c 0 0).updCtx c.ctx (fun k => { k with cstate := .saving })).pushCtxOp { ctx := c.ctx, cmd := { c with interim := true }, cores := saveCores c, restore := false })))
    ∧ (∀ as d2, d.admits r c specCtxRestore (d.ctxJobsCond c (fun js => !js.over?)) → let d1 := d.taken r c specCtxRestore (d.ctxJobsCond c (fun js => !js.over?)); d1.restoreCheck c = none → d1.mapGroups c.ctx (regionGroups ((d1.imgRegions c).map (fun x => d1.img c x.offset 32))) = some (as, d2) →
      exec (.ctxRestore t r) s = .next (s.endsRing t r
        (((d2.answerPending c 0 0).updCtx c.ctx (fun k => { k with cstate := .restoring, persist := as ++ k.persist })).pushCtxOp { ctx := c.ctx, cmd := { c with interim := true }, cores := (d2.imgHeader c).used, restore := true })))
    ∧ (∀ n o, d.ctxOpOf n false = some o → d.ctxOpReady o = true → imageSize (d.saveLengths o.cmd) ≤ saveLimit o.cmd → imageSize (d.saveLengths o.cmd) < 2 ^ 32 →
      exec (.ctxSaveDone t n) s = .next (s.endsWith t (((d.writeHost (saveAddr o.cmd) (d.saveImage o.cmd)).keepShares n (saveCores o.cmd) (saveShare o.cmd)).endCtxOp o cOk (imageSize (d.saveLengths o.cmd)) (d.savePoison o.cmd))))
    ∧ (∀ n o, d.ctxOpOf n true = some o → d.ctxOpReady o = true →
      let h := d.imgHeader o.cmd
      let w := (maskCores h.used).foldl (fun d n => ((d.restoreTiles o.cmd h n).restoreTidies o.cmd h n).restoreShare o.cmd h n) d
      let x := ((({ w with geom := { w.geom with restoreDue := w.geom.restoreDue - (w.geom.restoreDue &&& h.used) } } : Dev).keepShares n h.used h.share).restoreRegions o.cmd).restorePoison o.cmd
      let shapes := h.shapeMap (x.ctx n).throughput
      let subs := (shapes.filter (fun (e : Nat × ShapeEntry) => e.2.realise == 3)).length
      let y := x.updCtx n (fun k => { k with
        geomCores := h.cores, fromFs8 := h.fromFs8, log2Rows := h.log2Rows, log2Cols := h.log2Cols, shapes, slate := x.imgSlate o.cmd h
        tdcTotal := w64 (k.tdcTotal + subs), tdcRestore := satAdd 0xFFFFFFFF k.tdcRestore subs })
      exec (.ctxRestoreDone t n) s = .next (s.endsWith t (y.endCtxOp o cOk ((y.ctx n).realiseWord + 2 ^ 16 * (y.ctx n).shapeWord) subs)))
    ∧ ∀ (x : Dev) (o : CtxOp) (code r0 r1 : Nat), ∃ y, x.endCtxOp o code r0 r1 = ((y : Dev).finishCmd o.cmd code r0 r1).evalLaunches ∧ (y.ctx o.ctx).cstate = .idle ∧ y.ctxOps.all (fun p => p.ctx != o.ctx) = true ∧ y.hostMem = x.hostMem

/-- SEED_REQUEST and ENTROPY_READ complete. Once admitted, with the service READY, no request held and no reseed or instantiation due: SEED_REQUEST with a receipt address that is a multiple of 32 takes the next ENTROPY_SEQ, writes the receipt (seed, sequence number, device time) unless its address is 0, and answers OK with the seed in its results; ENTROPY_READ (TAP 0, no WAIT_WINDOW) of 8 to 64 bytes writes its record (sequence number, device time, output) and answers OK with the number and the time. The output is the generator's (R232). In NOT_READY or TEST both answer ENTROPY_NOT_READY, in FAULT ENTROPY_FAULT (a read of TAP 0 in TEST answers ILLEGAL_IN_STATE), and no output is used. (R222, R234, R242, R244, R245, R246, Table 10-5) -/
def Obligations.EntropyRequestsAreDelivered : Prop :=
  ∀ (s : State) (t r : Nat) (c : Cmd),
    let d := s.dueAt t
    let readForm := 8 ≤ c.fld 0x18 6 0 ∧ c.fld 0x18 6 0 ≤ 64 ∧ c.fld 0x18 6 0 % 8 = 0 ∧ c.fld 0x18 9 8 = 0 ∧ c.qw 0x20 ≠ 0 ∧ c.qw 0x20 % 16 = 0
    (d.admits r c specSeedRequest none → let d1 := d.taken r c specSeedRequest none; c.qw 0x18 % 32 = 0 → d1.ent.service = .ready → d1.ent.queue = [] → d1.entPrepare = d1 →
      let x := (d1.entGenerate 16).2.updEnt (fun e => { e with seq := e.seq + 1 })
      let v := leNat (d1.entGenerate 16).1
      exec (.seedRequest t r) s = .next (s.endsRing t r (x.writeThenAnswer c (c.qw 0x18)
        (if c.qw 0x18 = 0 then [] else leBytes 16 v ++ leBytes 8 (d1.ent.seq + 1) ++ leBytes 8 x.deviceTime) cOk (v % 2 ^ 64) (v / 2 ^ 64))))
    ∧ (∀ code, d.admits r c specSeedRequest none → let d1 := d.taken r c specSeedRequest none; c.qw 0x18 % 32 = 0 → d1.ent.serviceCode = some code → exec (.seedRequest t r) s = .next (s.endsRing t r (d1.answer c code 0 0)))
    ∧ (d.admits r c specEntropyRead none → let d1 := d.taken r c specEntropyRead none; readForm → c.fld 0x18 7 7 = 0 → d1.ent.service = .ready → d1.ent.queue = [] → d1.entPrepare = d1 →
      let n := c.fld 0x18 6 0
      let x := (d1.entGenerate n).2.updEnt (fun e => { e with seq := e.seq + 1 })
      exec (.entropyRead t r) s = .next (s.endsRing t r (x.writeThenAnswer c (c.qw 0x20) (leBytes 8 (d1.ent.seq + 1) ++ leBytes 8 x.deviceTime ++ (d1.entGenerate n).1) cOk (d1.ent.seq + 1) x.deviceTime)))
    ∧ (∀ code, d.admits r c specEntropyRead none → let d1 := d.taken r c specEntropyRead none; readForm → d1.ent.service ≠ .test → d1.ent.serviceCode = some code → exec (.entropyRead t r) s = .next (s.endsRing t r (d1.answer c code 0 0)))
    ∧ (d.admits r c specEntropyRead none → let d1 := d.taken r c specEntropyRead none; readForm → d1.ent.service = .test → exec (.entropyRead t r) s = .next (s.endsRing t r (d1.answer c cIllegal 0 0)))

/-- DRBG_INSTANTIATE_DONE, DRBG_RESEED and GENERATE_REQUEST complete. With the service NOT_READY and source 0 in STANDBY with 512 pool bits, the generator is instantiated from them and the service is READY. After 65,536 requests since its last reseed, the generator takes 384 bits of the active pool, or, with fewer there, the service holds its requests. A held request that the ready generator serves next is delivered with the next sequence number and leaves the queue, the later ones stay in order; in any service state but READY none is served. (R233, R234, R235, R236, R240) -/
def Obligations.GeneratorSteps : Prop :=
  ∀ (s : State) (t : Nat) (q : EntReq) (rest : List EntReq),
    let d := s.dueAt t
    (d.ent.service = .notReady → d.ent.src0.sstate = .standby → 512 ≤ d.ent.src0.poolLen → ∃ u, exec (.drbgInstantiateDone t) s = .next u ∧ u.dev.ent.service = .ready ∧ u.dev.ent.activeSrc = 0 ∧ u.dev.ent.genCount = 0)
    ∧ (d.ent.service = .ready → d.ent.genCount = 65536 → d.ent.gen.isSome = true → d.ent.renew = false → 384 ≤ (d.ent.src d.ent.activeSrc).poolLen →
        exec (.drbgReseed t) s = .next (s.endsWith t (d.updEnt (fun e => { e.reseed with service := .ready }))) ∧ d.ent.reseed.genCount = 0)
    ∧ (d.ent.service = .ready → d.ent.genCount = 65536 → d.ent.gen.isSome = true → d.ent.renew = false → (d.ent.src d.ent.activeSrc).poolLen < 384 →
        exec (.drbgReseed t) s = .next (s.endsWith t { d with ent := { d.ent with service := .holding } }))
    ∧ (d.ent.service = .ready → d.entPrepare = d → d.ent.queue = q :: rest → q.out = none → q.wait = false →
        exec (.generateRequest t) s = .next (s.endsWith t (((d.entGenerate q.len).2.entDeliver q (d.entGenerate q.len).1).updEnt (fun e => { e with queue := rest }))))
    ∧ (d.ent.service ≠ .ready → exec (.generateRequest t) s = .next (s.endsWith t d))

/-- SOURCE_SETTLED, ENTROPY_WINDOW_END, REPETITION_COUNT_FAILURE and ADAPTIVE_PROPORTION_FAILURE complete. A source in STARTUP that settles begins window 0. A window of 1,024 samples that passes both tests advances the start-up test, or conditions the samples into the pool of a STANDBY or ACTIVE source, and the next window begins; with a failure in it, it yields nothing. A repetition count or adaptive proportion failure of the active source with the other in STANDBY marks it FAILED with its pool and conditioner discarded, queues the class-3 record (code 1 or 2, source plus 2, window, ENTROPY_SEQ at the window's start), discards undelivered output, and the other source is ACTIVE with the service HOLDING. A failure of a standby source marks it FAILED and leaves the service. (R227, R228, R229, R231, R236, R237, R239) -/
def Obligations.NoiseSourcesAndTheirTests : Prop :=
  ∀ (s : State) (t i : Nat) (raw : List Byte), i < 2 →
    let d := s.dueAt t
    let x := d.ent.src i
    (x.sstate = .startup → x.settled = false → exec (.sourceSettled t i) s = .next (s.endsWith t { d with ent := d.ent.setSrc i ({ x with settled := true, window := 0, windowFailed := false, passRun := 0, attempts := 0, lastSample := none, runLength := 0, seqAtWindow := d.ent.seq }) }))
    ∧ (x.settled = true → x.sstate = .startup → raw.length = 128 → d.ent.service ≠ .test → x.windowFailed = false → (rctRun x.lastSample x.runLength (samplesOf raw)).2.2 = false → aptFails (samplesOf raw) = false →
        ∃ u, exec (.entropyWindowEnd t i raw) s = .next u ∧ (u.dev.ent.src i).window = x.window + 1 ∧ (u.dev.ent.src i).windowFailed = false
          ∧ (u.dev.ent.src i).sstate = (if x.passRun = 3 then .standby else .startup) ∧ (u.dev.ent.src i).passRun = (if x.passRun = 3 then 0 else x.passRun + 1))
    ∧ (x.settled = true → x.sstate ≠ .off → raw.length = 128 → x.windowFailed = true → d.ent.service ≠ .test → ∃ u, exec (.entropyWindowEnd t i raw) s = .next u
          ∧ (u.dev.ent.src i).window = x.window + 1 ∧ (u.dev.ent.src i).windowFailed = false ∧ (u.dev.ent.src i).pool = x.pool ∧ (u.dev.ent.src i).poolLen = x.poolLen ∧ (u.dev.ent.src i).sstate = x.sstate)
    ∧ (x.settled = true → x.sstate = .active → x.windowFailed = false → d.ent.service = .ready → (d.ent.src (1 - i)).sstate = .standby →
        (∃ u, exec (.repetitionCountFailure t i) s = .next u ∧ (u.dev.ent.src i).sstate = .failed ∧ (u.dev.ent.src i).poolLen = 0 ∧ (u.dev.ent.src i).lfsr = 0 ∧ (u.dev.ent.src i).rctFails = satAdd 255 x.rctFails 1
            ∧ (u.dev.ent.src (1 - i)).sstate = .active ∧ u.dev.ent.service = .holding ∧ u.dev.ent.activeSrc = 1 - i ∧ u.dev.ent.suspect = x.seqAtWindow ∧ u.dev.ent.queue.map EntReq.cmd = d.ent.queue.map EntReq.cmd)
        ∧ (∃ u, exec (.adaptiveProportionFailure t i) s = .next u ∧ (u.dev.ent.src i).sstate = .failed ∧ (u.dev.ent.src i).poolLen = 0 ∧ (u.dev.ent.src i).lfsr = 0 ∧ (u.dev.ent.src i).aptFails = satAdd 255 x.aptFails 1
            ∧ (u.dev.ent.src (1 - i)).sstate = .active ∧ u.dev.ent.service = .holding ∧ u.dev.ent.activeSrc = 1 - i ∧ u.dev.ent.suspect = x.seqAtWindow ∧ u.dev.ent.queue.map EntReq.cmd = d.ent.queue.map EntReq.cmd))
    ∧ (x.settled = true → x.sstate = .standby → x.windowFailed = false → d.ent.service = .ready →
        (∃ u, exec (.repetitionCountFailure t i) s = .next u ∧ (u.dev.ent.src i).sstate = .failed ∧ (u.dev.ent.src i).poolLen = 0 ∧ u.dev.ent.src (1 - i) = d.ent.src (1 - i) ∧ u.dev.ent.service = .ready ∧ u.dev.ent.queue = d.ent.queue)
        ∧ (∃ u, exec (.adaptiveProportionFailure t i) s = .next u ∧ (u.dev.ent.src i).sstate = .failed ∧ (u.dev.ent.src i).poolLen = 0 ∧ u.dev.ent.src (1 - i) = d.ent.src (1 - i) ∧ u.dev.ent.service = .ready ∧ u.dev.ent.queue = d.ent.queue))

/-- ENT_RETEST, TEST_PATTERN_SELECT, TEST_PATTERN_DESELECT and ENT_TEST_HI_WRITE complete. With the page open to the host: a RETEST write starts again every FAILED source's test and bars another for 10 s, unless one came less than 10 s ago or the service is TEST, when it is refused as ILLEGAL_IN_STATE; in FACTORY, setting SELECT makes the service TEST with the source named, drops the generator's seed and completes every held request with ENTROPY_NOT_READY, the high half of the pattern loads the 64-bit pattern from bit 0, and clearing SELECT ends TEST with both sources in STARTUP and the service NOT_READY. Outside FACTORY the test registers are refused. (R247, R249) -/
def Obligations.EntropyPageWrites : Prop :=
  ∀ (s : State) (t v : Nat), (s.dueAt t).hostOpen .entropy = true →
    let d := s.dueAt t
    let again (x : NoiseSrc) : NoiseSrc := if x.sstate = .failed then { x with sstate := .startup, retest := true, windowFailed := true, passRun := 0, attempts := 0, lfsr := 0, pool := 0, poolLen := 0 } else x
    (bit v 0 = true → d.ent.retestFrom ≤ d.sincePower → d.ent.service ≠ .test → exec (.entRetest t v) s = .next (s.endsWith t
      { d with ent := { d.ent with src0 := again d.ent.src0, src1 := again d.ent.src1, retestFrom := d.sincePower + 10000000000 } }))
    ∧ (bit v 0 = true → d.sincePower < d.ent.retestFrom → exec (.entRetest t v) s = .next (s.endsWith t (d.refuse 0 UnitId.entropy.page 0x044 4 v cIllegal)))
    ∧ (d.sec.life = 0 → exec (.testPatternSelect t v) s = .next (s.endsWith t
        (({ d with ent := { d.ent with testSelect := true, testSource := bits (v ||| 1) 1 1, service := .test, gen := none, renew := false, tapRaw := 0, tapCond := 0, tapLfsr := 0 } } : Dev).entAnswerAll cEntNotReady)))
    ∧ (d.sec.life = 0 → d.ent.service = .test → ∃ u, exec (.testPatternDeselect t v) s = .next u ∧ u.dev.ent.service = .notReady ∧ u.dev.ent.src0.sstate = .startup ∧ u.dev.ent.src1.sstate = .startup
        ∧ u.dev.ent.src0.poolLen = 0 ∧ u.dev.ent.src1.poolLen = 0 ∧ u.dev.ent.gen = none)
    ∧ (d.sec.life = 0 → exec (.entTestHiWrite t v) s = .next (s.endsWith t { d with ent := { d.ent with pattern := d.ent.testLo + 2 ^ 32 * (v % 2 ^ 32), tapRaw := 0, tapCond := 0, tapLfsr := 0 } }))
    ∧ (d.sec.life ≠ 0 → exec (.entTestHiWrite t v) s = .next (s.endsWith t (d.refuse 0 UnitId.entropy.page 0x074 4 v cIllegal)))

/-- SET_CAP, SET_PLATFORM_LIMIT, SET_ICE_MODE, CAP_TAKES_EFFECT, SETTLING_INTERVAL_END and ICE_MODE_TAKES_EFFECT complete. Once admitted with its value in range (380 to 1,200 W, a cap not above the platform limit, its order a permutation; a platform limit with both unused fields 0) and no cap change waiting, SET_CAP outside SNOWPACK or SET_PLATFORM_LIMIT is answered PENDING with S and waits; SET_ICE_MODE with a point that the part has likewise. At S and not before, even while the power core restarts, the first waiting cap change puts its value and, for a cap, its order in force and starts its settling interval; 10 ms after S, still unmet, it completes CAP_UNREACHABLE and the previous value and order are back. At the earliest S of the Ice-mode commands that wait, and not before, that command enters Ice mode at its point with full memory and link rates, or leaves it; those with nothing left to wait for then complete OK. (R318, R319, R320, R323, R324) -/
def Obligations.CapsAndIceMode : Prop :=
  ∀ (s : State) (t r : Nat) (c : Cmd) (o : CapOp) (i : IceOp) (rest : List CapOp),
    let d := s.dueAt t
    let inRange (d1 : Dev) := 380 ≤ c.fld 0x18 10 0 ∧ c.fld 0x18 10 0 ≤ 1200 ∧ d1.pwr.capOps = []
    (d.admits r c specSetCap none → let d1 := d.taken r c specSetCap none; prioOk (c.fld 0x18 21 16) = true → inRange d1 → c.fld 0x18 10 0 ≤ d1.pwr.platform → d1.modState ≠ .snowpack →
      exec (.setCap t r) s = .next (s.endsRing t r ((d1.answerPending c (d1.effective (c.qw 0x20)) 0).updPwr (fun p => { p with
        capOps := p.capOps ++ [{ cmd := { c with interim := true }, platform := false, watts := c.fld 0x18 10 0, prio := c.fld 0x18 21 16, ownS := some (d1.effective (c.qw 0x20)) }] }))))
    ∧ (d.admits r c specSetPlatformLimit none → let d1 := d.taken r c specSetPlatformLimit none; c.fld 0x18 21 16 = 0 → c.qw 0x20 = 0 → inRange d1 → d1.modState ≠ .snowpack →
      exec (.setPlatformLimit t r) s = .next (s.endsRing t r ((d1.answerPending c d1.now 0).updPwr (fun p => { p with
        capOps := p.capOps ++ [{ cmd := { c with interim := true }, platform := true, watts := c.fld 0x18 10 0, prio := c.fld 0x18 21 16, ownS := some d1.now }] }))))
    ∧ (d.admits r c specSetIceMode none → let d1 := d.taken r c specSetIceMode none; c.fld 0x18 12 8 ≤ d1.pwr.high → (c.fld 0x18 0 0 = 1 ∨ c.fld 0x18 12 8 = 0) →
      exec (.setIceMode t r) s = .next (s.endsRing t r ((d1.answerPending c (d1.effective (c.qw 0x20)) 0).updPwr (fun p => { p with
        iceOps := p.iceOps ++ [{ cmd := { c with interim := true }, enable := c.fld 0x18 0 0 == 1, point := c.fld 0x18 12 8, s := d1.effective (c.qw 0x20) }] }))))
    ∧ (∀ S, d.pwr.capOps = o :: rest → o.s = some S →
        (o.started = false → S ≤ d.now → exec (.capTakesEffect t) s = .next (s.endsWith t (d.updPwr (fun p => { p.setCap o.platform o.watts o.prio with
            capOps := { o with started := true, lowest := d.pwr.mean1 d.now, prevWatts := if o.platform then d.pwr.platform else d.pwr.cap, prevPrio := d.pwr.prio } :: rest })).capSettle))
        ∧ (d.now < S → exec (.capTakesEffect t) s = .next (s.endsWith t d))
        ∧ (o.started = true → S + 10000000 ≤ d.now → d.powerCore = true → exec (.settlingIntervalEnd t) s = .next (s.endsWith t ((d.updPwr (fun p => p.setCap o.platform o.prevWatts o.prevPrio)).endCap o cCapUnreachable)))
        ∧ (d.now < S + 10000000 → exec (.settlingIntervalEnd t) s = .next (s.endsWith t d)))
    ∧ (nextIce d.pwr.iceOps = some i →
        (i.s ≤ d.now → i.enable = true → exec (.iceModeTakesEffect t) s = .next (s.endsWith t (d.updPwr (fun p => { p with ice := true, icePoint := i.point, memK := 16, linkK := 16, iceOps := startIce i p.iceOps })).iceSettle))
        ∧ (i.s ≤ d.now → i.enable = false → d.pwr.ice = true → d.modState ≠ .ready → d.modState ≠ .frost → exec (.iceModeTakesEffect t) s = .next (s.endsWith t
            (d.updPwr (fun p => { p with ice := false, icePoint := 0, common := min p.icePoint p.high, iceOps := startIce i p.iceOps })).iceSettle))
        ∧ (d.now < i.s → exec (.iceModeTakesEffect t) s = .next (s.endsWith t d)))

/-- GOVERNOR_ESTIMATE, CONTROL_PERIOD, SMU_WINDOW_RECORD, SMU_ABSENCE_TIMEOUT, DISTRUST_ENTER, DISTRUST_EXIT, CAP_OVERRUN, EMERGENCY_CLEAR and SENSOR_SAMPLE complete. Each estimate moves E by at most 20 W per µs and lowers the peak duty by a step per µs at a mean of 1,430 W. A control period, at most one per 100 µs, sets the power state by the sustained controller and the thermal controls and moves each cluster by at most one point. A valid window record, as the last frame formed it and with the bit errors of its arrival, gives M and ends an absence; 1 ms without one begins an absence with its class-2 record. Distrust begins at 500 disagreeing windows and ends at 10,000 agreeing ones; a mean above cap + g for 10 ms at every floor is a CAP_OVERRUN; an emergency ends 1 s after its last condition. Each raises its class-2 record, and none of them happens before its condition. A sensor reading below every threshold is shown on the pages and trips nothing. (R311, R312, R313, R314, R321, R325, R326, R327, R329, R339) -/
def Obligations.PowerIsMeasuredAndControlled : Prop :=
  ∀ (s : State) (t : Nat) (l : LoadEstimate) (err endAt : Nat) (x : Temperatures),
    let d := s.dueAt t
    let p := d.pwr
    let w := windowOf (d.smu.record ^^^ err) endAt
    (∃ u, exec (.governorEstimate t l) s = .next u ∧ exec (.governorEstimate t l) s = .next (s.endsWith t ((d.updPwr (fun p => ((p.estimate d.now l).trackOverrun d.now).record d.now)).capSettle)))
    ∧ (∀ q y, p.samples = q :: y → (p.estimate d.now l).e ≤ p.e + 20000 * max 1 ((d.now - q.time) / 1000) ∧ p.e - 20000 * max 1 ((d.now - q.time) / 1000) ≤ (p.estimate d.now l).e)
    ∧ (d.powerCore = true → p.lastPeriod + 100000 ≤ d.now → exec (.controlPeriod t) s = .next (s.endsWith t
        ((((d.updPwr (fun p => (upFrom 0 4).foldl Power.thermalStep ((({ p with boostHeld := false } : Power).thermalRates).sustain ((upFrom 0 4).any d.clusterBusy) d.now))).updPwr (fun p => { p with lastPeriod := d.now })).movePoints).iceSettle)))
    ∧ (p.lastPeriod ≠ 0 → d.now < p.lastPeriod + 100000 → exec (.controlPeriod t) s = .next (s.endsWith t d))
    ∧ (∀ q : Power, ∀ cur target, cur ≤ q.high → target ≤ q.high → q.stepPoint cur target ≤ cur + 1 ∧ cur ≤ q.stepPoint cur target + 1)
    ∧ (d.smu.powered = true → w.crcOk = true → w.valid = true → p.smuSeq = none → p.smuAbsent = true → ∃ y : Dev, exec (.smuWindowRecord t ⟨err, endAt⟩) s = .next (s.endsWith t y) ∧ y.pwr.m = 100 * (w.power % 65536) ∧ y.pwr.smuAbsent = false ∧ y.pwr.lastValid = d.now ∧ y.pwr.disagree = 0)
    ∧ (p.smuAbsent = false → p.lastValid + 1000000 ≤ d.now → exec (.smuAbsenceTimeout t) s = .next (s.endsWith t ((d.updPwr (fun p => { p with smuAbsent := true, smuSeq := none, feedValid := false })).class2 0x004 0 p.lastValid).dropChanges))
    ∧ (p.smuAbsent = false → d.now < p.lastValid + 1000000 → exec (.smuAbsenceTimeout t) s = .next (s.endsWith t d))
    ∧ (d.powerCore = true → p.distrust = false → p.smuAbsent = false → 500 ≤ p.disagree → exec (.distrustEnter t) s = .next (s.endsWith t
        ((d.updPwr (fun p => { p with distrust := true, agree := 0, entries := satAdd 0xFFFF p.entries 1 })).class2 0x002 (watts12 p.e) (watts12 p.m))))
    ∧ (d.powerCore = true → p.distrust = true → p.smuAbsent = false → 10000 ≤ p.agree → exec (.distrustExit t) s = .next (s.endsWith t ((d.updPwr (fun p => { p with distrust := false })).class2 0x003 (watts12 p.e) (watts12 p.m))))
    ∧ (∀ o, d.powerCore = true → p.overSince = some o → p.overrun = false → o + 10000000 ≤ d.now → exec (.capOverrun t) s = .next (s.endsWith t
        ((d.updPwr (fun p => { p with overrun := true })).class2 0x001 (p.inForce / 1000) (min (p.mean10 d.now / 1000) 0x7FF))))
    ∧ (∀ b c, d.powerCore = true → p.emergencySince = some b → p.clearSince = some c → c + 1000000000 ≤ d.now → exec (.emergencyClear t) s = .next (s.endsWith t
        (({ d with pwr := { p with emergencySince := none, clearSince := none } } : Dev).class2 0x008 0 b)))
    ∧ (((d.keepTemps x).trackHold).powerCore = true → tripSource x = none → exec (.sensorSample t x) s = .next (s.endsWith t ((((d.keepTemps x).trackHold).hotControls x).hotClamp x)))

/-- SMU_METROLOGY_INTERVAL, SMU_FRAME, ATTRIBUTION_INTERVAL, SMU_ACCOUNT_ASSIGN and SMU_ACCOUNT_LABEL complete. A metrology interval adds its energy of rails A and B to the SMU's sums. A frame takes the next SEQ, counts, carries the window record formed from the SMU's state, and adds the entries of its slot B to the interval's sums where the slot's CRC holds (CRC convention: assumption 79), else notes the failure. The end of a whole interval (ten frames, slot B valid, some estimate) credits the accounts with the division of R343, else account 0 gets all and a class-9 record of code 6 is raised; TOTAL is then the energy metered. The shares of a division add up to its energy. SMU_ACCOUNT with good operands on a unit that answers and has room in its log is answered PENDING and waits for the SMU; on a unit that does not answer it is SMU_UNAVAILABLE. (R335, R338, R342, R343, R344, R346, Table 14-2) -/
def Obligations.MeteringAndAttribution : Prop :=
  ∀ (s : State) (t r : Nat) (c : Cmd) (x : SmuSample) (f : SmuFrameIn),
    let d := s.dueAt t
    let u := d.smu
    (u.powered = true → u.regs.sealCount ≠ 0 → x.outOfLimits = none → exec (.smuMetrologyInterval t x) s = .next (s.endsWith t
        { d with smu := { u with regs := { u.regs with accA := u.regs.accA + x.energyA, accB := u.regs.accB + x.energyB } } }))
    ∧ (u.powered = true → u.changes = [] → u.served = none → u.asks = [] →
        let slot := slotWord (d.slotB f) ^^^ f.errors
        exec (.smuFrame t f) s = .next (s.endsWith t
          { d with smu := { u with seq := (u.seq + 1) % 65536, record := u.windowRecord f.power d.pins.sealN, overWindow := false, frames := u.frames + 1, missed := u.missed || !crcHolds 544 slot,
                                   weights := if crcHolds 544 slot then (slotEntries slot).foldl (fun a e => addWeight a e.1 e.2) u.weights else u.weights } }))
    ∧ (u.powered = true → u.changes = [] → u.missed = false → 10 ≤ u.frames → 0 < (u.weights.map (fun e => e.2)).sum → ∃ v, exec (.attributionInterval t) s = .next v
        ∧ v.dev.smu.regs.energy = (u.regs.credit (divideEnergy (u.regs.energyTotal - u.regs.attributed) u.weights)).energy ∧ v.dev.smu.regs.total = u.regs.energyTotal ∧ v.dev.smu.regs.attributed = u.regs.energyTotal
        ∧ v.dev.smu.weights = [] ∧ v.dev.smu.frames = 0 ∧ v.dev.smu.regs.unattrib = u.regs.unattrib)
    ∧ (u.powered = true → u.changes = [] → u.missed = true → ∃ v, exec (.attributionInterval t) s = .next v
        ∧ v.dev.smu.regs.energy = (u.regs.credit [(0, u.regs.energyTotal - u.regs.attributed)]).energy ∧ v.dev.smu.regs.total = u.regs.energyTotal ∧ v.dev.smu.regs.unattrib = satAdd 0xFFFFFFFF u.regs.unattrib 1)
    ∧ (∀ (q : Nat) (w : Tab Nat), (w.map (fun e => e.1)).Nodup → 0 < (w.map (fun e => e.2)).sum → ((divideEnergy q w).map (fun e => e.2)).sum = q)
    ∧ (d.admits r c specSmuAccount none → let d1 := d.taken r c specSmuAccount none; d1.smuUp = true → d1.smu.regs.log.length < smuLogCapacity →
        (c.fld 0x18 1 0 = 0 → c.qw 0x20 = 0 → c.ctx < 64 → (d1.ctx c.ctx).cstate ≠ .free → exec (.smuAccountAssign t r) s = .next (s.endsRing t r ((d1.answerPending c 0 0).updSmu (fun u =>
            { u with changes := u.changes ++ [{ cmd := { c with interim := true }, label := false, ctx := c.ctx, account := c.fld 0x18 15 8, value := 0 }] }))))
        ∧ (c.fld 0x18 1 0 = 1 → c.ctx = 0x7F → exec (.smuAccountLabel t r) s = .next (s.endsRing t r ((d1.answerPending c 0 0).updSmu (fun u =>
            { u with changes := u.changes ++ [{ cmd := { c with interim := true }, label := true, ctx := 0x7F, account := c.fld 0x18 15 8, value := c.qw 0x20 }] })))))
    ∧ (d.admits r c specSmuAccount none → let d1 := d.taken r c specSmuAccount none; d1.smuUp = false → c.fld 0x18 1 0 = 1 → c.ctx = 0x7F → exec (.smuAccountLabel t r) s = .next (s.endsRing t r (d1.answer c cSmuUnavailable 0 0)))

/-- READ_SIGNED, READ_PUBKEY, READ_LOG, SMU_NV_STORE, SMU_SEAL_N_ASSERT, SMU_SEAL_N_RELEASE, SEALING_IMAGE_LOAD, VSMU33_LOSS, VSMU33_POWER_ON, SMU_READ_REQ_GO and SIGNED_READING_WRITTEN complete. A powered SMU with no request under way serves READ_SIGNED with a reading of the account (READING_SEQ incremented), and READ_PUBKEY and READ_LOG with the key and the log entry, in 22, 8 and 6 portions (the last is assumption 79's); a request with a bad CRC does nothing; the frame that carries the last portion delivers the reply to its channel. SMU_READ_REQ with GO and an address set asks channel 0 for a reading of the page's account and nonce; when it has come it is written to host memory, unless the SMU does not answer: SMU_UNAVAILABLE. A sealing begins with SMU_SEAL_N low and a reading on channel 1; an image of no newer version is logged as failed and changes nothing else; release ends it. The store keeps the registers; at loss of VSMU33 they are stored and the SMU stops, and power-on restores them with POWER_ONS incremented and an entry in the log. (R340, R347, R351, R352, R353, R354, R356) -/
def Obligations.SmuChannelSealAndSupply : Prop :=
  ∀ (s : State) (t v : Nat) (image : SmuImage),
    let d := s.dueAt t
    let u := d.smu
    (u.powered = true →
      (∀ ch account nonce, u.served = none → u.asks = [] → ch < 2 → (ch = 0 → d.pins.sealN = false) → account < 256 → nonce < 2 ^ 128 → exec (.readSigned ⟨t, ch, true⟩ account nonce) s = .next (s.endsWith t
          ((d.signedReading account nonce).2.updSmu (fun u => { u with served := some { ask := { chan := ch, ask := .signed account nonce }, reply := .reading (d.signedReading account nonce).1, left := 22 } }))))
      ∧ (∀ ch, u.served = none → u.asks = [] → ch < 2 → (ch = 0 → d.pins.sealN = false) → exec (.readPubkey ⟨t, ch, true⟩) s = .next (s.endsWith t
          { d with smu := { u with served := some { ask := { chan := ch, ask := .pubkey }, reply := .pubkey (Config.smuPublicKey 0).toNat, left := 8 } } }))
      ∧ (∀ ch i, u.served = none → u.asks = [] → ch < 2 → (ch = 0 → d.pins.sealN = false) → exec (.readLog ⟨t, ch, true⟩ i) s = .next (s.endsWith t
          { d with smu := { u with served := some { ask := { chan := ch, ask := .log i }, reply := .entry u.regs.log[i]?, left := 6 } } }))
      ∧ (∀ ch account nonce i, exec (.readSigned ⟨t, ch, false⟩ account nonce) s = .next (s.endsWith t d) ∧ exec (.readPubkey ⟨t, ch, false⟩) s = .next (s.endsWith t d) ∧ exec (.readLog ⟨t, ch, false⟩ i) s = .next (s.endsWith t d))
      ∧ (∀ f x, u.changes = [] → u.asks = [] → u.served = some x → x.left = 1 → x.ask.page = false → ∃ w, exec (.smuFrame t f) s = .next w ∧ w.dev.smu.served = none ∧ w.dev.smu.replies = u.replies.put x.ask.chan x.reply)
      ∧ exec (.smuNvStore t) s = .next (s.endsWith t { d with smu := { u with nv := u.regs } })
      ∧ (∀ nonce, nonce < 2 ^ 128 → d.pins.sealN = false → u.changes = [] → ∃ w, exec (.smuSealNAssert t nonce) s = .next w ∧ w.dev.pins.sealN = true ∧ w.dev.smu.sealNonce = nonce ∧ w.dev.smu.regs.readingSeq = w64 (u.regs.readingSeq + 1) ∧ w.dev.smu.replies.get? 1 ≠ none)
      ∧ (d.pins.sealN = true → image.version ≤ u.regs.version → exec (.sealingImageLoad t image) s = .next (s.endsWith t ((d.smuLog .sealFailed 1 0).class9 0x005 1 0)))
      ∧ (u.changes = [] → ∃ w, exec (.vsmu33Loss t) s = .next w ∧ w.dev.smu.powered = false ∧ w.dev.smu.nv = u.regs ∧ w.dev.pins.vsmu33 = false ∧ w.dev.smu.weights = []))
    ∧ (u.powered = false → u.nv.log.length < 3839 → ∃ w, exec (.vsmu33PowerOn t) s = .next w ∧ w.dev.smu.powered = true ∧ w.dev.smu.regs.powerOns = (u.nv.powerOns + 1) % 2 ^ 32 ∧ w.dev.smu.regs.accA = u.nv.accA
        ∧ w.dev.smu.regs.log.length = u.nv.log.length + 1 ∧ w.dev.pins.vsmu33 = true)
    ∧ (u.powered = true → exec (.vsmu33PowerOn t) s = .next (s.endsWith t d))
    ∧ exec (.smuSealNRelease t) s = .next (s.endsWith t { d with pins := { d.pins with sealN := false } })
    ∧ (d.modState ≠ .reset → d.notServing .smu = false → d.serverHalted .smu = false → d.emuWaiting .smu = [] → v < 2 ^ 32 → bit v 8 = true → u.reading = none → u.readAddr ≠ 0 → d.smuUp = true → u.served = none → u.asks = [] →
        ∃ w, exec (.smuReadReqGo t 0 v) s = .next w ∧ w.dev.smu.reading = some (bits v 7 0, u.nonce) ∧ w.dev.smu.served.map (fun x => x.ask) = some { chan := 0, ask := .signed (bits v 7 0) u.nonce, page := true } ∧ w.dev.hostMem = d.hostMem)
    ∧ (∀ bs, u.reading.isSome = true → u.fetched = some bs → d.smuUp = true → d.hostStopped = false → exec (.signedReadingWritten t) s = .next (s.endsWith t
        ((d.writeHost u.readAddr bs).updSmu (fun u => { u with reading := none, fetched := none, readCode := cOk }))))
    ∧ (u.reading.isSome = true → d.smuUp = false → exec (.signedReadingWritten t) s = .next (s.endsWith t { d with smu := { u with reading := none, fetched := none, readCode := cSmuUnavailable } }))

/-- Once admitted: FW_STAGE of a processor with 4 KiB to 4 MiB at a page-aligned address clears its staged slot and is answered PENDING; the check of the image ends it, with a good image staged and OK, else with its code and nothing staged. FW_ACTIVATE is answered PENDING with S. At S, with no other processor restarting, the processor restarts, or in an emergency the activation is deferred with a class-8 record. The self-check of an image that may boot, passed in the restart time, runs it, advances the rollback floor, revokes the keys it names and completes OK; not passed, the processor keeps its image. An activation deferred for 60 s is abandoned with DEFERRED_EMERGENCY and its image stays staged. (R359, R361, R362, R364, R377) -/
def Obligations.FirmwareStagedAndActivated : Prop :=
  ∀ (s : State) (t r : Nat) (c : Cmd) (p : Nat) (o : FwOp) (x : FwImage),
    let d := s.dueAt t
    (d.admits r c specFwStage (if d.fwIdle c then none else some cIllegal) → let d1 := d.taken r c specFwStage (if d.fwIdle c then none else some cIllegal); fwProc c ≠ 7 → 4096 ≤ c.dw 0x1C → c.dw 0x1C ≤ 4194304 → c.qw 0x20 % 4096 = 0 → exec (.fwStage t r) s = .next (s.endsRing t r
        ((d1.answerPending c 0 0).updProc (fwProc c) (fun q => { q with staged := none, stagedRevokes := 0, op := some { cmd := { c with interim := true }, phase := .staging, s := 0, since := d1.now } }))))
    ∧ (d.admits r c specFwActivate (if fwProc c == 7 || (d.fwIdle c && (d.proc (fwProc c)).staged.isSome) then none else some cIllegal) → let d1 := d.taken r c specFwActivate (if fwProc c == 7 || (d.fwIdle c && (d.proc (fwProc c)).staged.isSome) then none else some cIllegal); fwProc c ≠ 7 → c.dw 0x1C = 0 → c.qw 0x20 = 0 → exec (.fwActivate t r) s = .next (s.endsRing t r
        ((d1.answerPending c (d1.effective (c.qw 0x28)) 0).updProc (fwProc c) (fun q => { q with op := some { cmd := { c with interim := true }, phase := .waiting, s := d1.effective (c.qw 0x28), since := d1.now } }))))
    ∧ ((d.proc p).op = some o →
        (∀ code, o.phase = .staging → (d.proc 0).restarting = false → code = d.stageCode p (memReadN d.hostMem (o.cmd.qw 0x20) (o.cmd.dw 0x1C)) x → exec (.fwStageComplete t p x) s = .next (s.endsWith t
          ((d.updProc p (fun q =>
            if code = cOk then { q with op := none, other := some { version := x.version, key := x.key }, staged := some x.version, stagedRevokes := revokedBy x } else { q with op := none, staged := none, stagedRevokes := 0 })).finishCmd o.cmd code (if code = cOk then x.version else 0) 0)))
        ∧ (o.phase = .waiting → o.s ≤ d.now → d.activationBlocked p o.s = false → d.pwr.emergency = false → exec (.activationStart t p) s = .next (s.endsWith t
          ((d.updProc p (fun q => { q with op := some { o with phase := .restarting, since := d.now } })).beginRestart p)))
        ∧ (o.phase = .waiting → o.s ≤ d.now → d.activationBlocked p o.s = false → d.pwr.emergency = true → exec (.activationStart t p) s = .next (s.endsWith t
          ((d.updProc p (fun q => { q with op := some { o with phase := .deferred, since := d.now } })).class8 0x002 p o.cmd d.deviceTime)))
        ∧ (o.phase = .waiting → d.now < o.s → exec (.activationStart t p) s = .next (s.endsWith t d))
        ∧ (o.phase = .restarting → d.now ≤ o.since + restartTime p → let y := (d.proc p).other.getD (d.proc p).image; d.bootable p y = true → ∃ z : Dev, exec (.activationSelfCheckPass t p) s = .next (s.endsWith t ((z.class8 0x001 p o.cmd y.version).finishCmd o.cmd cOk y.version 0))
            ∧ (z.proc p).image = y ∧ (z.proc p).other = some (d.proc p).image ∧ (z.proc p).staged = none ∧ (z.proc p).op = none ∧ z.floor p = y.version ∧ z.sec.rootRevoked = d.sec.rootRevoked ||| (d.proc p).stagedRevokes)
        ∧ (o.phase = .restarting → o.since + restartTime p < d.now → ∃ y : Dev, exec (.activationRestartTimeout t p) s = .next (s.endsWith t ((y.class8 0x004 p o.cmd ((d.proc p).staged.getD 0 + 2 ^ 32 * (d.proc p).image.version)).finishCmd o.cmd cBadFormat 0 0))
            ∧ (y.proc p).image = (d.proc p).image ∧ (y.proc p).staged = none ∧ (y.proc p).op = none ∧ (y.proc p).reverts = satAdd 0xFFFF (d.proc p).reverts 1)
        ∧ (o.phase = .deferred → o.since + 60000000000 ≤ d.now → exec (.activationAbandon t p) s = .next (s.endsWith t
            (((d.updProc p (fun q => { q with op := none })).class8 0x003 p o.cmd o.since).finishCmd o.cmd cDeferredEmergency 0 0))))

/-- LOG_COPY, LOG_HOST_SIZE_WRITE, CORRECTED_ERROR, UNCORRECTABLE_ERROR and PATROL_SCRUB complete. A write of LOG_HOST_SIZE of 0 or 8 to 20 sets the host ring and returns its indices to 0. With the ring on, the scheduler core running, host writes allowed and a slot free, the next log record is written at the ring's tail. A corrected error of a unit that is up starts a run of its page and KIND, with its time and address, and changes no memory; of the host interface it only counts. An uncorrectable SRAM or DRAM word (KIND 1, 3) is logged as a fault record and its line poisoned; KIND 9 is fatal. The scrub reports a poisoned line in a class-1 record of code 0x302. (R368, R399, R400, R401, R402, Table 15-7, Table 17-2) -/
def Obligations.LogAndErrorReports : Prop :=
  ∀ (s : State) (t v a : Nat) (e : ErrorSite) (rec : LogRec),
    let d := s.dueAt t
    (d.modState ≠ .reset → d.notServing .sched = false → d.serverHalted .sched = false → d.emuWaiting .sched = [] → v < 32 → (v = 0 ∨ (8 ≤ v ∧ v ≤ 20)) →
        ∃ w, exec (.logHostSizeWrite t v) s = .next w ∧ w.dev.log = { d.log with hostLog2 := v, hostTail := 0, hostHead := 0 } ∧ w.dev.hostMem = d.hostMem)
    ∧ (d.flushCe = d → d.log.hostLog2 ≠ 0 → (d.proc 2).restarting = false → d.hostStopped = false → (d.log.hostTail + 1) % 2 ^ d.log.hostLog2 ≠ d.log.hostHead → d.log.records.find? (fun r => decide (d.log.nextCopy ≤ r.seq)) = some rec →
        exec (.logCopy t) s = .next (s.endsWith t { d.writeHost (d.log.hostBase + 64 * d.log.hostTail) rec.bytes with log := { d.log with hostTail := (d.log.hostTail + 1) % 2 ^ d.log.hostLog2, nextCopy := rec.seq + 1 } }))
    ∧ (d.flushCe = d → d.detects e.page = true → corrects e.kind = true → e.page ≠ UnitId.hostIf.page → d.flt.ce = [] → ∃ w, exec (.correctedError t e) s = .next w ∧ w.dev.devMem = d.devMem ∧ w.dev.hostMem = d.hostMem ∧ w.dev.jobs = d.jobs
        ∧ w.dev.flt.ce.map (fun x => (x.page, x.kind, x.since, x.count, x.address, x.syndrome)) = [(e.page, e.kind, d.deviceTime, 1, e.address, e.syndrome)])
    ∧ (d.flushCe = d → d.detects e.page = true → e.page = UnitId.hostIf.page → exec (.correctedError t e) s = .next (s.endsWith t { d.note e.page 3 1 with hostIf := { d.hostIf with corrected := satAdd 0xFFFFFFFF d.hostIf.corrected 1 } }))
    ∧ (d.detects e.page = true → e.page ≠ UnitId.hostIf.page → e.path = none →
        ((e.kind = 0x01 ∨ e.kind = 0x03) → exec (.uncorrectableError t e) s = .next (s.endsWith t (((d.note e.page 4 1).logFault e.page e.kind sevJob 0x7F e.address 0 e.syndrome).poisonLine (lineOf e.address))))
        ∧ (e.kind = 0x09 → exec (.uncorrectableError t e) s = .next (s.endsWith t ((d.note e.page 4 1).fatal 0x02 e.page 0x09 e.address e.syndrome))))
    ∧ (d.flushCe = d → d.detects (d.homePage a) = true → d.linePoisoned (lineOf a) = true → exec (.patrolScrub t a false) s = .next (s.endsWith t (d.raise 1 0x302 (d.homePage a) 0 (64 * lineOf a))))
    ∧ (d.flushCe = d → d.linePoisoned (lineOf a) = false → exec (.patrolScrub t a false) s = .next (s.endsWith t d))

/-- Outside RESET, with no dump held or being written, a fatal error of cause 1 to 5 (a report, the silence of the security core, a late control message) moves the module to DUMPING with its cause and the state it left. The dump written, or 2 s later or for cause 3 the minimal one, the module is FAULTED and holds the dump of that cause, full or minimal, mirrored into the log where the lease, the ring and the scheduler core allow. Once admitted, DUMP_READ with aligned operands inside the dump is answered PENDING and queued; its copy then goes to host memory, padded with zeros, and completes OK with the dump's size and time. DUMP_RELEASE answers OK and no dump is held. (R422, R423, R424, R426, R427, R428) -/
def Obligations.FatalErrorsAndTheDump : Prop :=
  ∀ (s : State) (t r : Nat) (c : Cmd) (f : Fatal) (cause page detail : Nat),
    let d := s.dueAt t
    let falls (u : State) (cause : Nat) : Prop := u.dev.modState = .dumping ∧ (u.dev.flt.fatal.map (fun f => (f.cause, f.time, f.prev, f.later))) = some (cause, d.deviceTime, d.modState.code, false)
    (d.modState ≠ .reset → d.flt.fatal = none → d.flt.dump = none →
        (1 ≤ cause → cause ≤ 5 → ∃ u, exec (.fatalError t cause page detail) s = .next u ∧ falls u cause)
        ∧ (∃ u, exec (.securityWatchdog t) s = .next u ∧ falls u 3) ∧ (∃ u, exec (.controlMessageTimeout t page) s = .next u ∧ falls u 4))
    ∧ (d.flt.fatal = some f → d.modState = .dumping → f.later = false →
        ((d.proc 0).restarting = false → (d.proc 0).halted = false → f.cause ≠ 3 → let y := (d.logCe (fun _ => true)).dumpOf f false; exec (.dumpWritten t) s = .next (s.endsWith t (y.2.dumpOut y.1)))
        ∧ (f.time + 2000000000 ≤ d.deviceTime → exec (.dumpWriteTimeout t) s = .next (s.endsWith t (({ d with free := d.free + 1 } : Dev).dumpOut (d.dumpOf f true).1))))
    ∧ (∀ (y : Dev) (x : Dump), (y.dumpOut x).modState = .faulted ∧ (y.dumpOut x).flt.dump = some x ∧ (y.dumpOut x).flt.fatal = none)
    ∧ ((d.dumpOf f true).1.mirrored = d.mirrors ∧ (d.dumpOf f false).1.mirrored = d.mirrors ∧ (d.dumpOf f false).1.laterFatals = f.laterFatals)
    ∧ (∀ x, d.admits r c specDumpRead d.dumpCond → let d1 := d.taken r c specDumpRead d.dumpCond; d1.flt.dump = some x → drOffset c % 4096 = 0 → drBytes c % 4096 = 0 → 4096 ≤ drBytes c → drBytes c ≤ 16777216 → drDest c % 4096 = 0 → drOffset c < x.size →
        exec (.dumpRead t r) s = .next (s.endsRing t r { d1.answerPending c 0 0 with flt := { (d1.answerPending c 0 0).flt with
          dumpReads := (d1.answerPending c 0 0).flt.dumpReads ++ [{ pend := (d1.answerPending c 0 0).pendOf c, dump := x, offset := drOffset c, bytes := drBytes c, dest := drDest c }] } }))
    ∧ (∀ q rest, d.flt.dumpReads = q :: rest → d.hostStopped = false → d.modState ≠ .dumping → d.modState ≠ .reset → (d.proc 0).restarting = false → exec (.dumpReadDone t) s = .next (s.endsWith t
        (({ d.writeHost q.dest (padTo q.bytes ((q.dump.bytes.drop q.offset).take q.bytes)) with flt := { d.flt with dumpReads := rest } } : Dev).finish q.pend cOk q.dump.size q.dump.time)))
    ∧ (d.admits r c specDumpRelease d.dumpCond → let d1 := d.taken r c specDumpRelease d.dumpCond; exec (.dumpRelease t r) s = .next (s.endsRing t r (({ d1 with flt := { d1.flt with dump := none } } : Dev).answer c cOk 0 0)))

/-- SLOT_RETIREMENT, SPARE_SUBSTITUTION, NETWORK_REQUEST_ARRIVAL, NETWORK_REPLY_ARRIVAL, EPOCH_NOTICE, TRACKING_ENTRY_GRANT and DRAM_REFRESH complete. A retired slot is burned; while a context holds its core the retirement is pending. A spare whose self-test passes takes the retired core's identity: SLOT names the spare, and the context's contents are due at its next job. A request for a unit that can be reached, with its present epoch, is served at once by a router or core, takes a tracking entry at a stack or waits for one; else it is answered with the code that turns it away, UNIT_RESET for another epoch. A reply ends its request and frees its entry, and one of UNIT_RESET or UNIT_OFFLINE faults the running job that asked. A waiting request whose source can take an entry gets it. A port learns only the present epoch; a refresh changes no data. (R20, R21, R275, R276, R283, R416, R417) -/
def Obligations.SlotsSparesAndRequests : Prop :=
  ∀ (s : State) (t slot n h : Nat) (q : NetRequest) (x : NetReq),
    let d := s.dueAt t
    let r := d.carried q
    let e := d.routerSees q
    (slot < 20 → bit d.geom.retired slot = false → 8 ≤ d.boot.stage → d.mayRetire slot = true → (∀ k, d.coreInSlot slot = some k → d.coreHolder k = none) →
        exec (.slotRetirement t slot) s = .next (s.endsWith t (d.burnSlot slot).evalLaunches) ∧ (d.burnSlot slot).geom.retired = d.geom.retired ||| 2 ^ slot)
    ∧ (∀ k j, slot < 20 → bit d.geom.retired slot = false → 8 ≤ d.boot.stage → d.mayRetire slot = true → d.coreInSlot slot = some k → d.coreHolder k = some j → bit d.geom.pendingRetire slot = false →
        exec (.slotRetirement t slot) s = .next (s.endsWith t { d with geom := { d.geom with pendingRetire := d.geom.pendingRetire ||| 2 ^ slot, generation := (d.geom.generation + 1) % 65536 } }))
    ∧ (n < d.nCores → bit d.geom.retired (d.geom.slots.getD n 20) = true → d.geom.spareFree (d.geom.slots.getD n 20 / 5) = true → 8 ≤ d.boot.stage → d.mayRetire (d.geom.slots.getD n 20) = true → d.coreHolder n = none → n < d.geom.slots.length →
        ∃ u, exec (.spareSubstitution t n true) s = .next u ∧ u.dev.geom.slots.getD n 20 = spareSlot (d.geom.slots.getD n 20 / 5) ∧ bit u.dev.geom.restoreDue n = true)
    ∧ (d.modState ≠ .reset → d.netReqs = [] → ∀ u, (d.viewPage 0 q.target).bind unitOf = some u →
        (d.turnedAway u q.requester r.targetEpoch = none →
            ((∀ m, u ≠ .dram m) → (∀ m, u ≠ .core m) → exec (.networkRequestArrival t q) s = .next (s.endsWith t { e with netReqs := [{ r with reply := some (cOk, d.epoch u.page) }] }))
            ∧ (∀ m, u = .core m → exec (.networkRequestArrival t q) s = .next (s.endsWith t { e.mergeRead m (lineOf q.address) q.write with netReqs := [{ r with reply := some (cOk, d.epoch u.page) }] }))
            ∧ (∀ m, u = .dram m → ∃ w y, exec (.networkRequestArrival t q) s = .next w ∧ w.dev.netReqs = [y] ∧ (m ∈ y.entries ∨ m ∈ y.wants) ∧ y.reply = if y.wants.isEmpty then some (cOk, d.epoch u.page) else none))
        ∧ (∀ code, d.turnedAway u q.requester r.targetEpoch = some code → exec (.networkRequestArrival t q) s = .next (s.endsWith t { e with netReqs := [{ r with reply := some (code, r.targetEpoch) }] }))
        ∧ ((unitOf q.requester).any d.routerDown = false → d.reachCode u = none → r.targetEpoch ≠ d.epoch u.page → d.turnedAway u q.requester r.targetEpoch = some cUnitReset))
    ∧ (∀ code epoch, d.netReqs = [x] → x.reply = some (code, epoch) →
        (x.job = none → exec (.networkReplyArrival t x.id) s = .next (s.endsWith t (({ d with netReqs := [] } : Dev).endTracking x)))
        ∧ (∀ j k, x.job = some j → d.jobs.get? j = some k → k.jstate.running? = true → x.requesterEpoch = d.epoch x.requester → (code = cUnitReset ∨ code = cUnitOffline) →
            exec (.networkReplyArrival t x.id) s = .next (s.endsWith t ((({ d with netReqs := [] } : Dev).endTracking x).faultJob j 0x0B 0 code x.requester x.address))))
    ∧ (h < 32 → d.netReqs = [x] → (d.track h).waiting = [x.id] → d.canTrack (d.track h) (trackSource x.requester) = true → exec (.trackingEntryGrant t h) s = .next (s.endsWith t
        { d.updTrack h (fun y => { y.take (trackSource x.requester) with waiting := [] }) with netReqs := [x.granted h (d.epoch x.target)] }))
    ∧ exec (.epochNotice t h n (d.epoch n)) s = .next (s.endsWith t { d with learned := d.learned.put (65536 * h + n) d.now })
    ∧ (h < 32 → (d.drams.getD h {}).hstate = .active → exec (.dramRefresh t h n) s = .next (s.endsWith t (({ d with drams := d.drams.put h { d.drams.getD h {} with
        refreshes := satAdd 0xFFFFFFFF (d.drams.getD h {}).refreshes 1, refreshWaits := satAdd 0xFFFFFFFF (d.drams.getD h {}).refreshWaits n } } : Dev).noteFor none (UnitId.dram h).page 0x482 n)))

/-- Once admitted, each KEY_MANAGE operation with a well-formed block (INSTALL and REPLACE a key that is not zero, SET_PASSWORD a password, REVOKE and CLEAR_PASSWORD none) that is legal in the slots' and the life state is answered PENDING and waits; a block or field that is wrong answers BAD_FORMAT, an illegal one ILLEGAL_IN_STATE. KEY_MANAGE_COMMIT of the first waiting change: INSTALL and REPLACE put the key with its ADMIN bit into the slot, IN_USE with its counters at 0; REVOKE empties it; SET_PASSWORD stores the verifier, CLEAR_PASSWORD none; the command completes OK. (R385, R386, Table 16-1, Table 16-2) -/
def Obligations.KeySlotsAndThePassword : Prop :=
  ∀ (s : State) (t r : Nat) (c : Cmd) (b : List Byte) (x : KeyChange) (rest : List KeyChange),
    let d := s.dueAt t
    let waits (d1 : Dev) : State := s.endsRing t r ((d1.answerPending c 0 0).updSec (fun s =>
      { s with keyChanges := s.keyChanges ++ [{ cmd := { c with interim := true }, op := kmOp c, slot := kmSlot c, admin := kmAdmin c, block := leNat b }] }))
    (d.admits r c specKeyManage none → let d1 := d.taken r c specKeyManage none; d1.kmBlock c = some b → d1.kmIllegal c = false →
        (kmOp c = 0 → exec (.keyManageInstall t r) s = .next (waits d1)) ∧ (kmOp c = 1 → exec (.keyManageReplace t r) s = .next (waits d1)) ∧ (kmOp c = 2 → exec (.keyManageRevoke t r) s = .next (waits d1))
        ∧ (kmOp c = 3 → exec (.keyManageSetPassword t r) s = .next (waits d1)) ∧ (kmOp c = 4 → exec (.keyManageClearPassword t r) s = .next (waits d1)))
    ∧ (d.admits r c specKeyManage none → let d1 := d.taken r c specKeyManage none; kmOp c = 2 → d1.kmBlock c = none → exec (.keyManageRevoke t r) s = .next (s.endsRing t r (d1.answer c cBadFormat 0 0)))
    ∧ (d.admits r c specKeyManage none → let d1 := d.taken r c specKeyManage none; kmOp c = 2 → d1.kmBlock c = some b → d1.kmIllegal c = true → exec (.keyManageRevoke t r) s = .next (s.endsRing t r (d1.answer c cIllegal 0 0)))
    ∧ (d.sec.keyChanges = x :: rest → (d.proc 0).restarting = false →
        (x.op ≤ 1 → exec (.keyManageCommit t) s = .next (s.endsWith t (({ d with sec := { d.sec with keyChanges := rest, slots := d.sec.slots.put x.slot { sstate := .inUse, admin := x.admin, key := x.block, last := 0, reserve := 0 } } } : Dev).finishCmd x.cmd cOk 0 0)))
        ∧ (x.op = 2 → exec (.keyManageCommit t) s = .next (s.endsWith t (({ d with sec := { d.sec with keyChanges := rest, slots := d.sec.slots.put x.slot {} } } : Dev).finishCmd x.cmd cOk 0 0)))
        ∧ (x.op = 3 → ∃ pw, exec (.keyManageCommit t) s = .next (s.endsWith t (({ d with sec := { d.sec with keyChanges := rest, verifier := some (d.verifierOf pw) } } : Dev).finishCmd x.cmd cOk 0 0)) ∧ pw = leBytes (Nat.log2 x.block / 8 + 1) x.block)
        ∧ (x.op = 4 → exec (.keyManageCommit t) s = .next (s.endsWith t (({ d with sec := { d.sec with keyChanges := rest, verifier := none } } : Dev).finishCmd x.cmd cOk 0 0))))
    ∧ (d.sec.keyChanges = [] → exec (.keyManageCommit t) s = .next (s.endsWith t d))

/-- Once admitted: LIFE_STATE to a later state (FIELD only with the transport key gone and an ADMIN key in use) is answered PENDING; its commit burns the pair, invalidates the challenge and ends any unlock. An OWNER unlock in FIELD with a verifier set and no VENDOR unlock is answered PENDING; the password's verifier equal to the stored one opens OWNER for its minutes and completes OK with the end, else AUTH_FAIL. A CHALLENGE with the service READY is a request of the entropy source. A RESPONSE to a valid challenge uses it up and opens VENDOR where its signature verifies (Config, open), else AUTH_FAIL. LOCK ends the unlock. To a challenge that the source's failure voided it is AUTH_FAIL. A challenge lapses after 10 minutes, an unlock at its end, and neither before; a lockout ends with the clock. JTAG acts where the life state or unlock opens it, else it reads 0 and is counted. (R384, R387, R388, R390, R392, R393, R394, R395) -/
def Obligations.LifeStatesAndUnlocks : Prop :=
  ∀ (s : State) (t r : Nat) (c : Cmd) (target minutes : Nat) (pw : List Byte) (rest : List (Cmd × Nat)) (orest : List (Cmd × List Byte × Nat)) (x : JtagAccess),
    let d := s.dueAt t
    (d.admits r c specLifeState none → let d1 := d.taken r c specLifeState none; d1.sec.life < c.fld 0x18 1 0 → c.fld 0x18 1 0 ≠ 2 → exec (.lifeState t r) s = .next (s.endsRing t r
        ((d1.answerPending c 0 0).updSec (fun s => { s with lifeChanges := s.lifeChanges ++ [({ c with interim := true }, c.fld 0x18 1 0)] }))))
    ∧ (d.sec.lifeChanges = (c, target) :: rest → (d.proc 0).restarting = false → exec (.lifeStateCommit t) s = .next (s.endsWith t ((({ d with sec := { d.sec with lifeChanges := rest } } : Dev).enterLife target).finishCmd c cOk 0 0)))
    ∧ (d.admits r c specDebugUnlock none → let d1 := d.taken r c specDebugUnlock none; duOp c = 0 → 1 ≤ duMinutes c → duMinutes c ≤ 1440 → duAddr c = 0 → (d1.unwrap c).bind passwordOf = some pw → d1.sec.life = 2 → d1.sec.verifier.isSome = true → d1.sec.unlock ≠ .vendor →
        exec (.debugUnlockOwner t r) s = .next (s.endsRing t r ((d1.answerPending c 0 0).updSec (fun s => { s with ownerUnlocks := s.ownerUnlocks ++ [({ c with interim := true }, pw, duMinutes c)] }))))
    ∧ (d.sec.ownerUnlocks = (c, pw, minutes) :: orest → (d.proc 0).restarting = false → let e : Dev := { d with sec := { d.sec with ownerUnlocks := orest } }
        exec (.ownerVerifierDone t) s = .next (s.endsWith t (if d.sec.verifier = some (d.verifierOf pw) then ((e.openUnlock .owner minutes).2.authPassed).finishCmd c cOk (d.deviceTime + minutes * 60000000000) 0
          else (e.authFailure c cAuthFail).finishCmd c cAuthFail 0 0)))
    ∧ (d.admits r c specDebugUnlock none → let d1 := d.taken r c specDebugUnlock none; duOp c = 1 → duMinutes c = 0 → c.wrapped = 0 → duAddr c = 0 → d1.ent.service = .ready → exec (.debugUnlockChallenge t r) s = .next (s.endsRing t r (d1.entRequest { kind := .challenge, cmd := c, len := 32, wait := true, dest := 0 })))
    ∧ (d.admits r c specDebugUnlock none → let d1 := d.taken r c specDebugUnlock none; duOp c = 2 → duMinutes c = 0 → c.wrapped = 0 → duAddr c % 64 = 0 → d1.sec.chalVoided = false → d1.sec.chalValid = true → d1.deviceTime < d1.sec.chalTime + 600000000000 → responseOk (memReadN d1.hostMem (duAddr c) 128) = true →
        let b := memReadN d1.hostMem (duAddr c) 128
        let e : Dev := { d1 with sec := { d1.sec with chalValid := false, chalVoided := false } }
        exec (.debugUnlockResponse t r) s = .next (s.endsRing t r (if Config.vendorSigned 4 (leBytes 32 d1.sec.nonce ++ leBytes 16 d1.sec.deviceId ++ b.take 32) ((b.drop 0x20).take 48) ((b.drop 0x50).take 48) then
          ((e.openUnlock .vendor (leNat (b.take 4))).2.authPassed).answer c cOk (d1.deviceTime + leNat (b.take 4) * 60000000000) 0 else (e.authFailure c cAuthFail).answer c cAuthFail 0 0)))
    ∧ (d.admits r c specDebugUnlock none → let d1 := d.taken r c specDebugUnlock none; duOp c = 2 → duMinutes c = 0 → c.wrapped = 0 → duAddr c % 64 = 0 → d1.sec.chalVoided = true → responseOk (memReadN d1.hostMem (duAddr c) 128) = true →
        exec (.debugUnlockResponse t r) s = .next (s.endsRing t r ((({ d1 with sec := { d1.sec with chalValid := false, chalVoided := false } } : Dev).authFailure c cAuthFail).answer c cAuthFail 0 0)))
    ∧ (d.admits r c specDebugUnlock none → let d1 := d.taken r c specDebugUnlock none; duOp c = 3 → duMinutes c = 0 → c.wrapped = 0 → duAddr c = 0 → exec (.debugUnlockLock t r) s = .next (s.endsRing t r (d1.endUnlock.answer c cOk 0 0)))
    ∧ (d.sec.chalValid = true → exec (.challengeExpiry t) s = .next (s.endsWith t (if d.sec.chalTime + 600000000000 ≤ d.deviceTime then { d with sec := { d.sec with chalValid := false } } else d)))
    ∧ (s.dev.sec.unlock ≠ .none → (s.dev.sec.unlockEnd ≤ max s.dev.now t → ∃ u, exec (.unlockExpiry t) s = .next u ∧ u.dev.sec.unlock = .none ∧ u.dev.log.traceEn = 0)
        ∧ (max s.dev.now t < s.dev.sec.unlockEnd → ∃ u, exec (.unlockExpiry t) s = .next u ∧ u.dev.sec = s.dev.sec))
    ∧ exec (.lockoutEnd t) s = .next (s.endsWith t d)
    ∧ (d.sec.debugOpen = true → d.sec.scanOpen = true → let v := d.jtagValue x; exec (.jtagAccess t x) s = .next (s.endsWith t ((v.2.jtagDo x).updSec (fun y => { y with jtagReply := v.1 }))))
    ∧ (d.sec.debugOpen = false → d.sec.scanOpen = false → exec (.jtagAccess t x) s = .next (s.endsWith t { d with sec := { d.sec with jtagDenied := satAdd 0xFFFFFFFF d.sec.jtagDenied 1, jtagReply := 0 } }))

/-- MODULE_RESET, COLD_RESET, HOST_RESET, PF_FUNCTION_LEVEL_RESET, SYS_REFCLK_LOSS, HOST_REFCLK_LOSS, VIN48_LOSS, VIN48_EXCURSION_BEGIN, VIN48_EXCURSION_END, VAUX33_LOSS, HUB_POWER_GOOD and PERST_N_RELEASE complete. MODULE_RESET once admitted and a PF function reset outside RESET leave a warm bring-up (after a boot failure one from stage 1) over what Table 17-8 keeps: DRAM, host memory, the held dump, the key slots, with no job, context or ring left and every unit's epoch one on. A host reset, by PERST_N or by losing the host clock, holds RESET until PERST_N is released; already in RESET it loses nothing more. COLD_RESET and the loss of VAUX33 restart device time with DRAM, dump and epochs gone and hub power not good; key slots survive, and with VAUX33 the cap and the log ring go too. VIN48_LOSS is a cold reset that boots at once while hub power is good. HUB_POWER_GOOD in RESET begins BOOT stage 0 at time 0. An excursion begins and ends once per input group and is logged. Losing the system clock is a fatal error. (R413, R414, Table 17-8, R29, R64, R482, R485, R486, R469, R477) -/
def Obligations.ResetsOfTheModule : Prop :=
  ∀ (s : State) (t r group : Nat) (c : Cmd),
    let d := s.dueAt t
    let warm (d y : Dev) : Prop := y.modState = .boot ∧ y.prevState = 0 ∧ y.transitions = 0 ∧ y.boot.failReason = 0 ∧ y.boot.stage = (if d.boot.failReason = 0 then 2 else 1) ∧ y.boot.warm = decide (d.boot.failReason = 0)
      ∧ y.devMem = d.devMem.filter (fun c => isDram c.1) ∧ y.hostMem = d.hostMem ∧ y.jobs = [] ∧ y.ctxs = [] ∧ y.rings = [] ∧ y.now = d.now ∧ y.flt.dump = d.flt.dump ∧ y.sec.slots = d.sec.slots
      ∧ ∀ p, y.epoch p = if p ∈ (UnitId.subtree d.geo .root).map UnitId.page ∨ (d.units.get? p).isSome then nextEpoch (d.epoch p) else 1
    let held (y : Dev) : Prop := y.modState = .reset ∧ y.pins.perst = true ∧ y.hostIf.vfEnabled = 0 ∧ (∀ f, (y.view f).bar2Log2 = 28) ∧ y.hostMem = d.hostMem ∧ y.flt.dump = d.flt.dump ∧ y.sec.slots = d.sec.slots
      ∧ (if d.modState = .reset then y.devMem = d.devMem ∧ y.jobs = d.jobs else y.devMem = d.devMem.filter (fun c => isDram c.1) ∧ y.jobs = [] ∧ y.ctxs = [] ∧ y.rings = [] ∧ y.prevState = d.modState.code)
    (d.admits r c specModuleReset none → let d1 := d.taken r c specModuleReset none; ∃ y : Dev, exec (.moduleReset t r) s = .next (s.endsRing t r y) ∧ warm d1 y)
    ∧ (∃ y : Dev, exec (.pfFunctionLevelReset t) s = .next (s.endsWith t y) ∧ (d.modState ≠ .reset → warm d y ∧ y.hostIf.vfEnabled = 0 ∧ ∀ f, (y.view f).bar2Log2 = 28) ∧ (d.modState = .reset → y = d))
    ∧ (∃ y : Dev, exec (.hostReset t) s = .next (s.endsWith t y) ∧ held y)
    ∧ (∃ y : Dev, exec (.hostRefclkLoss t) s = .next (s.endsWith t y) ∧ held y ∧ y.pins.hostRef = false)
    ∧ (∃ y : Dev, exec (.perstNRelease t) s = .next (s.endsWith t y) ∧ (d.pins.perst = false → y = d) ∧ (d.pins.perst = true → y.pins.perst = false ∧ y.pins.hostRef = true
        ∧ y.modState = (if d.modState = .reset ∧ d.pins.hubPower = true then .boot else d.modState)))
    ∧ (∃ u : State, exec (.coldReset t) s = .next u ∧ u.pending = s.pending ∧ u.dev.now = 0 ∧ u.dev.modState = .reset ∧ u.dev.pins.hubPower = false ∧ u.dev.time.running = false ∧ u.dev.devMem = [] ∧ u.dev.jobs = [] ∧ u.dev.rings = []
        ∧ u.dev.flt.dump = none ∧ u.dev.log.records = [] ∧ u.dev.hostMem = s.dev.hostMem ∧ u.dev.sec.slots = d.sec.slots ∧ ∀ p, u.dev.epoch p = 1)
    ∧ (∃ u : State, exec (.vaux33Loss t) s = .next u ∧ u.pending = s.pending ∧ u.dev.now = 0 ∧ u.dev.modState = .reset ∧ u.dev.pins.hubPower = false ∧ u.dev.devMem = [] ∧ u.dev.jobs = [] ∧ u.dev.flt.dump = none ∧ u.dev.pwr.cap = 1200
        ∧ u.dev.lease.status = .none ∧ u.dev.log.seq = 0 ∧ u.dev.hostMem = s.dev.hostMem ∧ (∀ p, u.dev.epoch p = 1) ∧ u.dev.sec.slots = d.sec.slots.map (fun (e : Nat × KeySlot) => (e.1, { e.2 with last := e.2.reserve })))
    ∧ (s.dev.pins.vin48 = true → ∃ u : State, exec (.vin48Loss t) s = .next u ∧ u.pending = s.pending ∧ u.dev.now = 0 ∧ u.dev.pins.vin48 = false ∧ u.dev.devMem = [] ∧ u.dev.jobs = [] ∧ u.dev.flt.dump = none ∧ u.dev.sec.slots = d.sec.slots
        ∧ u.dev.modState = (if s.dev.pins.hubPower then .boot else .reset))
    ∧ (s.dev.pins.vin48 = false → exec (.vin48Loss t) s = .next (s.endsWith t d))
    ∧ (s.dev.modState = .reset → s.dev.pins.hubPower = false → ∃ u : State, exec (.hubPowerGood t) s = .next u ∧ u.pending = s.pending ∧ u.dev.now = 0 ∧ u.dev.modState = .boot ∧ u.dev.boot.stage = 0 ∧ u.dev.boot.failReason = 0 ∧ u.dev.boot.warm = false
        ∧ u.dev.pins.hubPower = true ∧ u.dev.pins.sysRef = true ∧ u.dev.devMem = s.dev.devMem ∧ u.dev.sec.slots = d.sec.slots)
    ∧ ((s.dev.modState ≠ .reset ∨ s.dev.pins.hubPower = true) → exec (.hubPowerGood t) s = .next (s.endsWith t d))
    ∧ (∃ y : Dev, exec (.vin48ExcursionBegin t group) s = .next (s.endsWith t y) ∧ (group < 2 → d.pins.vin48 = true → d.modState ≠ .reset → bit d.pins.excursion group = false → y.pins.excursion = setBit d.pins.excursion group ∧ y.modState = d.modState ∧ y.devMem = d.devMem)
        ∧ ((2 ≤ group ∨ d.pins.vin48 = false ∨ d.modState = .reset ∨ bit d.pins.excursion group = true) → y = d))
    ∧ (∃ y : Dev, exec (.vin48ExcursionEnd t group) s = .next (s.endsWith t y) ∧ (group < 2 → bit d.pins.excursion group = true → d.modState ≠ .reset → y.pins.excursion = d.pins.excursion - 2 ^ group ∧ y.modState = d.modState ∧ y.devMem = d.devMem)
        ∧ ((2 ≤ group ∨ bit d.pins.excursion group = false ∨ d.modState = .reset) → y = d))
    ∧ (∃ y : Dev, exec (.sysRefclkLoss t) s = .next (s.endsWith t y) ∧ (d.pins.hubPower = true → d.pins.sysRef = true → d.modState ≠ .reset → d.flt.fatal = none → y = ({ d with pins := { d.pins with sysRef := false } } : Dev).fatal 0x02 UnitId.timeBase.page 0x09 0 ∧ y.modState = .dumping ∧ y.flt.fatal.map (fun f => (f.cause, f.prev)) = some (2, d.modState.code) ∧ y.jobs = d.jobs ∧ y.ctxs = d.ctxs)
        ∧ ((d.pins.hubPower = false ∨ d.pins.sysRef = false) → y = d))

/-- UNIT_RESET, UNIT_RESET_COMPLETE, VF_FUNCTION_LEVEL_RESET and VF_RESET_COMPLETE complete. Once admitted, UNIT_RESET of a unit that may be reset now is answered PENDING, is remembered with the epoch before, and resets the unit; a unit with none below it reads RESETTING with its epoch one on, and no other header changes; a challenge ends. One that Table 17-9 bars, the power core in an emergency, and H00 or C0 while a dump or a job is held, get ILLEGAL_IN_STATE. The completion of a reset under way leaves the unit IDLE, queues a class-6 record with the old epoch and cause 1, and writes the final OK with the new epoch. A reset of a virtual function disables every ring of the function, leaves no completion waiting there, and lasts until its own completion queues the class-6 record of cause 3; the physical function's number, one that is not enabled, or a reset already under way changes nothing. (R419, R420, R421, R415, Table 17-9, R29) -/
def Obligations.UnitAndFunctionResets : Prop :=
  ∀ (s : State) (t r page fn : Nat) (c : Cmd) (u : UnitId) (o : UnitResetOp),
    let d := s.dueAt t
    (d.admits r c (d.specUnitReset c) (d.unitResetCond c) → let d1 := d.taken r c (d.specUnitReset c) (d.unitResetCond c); (d1.viewPage c.fn c.target).bind unitOf = some u →
        (d1.resetBarred u = true → exec (.unitReset t r) s = .next (s.endsRing t r (d1.answer c cIllegal 0 0)))
        ∧ (d1.resetBarred u = false → let e := d1.answerPending c 0 0
            exec (.unitReset t r) s = .next (s.endsRing t r (({ e with sec := { e.sec with chalValid := false, chalVoided := false }, flt := { e.flt with unitResets := e.flt.unitResets ++ [{ page := u.page, oldEpoch := d1.epoch u.page, pend := e.pendOf c }] } } : Dev).beginReset u))))
    ∧ (∀ x : Dev, u.children x.geo = [] → (x.beginReset u).hdr u.page = { x.hdr u.page with ustate := .resetting, epoch := nextEpoch (x.hdr u.page).epoch, prev := (x.hdr u.page).epoch, changedAt := x.now } ∧ ∀ p, u.page ≠ p → (x.beginReset u).hdr p = x.hdr p)
    ∧ (d.flt.unitResets.find? (fun o => o.page == page) = some o → unitOf page = some u → u.page = page → u.children d.geo = [] →
        ∃ y : Dev, exec (.unitResetComplete t page) s = .next (s.endsWith t ((y.class6 page o.oldEpoch 1).finish o.pend cOk (d.epoch page) 0)) ∧ (y.hdr page).ustate = .idle ∧ y.epoch page = d.epoch page)
    ∧ (d.flt.unitResets.find? (fun o => o.page == page) = none → exec (.unitResetComplete t page) s = .next (s.endsWith t d))
    ∧ (∃ y : Dev, exec (.vfFunctionLevelReset t fn) s = .next (s.endsWith t y)
        ∧ ((fn = 0 ∨ d.fnActs fn = false ∨ d.modState = .reset ∨ fn ∈ d.flt.vfResets) → y = d)
        ∧ (1 ≤ fn → d.fnActs fn = true → d.modState ≠ .reset → fn ∉ d.flt.vfResets → fn ∈ y.flt.vfResets ∧ ∀ k, (y.ring k).owner = fn → (y.ring k).enable = false ∧ (y.ring k).held = [] ∧ (y.ring k).awaiting = 0))
    ∧ (fn ∈ d.flt.vfResets → exec (.vfResetComplete t fn) s = .next (s.endsWith t (({ d with flt := { d.flt with vfResets := d.flt.vfResets.filter (fun f => f != fn) } } : Dev).raise 6 cUnitReset UnitId.hostIf.page (fn + 65536 * 3) d.deviceTime)))
    ∧ (fn ∉ d.flt.vfResets → exec (.vfResetComplete t fn) s = .next (s.endsWith t d))

/-- BRINGUP_STAGE_END, INPUT_POWER_TIMEOUT, SMU_WAIT_TIMEOUT, BRINGUP_TIMEOUT, DRAM_TRAINING_ATTEMPT, SLOT_SELF_TEST and VIN48_IN_RANGE complete. The stage in progress ends: 0 into 1; 1 into 2, or failure 1 where neither image of the security core may boot; 2 into 3 (cold: where the power and scheduler cores each have an image that reads as signed under a key not revoked and meets its floor and epoch, else failure 2), or warm always; 3 into 4 where no hold stands and any rails to enable have an SMU reading or its absence; 4 into 5 where cluster 0 came up, else failure 5; 5 into 6 once every stack is trained or failed, or failure 4 where H00 failed; 6 into 7 once every slot of the clusters up is tested; 7 into READY at stage 8 with N cores, or failure 6 with none; where a stage must wait, or none is in progress, nothing changes. A failure keeps BOOT and the stage and queues a class-15 record. A stack gets at most three attempts; slots are tested in order and a failing one is retired. Timeouts act only past 10 s of hold, 100 ms without the SMU, and the bring-up's bound. (R469, R470, R471, R473, R474, R475, R476, R477, Table 20-1, Table 20-2, Table 20-3) -/
def Obligations.BringUpStages : Prop :=
  ∀ (s : State) (t stack slot : Nat) (pass : Bool) (x : StageResult),
    let d := s.dueAt t
    let into (n : Nat) (y : Dev) : Prop := y.modState = .boot ∧ y.boot.stage = n ∧ y.boot.failReason = 0
    let fails (n reason : Nat) (y : Dev) : Prop := y.modState = .boot ∧ y.boot.stage = n ∧ y.boot.failReason = reason ∧ y.boot.hold = false ∧ y.boot.smuWait = false
    let starts (p : Nat) : Bool := (!bit x.badRun p && d.bootable p (d.proc p).image) || (d.proc p).other.any (fun y => !bit x.badOther p && d.bootable p y)
    let ends (P : Dev → Prop) : Prop := ∃ y : Dev, exec (.bringupStageEnd t x) s = .next (s.endsWith t y) ∧ P y
    (d.inStage 0 = true → ends (into 1))
    ∧ (d.inStage 1 = true → (starts 0 = true → ends (fun y => into 2 y ∧ y.sec = d.sec.completePairs)) ∧ (starts 0 = false → ends (fails 1 1)))
    ∧ (d.inStage 2 = true → ((d.boot.warm = true ∨ (starts 1 = true ∧ starts 2 = true)) → ends (into 3)) ∧ (d.boot.warm = false → (starts 1 && starts 2) = false → ends (fails 2 2)))
    ∧ (d.inStage 3 = true → let waits := d.boot.hold || (d.boot.enables && d.pwr.smuSeq.isNone && !d.pwr.smuAbsent)
        (waits = false → ends (fun y => into 4 y ∧ y.boot.railsOff = false ∧ y.pins.thermTrip = false)) ∧ (waits = true → ends (fun y => y = d)))
    ∧ (d.inStage 4 = true → let up := x.clusters &&& (d.boot.images >>> 3) &&& 15
        (bit up 0 = true → ends (fun y => into 5 y ∧ y.boot.clustersUp = up)) ∧ (bit up 0 = false → ends (fails 4 5)))
    ∧ (d.inStage 5 = true → (d.stacksDone = false → ends (fun y => y = d)) ∧ (d.stacksDone = true → (bit d.boot.stacksFailed 0 = true → ends (fails 5 4)) ∧ (bit d.boot.stacksFailed 0 = false → ends (into 6))))
    ∧ (d.inStage 6 = true → (d.slotsDone = false → ends (fun y => y = d)) ∧ (d.slotsDone = true → ends (into 7)))
    ∧ (d.inStage 7 = true → (d.finalSlots = [] → ends (fails 7 6)) ∧ (d.finalSlots ≠ [] → ends (fun y => y.modState = .ready ∧ y.boot.stage = 8 ∧ y.boot.failReason = 0 ∧ y.geom.slots = d.finalSlots ∧ y.boot.logicalCores = d.finalSlots.length)))
    ∧ ((d.modState ≠ .boot ∨ d.boot.failReason ≠ 0 ∨ 8 ≤ d.boot.stage) → ends (fun y => y = d))
    ∧ (∃ y : Dev, exec (.inputPowerTimeout t) s = .next (s.endsWith t y) ∧ (if d.inStage 3 && d.boot.hold && !d.pins.vin48 && decide (d.boot.holdSince + 10000000000 < d.sincePower) then fails 3 3 y else y = d))
    ∧ (∃ y : Dev, exec (.smuWaitTimeout t) s = .next (s.endsWith t y) ∧ (if d.inStage 3 && d.boot.smuWait && d.pwr.smuSeq.isNone && !d.pwr.smuAbsent && decide (d.boot.smuWaitSince + 100000000 ≤ d.sincePower) then y.pwr.smuAbsent = true ∧ y.boot = d.boot ∧ y.modState = .boot else y = d))
    ∧ (∃ y : Dev, exec (.bringupTimeout t) s = .next (s.endsWith t y) ∧ (if d.modState == .boot && d.boot.failReason == 0 && decide ((if d.boot.warm then 5000000000 else 12000000000) < d.bootCounted) then fails d.boot.stage 7 y else y = d))
    ∧ (∃ y : Dev, exec (.dramTrainingAttempt t stack pass) s = .next (s.endsWith t y) ∧ (if d.inStage 5 && decide (stack < 32) && (d.drams.getD stack {}).hstate == .training then
          (y.drams.getD stack {}).attempts = (d.drams.getD stack {}).attempts + 1
          ∧ (y.drams.getD stack {}).hstate = (if pass then .active else if (d.drams.getD stack {}).attempts + 1 < 3 then .training else .failed)
          ∧ y.boot.stacksFailed = (if pass || decide ((d.drams.getD stack {}).attempts + 1 < 3) then d.boot.stacksFailed else setBit d.boot.stacksFailed stack) ∧ ∀ h, stack ≠ h → y.drams.getD h {} = d.drams.getD h {} else y = d))
    ∧ (∃ y : Dev, exec (.slotSelfTest t slot pass) s = .next (s.endsWith t y) ∧ (if d.inStage 6 && decide (slot < 20) && bit d.boot.clustersUp (slot / 5) && !bit d.boot.tested slot && (upFrom (slot / 5 * 5) (slot % 5)).all (fun x => bit d.boot.tested x) then
          y.boot.tested = setBit d.boot.tested slot ∧ y.geom.retired = (if pass || bit d.geom.retired slot then d.geom.retired else setBit d.geom.retired slot) else y = d))
    ∧ (∃ y : Dev, exec (.vin48InRange t) s = .next (s.endsWith t y) ∧ y.pins = { d.pins with vin48 := true } ∧ y.modState = d.modState ∧ y.boot.stage = d.boot.stage ∧ (d.boot.enables = true → d.pwr.junctions = [] → d.pwr.hubTemp < 85 → y.boot.hold = false ∧ y.boot.smuWait = true))

/-- PCIE_LINK_RETRAIN, SHOLO_TRAINING_COMPLETE, IDENTITY_FRAME, FLIT_CRC_FAIL, REPLAY_LIMIT_RETRAIN, SIGNAL_LOSS, RETRAIN_TIMEOUT, PORT_ENABLE_WRITE, LINK_REFCLK_LOSS, PARTNER_LOW_POWER and LINK_REFCLK_RETURN complete. The host link retrained lower keeps everything but its rate and width, with a class-1 record. A Sholo port that trains goes to DISCOVERY at its generation, Sholo-2 only where it is advertised and has not failed three times; a failed training counts; an Ethernet port is UP. In DISCOVERY the partner's identity makes the port UP with it, or LOOPBACK for the module's own. A replayed flit of an UP Sholo port counts, its delay at most 400 ns or on Sholo-1 800 ns; more than 64 within 1 ms, or the loss of signal, start a retrain with the time kept. A retrain 10 ms old detaches the partner, and neither before. A partner in SNOWPACK puts an UP Sholo port into LOW_POWER. Without LINK_REFCLK every UP port retrains; its return changes the pin alone. ENABLE 0 disables the port and detaches at once, ENABLE 1 starts its training. (R448, R449, R450, R451, R452, R453, R482) -/
def Obligations.LinksTrainAndPartnersAttach : Prop :=
  ∀ (s : State) (t p gen width delay data : Nat) (half flit : Bool) (x : Identity),
    let d := s.dueAt t
    let g := d.port p
    let retrains (y : Dev) (q : Nat) : Prop := y.port q = { d.port q with pstate := .training, retrainAt := some d.now, retrains := satAdd 0xFFFFFFFF (d.port q).retrains 1, replayTimes := [] }
    (if d.modState ≠ .reset ∧ 3 ≤ gen ∧ gen ≤ 6 ∧ (width = 4 ∨ width = 8 ∨ width = 16) ∧ (gen < d.hostIf.gen ∨ width < d.hostIf.width) then
        exec (.pcieLinkRetrain t gen width flit) s = .next (s.endsWith t (({ d with hostIf := { d.hostIf with gen, width, flit, retrains := satAdd 0xFFFFFFFF d.hostIf.retrains 1 } } : Dev).raise 1 0x305 UnitId.hostIf.page (gen + 16 * width) d.deviceTime))
      else exec (.pcieLinkRetrain t gen width flit) s = .next (s.endsWith t d))
    ∧ ((d.portLive p && d.mayTrain && g.enable && d.modState != .snowpack) = true → g.pstate = .training →
        (isEth p = true → (∃ y : Dev, exec (.sholoTrainingComplete t p gen half) s = .next (s.endsWith t y) ∧ ((y.port p).pstate = .up ∧ (y.port p).half = half)))
        ∧ (isEth p = false → gen = 0 → (∃ y : Dev, exec (.sholoTrainingComplete t p gen half) s = .next (s.endsWith t y) ∧ (y.port p = { g with gen2Fails := g.gen2Fails + 1 })))
        ∧ (isEth p = false → (gen = 1 ∨ (gen = 2 ∧ g.gen2En = true ∧ g.gen2Fails < 3)) → (∃ y : Dev, exec (.sholoTrainingComplete t p gen half) s = .next (s.endsWith t y) ∧ (y.port p = { g with pstate := .discovery, gen, half, gen2Fails := 0, sent := some (d.identityFrame p) })))
        ∧ (isEth p = false → gen = 2 → (g.gen2En = false ∨ 3 ≤ g.gen2Fails) → exec (.sholoTrainingComplete t p gen half) s = .next (s.endsWith t d)))
    ∧ ((d.portLive p && d.mayTrain && g.enable && d.modState != .snowpack) = false → exec (.sholoTrainingComplete t p gen half) s = .next (s.endsWith t d))
    ∧ (d.portLive p = true → isEth p = false → g.pstate = .discovery → (∃ y : Dev, exec (.identityFrame t p x) s = .next (s.endsWith t y) ∧ ((y.port p).partner = some x ∧ (y.port p).pstate = (if x.deviceId = d.sec.deviceId then .loopback else .up)
        ∧ (x.deviceId ≠ d.sec.deviceId → (y.port p).lastId = some x.deviceId ∧ (y.port p).retrainAt = none))))
    ∧ ((d.portLive p = false ∨ isEth p = true ∨ g.pstate ≠ .discovery) → exec (.identityFrame t p x) s = .next (s.endsWith t d))
    ∧ (g.pstate = .up → isEth p = false → (∃ y : Dev, exec (.flitCrcFail t p delay) s = .next (s.endsWith t y) ∧ ((y.port p).replays = satAdd 0xFFFFFFFF g.replays 1 ∧ (y.port p).maxDelay = max g.maxDelay (min delay (if g.gen = 2 then 400 else 800)) ∧ (y.port p).pstate = .up ∧ y.msix = d.msix ∧ y.hostMem = d.hostMem)))
    ∧ ((g.pstate ≠ .up ∨ isEth p = true) → exec (.flitCrcFail t p delay) s = .next (s.endsWith t d))
    ∧ (if g.pstate = .up ∧ 64 < (g.replayTimes.filter (fun k => decide (d.now < k + 1000000))).length then (∃ y : Dev, exec (.replayLimitRetrain t p) s = .next (s.endsWith t y) ∧ (retrains y p ∧ ∀ q, p ≠ q → y.port q = d.port q)) else exec (.replayLimitRetrain t p) s = .next (s.endsWith t d))
    ∧ (g.pstate = .up → (∃ y : Dev, exec (.signalLoss t p) s = .next (s.endsWith t y) ∧ (retrains y p ∧ ∀ q, p ≠ q → y.port q = d.port q)))
    ∧ (g.retrainAt = none → exec (.retrainTimeout t p) s = .next (s.endsWith t d))
    ∧ (∀ t0, g.retrainAt = some t0 → (d.now < t0 + 10000000 → exec (.retrainTimeout t p) s = .next (s.endsWith t d)) ∧ (t0 + 10000000 ≤ d.now → (∃ y : Dev, exec (.retrainTimeout t p) s = .next (s.endsWith t y) ∧ ((y.port p).partner = none ∧ (y.port p).retrainAt = none ∧ y.jobs = d.jobs ∧ y.modState = d.modState))))
    ∧ (if g.pstate = .up ∧ isEth p = false then (∃ y : Dev, exec (.partnerLowPower t p) s = .next (s.endsWith t y) ∧ (y.port p = { g with pstate := .lowPower, partnerLow := true })) else exec (.partnerLowPower t p) s = .next (s.endsWith t d))
    ∧ (∃ y : Dev, exec (.linkRefclkLoss t) s = .next (s.endsWith t y) ∧ (y.pins.linkRef = false ∧ ∀ q, q < portCount → (d.port q).pstate = .up → retrains y q))
    ∧ exec (.linkRefclkReturn t) s = .next (s.endsWith t { d with pins := { d.pins with linkRef := true } })
    ∧ (d.hostOpen (portUnit p) = true → p < portCount →
        (bit data 0 = true → d.modState ≠ .dumping → (∃ y : Dev, exec (.portEnableWrite t p data) s = .next (s.endsWith t y) ∧ (y.port p = { g with gen2En := bit data 1, enable := true, pstate := if g.pstate = .disabled then .training else g.pstate })))
        ∧ (bit data 0 = false → (∃ y : Dev, exec (.portEnableWrite t p data) s = .next (s.endsWith t y) ∧ ((y.port p).pstate = .disabled ∧ (y.port p).enable = false ∧ (y.port p).gen = 0 ∧ (y.port p).partner = none ∧ (y.port p).gen2En = bit data 1 ∧ y.jobs = d.jobs ∧ y.modState = d.modState))))
    ∧ (d.hostOpen (portUnit p) = false → exec (.portEnableWrite t p data) s = .next (s.endsWith t d))

/-- XQ_CONTROL_ENABLE, XQ_TAIL_DOORBELL, TRANSFER_WRITE, TRANSFER_READ, INCOMING_TRANSFER, TRANSFER_COMPLETE and RXW_ENABLE_WRITE complete. XQ_CONTROL enables a drained ring from index 0, a ring not drained refuses it, ENABLE 0 stops fetching. XQ_TAIL sets the tail of an enabled ring, an index outside the ring halts it, a disabled ring refuses it. The next descriptor, a WRITE or a READ, is taken with at most three others being carried: the head moves on, and it starts, or ends with the first code of the local checks; those give BAD_FORMAT to an unknown XOP or a reserved bit, and LINK_DOWN only to one that passes the checks before. An incoming transfer on a LOOPBACK port is refused, with the window closed or the range outside it answered so, else carried. A transfer the partner has done stores a READ's bytes, applies its post and ends OK, except that an FS8 refuses a post; a refusal ends it with its code; one that arrives stores its bytes and then posts. RXW_CONTROL changes CTX only while closed and idle. (R454, R455, R456, R457, R458, Table 19-4, Table 19-6, Table 19-12) -/
def Obligations.TransfersStartAndEnd : Prop :=
  ∀ (s : State) (t p data value index : Nat) (host : List Host.Cell) (x : Incoming) (z : Xfer) (w : Inbound) (bytes : List Byte) (code : Nat),
    let d := s.dueAt t
    let g := d.port p
    let q := g.xq
    let e : Dev := { d with hostMem := memWriteCells d.hostMem host }
    let f := d.xferAt p q.sqHead
    (p < portCount → d.hostOpen (portUnit p) = true →
        (bit data 0 = true → q.drained = true → exec (.xqControlEnable t p data) s = .next (s.endsWith t (d.updXq p (fun g => { g with enable := true, sqTail := 0, sqHead := 0, cqTail := 0, cqHead := 0, phase := true, doomed := [] }))))
        ∧ (bit data 0 = true → q.drained = false → exec (.xqControlEnable t p data) s = .next (s.endsWith t (d.refuse 0 (portUnit p).page 0x074 4 data cIllegal)))
        ∧ (bit data 0 = false → exec (.xqControlEnable t p data) s = .next (s.endsWith t (d.updXq p (fun g => { g with enable := false, halted := false, doomed := [] }))))
        ∧ (q.enable = true → value % 65536 < 2 ^ q.log2Sq → exec (.xqTailDoorbell t p value host) s = .next (s.endsWith t (e.updXq p (fun g => { g with sqTail := value % 65536 }))))
        ∧ (q.enable = true → 2 ^ q.log2Sq ≤ value % 65536 → exec (.xqTailDoorbell t p value host) s = .next (s.endsWith t (e.updXq p (fun g => { g with halted := true }))))
        ∧ (q.enable = false → exec (.xqTailDoorbell t p value host) s = .next (s.endsWith t (e.refuse 0 (portUnit p).page 0x08C 4 value cIllegal)))
        ∧ ((bits data 14 8 = g.rxwCtx ∨ (g.rxwEnable = false ∧ g.inbound = [])) → exec (.rxwEnableWrite t p data) s = .next (s.endsWith t (d.updPort p (fun g => { g with rxwEnable := bit data 0, rxwCtx := bits data 14 8 }))))
        ∧ (bits data 14 8 ≠ g.rxwCtx → (g.rxwEnable = true ∨ g.inbound ≠ []) → exec (.rxwEnableWrite t p data) s = .next (s.endsWith t d)))
    ∧ (d.hostOpen (portUnit p) = false → exec (.xqControlEnable t p data) s = .next (s.endsWith t d) ∧ exec (.rxwEnableWrite t p data) s = .next (s.endsWith t d))
    ∧ (d.portLive p = true → q.enable = true → q.halted = false → q.sqHead ≠ q.sqTail → q.cqFull = false → d.hostStopped = false → d.modState ≠ .reset → q.active.length < 4 → q.doomed.get? q.sqHead = none →
        let y := (d.updXq p (fun g => { g with sqHead := (g.sqHead + 1) % 2 ^ g.log2Sq, doomed := g.doomed.del q.sqHead, xfers := g.xfers ++ [{ f with fin := d.xferCheck p f }] })).xqWrite p
        (f.xop ≠ 2 → exec (.transferWrite t p) s = .next (s.endsWith t y)) ∧ (f.xop ≠ 1 → exec (.transferRead t p) s = .next (s.endsWith t y))
        ∧ (f.xop = 2 → exec (.transferWrite t p) s = .next (s.endsWith t d)) ∧ (f.xop = 1 → exec (.transferRead t p) s = .next (s.endsWith t d)))
    ∧ (((f.xop ≠ 1 ∧ f.xop ≠ 2) ∨ f.word &&& xferMask ≠ f.word ∨ f.len < 64 ∨ 2 ^ 30 < f.len) → d.xferCheck p f = some cBadFormat)
    ∧ (d.xferCheck p f = none → (f.xop = 1 ∨ f.xop = 2) ∧ f.addr % 64 = 0 ∧ f.len % 64 = 0 ∧ 64 ≤ f.len ∧ f.len ≤ 2 ^ 30 ∧ g.xferCtx < 64 ∧ (d.ctx g.xferCtx).cstate ≠ .free ∧ (g.pstate = .up ∨ g.retraining d.now = true))
    ∧ (d.portLive p = true →
        (g.pstate = .loopback → exec (.incomingTransfer t p x) s = .next (s.endsWith t (d.updPort p (fun g => { g with answer := cPartnerRefused }))))
        ∧ (g.pstate = .up → g.rxwEnable = false → exec (.incomingTransfer t p x) s = .next (s.endsWith t (d.updPort p (fun g => { g with answer := cWindowClosed }))))
        ∧ (g.pstate = .up → g.rxwEnable = true → d.inWindow g x.write x.off x.len x.post = false → exec (.incomingTransfer t p x) s = .next (s.endsWith t (d.updPort p (fun g => { g with answer := cRemoteRange }))))
        ∧ (g.pstate = .up → g.rxwEnable = true → d.inWindow g x.write x.off x.len x.post = true → exec (.incomingTransfer t p x) s = .next (s.endsWith t (d.updPort p (fun g =>
            { g with inbound := g.inbound ++ [({ id := g.nextInbound, write := x.write, off := x.off, len := x.len, post := x.post } : Inbound)], nextInbound := g.nextInbound + 1, answer := cOk })))))
    ∧ (d.portLive p = false → exec (.incomingTransfer t p x) s = .next (s.endsWith t d))
    ∧ (q.active.find? (fun y => y.index == index) = some z →
        let ends (y : Dev) (code : Nat) : Dev := (y.updXq p (fun g => { g with xfers := g.xfers.map (fun (y : Xfer) => if y.index = index ∧ y.fin.isNone then { y with fin := some code } else y) })).xqWrite p
        ((code = cPartnerRefused ∨ code = cWindowClosed ∨ code = cRemoteRange) → exec (.transferComplete t p index (.refused code)) s = .next (s.endsWith t (ends d code)))
        ∧ (g.pstate = .up → g.partner.map (·.fs8) = some true → z.remotePost = true → exec (.transferComplete t p index (.done bytes)) s = .next (s.endsWith t (ends d cPartnerRefused)))
        ∧ (g.pstate = .up → isEth p = false → g.partner.map (·.fs8) = some false → z.xop = 1 → z.localPost = false → exec (.transferComplete t p index (.done bytes)) s = .next (s.endsWith t (ends d cOk)))
        ∧ (g.pstate = .up → isEth p = false → g.partner.map (·.fs8) = some false → z.xop = 2 → bytes.length = z.len → z.localPost = true → exec (.transferComplete t p index (.done bytes)) s = .next (s.endsWith t (ends ((d.storeDev z.addr bytes).syncPost z.localSync 1) cOk))))
    ∧ (g.inbound.find? (fun y => y.id == index) = some w → g.pstate = .up → w.write = true → bytes.length = w.len → d.inWindow g true w.off w.len w.post = true → w.post = none →
        exec (.transferComplete t p index (.arrived bytes)) s = .next (s.endsWith t (((d.updPort p (fun g => { g with inbound := g.inbound.filter (fun y => y.id != index) })).storeDev (g.windowBase + w.off) bytes).updPort p (fun g => { g with answer := cOk }))))

/-- ETH_DATAGRAM and ETH_RESEND_TIMEOUT complete. On an Ethernet port that is UP, a datagram from no address in the peer table is counted in ETH_DROPPED and changes nothing else of the port; an identity frame makes its peer VERIFIED, and for one that was not, or is another module, raises PARTNER_UP or PARTNER_CHANGED, whose record changes the tree; an acknowledgement ends the resends of the datagrams it names. A datagram of a VERIFIED peer unacknowledged for 20 µs is resent and counted up to 8 times; after the eighth the peer loses VERIFIED and its transfers end with PEER_UNREACHABLE. On a Sholo port neither happens. (R461, R462, R452, Table 19-13) -/
def Obligations.EthernetPeersAndResends : Prop :=
  ∀ (s : State) (t p k number delay : Nat) (numbers : List Nat) (x : Datagram) (y : Peer) (i : Identity),
    let d := s.dueAt t
    let g := d.port p
    (isEth p = true → d.portLive p = true →
        (g.pstate = .up → g.peers.find? (fun (e : Nat × Peer) => e.2.valid && e.2.addr == x.addr) = none → exec (.ethDatagram t p x) s = .next (s.endsWith t (d.updPort p (fun g => { g with dropped := satAdd 0xFFFFFFFF g.dropped 1 }))))
        ∧ (g.pstate = .up → g.peers.find? (fun (e : Nat × Peer) => e.2.valid && e.2.addr == x.addr) = some (k, y) →
            (x.kind = .ack numbers → exec (.ethDatagram t p x) s = .next (s.endsWith t (d.updPort p (fun g => { g with peers := g.peers.put k { y with resends := y.resends.filter (fun e => !numbers.contains e.1) } }))))
            ∧ (x.kind = .identity i → ∃ z : Dev, exec (.ethDatagram t p x) s = .next (s.endsWith t z) ∧ z.jobs = d.jobs ∧ z.modState = d.modState
                ∧ (z.port p).peers.get? k = some { y with verified := true, ident := some i, lastId := some i.deviceId }
                ∧ (y.verified = false → (z.view 0).treeGeneration = ((d.view 0).treeGeneration + 1) % 2 ^ 32)))
        ∧ ((g.peers.getD k {}).verified = true → (g.peers.getD k {}).resends.getD number 0 < 8 → ∃ z : Dev, exec (.ethResendTimeout t p k ⟨number, delay⟩) s = .next (s.endsWith t z)
            ∧ (z.port p).peers.get? k = some { g.peers.getD k {} with resends := (g.peers.getD k {}).resends.put number ((g.peers.getD k {}).resends.getD number 0 + 1) } ∧ (z.port p).retransmits = satAdd 0xFFFFFFFF g.retransmits 1 ∧ (z.port p).xq = g.xq ∧ ∀ q, p ≠ q → z.port q = d.port q)
        ∧ ((g.peers.getD k {}).verified = true → 8 ≤ (g.peers.getD k {}).resends.getD number 0 → ∃ z : Dev, exec (.ethResendTimeout t p k ⟨number, delay⟩) s = .next (s.endsWith t z)
            ∧ (z.port p).peers.get? k = some { g.peers.getD k {} with verified := false, ident := none, resends := [] } ∧ z = (d.dropPeer p k (g.peers.getD k {})).loseXfers p cPeerUnreachable (fun z => z.peer == k) ∧ z.jobs = d.jobs ∧ z.modState = d.modState))
    ∧ (isEth p = false → exec (.ethDatagram t p x) s = .next (s.endsWith t d) ∧ exec (.ethResendTimeout t p k ⟨number, delay⟩) s = .next (s.endsWith t d))

/-- COUNTER_WRAP, SAMPLE_RECORD_WRITE, CNT_SEL_WRITE, CNT_HI_WRITE and SAMPLE_POP complete. An enabled counter of a unit that runs, neither chained nor frozen, whose filter passes, adds occurrences of an event whose occurrences come with the command (log entry 78), up to the last cycle's Max; other counters and pages stay. Passing 2^48 it keeps what is beyond, setting its OVF bit; chained, the odd counter adds one for the wrap, if it is enabled, and no even OVF bit is set. With SAMPLE it restarts at 2^48 - SAMPLE_PERIOD, taking the unit's one sample or counting one lost. Otherwise it keeps its value. The end of a sample, whose item no longer waits, puts its record into the ring, or counts it lost when the ring is full. CNT_SEL takes a defined event, refuses an undefined one with OUT_OF_RANGE and an extended one without access with ILLEGAL_IN_STATE, and leaves the value; CNT_HI makes the held LO half, if any, and its own take effect. SAMPLE_POP removes the head, and is refused during a drain. A virtual function reaches none of them. (R430, R431, R432, R433, R442, R443, R444) -/
def Obligations.CountersCountAndSample : Prop :=
  ∀ (s : State) (t p n k fn data : Nat) (x : SampleItem) (o : SampleOutcome) (word : Nat) (u : UnitId),
    let d := s.dueAt t
    let w := d.cnt p
    let c := w.counter n
    let passes := c.passes (match d.jobs.get? x.job with
          | some j => some j.ctx
          | none => none)
    let counts := d.windowUnit p = some u ∧ n < 8 ∧ c.enabled = true ∧ (n % 2 = 1 → c.chain = false) ∧ c.event ∈ timedEvents ∧ passes = true ∧ d.reader.frozen = false ∧ (d.hdr p).countersRun = true
          ∧ 0 < k ∧ c.value + k < 2 ^ 48 + eventMax u.type c.event
    let y (f : CntWin) : Dev := d.updCnt p (fun _ => f)
    (counts → c.value + k < 2 ^ 48 → exec (.counterWrap t p n k x) s = .next (s.endsWith t (y (w.set n { c with value := c.value + k }))))
    ∧ (counts → 2 ^ 48 ≤ c.value + k → let beyond := (c.value + k - 2 ^ 48) % 2 ^ 48
        (n % 2 = 0 → (w.counter (n + 1)).chain = true → (w.counter (n + 1)).enabled = true → (w.counter (n + 1)).value + 1 < 2 ^ 48 →
          exec (.counterWrap t p n k x) s = .next (s.endsWith t (y ((w.set n { c with value := beyond }).set (n + 1) { w.counter (n + 1) with value := (w.counter (n + 1)).value + 1 }))))
        ∧ (n % 2 = 0 → (w.counter (n + 1)).chain = true → (w.counter (n + 1)).enabled = true → (w.counter (n + 1)).value + 1 = 2 ^ 48 →
          exec (.counterWrap t p n k x) s = .next (s.endsWith t (y { (w.set n { c with value := beyond }).set (n + 1) { w.counter (n + 1) with value := 0 } with ovf := w.ovf ||| 2 ^ (n + 1) })))
        ∧ (n % 2 = 0 → (w.counter (n + 1)).chain = true → (w.counter (n + 1)).enabled = false →
          exec (.counterWrap t p n k x) s = .next (s.endsWith t (y (w.set n { c with value := beyond }))))
        ∧ ((n % 2 = 1 ∨ (w.counter (n + 1)).chain = false) → c.sampling = false →
          exec (.counterWrap t p n k x) s = .next (s.endsWith t (y { w.set n { c with value := beyond } with ovf := w.ovf ||| 2 ^ n })))
        ∧ ((n % 2 = 1 ∨ (w.counter (n + 1)).chain = false) → c.sampling = true → let v := (2 ^ 48 - d.reader.period + (c.value + k - 2 ^ 48)) % 2 ^ 48
          (w.sample = none → exec (.counterWrap t p n k x) s = .next (s.endsWith t (y { w.set n { c with value := v } with ovf := w.ovf ||| 2 ^ n, sample := some (d.sampleWord p c.event x) })))
          ∧ (w.sample.isSome = true → exec (.counterWrap t p n k x) s = .next (s.endsWith t ({ y { w.set n { c with value := v } with ovf := w.ovf ||| 2 ^ n } with reader := { d.reader with lost := satAdd 0xFFFFFFFF d.reader.lost 1 } })))))
    ∧ ((d.windowUnit p = none ∨ 8 ≤ n ∨ c.enabled = false ∨ (n % 2 = 1 ∧ c.chain = true) ∨ c.event ∉ timedEvents ∨ passes = false ∨ d.reader.frozen = true ∨ (d.hdr p).countersRun = false) → exec (.counterWrap t p n k x) s = .next (s.endsWith t d))
    ∧ (w.sample = some word → d.sampleWaits p word = false → let r := word + 2 ^ 384 * (match o with
          | .completed n => min n 0xFFFFFFFF
          | .discarded => 0xFFFFFFFF)
        exec (.sampleRecordWrite t p o) s = .next (s.endsWith t { y { w with sample := none } with
          reader := if d.reader.samples.length < 1024 then { d.reader with samples := d.reader.samples ++ [r] } else { d.reader with lost := satAdd 0xFFFFFFFF d.reader.lost 1 } }))
    ∧ ((w.sample = none ∨ (w.sample = some word ∧ d.sampleWaits p word = true)) → exec (.sampleRecordWrite t p o) s = .next (s.endsWith t d))
    ∧ (d.windowUnit p = some u → d.modState ≠ .reset → n < 8 → data < 2 ^ 32 → let ev := bits data 15 0
        ((ev = 0 ∨ ev ∈ eventsOf u.type) → (bit data 18 = true → canSample u.type = true) → ((0x8000 ≤ ev ∨ bit data 18 = true) → d.sec.traceOpen = true) →
          exec (.cntSelWrite t 0 p n data) s = .next (s.endsWith t (y (w.set n { c with sel := data &&& selMask n }))))
        ∧ (ev ≠ 0 → ev ∉ eventsOf u.type → exec (.cntSelWrite t 0 p n data) s = .next (s.endsWith t (d.refuse 0 p (0xF00 + 4 * n) 4 data cOutOfRange)))
        ∧ (ev ∈ eventsOf u.type → bit data 18 = false → 0x8000 ≤ ev → d.sec.traceOpen = false → exec (.cntSelWrite t 0 p n data) s = .next (s.endsWith t (d.refuse 0 p (0xF00 + 4 * n) 4 data cIllegal)))
        ∧ exec (.cntHiWrite t 0 p n data) s = .next (s.endsWith t (y (w.set n { c with value := c.lo.getD (c.value % 2 ^ 32) + 2 ^ 32 * (data % 2 ^ 16), lo := none }))))
    ∧ (fn ≠ 0 → exec (.cntSelWrite t fn p n data) s = .next (s.endsWith t d) ∧ exec (.cntHiWrite t fn p n data) s = .next (s.endsWith t d) ∧ exec (.samplePop t fn data) s = .next (s.endsWith t d))
    ∧ (d.hostOpen .counter = true → d.reader.drain.isSome = true → exec (.samplePop t 0 data) s = .next (s.endsWith t (d.refuse 0 UnitId.counter.page 0x054 4 data cIllegal)))
    ∧ (d.hostOpen .counter = true → d.reader.drain = none → exec (.samplePop t 0 data) s = .next (s.endsWith t (if bit data 0 then { d with reader := { d.reader with samples := d.reader.samples.drop 1 } } else d)))

/-- COUNTER_FREEZE of each operation, COUNTER_FREEZE_AT_S, SNAPSHOT_WRITE_OUT, BW_WINDOW_END and BW_WINDOW_WRITE complete. Once admitted and passing its checks in their order (BAD_FORMAT, OUT_OF_RANGE, NO_RESOURCE for a second snapshot), a FREEZE, UNFREEZE or SNAPSHOT is answered PENDING with S = max(t, C + L) and waits for S; a SAMPLE_DRAIN writes the oldest records to host memory, as many as fit, removes them and completes OK with their count, or waits while host writes are stopped. The clock leaves no operation that has reached its S; of one operation alone: before S nothing, then a FREEZE or UNFREEZE sets the frozen state with its time, and a SNAPSHOT captures the records of that instant. The final record of a freeze is then OK; a capture is written with its header, as many records as fit, and completes OK with the written and the needed counts. A bandwidth window that ends stores its counts with its end, of the stack interfaces those counted, and none for reserved ports; a write of BW_WINDOW of 1,000 to 10^9 discards the window and starts the new length at its next multiple, any other is refused. (R437, R438, R439, R440, R441, R80, Table 18-7) -/
def Obligations.FreezesSnapshotsAndWindows : Prop :=
  ∀ (s : State) (t r data fn : Nat) (c q : Cmd) (o : FreezeOp) (os : List FreezeOp) (recs : List Nat) (counts : List (Nat × Nat)) (code : Nat),
    let d := s.dueAt t
    let answers (e : Dev) : Prop := (cfOp c = 0 → exec (.counterFreezeFreeze t r) s = .next (s.endsRing t r e)) ∧ (cfOp c = 1 → exec (.counterFreezeUnfreeze t r) s = .next (s.endsRing t r e))
      ∧ (cfOp c = 2 → exec (.counterFreezeSnapshot t r) s = .next (s.endsRing t r e)) ∧ (cfOp c = 3 → exec (.counterFreezeSampleDrain t r) s = .next (s.endsRing t r e))
    (d.admits r c specCounterFreeze none → let d1 := d.taken r c specCounterFreeze none;
        (d1.cfCheck c = some code → answers ((d1.answer c code 0 0)))
        ∧ (d1.cfCheck c = none → cfOp c < 3 → let e := d1.answerPending c (max (cfTime c) (d1.now + 2000)) 0
            answers { e with reader := { e.reader with ops := e.reader.ops ++ [{ cmd := { c with interim := true }, op := cfOp c, s := max (cfTime c) (d1.now + 2000) }] } })
        ∧ (d1.cfCheck c = none → cfOp c = 3 → d1.hostStopped = false → let n := min (cfBytes c / 64) d1.reader.samples.length
            answers ((({ d1.writeHost (cfAddr c) ((d1.reader.samples.take n).flatMap (leBytes 64)) with reader := { d1.reader with samples := d1.reader.samples.drop n } } : Dev).answer c cOk n 0)))
        ∧ (d1.cfCheck c = none → cfOp c = 3 → d1.hostStopped = true →
            answers { d1.awaitRecord c with reader := { d1.reader with drain := some { c with interim := true } } }))
    ∧ (d.cfCheck c = none → cfAddr c % 64 = 0 ∧ (2 ≤ cfOp c → cfAddr c ≠ 0 ∧ 64 ≤ cfBytes c) ∧ (cfOp c = 2 → d.reader.captured = none ∧ ∀ x ∈ d.reader.ops, x.op ≠ 2))
    ∧ (∀ x ∈ d.reader.ops, d.now < x.s)
    ∧ (s.dev.reader.ops = [o] →
        (d.now < o.s → ∃ n, d.reader = { s.dev.reader with lost := n })
        ∧ (o.s ≤ d.now → o.op ≠ 2 → ∃ n, d.reader = { s.dev.reader with lost := n, ops := [], frozen := o.op == 0, freezeTime := o.s, applied := s.dev.reader.applied ++ [o] })
        ∧ (o.s ≤ d.now → o.op = 2 → ∃ n, d.reader = { s.dev.reader with lost := n, ops := [], captured := some (o, ((s.clockAt t).cycles s.dev.now o.s).snapshot) }))
    ∧ (d.reader.applied = o :: os → exec (.counterFreezeAtS t) s = .next (s.endsWith t (({ d with reader := { d.reader with applied := os } } : Dev).finishCmd o.cmd cOk 0 0)))
    ∧ (d.reader.applied = [] → exec (.counterFreezeAtS t) s = .next (s.endsWith t d))
    ∧ (d.reader.drain = none → d.reader.captured = some (o, recs) → d.hostStopped = false → d.modState ≠ .dumping → let n := min recs.length ((cfBytes o.cmd - 64) / 128)
        exec (.snapshotWriteOut t) s = .next (s.endsWith t (({ d.writeHost (cfAddr o.cmd) (leBytes 8 o.s ++ leBytes 4 recs.length ++ leBytes 4 n ++ leBytes 48 0 ++ (recs.take n).flatMap (leBytes 128)) with reader := { d.reader with captured := none } } : Dev).finishCmd o.cmd cOk 0 (n + 2 ^ 32 * recs.length))))
    ∧ (d.reader.drain = some q → d.hostStopped = false → d.modState ≠ .dumping → let n := min (cfBytes q / 64) d.reader.samples.length
        let e := ({ d.writeHost (cfAddr q) ((d.reader.samples.take n).flatMap (leBytes 64)) with reader := { d.reader with drain := none, samples := d.reader.samples.drop n } } : Dev).answer q cOk n 0
        e.reader.captured = none → exec (.snapshotWriteOut t) s = .next (s.endsWith t e))
    ∧ ((d.hostStopped = true ∨ d.modState = .dumping ∨ (d.reader.drain = none ∧ d.reader.captured = none)) → exec (.snapshotWriteOut t) s = .next (s.endsWith t d))
    ∧ (d.readerUp = true → let e := d.deviceTime / d.reader.bwWindow * d.reader.bwWindow
        let bytes := fun i : Nat =>
          let x := if 25 ≤ i % 32 then (0, 0) else if 17 ≤ i % 32 then d.reader.traffic.getD (8 * (i / 32) + (i % 32 - 17)) (0, 0) else counts.getD i (0, 0)
          (x.1 % 2 ^ 48, x.2 % 2 ^ 48)
        ((∀ x, d.reader.bwEnd = some x → x + 1 < e) → d.reader.bwFrom + d.reader.bwWindow ≤ e → exec (.bwWindowEnd t counts) s = .next (s.endsWith t { d with reader := { d.reader with bwEnd := some (e - 1), traffic := [], bwCounts := (upFrom 0 128).map (fun i => (i, bytes i)) } }))
        ∧ (e < d.reader.bwFrom + d.reader.bwWindow → exec (.bwWindowEnd t counts) s = .next (s.endsWith t d)))
    ∧ (d.hostOpen .counter = true → data < 2 ^ 30 →
        (1000 ≤ data → data ≤ 1000000000 → exec (.bwWindowWrite t 0 data) s = .next (s.endsWith t { d with reader := { d.reader with bwWindow := data, bwFrom := (d.deviceTime / data + 1) * data, bwEnd := none, bwCounts := [], traffic := [] } }))
        ∧ ((data < 1000 ∨ 1000000000 < data) → exec (.bwWindowWrite t 0 data) s = .next (s.endsWith t (d.refuse 0 UnitId.counter.page 0x05C 4 data cOutOfRange))))
    ∧ (fn ≠ 0 → exec (.bwWindowWrite t fn data) s = .next (s.endsWith t d))

/-- TIDY_CORE_INSTRUCTION, XR_CSR_WRITE, XM_WAIT, XD_WAIT, XM_DONE, XS_POST and XS_CLEAR complete. On a tidy core that can take an instruction: a base instruction, given or fetched at the pc and computed, retires with its registers and stores where the job is granted its loads and stores, their homes answer and no line is poisoned; else it traps with the access exception at the address, or ends the job with KIND 0x0B or 0x0A. An encoding that nothing defines traps as an illegal instruction with itself as TC_TRAP_TVAL; a custom one does what its row does. Retiring writes rd (x0 stays 0), advances pc by 4 and leaves every other register, core and all memory. XR_STREAM and XR_STEP take rs1, rd their old value. xm.wait and xd.wait stall while the ticket's request is queued, else write 0; xm.done writes the last ticket and the depth of its queue. xs.post (of 1 and more; of 0 the model applies nothing, log entry 72) and xs.clear apply to an object of the job's context and write 0; any other object ends the job with KIND 0x0D. A core that can take none stays. (R17, R114, R117, R110, R86, R82, R269, R211, R251, R400, R403) -/
def Obligations.TidyCoresRetireTrapWaitAndPost : Prop :=
  ∀ (s : State) (t tc rd rs1 rs2 csr id cause tval nextPc flags : Nat) (j : Job) (writes : List RegWrite) (addrs : List Nat) (ls : List (Nat × Nat)) (stores : List Host.Cell) (eff : TidyEffect) (z : Dev) (y : Tidy),
    let d := s.dueAt t
    let e := (d.jobIssues id).updTidy tc (fun x => { x with steps := x.steps - 1 })
    let x := e.tidy tc
    let c := e.core (tc / 8)
    let from' (l : List (Nat × Nat)) := l.map (fun r => (j.redirect r.1, r.2))
    let fine (l : List (Nat × Nat)) : Prop := (∀ r ∈ l, e.granted j r.1 r.2 false = true) ∧ e.lostPath (tc / 8) (from' l) = none ∧ l.findSome? (fun r => e.jobPoisonLine j r.1 r.2) = none
    let into : Prop := (∀ c ∈ stores, e.granted j c.1 1 true = true) ∧ e.lostPath (tc / 8) (stores.map (fun c => (c.1, 1))) = none
    let loads := addrs.map (fun a => (a, 1))
    let base : Instr := .tidyCoreInstruction t tc (.retire writes addrs stores nextPc flags)
    let trapped (i : Instr) (cause a : Nat) : Prop := ∃ o, exec i s = .next (s.endsWith t (({ e with occ := o } : Dev).tidyTrap id tc cause a))
    let pc := (d.tidy tc).pc
    let len := d.fetchLen j pc
    let w := (d.rvMem j).read pc len
    let out := if len = 4 then rvBase (e.rvMem j) x 4 w else match expandC w with
      | some v => rvBase (e.rvMem j) x 2 v
      | none => .illegal
    (d.tidyJob tc = some (id, j) → (d.tidy tc).halted = false →
        (fine loads → into → ∃ k r o, exec (.tidyCoreInstruction t tc (.retire writes addrs stores nextPc flags)) s = .next (s.endsWith t ((({ e with tracks := k, reader := r, occ := o } : Dev).tidyStores stores).updTidy tc (fun x =>
            { (writes.foldl Tidy.write x).accrue (flags % 32) with pc := w64 nextPc, tstate := .running, wait := none }))))
        ∧ (∀ r, loads.find? (fun r => !e.granted j r.1 r.2 false) = some r → trapped base 5 r.1)
        ∧ (∀ b, (∀ r ∈ loads, e.granted j r.1 r.2 false = true) → e.lostPath (tc / 8) (from' loads) = some b → exec base s = .next (s.endsWith t (e.faultJob id 0x0B 0 b.1 (tidyPage tc) b.2)))
        ∧ (∀ a, (∀ r ∈ loads, e.granted j r.1 r.2 false = true) → e.lostPath (tc / 8) (from' loads) = none → loads.findSome? (fun r => e.jobPoisonLine j r.1 r.2) = some a → exec base s = .next (s.endsWith t (e.faultJob id 0x0A 0 cJobFault (tidyPage tc) a)))
        ∧ (∀ b, fine loads → stores.find? (fun c => !e.granted j c.1 1 true) = some b → trapped base 7 b.1)
        ∧ exec (.tidyCoreInstruction t tc (.trap cause tval)) s = .next (s.endsWith t (e.tidyTrap id tc cause tval))
        ∧ exec (.tidyCoreInstruction t tc .stepEnd) s = .next (s.endsWith t (e.endStep id (tc / 8) (tc % 8)))
        ∧ (d.granted j pc 2 false = true → d.jobPoison j pc 2 = false → e.granted j pc len false = true → e.lostPath (tc / 8) [(j.redirect pc, len)] = none → e.jobPoisonLine j pc len = none → (isCustom w = false ∨ d.customOf tc w = none) →
            (out = .next y ls stores → fine ls → into → ∃ k r o, exec (.tidyCoreInstruction t tc .fetch) s = .next (s.endsWith t ((({ e with tracks := k, reader := r, occ := o } : Dev).tidyStores stores).updTidy tc (fun _ => { y with tstate := .running, wait := none }))))
            ∧ (∀ r, out = .next y ls stores → ls.find? (fun r => !e.granted j r.1 r.2 false) = some r → trapped (.tidyCoreInstruction t tc .fetch) 5 r.1)
            ∧ (∀ b, out = .next y ls stores → fine ls → stores.find? (fun c => !e.granted j c.1 1 true) = some b → trapped (.tidyCoreInstruction t tc .fetch) 7 b.1)
            ∧ (out = .trap cause tval → exec (.tidyCoreInstruction t tc .fetch) s = .next (s.endsWith t (e.tidyTrap id tc cause tval)))
            ∧ (out = .illegal → exec (.tidyCoreInstruction t tc .fetch) s = .next (s.endsWith t (e.tidyTrap id tc 2 w))))
        ∧ (d.granted j pc 2 false = true → d.granted j pc 4 false = true → d.jobPoison j pc 2 = false → d.jobPoison j pc len = false → d.lostPath (tc / 8) [(j.redirect pc, len)] = none → isCustom w = true → d.customOf tc w = some z →
            exec (.tidyCoreInstruction t tc .fetch) s = .next (s.endsWith t z))
        ∧ exec (.xrCsrWrite t tc ⟨rd, 0x800⟩ rs1) s = .next (s.endsWith t ((e.updTidy tc (fun y => { y with xrStream := w64 (x.get rs1) })).retire tc rd x.xrStream))
        ∧ exec (.xrCsrWrite t tc ⟨rd, 0x801⟩ rs1) s = .next (s.endsWith t ((e.updTidy tc (fun y => { y with xrStep := w64 (x.get rs1) })).retire tc rd x.xrStep))
        ∧ (c.waiting false (x.get rs1 % 65536) = true → exec (.xmWait t tc rd rs1) s = .next (s.endsWith t (e.updTidy tc (fun y => { y with tstate := .waitEngine, wait := some { move := false, ticket := x.get rs1 % 65536, rd } }))))
        ∧ (c.waiting false (x.get rs1 % 65536) = false → exec (.xmWait t tc rd rs1) s = .next (s.endsWith t (e.retire tc rd 0)))
        ∧ (c.waiting true (x.get rs1 % 65536) = true → exec (.xdWait t tc rd rs1) s = .next (s.endsWith t (e.updTidy tc (fun y => { y with tstate := .waitEngine, wait := some { move := true, ticket := x.get rs1 % 65536, rd } }))))
        ∧ (c.waiting true (x.get rs1 % 65536) = false → exec (.xdWait t tc rd rs1) s = .next (s.endsWith t (e.retire tc rd 0)))
        ∧ exec (.xmDone t tc rd rs1) s = .next (s.endsWith t (e.retire tc rd (if bit (x.get rs1) 0 then c.lastDoneS + 65536 * c.suaQ.length else c.lastDoneM + 65536 * c.matrixQ.length)))
        ∧ (let obj := (d.tidy tc).get rs1 % 2 ^ 14
           let n := (d.tidy tc).get rs2 % 2 ^ 32
           ((e.sync obj).type ≠ .unused → (e.sync obj).owner = j.ctx →
             exec (.xsPost t tc rd rs1 rs2) s = .next (s.endsWith t ((if n = 0 then e else e.syncPost obj n (some j.ctx)).retire tc rd 0)) ∧ exec (.xsClear t tc rd rs1) s = .next (s.endsWith t ((e.syncClear obj (some j.ctx)).retire tc rd 0)))
           ∧ (((e.sync obj).type = .unused ∨ (e.sync obj).owner ≠ j.ctx) →
             exec (.xsPost t tc rd rs1 rs2) s = .next (s.endsWith t (e.faultJob id 0x0D 0 cJobFault (tidyPage tc) obj)) ∧ exec (.xsClear t tc rd rs1) s = .next (s.endsWith t (e.faultJob id 0x0D 0 cJobFault (tidyPage tc) obj)))))
    ∧ (∀ (z : Dev) (k v : Nat), ((z.retire tc rd v).tidy tc).get k = (if k % 32 = rd % 32 ∧ k % 32 ≠ 0 then v % 2 ^ 64 else (z.tidy tc).get k) ∧ ((z.retire tc rd v).tidy tc).pc = ((z.tidy tc).pc + 4) % 2 ^ 64 ∧ ((z.retire tc rd v).tidy tc).v = (z.tidy tc).v
        ∧ ((z.retire tc rd v).tidy tc).fcsr = (z.tidy tc).fcsr ∧ (z.retire tc rd v).devMem = z.devMem ∧ ∀ q, tc ≠ q → (z.retire tc rd v).tidy q = z.tidy q)
    ∧ (d.tidyJob tc = none → exec (.tidyCoreInstruction t tc eff) s = .next (s.endsWith t d) ∧ exec (.xmWait t tc rd rs1) s = .next (s.endsWith t d) ∧ exec (.xdWait t tc rd rs1) s = .next (s.endsWith t d) ∧ exec (.xmDone t tc rd rs1) s = .next (s.endsWith t d)
        ∧ exec (.xsPost t tc rd rs1 rs2) s = .next (s.endsWith t d) ∧ exec (.xsClear t tc rd rs1) s = .next (s.endsWith t d) ∧ exec (.xrCsrWrite t tc ⟨rd, csr⟩ rs1) s = .next (s.endsWith t d))

/-- XM_ISSUE, XT_DRAW and XD_MOVE complete. On a tidy core that can take an instruction, an issuing instruction reads 64 bytes at rs1: a misaligned address traps with load address misaligned, one outside the core's own share with load access, a poisoned one ends the job with KIND 0x0A. A request that fails a check is rejected: rd holds the code, memory and queues stay. One that passes stalls the core while its queue is full (16 descriptors, 32 moves), and else is queued at the end with the core's next ticket, which rd holds shifted left by 16; tickets run from 1 to 0xFFFF and back to 1; the other queues, other cores and memory stay. (R98, R101, R103, R110, R196, R199, R269, R271, R400) -/
def Obligations.TidyCoresIssueDescriptors : Prop :=
  ∀ (s : State) (t tc rd rs1 id code : Nat) (j : Job) (q : DescQueue),
    let d := s.dueAt t
    let e := (d.jobIssues id).updTidy tc (fun x => { x with steps := x.steps - 1 })
    let a := (e.tidy tc).get rs1
    let w := memNat e.devMem a 64
    let n := tc / 8
    let m := tc % 8
    let all (y : Dev) : Prop := exec (.xmIssue t tc rd rs1) s = .next (s.endsWith t y) ∧ exec (.xtDraw t tc rd rs1) s = .next (s.endsWith t y) ∧ exec (.xdMove t tc rd rs1) s = .next (s.endsWith t y)
    let reject (z : Dev) (code : Nat) : Dev := ((z.note (UnitId.me n).page 0x203 1).updCore n (fun c => { c with rejects := satAdd 0xFFFFFFFF c.rejects 1, rejectCode := code, rejectTidy := m, rejectTag := descTag w })).retire tc rd code
    (d.tidyJob tc = some (id, j) → (d.tidy tc).halted = false →
        (a % 64 ≠ 0 → all (e.tidyTrap id tc 4 a))
        ∧ (a % 64 = 0 → inShare n a 64 = false → all (e.tidyTrap id tc 5 a))
        ∧ (a % 64 = 0 → inShare n a 64 = true → e.poisoned a 64 = true → all (e.faultJob id 0x0A 0 cJobFault (tidyPage tc) a))
        ∧ (a % 64 = 0 → inShare n a 64 = true → e.poisoned a 64 = false →
            (e.engineCheck j n m w = some code → exec (.xmIssue t tc rd rs1) s = .next (s.endsWith t (reject e code)))
            ∧ (e.tokenCheck j n m w = some code → exec (.xtDraw t tc rd rs1) s = .next (s.endsWith t (reject e code)))
            ∧ (e.moveCheck j n m w = some code → exec (.xdMove t tc rd rs1) s = .next (s.endsWith t (reject e code)))
            ∧ (e.engineCheck j n m w = none → opQueue (descOp w) = some q → let len := if q = .sua then (e.core n).suaQ.length else (e.core n).matrixQ.length
                (16 ≤ len → exec (.xmIssue t tc rd rs1) s = .next (s.endsWith t (e.updTidy tc (fun x => { x with tstate := .waitEngine, wait := none }))))
                ∧ (len < 16 → exec (.xmIssue t tc rd rs1) s = .next (s.endsWith t (e.accept id j n m rd w a false q))))
            ∧ (e.tokenCheck j n m w = none →
                (16 ≤ (e.core n).suaQ.length → exec (.xtDraw t tc rd rs1) s = .next (s.endsWith t (e.updTidy tc (fun x => { x with tstate := .waitEngine, wait := none }))))
                ∧ ((e.core n).suaQ.length < 16 → exec (.xtDraw t tc rd rs1) s = .next (s.endsWith t (e.accept id j n m rd w a true .sua))))
            ∧ (e.moveCheck j n m w = none →
                (32 ≤ (e.core n).moveQ.length → exec (.xdMove t tc rd rs1) s = .next (s.endsWith t (e.updTidy tc (fun x => { x with tstate := .waitEngine, wait := none }))))
                ∧ ((e.core n).moveQ.length < 32 → ∃ y : Dev, exec (.xdMove t tc rd rs1) s = .next (s.endsWith t y) ∧ (∃ o, (y.core n).moveQ = (e.core n).moveQ ++ [{ ticket := (e.core n).nextMove, tidy := m, word := w, addr := a, ordinal := o }])
                    ∧ (y.core n).nextMove = (if (e.core n).nextMove = 0xFFFF then 1 else (e.core n).nextMove + 1) ∧ (y.core n).matrixQ = (e.core n).matrixQ ∧ (y.core n).suaQ = (e.core n).suaQ ∧ y.devMem = e.devMem
                    ∧ (rd % 32 ≠ 0 → (y.tidy tc).get rd = w64 ((e.core n).nextMove * 65536))))))
    ∧ (∀ (z : Dev) (n m w addr : Nat) (token : Bool), m < 8 → let y := z.accept id j n m rd w addr token .matrix
        (y.core n).matrixQ = (z.core n).matrixQ ++ [{ ticket := (z.core n).nextTicket, tidy := m, word := w, token, addr, ordinal := 0 }] ∧ (y.core n).suaQ = (z.core n).suaQ ∧ (y.core n).moveQ = (z.core n).moveQ
        ∧ (y.core n).nextTicket = (if (z.core n).nextTicket = 0xFFFF then 1 else (z.core n).nextTicket + 1) ∧ (rd % 32 ≠ 0 → (y.tidy (8 * n + m)).get rd = w64 ((z.core n).nextTicket * 65536))
        ∧ y.devMem = z.devMem ∧ (∀ k, n ≠ k → y.core k = z.core k) ∧ ∀ k, 8 * n + m ≠ k → y.tidy k = z.tidy k)
    ∧ (∀ (z : Dev) (n m w addr : Nat) (token : Bool), let y := z.accept id j n m rd w addr token .sua
        (∃ o, (y.core n).suaQ = (z.core n).suaQ ++ [{ ticket := (z.core n).nextTicket, tidy := m, word := w, token, addr, ordinal := o }]) ∧ (y.core n).matrixQ = (z.core n).matrixQ ∧ (y.core n).moveQ = (z.core n).moveQ
        ∧ y.devMem = z.devMem ∧ ∀ k, n ≠ k → y.core k = z.core k)

/-- XC_CVT, XC_SRND, XR_DRAW, XR_DMASK and XR_SLATE complete. With SEW 32, aligned groups and a defined format, xc.cvt and xc.srnd convert the first vl elements of vs2 (xc.srnd with the top 24 bits of the stochastic-rounding word of each index) into packed results with the or of their flags; xr.draw writes the general words of rs1 + i, xr.dmask the mask of words that reach the threshold; any other setting traps as an illegal instruction, with its encoding as the trap value. xr.slate draws vl words at the stream's position: of a stream bound to this core, whose position then advances here, the context's stream being touched by a draw of a word; of a shared one of a throughput context at the context's, which advances there; past 2^44 words it traps SLATE_EXHAUSTED, bound elsewhere or unshared SLATE_UNAVAILABLE. Each retires at pc + 4; elements from vl on keep their bits, and no memory changes. (R109, R111, R112, R113, R211, R214, R215, R216, R218) -/
def Obligations.VectorConversionsAndDraws : Prop :=
  ∀ (s : State) (t tc vd vs2 rs1 rs2 fmt id : Nat) (j : Job) (sat : Bool),
    let d := s.dueAt t
    let e := (d.jobIssues id).updTidy tc (fun x => { x with steps := x.steps - 1 })
    let x := e.tidy tc
    let n := x.get rs1 % 4096
    let words (v : Nat) : Dev := (e.updTidy tc (fun y => (y.vset vd v).accrue 0)).retire tc 0 0
    (d.tidyJob tc = some (id, j) → (d.tidy tc).halted = false →
        ((fmt ≤ 7 → x.sew32 = true → x.groupOk vd = true → x.groupOk vs2 = true →
            (let rs := (upFrom 0 x.vl).map (fun i => Machine.xcCvt fmt sat (elem32 (x.vget vs2) i))
             exec (.xcCvt t tc vd vs2 fmt sat) s = .next (s.endsWith t ((e.updTidy tc (fun y => (y.vset vd (packBits (fmtBits fmt) (rs.map (·.1)))).accrue (rs.foldl (fun a r => a ||| r.2) 0))).retire tc 0 0)))
            ∧ (let rs := (upFrom 0 x.vl).map (fun i => Machine.xcSrnd fmt sat (elem32 (x.vget vs2) i) (bits (indigoWord j.seed .sround x.xrStream x.xrStep (w64 (x.get rs1 + i))) 31 8))
               exec (.xcSrnd t tc vd vs2 rs1 fmt sat) s = .next (s.endsWith t ((e.updTidy tc (fun y => (y.vset vd (packBits (fmtBits fmt) (rs.map (·.1)))).accrue (rs.foldl (fun a r => a ||| r.2.1) 0))).retire tc 0 0))))
          ∧ ((7 < fmt ∨ x.sew32 = false ∨ x.groupOk vd = false ∨ x.groupOk vs2 = false) → exec (.xcCvt t tc vd vs2 fmt sat) s = .next (s.endsWith t (e.tidyTrap id tc 2 (rType 0x5B 0 (cvtF7 fmt sat) vd 0 vs2))) ∧ exec (.xcSrnd t tc vd vs2 rs1 fmt sat) s = .next (s.endsWith t (e.tidyTrap id tc 2 (rType 0x5B 1 (cvtF7 fmt sat) vd rs1 vs2)))))
        ∧ (x.sew32 = true → x.groupOk vd = true →
            exec (.xrDraw t tc vd rs1) s = .next (s.endsWith t (words (setElems (x.vget vd) ((upFrom 0 x.vl).map (fun i => indigoWord j.seed .general x.xrStream x.xrStep (w64 (x.get rs1 + i))))))))
        ∧ (x.sew32 = true → vd < 32 →
            exec (.xrDmask t tc vd rs1 rs2) s = .next (s.endsWith t ((e.updTidy tc (fun y => { y with v := y.v.put vd (((x.v.getD vd 0 >>> x.vl) <<< x.vl ||| packBits 1 ((upFrom 0 x.vl).map (fun i => b2n (decide (x.get rs2 % 2 ^ 32 ≤ indigoWord j.seed .dropout x.xrStream x.xrStep (w64 (x.get rs1 + i))))))) % 2 ^ vlen) })).retire tc 0 0)))
        ∧ (x.sew32 = false → exec (.xrDraw t tc vd rs1) s = .next (s.endsWith t (e.tidyTrap id tc 2 (rType 0x5B 2 1 vd rs1 0))) ∧ exec (.xrDmask t tc vd rs1 rs2) s = .next (s.endsWith t (e.tidyTrap id tc 2 (rType 0x5B 3 1 vd rs1 rs2))) ∧ exec (.xrSlate t tc vd rs1) s = .next (s.endsWith t (e.tidyTrap id tc 2 (rType 0x5B 4 1 vd rs1 0))))
        ∧ (x.sew32 = true → x.groupOk vd = true →
            (j.slateBind.get? n = some tc → let p := x.slate.getD n 0
              (p + x.vl ≤ 2 ^ 44 → let y := (words (setElems (x.vget vd) ((upFrom 0 x.vl).map (fun i => slateWord j.seed n (p + i))))).updTidy tc (fun y => { y with slate := y.slate.put n (p + y.vl) })
                exec (.xrSlate t tc vd rs1) s = .next (s.endsWith t (if x.vl = 0 then y else y.updCtx j.ctx (fun c => { c with slate := c.slate.put n { c.slate.getD n {} with touched := true } }))))
              ∧ (2 ^ 44 < p + x.vl → exec (.xrSlate t tc vd rs1) s = .next (s.endsWith t (e.tidyTrap id tc 25 n))))
            ∧ (∀ o, j.slateBind.get? n = some o → o ≠ tc → exec (.xrSlate t tc vd rs1) s = .next (s.endsWith t (e.tidyTrap id tc 24 n)))
            ∧ (j.slateBind.get? n = none → let p := ((e.ctx j.ctx).slate.getD n {}).pos
              (((e.ctx j.ctx).throughput = false ∨ e.slateBoundElsewhere id j n = true) → exec (.xrSlate t tc vd rs1) s = .next (s.endsWith t (e.tidyTrap id tc 24 n)))
              ∧ ((e.ctx j.ctx).throughput = true → e.slateBoundElsewhere id j n = false →
                  (2 ^ 44 < p + x.vl → exec (.xrSlate t tc vd rs1) s = .next (s.endsWith t (e.tidyTrap id tc 25 n)))
                  ∧ (p + x.vl ≤ 2 ^ 44 → exec (.xrSlate t tc vd rs1) s = .next (s.endsWith t (((e.slateShared id tc j n p x.vl).updTidy tc (fun y => (y.vset vd (setElems (x.vget vd) ((upFrom 0 x.vl).map (fun i => slateWord j.seed n (p + i))))).accrue 0)).retire tc 0 0)))))))
    ∧ (∀ (old : Nat) (es : List Nat) (i : Nat), es.length ≤ i → elem32 (setElems old es) i = elem32 old i)

/-- MATMUL, TILE_CLEAR, TILE_LOAD and TILE_COPY complete. A MATMUL next in its core's matrix queue, its shape mapped and no operand line poisoned, makes element (ROW_BLK*Mt+i, COL_BLK*Nt+k) of its tile the total of row i of A and column k of B, started from the element when CONTINUE is 1 and from 0 when not; every other word of every tile stays. Its flags accrue, spills and truncated runs are counted, the tag follows R100, and it lands. A poisoned operand line faults the job. In the context's top-left rows and columns TILE_CLEAR leaves +0, TILE_LOAD the words of memory, a poisoned line faulting the job, each with the CLASS as tag; TILE_COPY, once a shadow buffer is free, the words and the tag of its source tile, and waits otherwise; words outside stay (R303). Each changes its own core only: tiles and tags, flags, counts, what the array ran last and the matrix queue; the other queues, the shadow set, the SUA page, all of memory and every other core stay. (What is noted for the performance counters is not stated here.) (R99, R100, R126, R128, R130, R131, R139, R303, R400) -/
def Obligations.MatmulAndTileOperationsWriteTheirTiles : Prop :=
  ∀ (s : State) (t n id : Nat) (j : Job) (x : Desc),
    let d := s.dueAt t
    let w := x.word
    let ctx := d.ctx j.ctx
    let c := d.core n
    let frame (c' : Core) : Prop := c'.matrixQ = landIn c.matrixQ x.ticket ∧ c'.suaQ = c.suaQ ∧ c'.moveQ = c.moveQ ∧ c'.shadow = c.shadow ∧ c'.sua = c.sua ∧ c'.spill = c.spill ∧ c'.job = c.job ∧ c'.nextTicket = c.nextTicket
    let quiet (c' : Core) : Prop := frame c' ∧ c'.accFlags = c.accFlags ∧ c'.flagTiles = c.flagTiles ∧ c'.spills = c.spills ∧ c'.truncRuns = c.truncRuns
    (d.matrixNext n 1 = some (id, j, x) → ∀ e, ctx.shapeOf (dsShape w) = some e →
        (∀ a, d.firstPoison (matmulReads e w) = some a → exec (.matmul t n) s = .next (s.endsWith t (d.faultJob id 0x0A 0 cJobFault (UnitId.me n).page a)))
        ∧ (d.firstPoison (matmulReads e w) = none → (dsRowBlk w + 1) * e.geom.mt ≤ 256 → (dsColBlk w + 1) * e.geom.nt ≤ 256 →
          ∃ (o : List Occ) (c' : Core), exec (.matmul t n) s = .next (s.endsWith t (({ d with occ := o } : Dev).updCore n (fun _ => c'))) ∧ frame c' ∧ c'.lastArray = some (dsShape w, dsTile w)
            ∧ (∀ i k, i < e.geom.mt → k < e.geom.nt →
                c'.tileWord (dsTile w) (dsRowBlk w * e.geom.mt + i) (dsColBlk w * e.geom.nt + k) =
                  (dotTotal (fmtClass (dsAFmt w)) e.geom c.spill (if dsContinue w then c.tileWord (dsTile w) (dsRowBlk w * e.geom.mt + i) (dsColBlk w * e.geom.nt + k) else 0)
                    (d.operandRow (dsAFmt w) (dsK w) (dsAAddr w + i * dsAStride w) (if dsAScaled w then some (dsAScale w + i * (dsK w / 32)) else none))
                    (d.operandRow (dsBFmt w) (dsK w) (dsBAddr w + k * dsBStride w) (if dsBScaled w then some (dsBScale w + k * (dsK w / 32)) else none))).1)
            ∧ (∀ t' r k, r < 256 → k < 256 → ¬(t' = dsTile w ∧ r / e.geom.mt = dsRowBlk w ∧ k / e.geom.nt = dsColBlk w) → c'.tileWord t' r k = c.tileWord t' r k)
            ∧ c'.tileInt = ctx.tagsAfter c.tileInt w
            ∧ c'.spills = satAdd 0xFFFFFFFF c.spills (spillPoints c.spill (matmulRuns e w))
            ∧ (let fl : AccFlags := (d.matmulTotals c e w).foldl (fun f y => f.or y.2) ({} : AccFlags)
               c'.accOf = (c.accOf || fl.ofl) ∧ c'.accNv = (c.accNv || fl.nv) ∧ c'.accNanIn = (c.accNanIn || fl.nanIn) ∧ c'.accTrunc = (c.accTrunc || fl.runTrunc) ∧ c'.accIov = (c.accIov || fl.iov)
               ∧ c'.truncRuns = satAdd 0xFFFFFFFF c.truncRuns fl.truncRuns
               ∧ (fl.any = true → c'.flagTiles = c.flagTiles ||| 2 ^ dsTile w ∧ c'.flagTag = (if c.flagTagValid then c.flagTag else descTag w) ∧ c'.flagTagValid = true)
               ∧ (fl.any = false → c'.flagTiles = c.flagTiles ∧ c'.flagTag = c.flagTag ∧ c'.flagTagValid = c.flagTagValid))))
    ∧ (d.matrixNext n 3 = some (id, j, x) →
        ∃ c' : Core, exec (.tileClear t n) s = .next (s.endsWith t (d.updCore n (fun _ => c'))) ∧ quiet c' ∧ c'.lastArray = c.lastArray ∧ c'.tileInt = setTag c.tileInt (dsTile w) (dsClass w)
          ∧ (∀ t' r k, r < 256 → k < 256 → c'.tileWord t' r k = if t' = dsTile w ∧ r < ctx.tileRows ∧ k < ctx.tileCols then 0 else c.tileWord t' r k))
    ∧ (d.matrixNext n 5 = some (id, j, x) →
        (∀ a, d.firstPoison (ctx.accRegion w) = some a → exec (.tileLoad t n) s = .next (s.endsWith t (d.faultJob id 0x0A 0 cJobFault (UnitId.me n).page a)))
        ∧ (d.firstPoison (ctx.accRegion w) = none → ctx.tileRows ≤ 256 → ctx.tileCols ≤ 256 →
          ∃ (o : List Occ) (c' : Core), exec (.tileLoad t n) s = .next (s.endsWith t (({ d with occ := o } : Dev).updCore n (fun _ => c'))) ∧ quiet c' ∧ c'.lastArray = some (0, dsTile w) ∧ c'.tileInt = setTag c.tileInt (dsTile w) (dsClass w)
            ∧ (∀ t' r k, r < 256 → k < 256 → c'.tileWord t' r k =
                if t' = dsTile w ∧ r < ctx.tileRows ∧ k < ctx.tileCols then memNat d.devMem (dsAddr w + r * dsStride w + 4 * k) 4 else c.tileWord t' r k)))
    ∧ (d.matrixNext n 7 = some (id, j, x) →
        (c.freeShadow = none → exec (.tileCopy t n) s = .next (s.endsWith t d))
        ∧ (c.freeShadow ≠ none → ctx.tileRows ≤ 256 → ctx.tileCols ≤ 256 →
          ∃ c' : Core, exec (.tileCopy t n) s = .next (s.endsWith t (d.updCore n (fun _ => c'))) ∧ quiet c' ∧ c'.lastArray = c.lastArray ∧ c'.tileInt = setTag c.tileInt (dsDst w) (c.isInt (dsTile w))
            ∧ (∀ t' r k, r < 256 → k < 256 → c'.tileWord t' r k =
                if t' = dsDst w ∧ r < ctx.tileRows ∧ k < ctx.tileCols then c.tileWord (dsTile w) r k else c.tileWord t' r k)))

/-- REDUCE, TILE_DRAIN, CHAIN_ADD, RUNNING_SUM_HANDOVER, WRITE_OUT_END and DESCRIPTOR_COMPLETE complete. REDUCE, TILE_DRAIN and CHAIN_ADD next in the matrix queue take the lowest free shadow buffer: word m holds the function over FIRST to FIRST + COUNT - 1 of row or column m, +0 outside the top-left rows and columns; the drain and the chain hold the tile's words; the tile keeps its own. With no free buffer they wait. A write-out stores row r of its buffer at its destination, changes no other byte, frees the buffer and lands the request. A running sum goes only to a waiting link of its chain that it names: a LAST link's tile becomes x + t word by word in its top-left part, another link holds x + t and sends it on, its tile unchanged; the sender's buffer is free and its link landed; a tile of the other tag faults the job with KIND 0x0E and the CHAIN_ID. A head that has landed leaves its queue, its ticket becomes the last one completed, and tidy cores that wait for it go on; a head that has not stays; a token draw ends on its group first. The stores of a write-out end load reservations on their lines. (R102, R110, R128, R130, R131, R132, R135, R137, R138, R269) -/
def Obligations.CapturesWriteOutsChainsAndTickets : Prop :=
  ∀ (s : State) (t n b id op : Nat) (j : Job) (x : Desc) (sh : Shadow),
    let d := s.dueAt t
    let w := x.word
    let ctx := d.ctx j.ctx
    let c := d.core n
    let taken (b : Nat) (sh : Shadow) : Dev := d.updCore n (fun c => { c with shadow := c.shadow.put b sh, matrixQ := c.matrixQ.map (fun y => if y.ticket = x.ticket then { y with started := true } else y) })
    (d.matrixNext n op = some (id, j, x) → c.freeShadow = none →
        (op = 2 → exec (.reduce t n) s = .next (s.endsWith t d)) ∧ (op = 4 → exec (.tileDrain t n) s = .next (s.endsWith t d)) ∧ (op = 6 → exec (.chainAdd t n) s = .next (s.endsWith t d)))
    ∧ (d.matrixNext n op = some (id, j, x) → c.freeShadow = some b →
        (op = 2 → ∃ sh, exec (.reduce t n) s = .next (s.endsWith t (taken b sh)) ∧ sh.use = .reduce ∧ sh.ticket = x.ticket ∧ sh.rows = 1 ∧ sh.cols = 256
            ∧ ∀ m < 256, sh.words.getD m 0 = reduceWords (c.isInt (dsTile w)) (dsRedFn w) ((upFrom (dsFirst w) (dsCount w)).map (fun i => let word (r k : Nat) : Nat := if r < ctx.tileRows ∧ k < ctx.tileCols then c.tileWord (dsTile w) r k else 0
              if dsRedDir w then word i m else word m i)))
        ∧ (op = 4 → ctx.tileRows ≤ 256 → ctx.tileCols ≤ 256 →
            ∃ sh, exec (.tileDrain t n) s = .next (s.endsWith t (taken b sh)) ∧ sh.ticket = x.ticket ∧ sh.isInt = c.isInt (dsTile w) ∧ sh.use = .drain ∧ sh.rows = ctx.tileRows ∧ sh.cols = ctx.tileCols
              ∧ ∀ r k, r < ctx.tileRows → k < ctx.tileCols → sh.words.getD (r * 256 + k) 0 = c.tileWord (dsTile w) r k)
        ∧ (op = 6 → ctx.tileRows ≤ 256 → ctx.tileCols ≤ 256 →
            ∃ sh, exec (.chainAdd t n) s = .next (s.endsWith t (taken b sh)) ∧ sh.ticket = x.ticket ∧ sh.isInt = c.isInt (dsTile w) ∧ sh.use = (if dsRole w = 0 then .chainSend else .chainWait) ∧ sh.rows = ctx.tileRows ∧ sh.cols = ctx.tileCols
              ∧ ∀ r k, r < ctx.tileRows → k < ctx.tileCols → sh.words.getD (r * 256 + k) 0 = c.tileWord (dsTile w) r k))
    ∧ (d.coreJob n = some (id, j) → c.shadow.get? b = some sh →
        (sh.use = .drain ∨ sh.use = .reduce → ∃ e, exec (.writeOutEnd t n b) s = .next (s.endsWith t e)
            ∧ e.core n = { c with shadow := c.shadow.del b, matrixQ := landIn c.matrixQ sh.ticket } ∧ (∀ k, k ≠ n → e.core k = d.core k) ∧ (∀ k, ∃ r, e.tidy k = { d.tidy k with reservation := r }) ∧ e.jobs = d.jobs ∧ e.ctxs = d.ctxs
            ∧ (sh.dirty = [] → e.devMem = sh.dests.zipIdx.foldl (fun m r => memWriteN m r.1.1 (sh.row r.2)) d.devMem
              ∧ ∀ a, (∀ r ∈ sh.dests.zipIdx, a < r.1.1 ∨ r.1.1 + (sh.row r.2).length ≤ a) → memRead e.devMem a = memRead d.devMem a))
        ∧ (sh.use = .chainSend ∨ sh.use = .chainWait → exec (.writeOutEnd t n b) s = .next (s.endsWith t d)))
    ∧ (d.coreJob n = some (id, j) → ∀ r rb y, c.shadow.findSome? (fun e => if e.2.use = .chainSend then (d.chainReceiver id n e.2).map (fun q => (e.1, e.2, q)) else none) = some (b, sh, r, rb, y) →
        (d.chainReceiver id n sh = some (r, rb, y) → (d.core r).job = some id ∧ r = dsNext sh.word ∧ y.use = .chainWait ∧ dsChain y.word = dsChain sh.word ∧ dsPrev y.word = n)
        ∧ (sh.isInt ≠ y.isInt → exec (.runningSumHandover t n) s = .next (s.endsWith t (d.faultJob id 0x0E 0 cJobFault (UnitId.acc r).page (dsChain y.word))))
        ∧ (sh.isInt = y.isInt → r ≠ n → y.rows ≤ 256 → y.cols ≤ 256 → ∃ cr cn : Core, exec (.runningSumHandover t n) s = .next (s.endsWith t ((d.updCore n (fun _ => cn)).updCore r (fun _ => cr)))
            ∧ cn = { c with shadow := c.shadow.del b, matrixQ := landIn c.matrixQ sh.ticket }
            ∧ (dsRole y.word = 2 → cr.shadow = (d.core r).shadow.del rb ∧ cr.matrixQ = landIn (d.core r).matrixQ y.ticket
                ∧ ∀ t' i k, i < 256 → k < 256 → cr.tileWord t' i k = if t' = dsTile y.word ∧ i < y.rows ∧ k < y.cols then (chainAdd y.isInt (sh.words.getD (i * 256 + k) 0) (y.words.getD (i * 256 + k) 0)).1 else (d.core r).tileWord t' i k)
            ∧ (dsRole y.word ≠ 2 → cr.tiles = (d.core r).tiles ∧ cr.matrixQ = (d.core r).matrixQ ∧ ∃ z, cr.shadow = (d.core r).shadow.put rb z ∧ z.use = .chainSend ∧ z.ticket = y.ticket ∧ z.word = y.word
                ∧ ∀ i k, i < y.rows → k < y.cols → z.words.getD (i * 256 + k) 0 = (chainAdd y.isInt (sh.words.getD (i * 256 + k) 0) (y.words.getD (i * 256 + k) 0)).1)))
    ∧ (d.coreJob n = some (id, j) → c.shadow.findSome? (fun e => if e.2.use = .chainSend then (d.chainReceiver id n e.2).map (fun q => (e.1, e.2, q)) else none) = none →
        exec (.runningSumHandover t n) s = .next (s.endsWith t d))
    ∧ (d.coreJob n = some (id, j) → ∀ q y rest, let z := if q = .sua then (match d.groupOn n with
            | some (key, g) => if groupKind g.token g.word = .token then d.endGroup key g else d
            | none => d) else d
        (match q with
          | .matrix => (z.core n).matrixQ
          | .sua => (z.core n).suaQ
          | .move => (z.core n).moveQ) = y :: rest →
        (y.landed = false → exec (.descriptorComplete t n q) s = .next (s.endsWith t z))
        ∧ (y.landed = true → ∃ o, exec (.descriptorComplete t n q) s = .next (s.endsWith t { (z.updCore n (fun c => match q with
              | .matrix => { c with matrixQ := rest, lastDoneM := y.ticket }
              | .sua => { c with suaQ := rest, lastDoneS := y.ticket }
              | .move => { c with moveQ := rest, lastDoneMove := y.ticket })).wakeTidies n with occ := o })))

/-- SUA_FIELDS, SUA_SWEEP, CHROMATIC_BEAT and SYNCHRONOUS_BEAT complete. A group descriptor not yet at the head of every member's queue waits: nothing changes. When it is, the first row of Table 6-6 that applies faults the job with its code, and poison that a row reads faults it. Otherwise SUA_SWEEP marks every member's request started and holds the group, in SEQUENTIAL mode with every field formed first, and with `whole` makes every beat; SUA_FIELDS forms the fields and ends; forming reads poison. A beat of a group that reads no poison: a chromatic one without a conflict decides every unfrozen unit of its class from the states at its start, a synchronous one every unfrozen unit, a flip under damping only where its draw is below RHO; a byte of memory that holds no state bit of those units stays. The sweep then goes on, or after the last forms the final fields and ends. A conflict under STRICT frees the field and statistics regions and faults the job with KIND 0x0F and the pair; under DEMOTE the class runs in windows. A beat that reads poison faults the job. (R155, R156, R157, R158, R159, R160, R161, R162, R166, R167, R173, Table 6-6) -/
def Obligations.SamplingStartsAndBeats : Prop :=
  ∀ (s : State) (t n id key : Nat) (j : Job) (lead : Desc) (rest : List (Nat × Desc)) (g : GroupRun) (r : SuaRun) (kind : GroupKind) (whole : Bool),
    let d := s.dueAt t
    let ms := (key, lead) :: rest
    let p := d.problem (ms.map (·.1)) lead.word
    let begun : Dev := ({ d with groups := d.groups.put key { members := ms.map (·.1), word := lead.word, token := false, guarded := (d.suaGuards p lead.word).1, outs := (d.suaGuards p lead.word).2 } } : Dev).markStarted ms
    let both (e : Dev) : Prop := (kind = .fields → exec (.suaFields t n) s = .next (s.endsWith t e)) ∧ (kind = .sweep → exec (.suaSweep t n whole) s = .next (s.endsWith t e))
    (d.coreJob n = some (id, j) →
        (d.groupReady n kind = none → both d)
        ∧ (d.groupReady n kind = some ms →
            (groupMatches ms = false → both (d.problemFault id ms cBadFormat 0))
            ∧ (groupMatches ms = true →
                (∀ a, d.firstPoison [(shareBase key + descProblem lead.word, 64)] = some a → both (d.suaPoison id key a))
                ∧ (d.firstPoison [(shareBase key + descProblem lead.word, 64)] = none →
                    (p.recordOk = false → both (d.problemFault id ms cBadFormat 0))
                    ∧ (p.recordOk = true → p.fits = false → both (d.problemFault id ms cOutOfRange 0))
                    ∧ (p.recordOk = true → p.fits = true →
                        (∀ a, d.suaUnitsOk p lead.word = .error (.poison a) → both (d.suaPoison id key a))
                        ∧ (d.suaUnitsOk p lead.word = .error .format → both (d.problemFault id ms cBadFormat 0))
                        ∧ (∀ us, d.suaUnitsOk p lead.word = .ok us →
                            (∀ a, d.firstPoison p.formReads = some a → (kind = .fields → exec (.suaFields t n) s = .next (s.endsWith t (begun.suaPoison id key a)))
                              ∧ (kind = .sweep → suaMode lead.word = 1 → exec (.suaSweep t n whole) s = .next (s.endsWith t (begun.suaPoison id key a))))
                            ∧ (d.firstPoison p.formReads = none → kind = .fields → exec (.suaFields t n) s = .next (s.endsWith t (begun.suaFinish key p us)))
                            ∧ (kind = .sweep → (suaMode lead.word = 1 → d.firstPoison p.formReads = none) → let e := if suaMode lead.word = 1 then begun.suaFormFields key p us else begun
                                exec (.suaSweep t n whole) s = .next (s.endsWith t (if whole then Dev.suaBeats (beatBound lead.word p.slots) id j key e else e)))))))))
    ∧ begun.devMem = d.devMem ∧ begun.jobs = d.jobs
    ∧ (d.coreJob n = some (id, j) → d.groupOn n = some (key, g) → d.groups.get? key = some g → groupKind g.token g.word = .sweep → d.suaRunOf j g = some r →
        (∀ a, d.firstPoison (r.beatReads g.word g.beat) = some a → (suaMode g.word = 0 → exec (.chromaticBeat t n) s = .next (s.endsWith t (d.suaPoison id key a))) ∧ (suaMode g.word = 2 → exec (.synchronousBeat t n) s = .next (s.endsWith t (d.suaPoison id key a))))
        ∧ (d.firstPoison (r.beatReads g.word g.beat) = none →
        let ended (e : Dev) : Dev := match e.firstPoison r.p.formReads with
          | some a => e.suaPoison id key a
          | none => e.suaFinish key r.p r.us
        let adv (e : Dev) (fin : Bool) (beat : Nat) : Dev :=
          let e := e.updGroup key (fun g => if fin = true then { g with sweep := g.sweep + 1, beat := 0 } else { g with beat := beat })
          if (fin && decide (suaSweeps g.word ≤ g.sweep + 1)) = true then ended e else e
        let bytesOf (us : List SuaUnit) (a : Nat) : Prop := ∃ u ∈ us, ∃ i, (i = u.first ∨ i ∈ u.slots) ∧ a = shareBase (slotCore r.p.members i) + r.p.state + slotLocal r.p.members.length i / 8
        (suaMode g.word = 0 → let us := r.us.filter (fun u => !u.frozen && u.colour == g.beat)
          (d.firstConflict r.p us = none → ∃ z e : Dev, z.devMem = d.devMem ∧ exec (.chromaticBeat t n) s = .next (s.endsWith t (adv e (decide (suaClasses g.word ≤ g.beat + 1)) (g.beat + 1))) ∧ e = (z.decideAll key r us (fun _ => true)).1
              ∧ (∀ a, ¬ bytesOf us a → memRead e.devMem a = memRead d.devMem a))
          ∧ (∀ a b, d.firstConflict r.p us = some (a, b) → suaDemote g.word = false → ∃ e : Dev, e.devMem = d.devMem ∧
              exec (.chromaticBeat t n) s = .next (s.endsWith t (((r.p.ranges (fun rs => rs.drop 5) ++ (if suaStats g.word then r.p.members.map (fun k => (shareBase k + d.statsOff k, 64)) else [])).foldl (fun (d : Dev) (x : Nat × Nat) => d.freeBytes x.1 x.2) { e with groups := e.groups.del key }).faultJob
                id 0x0F 0 cColourConflict (UnitId.sua key).page (descTag g.word * 2 ^ 48 + a * 2 ^ 24 + b))))
          ∧ (∀ a b, d.firstConflict r.p us = some (a, b) → suaDemote g.word = true → ∃ e : Dev, e.devMem = d.devMem ∧ let z := Dev.windows us.length key r us (suaWindow g.word) 0 e
              exec (.chromaticBeat t n) s = .next (s.endsWith t (match z.2 with
                | none => adv z.1 (decide (suaClasses g.word ≤ g.beat + 1)) (g.beat + 1)
                | some a => z.1.suaPoison id key a))))
        ∧ (suaMode g.word = 2 → ∃ e, exec (.synchronousBeat t n) s = .next (s.endsWith t (adv e true 0)) ∧ e = d.synchronousBeat key r g.word
            ∧ (∀ a, ¬ bytesOf (r.us.filter (fun u => !u.frozen)) a → memRead e.devMem a = memRead d.devMem a))))

/-- WINDOW_STEP completes. Let the units be decided one at a time in increasing index, a frozen one passed over, each from the states and fields that all earlier decisions left and with its own draw, a flip committed at once. A WINDOW_STEP of a running SUA_SWEEP in SEQUENTIAL mode goes on from position beat to a later position n', at most W further and at most the number of units, and leaves in device memory, so in every state bit, exactly what deciding the units from beat to n' - 1 one at a time leaves; where the columns that the window's flip reads hold a poisoned line, the fault of a consumed line follows; otherwise it stands at n', or after the last unit in the next sweep, and the descriptor ends after the last sweep. All the windows of a sweep together, where none reads a poisoned column, leave what deciding every unit one at a time leaves, for every window size W, every number of members, every coupling and both coupling formats. (R164) -/
def Obligations.SequentialSweepDecidesOneAtATime : Prop :=
  ∀ (s : State) (t n id key : Nat) (j : Job) (g : GroupRun) (r : SuaRun) (us : List SuaUnit) (w fuel : Nat),
    let d := s.dueAt t
    let oneAtATime (us : List SuaUnit) (m : Dev) : Dev := us.foldl (fun (d : Dev) u =>
      if u.frozen then d
      else
        let st := d.suaStates r.p
        let x := d.decideUnit r st u
        if x.flip then d.commitFlip key r.p u x.pick (u.now st) else d) m
    (d.coreJob n = some (id, j) → d.groupOn n = some (key, g) → d.groups.get? key = some g → groupKind g.token g.word = .sweep → suaMode g.word = 1
        → d.suaRunOf j g = some r → d.firstPoison (r.beatReads g.word g.beat) = none → g.beat < r.us.length →
        ∃ e : Dev, ∃ n', ∃ p : Option Nat, g.beat < n' ∧ n' ≤ g.beat + suaWindow g.word ∧ n' ≤ r.us.length
          ∧ e.devMem = (oneAtATime ((r.us.drop g.beat).take (n' - g.beat)) d).devMem
          ∧ (p = none ∨ ∃ u ∈ r.us, u.frozen = false ∧ (d.decideUnit r (d.suaStates r.p) u).flip = true
              ∧ p = e.firstPoison ((u.columns (d.decideUnit r (d.suaStates r.p) u).pick (u.now (d.suaStates r.p))).flatMap r.p.colTiles))
          ∧ (∀ a, p = some a → exec (.windowStep t n) s = .next (s.endsWith t (e.suaPoison id key a)))
          ∧ (p = none → n' < r.us.length → exec (.windowStep t n) s = .next (s.endsWith t (e.updGroup key (fun g => { g with beat := n' }))))
          ∧ (p = none → n' = r.us.length → exec (.windowStep t n) s = .next (s.endsWith t (let f := e.updGroup key (fun g => { g with sweep := g.sweep + 1, beat := 0 })
              if suaSweeps g.word ≤ g.sweep + 1 then f.suaFinish key r.p r.us else f))))
    ∧ (1 ≤ w → us.length ≤ fuel → (Dev.windows fuel key r us w 0 d).2 = none → (Dev.windows fuel key r us w 0 d).1.devMem = (oneAtATime us d).devMem)

/-- ANNEAL_RUN and ANNEAL_STEP complete. A variable whose new position lies beyond +-16,384 is set to the wall with momentum 0 and one wall hit; one that lands on +-16,384 or within keeps its momentum. ANNEAL_STEP of a running group with no poisoned line commits together, for every variable that is not frozen, the position and momentum of the update from the field and the pump at the step number, and changes no byte but theirs, so a frozen variable is never clamped; it counts the step, the wall hits and the saturations, and after the last step ends the run. ANNEAL_RUN waits until it heads every member's queue; then a mismatch, a failed check of the record, an ungranted streamed region or a bad variable faults the job with its code, and the poison of what the checks read faults it, in the order of the rows; else the group runs, from drawn starting positions when INIT is 1, and with whole makes every step. (R182) -/
def Obligations.AnnealStepsMoveClampAndLeaveFrozen : Prop :=
  ∀ (s : State) (t n id key : Nat) (j : Job) (lead : Desc) (rest : List (Nat × Desc)) (g : GroupRun) (w : Nat) (p f x y : Int) (whole : Bool),
    let d := s.dueAt t
    let yn := clampInt (-2 ^ 31) (2 ^ 31 - 1) (y + rshiftRne ((anDt w : Int) * (f * anCMul w * 2 ^ 15 - ((anA0 w : Int) - p) * x * 2 ^ anCShift w)) (anCShift w + 21))
    let xn := x + rshiftRne (yn * (anA0 w : Int) * (anDt w : Int)) 41
    let v := annealVar w p f x y
    let ms := (key, lead) :: rest
    let q := d.annealRec (ms.map (·.1)) lead.word
    let begun : Dev := ({ d with groups := d.groups.put key { members := ms.map (·.1), word := lead.word, token := false, guarded := (d.annealGuards q lead.word).1, outs := (d.annealGuards q lead.word).2 } } : Dev).markStarted ms
    (16384 < xn → v.1 = 16384 ∧ v.2.1 = 0 ∧ v.2.2.2 = 1) ∧ (xn < -16384 → v.1 = -16384 ∧ v.2.1 = 0 ∧ v.2.2.2 = 1) ∧ (-16384 ≤ xn → xn ≤ 16384 → v.1 = xn ∧ v.2.1 = yn ∧ v.2.2.2 = 0)
    ∧ (d.coreJob n = some (id, j) → d.groupOn n = some (key, g) → d.groups.get? key = some g → groupKind g.token g.word = .anneal → let r := d.annealRec g.members g.word
        (∀ a, d.firstPoison (d.annealReads r) = some a → exec (.annealStep t n) s = .next (s.endsWith t (d.suaPoison id key a)))
        ∧ (d.firstPoison (d.annealReads r) = none →
            let step := w64 (anBase g.word + g.sweep)
            let xs := (upFrom 0 r.vars).map (d.anX r)
            let news := ((upFrom 0 r.vars).filter (fun i => !d.anFrozen r i)).map (fun i => (i, annealVar g.word (d.pump r step) (d.anField r xs i) (xs.getD i 0) (d.anY r i)))
            ∃ e : Dev, exec (.annealStep t n) s = .next (s.endsWith t (if anSteps g.word ≤ g.sweep + 1 then e.annealFinish key r else e))
              ∧ e.devMem = news.foldl (fun m u => memWriteN (memWriteN m (slotAddr r.members r.pos 2 u.1) (leBytes 2 (unsigned 16 u.2.1))) (slotAddr r.members r.mom 4 u.1) (leBytes 4 (unsigned 32 u.2.2.1))) d.devMem
              ∧ (∀ a, (∀ i < r.vars, d.anFrozen r i = false → ¬(slotAddr r.members r.pos 2 i ≤ a ∧ a < slotAddr r.members r.pos 2 i + 2) ∧ ¬(slotAddr r.members r.mom 4 i ≤ a ∧ a < slotAddr r.members r.mom 4 i + 4)) → memRead e.devMem a = memRead d.devMem a)
              ∧ (∃ z, e.groups.get? key = some z ∧ z.sweep = g.sweep + 1 ∧ z.wallHits = satAdd max64 g.wallHits (news.foldl (fun k u => k + u.2.2.2.2) 0) ∧ z.momSat = satAdd max64 g.momSat (news.foldl (fun k u => k + u.2.2.2.1) 0))))
    ∧ (d.coreJob n = some (id, j) → d.groupReady n .anneal = none → exec (.annealRun t n whole) s = .next (s.endsWith t d))
    ∧ (d.coreJob n = some (id, j) → d.groupReady n .anneal = some ms →
        (groupMatches ms = false → exec (.annealRun t n whole) s = .next (s.endsWith t (d.problemFault id ms cBadFormat 0)))
        ∧ (groupMatches ms = true →
            (∀ a, d.firstPoison [(shareBase key + descProblem lead.word, 64)] = some a → exec (.annealRun t n whole) s = .next (s.endsWith t (d.suaPoison id key a)))
            ∧ (d.firstPoison [(shareBase key + descProblem lead.word, 64)] = none →
              (∀ code, q.check = some code → exec (.annealRun t n whole) s = .next (s.endsWith t (d.problemFault id ms code 0)))
              ∧ (q.check = none → (∀ a, d.firstPoison q.entries = some a → exec (.annealRun t n whole) s = .next (s.endsWith t (d.suaPoison id key a)))
                ∧ (d.firstPoison q.entries = none →
                    (∀ code, d.streamedCheck j q = some code → exec (.annealRun t n whole) s = .next (s.endsWith t (d.problemFault id ms code 0)))
                    ∧ (d.streamedCheck j q = none →
                        (∀ a, d.annealVars q lead.word = some (.poison a) → exec (.annealRun t n whole) s = .next (s.endsWith t (d.suaPoison id key a)))
                        ∧ (d.annealVars q lead.word = some .format → exec (.annealRun t n whole) s = .next (s.endsWith t (d.problemFault id ms cBadFormat 0)))
                        ∧ (d.annealVars q lead.word = none →
                            exec (.annealRun t n false) s = .next (s.endsWith t (if anInit lead.word then begun.annealInit key q lead.word j.seed else begun))
                            ∧ exec (.annealRun t n true) s = .next (s.endsWith t (let b := if anInit lead.word then begun.annealInit key q lead.word j.seed else begun
                                match b.groups.get? key with
                                | some g => b.annealBeats (anSteps g.word) id key
                                | none => b)))))))))

/-- TOKEN_DRAW completes. A token-draw request that does not yet head every member's queue waits. When it does, a mismatch, shards that do not cover the vocabulary exactly once, or a bad parameter record faults the job with BAD_FORMAT; a poisoned line of the parameter table, or of the logits once every record has passed, faults it with JOB_FAULT; nothing is written. Otherwise every member's share gets, for sequence q at OUT_OFF + 8q, the same 8-byte record of the winner over all members' shards; no other byte changes, no core outside the group changes, every queue keeps its tickets, on every member the request has started, and the group runs, its regions guarded against other writes, until its completion. The winner is a candidate whose rank no other exceeds and, of those of its rank, the lowest index; its record holds its index and score, or token 0 with ALL_NAN when its score is a NaN. (R193, R194, R195, R198, R200, Table 8-5) -/
def Obligations.TokenDrawsWriteTheWinners : Prop :=
  ∀ (s : State) (t n id key : Nat) (j : Job) (x : Desc) (rest : List (Nat × Desc)) (q v sc : Nat) (ms2 : List (Nat × Nat)),
    let d := s.dueAt t
    let ms := (key, x) :: rest
    let ws := ms.map (fun m => (m.1, m.2.word))
    let params := (upFrom 0 (tkSeqs x.word)).all (fun q => tokenParamOk (d.tokenParam key x.word q))
    let recs := (upFrom 0 (tkSeqs x.word)).map (fun q => (q, tokenRecord (d.tokenWinner j.seed key ws q)))
    (d.coreJob n = some (id, j) →
        (d.groupReady n .token = none → exec (.tokenDraw t n) s = .next (s.endsWith t d))
        ∧ (d.groupReady n .token = some ms →
            ((groupMatches ms = false ∨ shardsCover (ws.map (·.2)) (tkVocab x.word) = false) → exec (.tokenDraw t n) s = .next (s.endsWith t (d.problemFault id ms cBadFormat 0)))
            ∧ (groupMatches ms = true → shardsCover (ws.map (·.2)) (tkVocab x.word) = true →
                (∀ a, d.firstPoison [tokenTable key ws] = some a → exec (.tokenDraw t n) s = .next (s.endsWith t (d.suaPoison id key a)))
                ∧ (d.firstPoison [tokenTable key ws] = none → params = false → exec (.tokenDraw t n) s = .next (s.endsWith t (d.problemFault id ms cBadFormat 0)))
                ∧ (∀ a, d.firstPoison [tokenTable key ws] = none → params = true → d.firstPoison (tokenLogits ws) = some a → exec (.tokenDraw t n) s = .next (s.endsWith t (d.suaPoison id key a)))
                ∧ (d.firstPoison [tokenTable key ws] = none → params = true → d.firstPoison (tokenLogits ws) = none → ∃ e, exec (.tokenDraw t n) s = .next (s.endsWith t e)
                    ∧ e.devMem = ws.foldl (fun m k => recs.foldl (fun m r => memWriteN m (shareBase k.1 + tkOut k.2 + 8 * r.1) r.2) m) d.devMem
                    ∧ (∀ a, (∀ k ∈ ws, a < shareBase k.1 + tkOut k.2 ∨ shareBase k.1 + tkOut k.2 + 8 * tkSeqs x.word ≤ a) → memRead e.devMem a = memRead d.devMem a)
                    ∧ (∀ k, k ∉ ms.map (·.1) → e.core k = d.core k)
                    ∧ (∀ k, ((e.core k).suaQ.map (·.ticket)) = (d.core k).suaQ.map (·.ticket)) ∧ (∀ m ∈ ms, ∀ y ∈ (e.core m.1).suaQ, y.ticket = m.2.ticket → y.started = true)
                    ∧ e.groups.get? key = some { members := ms.map (·.1), word := x.word, token := true, guarded := tokenReads key ws ++ ws.map (fun m => (shareBase m.1 + tkOut m.2, 8 * tkSeqs m.2)), outs := ws.map (fun m => (shareBase m.1 + tkOut m.2, 8 * tkSeqs m.2)) }
                    ∧ e.jobs = d.jobs ∧ e.ctxs = d.ctxs ∧ (∀ k, ∃ r, e.tidy k = { d.tidy k with reservation := r })))))
    ∧ (d.tokenWinner j.seed key ms2 q = some (v, sc) → ∃ r, r = d.tokenParam key ((ms2.headD (0, 0)).2) q
        ∧ (∃ m ∈ ms2, tkFirst m.2 ≤ v ∧ v < tkFirst m.2 + tkCount m.2 ∧ sc = d.tokenScore j.seed m.1 m.2 q r v)
        ∧ (∀ m ∈ ms2, ∀ u, tkFirst m.2 ≤ u → u < tkFirst m.2 + tkCount m.2 →
            let su := d.tokenScore j.seed m.1 m.2 q r u
            scoreRank su ≤ scoreRank sc ∧ (scoreRank su = scoreRank sc → v ≤ u)))
    ∧ tokenRecord (some (v, sc)) = (if f32IsNan sc then leBytes 4 0x80000000 ++ leBytes 4 sc else leBytes 4 v ++ leBytes 4 sc)

/-- COPY, GATHER and NET_ADD complete. The mover runs the first unlanded request of its core; a fenced one waits for its turn. COPY of ranges that do not meet makes the COUNT bytes at DST those the job reads at SRC, and no other byte changes; a poisoned source line poisons its destination line. GATHER without pooling does the same for each row; a poisoned line in a list faults the job with KIND 0x0A and its address (the model's reading, log entry 34), a bag end that decreases or a row outside the granted memory with KIND 0x0F and the position; pooled rows are combined word by word along the tree, an empty bag giving 0. NET_ADD waits until every member of its mask has the matching request next, then element i is the sum of the members' words in rank order, along the logical tree where the context is BITWISE, written at DST in the share of DEST_CORE, or of each member with ALL; every member's request lands. A poisoned source faults the job. A request that meets an offline or reset router or unit faults the job (KIND 0x0B). Memory outside the destinations and all other cores stay; each bag and flit has its own arrival tree. (R136, R269, R270, R272, R273, R274, R400) -/
def Obligations.MoverCopiesGathersAndAdds : Prop :=
  ∀ (s : State) (t n id : Nat) (j : Job) (x : Desc) (as : Arrivals),
    let d := s.dueAt t
    let w := x.word
    (d.coreJob n = some (id, j) → (d.core n).nextMoveReq = none → exec (.copy t n) s = .next (s.endsWith t d) ∧ exec (.gather t n as) s = .next (s.endsWith t d) ∧ exec (.netAdd t n as) s = .next (s.endsWith t d))
    ∧ (d.coreJob n = some (id, j) → (d.core n).nextMoveReq = some x →
        let landed (e : Dev) : Prop := e.core n = { d.core n with moveQ := landIn (d.core n).moveQ x.ticket } ∧ (∀ k, k ≠ n → e.core k = d.core k) ∧ (∀ k, ∃ r, e.tidy k = { d.tidy k with reservation := r })
        (mvOp w = 1 →
            let lost := d.moveFault id n [(j.redirect (mvSrc w), mvCount w), (mvDst w, mvCount w)]
            (∀ e, lost = some e → exec (.copy t n) s = .next (s.endsWith t e))
            ∧ (lost = none → ∃ e, exec (.copy t n) s = .next (s.endsWith t e) ∧ landed e ∧ e.jobs = d.jobs ∧ e.ctxs = d.ctxs
              ∧ (mvSrc w + mvCount w ≤ mvDst w ∨ mvDst w + mvCount w ≤ mvSrc w → e.devMem = memWriteN d.devMem (mvDst w) (d.jobRead j (mvSrc w) (mvCount w))
                ∧ (∀ a, a < mvDst w ∨ mvDst w + mvCount w ≤ a → memRead e.devMem a = memRead d.devMem a)
                ∧ (∀ l ∈ d.poisonMap j (mvSrc w) (mvDst w) (mvCount w), l ∈ e.poison))))
        ∧ (mvOp w = 2 → let idx := d.gatherIndices n w
            let ends := if mvPool w = 0 then [] else d.gatherEnds n w
            let listBad := d.firstPoison (gatherLists n w)
            let endBad := if mvPool w = 0 then none else badEnd (mvCount w) 0 0 ends
            let outside := (upFrom 0 idx.length).find? (fun k => !d.granted j (mvSrc w + idx.getD k 0 * mvRowBytes w) (mvRowBytes w) false)
            let lost := d.moveFault id n (idx.map (fun r => (j.redirect (mvSrc w + r * mvRowBytes w), mvRowBytes w)) ++ [(mvDst w, if mvCount w = 0 then 0 else mvRowBytes w)])
            let bad := idx.findSome? (fun r => d.jobPoisonLine j (mvSrc w + r * mvRowBytes w) (mvRowBytes w))
            let fault (b : Nat) : Dev := d.faultJob id 0x0F 0 cBadFormat (UnitId.core n).page (descTag w * 2 ^ 48 + b)
            (∀ a, listBad = some a → exec (.gather t n as) s = .next (s.endsWith t (d.faultJob id 0x0A 0 cJobFault (UnitId.core n).page a)))
            ∧ (listBad = none → (∀ b, endBad = some b → exec (.gather t n as) s = .next (s.endsWith t (fault b)))
              ∧ (endBad = none → (∀ k, outside = some k → exec (.gather t n as) s = .next (s.endsWith t (fault k)))
                ∧ (outside = none → (∀ e, lost = some e → exec (.gather t n as) s = .next (s.endsWith t e))
                  ∧ (lost = none →
                    (mvPool w = 0 → ∃ e, exec (.gather t n as) s = .next (s.endsWith t e) ∧ landed e ∧ e.jobs = d.jobs ∧ e.ctxs = d.ctxs
                      ∧ (∀ a, a < mvDst w ∨ mvDst w + mvCount w * mvRowBytes w ≤ a → memRead e.devMem a = memRead d.devMem a))
                    ∧ (mvPool w ≠ 0 → (∀ a, bad = some a → exec (.gather t n as) s = .next (s.endsWith t (d.faultJob id 0x0A 0 cJobFault (UnitId.core n).page a)))
                      ∧ (bad = none → ∃ e, exec (.gather t n as) s = .next (s.endsWith t e) ∧ landed e
                        ∧ (let rows := idx.zip ((upFrom 0 idx.length).map (fun k => memNat d.devMem (shareBase n + mvWeight w + 4 * k) 4))
                           let bags := ((0 :: ends).zip ends).map (fun c => (rows.drop c.1).take (c.2 - c.1))
                           e.devMem = memWriteN d.devMem (mvDst w) (bags.zipIdx.flatMap (fun b =>
                             (d.bagResult j w (fun f => arrivalTree as b.2 f ((d.ctx j.ctx).throughput && mvElem w != 3) b.1.length) b.1).flatMap (leBytes 4)))))))))))
        ∧ (mvOp w = 3 →
            (d.netMembers x = none → exec (.netAdd t n as) s = .next (s.endsWith t d))
            ∧ (∀ k y rest, d.netMembers x = some ((k, y) :: rest) → let ms := (k, y) :: rest
                let bad := ms.findSome? (fun e => (d.firstPoison [(mvSrc e.2.word, 4 * mvCount y.word)]).map (fun a => (e.1, a)))
                let dests := if mvAll y.word then ms.map (·.1) else [mvDestCore y.word]
                let lost := ms.findSome? (fun e => d.moveFault id e.1 ((dests.filter (fun k => k != e.1)).map (fun k => (shareBase k + mvDst y.word, 4 * mvCount y.word))))
                (∀ b, bad = some b → exec (.netAdd t n as) s = .next (s.endsWith t (d.faultJob id 0x0A 0 cJobFault (UnitId.core b.1).page b.2)))
                ∧ (bad = none → ∀ e, lost = some e → exec (.netAdd t n as) s = .next (s.endsWith t e))
                ∧ (bad = none → lost = none →
                    let tree (f : Nat) := arrivalTree as 0 f ((d.ctx j.ctx).throughput && !(mvElem y.word == 3)) ms.length
                    let bs := ((upFrom 0 (mvCount y.word)).map (fun i => evalTree (mvElem y.word == 3) (ms.map (fun e => memNat d.devMem (mvSrc e.2.word + 4 * i) 4)) (tree (i / 16)))).flatMap (leBytes 4)
                    ((d.ctx j.ctx).throughput = false → ∀ f, tree f = logicalTree 32 0 ms.length)
                    ∧ ∃ e, exec (.netAdd t n as) s = .next (s.endsWith t e) ∧ e.devMem = dests.foldl (fun m k => memWriteN m (shareBase k + mvDst y.word) bs) d.devMem
                      ∧ (∀ a, (∀ k ∈ dests, a < shareBase k + mvDst y.word ∨ shareBase k + mvDst y.word + 4 * mvCount y.word ≤ a) → memRead e.devMem a = memRead d.devMem a)
                      ∧ (∀ k, k ∉ ms.map (·.1) → e.core k = d.core k) ∧ (∀ k, ∃ r, e.tidy k = { d.tidy k with reservation := r })
                      ∧ (∀ m ∈ ms, ∀ z ∈ (e.core m.1).moveQ, z.ticket = m.2.ticket → z.landed = true)))))
    ∧ (∀ a m, logicalTree 0 a m = .leaf a ∧ (1 < m → ∀ f, logicalTree (f + 1) a m = .node (logicalTree f a (halfPow m)) (logicalTree f (a + halfPow m) (m - halfPow m))))

/-- For every function, class k is pending exactly when a record of class k is queued in that function's attention queue or bit k of its ATTN_LOST is set. The ATTN summary it sees is the highest pending class, 0 with none, and two devices whose queue for that function is the same show it the same summary, whatever the queues of other functions hold. The status word holds it in its top four bits above the code. (R58) -/
def Obligations.PendingClassesAndSummary : Prop :=
  ∀ (d e : Dev) (fn k : Nat),
    ((d.attnq fn).pendingMask.testBit k = true ↔ (∃ r ∈ (d.attnq fn).records, r.cls = k) ∨ (d.attnq fn).lostClasses.testBit k = true)
    ∧ ((d.attnq fn).pendingMask.testBit k = true → k ≤ d.attnSummary fn)
    ∧ ((d.attnq fn).pendingMask ≠ 0 → (d.attnq fn).pendingMask.testBit (d.attnSummary fn) = true)
    ∧ ((d.attnq fn).records = [] → (d.attnq fn).lostClasses = 0 → d.attnSummary fn = 0)
    ∧ (d.attnq fn = e.attnq fn → d.attnSummary fn = e.attnSummary fn)
    ∧ ∀ code, code < 4096 → d.statusWord fn code / 4096 = d.attnSummary fn ∧ d.statusWord fn code % 4096 = code
end

