-- ==== Sys2Proof/Laws/Memory.lean ====
section
/-! SUPPORT. Tables and byte memories: what a key reads after an update, and that every memory operation keeps the canonical form. -/

namespace Sys2Proof.Machine

/-! ### Tables -/

@[simp] theorem get?_put_self {α : Type} (t : Tab α) (k : Nat) (v : α) : Tab.get? (Tab.put t k v) k = some v := by
  induction t with
  | nil => simp [Tab.put, Tab.get?]
  | cons e t ih =>
    obtain ⟨k', w⟩ := e
    unfold Tab.put
    split
    · simp [Tab.get?]
    · split
      · simp [Tab.get?]
      · rename_i h1 h2
        have : ¬ k' = k := fun h => h2 h.symm
        simp [Tab.get?, this, ih]

theorem get?_put_ne {α : Type} (t : Tab α) {k x : Nat} (v : α) (h : k ≠ x) : Tab.get? (Tab.put t k v) x = Tab.get? t x := by
  induction t with
  | nil => simp [Tab.put, Tab.get?, h]
  | cons e t ih =>
    obtain ⟨k', w⟩ := e
    unfold Tab.put
    split
    · simp [Tab.get?, h]
    · split
      · rename_i h2
        subst h2
        simp [Tab.get?, h]
      · simp [Tab.get?, ih]

@[simp] theorem getD_put_self {α : Type} (t : Tab α) (k : Nat) (v d : α) : Tab.getD (Tab.put t k v) k d = v := by simp [Tab.getD]

theorem getD_put_ne {α : Type} (t : Tab α) {k x : Nat} (v d : α) (h : k ≠ x) : Tab.getD (Tab.put t k v) x d = Tab.getD t x d := by
  simp [Tab.getD, get?_put_ne t v h]

/-- Setting one key twice leaves the second value. -/
@[simp] theorem put_put_self {α : Type} (t : Tab α) (k : Nat) (v w : α) : Tab.put (Tab.put t k v) k w = Tab.put t k w := by
  induction t with
  | nil => simp [Tab.put]
  | cons e t ih =>
    obtain ⟨k', x⟩ := e
    rcases Nat.lt_trichotomy k k' with h | h | h
    · simp [Tab.put, h]
    · subst h; simp [Tab.put]
    · have h1 : ¬ k < k' := by omega
      have h2 : ¬ k = k' := by omega
      simp [Tab.put, h1, h2, ih]

/-! ### Bytes -/

/-- Every listed address is at least `n`. -/
theorem memRead_low {m : List Host.Cell} {a : Nat} (h : ∀ c ∈ m, a < c.1) : memRead m a = 0 := by
  induction m with
  | nil => rfl
  | cons c m ih =>
    obtain ⟨k, b⟩ := c
    have hk : a < k := h (k, b) (by simp)
    have : ¬ k = a := by omega
    simp [memRead, this, ih (fun c hc => h c (by simp [hc]))]

/-- In a canonical memory the first entry is nonzero, lower than the rest, and the rest is canonical. -/
theorem wf_cons {k : Nat} {b : Byte} {m : List Host.Cell} (h : Memory.wf ((k, b) :: m) = true) :
    b ≠ 0 ∧ (∀ c ∈ m, k < c.1) ∧ Memory.wf m = true := by
  induction m generalizing k b with
  | nil => simpa [Memory.wf] using h
  | cons c m ih =>
    obtain ⟨k', b'⟩ := c
    simp only [Memory.wf, Bool.and_eq_true, decide_eq_true_eq] at h
    obtain ⟨⟨hb, hk⟩, hm⟩ := h
    obtain ⟨_, hr, _⟩ := ih hm
    refine ⟨hb, ?_, hm⟩
    intro c hc
    rcases List.mem_cons.mp hc with rfl | hc
    · exact hk
    · exact Nat.lt_trans hk (hr c hc)

/-- A nonzero entry below a canonical memory makes a canonical memory. -/
theorem wf_of_cons {k : Nat} {b : Byte} {m : List Host.Cell} (hb : b ≠ 0) (hk : ∀ c ∈ m, k < c.1) (hm : Memory.wf m = true) :
    Memory.wf ((k, b) :: m) = true := by
  cases m with
  | nil => simpa [Memory.wf] using hb
  | cons c m =>
    obtain ⟨k', b'⟩ := c
    simp only [Memory.wf, Bool.and_eq_true, decide_eq_true_eq]
    exact ⟨⟨hb, hk (k', b') (by simp)⟩, hm⟩

/-- What a write lists: its own address, or an address listed before. -/
theorem memWrite_mem {m : List Host.Cell} {a : Nat} {b : Byte} {c : Host.Cell} (h : c ∈ memWrite m a b) : c.1 = a ∨ c ∈ m := by
  induction m with
  | nil => simp only [memWrite] at h; split at h <;> simp_all
  | cons e m ih =>
    obtain ⟨k, x⟩ := e
    simp only [memWrite] at h
    split at h
    · split at h
      · exact .inr h
      · rcases List.mem_cons.mp h with rfl | h
        · exact .inl rfl
        · exact .inr h
    · split at h
      · split at h
        · exact .inr (List.mem_cons_of_mem _ h)
        · rcases List.mem_cons.mp h with rfl | h
          · exact .inl rfl
          · exact .inr (List.mem_cons_of_mem _ h)
      · rcases List.mem_cons.mp h with rfl | h
        · exact .inr (by simp)
        · rcases ih h with h | h
          · exact .inl h
          · exact .inr (List.mem_cons_of_mem _ h)

/-- A write keeps the canonical form. -/
theorem memWrite_wf {m : List Host.Cell} (a : Nat) (b : Byte) (h : Memory.wf m = true) : Memory.wf (memWrite m a b) = true := by
  induction m with
  | nil =>
    simp only [memWrite]
    split
    · rfl
    · rename_i hb; simpa [Memory.wf] using hb
  | cons c m ih =>
    obtain ⟨k, x⟩ := c
    obtain ⟨hx, hk, hm⟩ := wf_cons h
    simp only [memWrite]
    split
    · rename_i hak
      split
      · exact h
      · rename_i hb
        refine wf_of_cons hb ?_ h
        intro c hc
        rcases List.mem_cons.mp hc with rfl | hc
        · exact hak
        · exact Nat.lt_trans hak (hk c hc)
    · rename_i hak
      split
      · rename_i hak'
        subst hak'
        split
        · exact hm
        · rename_i hb
          exact wf_of_cons hb hk hm
      · rename_i hne
        refine wf_of_cons hx ?_ (ih hm)
        intro c hc
        rcases memWrite_mem hc with h | h
        · omega
        · exact hk c h

/-- Read after write, at the address written (of a canonical memory: a zero write removes the entry). -/
theorem memRead_memWrite_self {m : List Host.Cell} (a : Nat) (b : Byte) (h : Memory.wf m = true) : memRead (memWrite m a b) a = b := by
  induction m with
  | nil => simp only [memWrite]; split <;> simp_all [memRead]
  | cons c m ih =>
    obtain ⟨k, x⟩ := c
    obtain ⟨hx, hk, hm⟩ := wf_cons h
    simp only [memWrite]
    split
    · rename_i hak
      split
      · rename_i hb
        subst hb
        refine memRead_low ?_
        intro c hc
        rcases List.mem_cons.mp hc with rfl | hc
        · exact hak
        · exact Nat.lt_trans hak (hk c hc)
      · simp [memRead]
    · split
      · rename_i hak
        subst hak
        split
        · rename_i hb; subst hb; exact memRead_low hk
        · simp [memRead]
      · rename_i hne
        have : ¬ k = a := fun h => hne h.symm
        simp [memRead, this, ih hm]

/-- A write leaves every other address alone. -/
theorem memRead_memWrite_ne (m : List Host.Cell) {a x : Nat} (b : Byte) (hx : a ≠ x) : memRead (memWrite m a b) x = memRead m x := by
  induction m with
  | nil => simp only [memWrite]; split <;> simp [memRead, hx]
  | cons c m ih =>
    obtain ⟨k, v⟩ := c
    simp only [memWrite]
    split
    · split <;> simp [memRead, hx]
    · split
      · rename_i hak
        subst hak
        split <;> simp [memRead, hx]
      · simp [memRead, ih]

theorem memWriteN_wf (bs : List Byte) : ∀ {m : List Host.Cell} (a : Nat), Memory.wf m = true → Memory.wf (memWriteN m a bs) = true := by
  induction bs with
  | nil => intro m a h; exact h
  | cons b bs ih => intro m a h; exact ih (a + 1) (memWrite_wf a b h)

/-- A write of several bytes leaves every address outside them alone. -/
theorem memRead_memWriteN_out (bs : List Byte) : ∀ (m : List Host.Cell) (a x : Nat), x < a ∨ a + bs.length ≤ x →
    memRead (memWriteN m a bs) x = memRead m x := by
  induction bs with
  | nil => intro m a x _; rfl
  | cons b bs ih =>
    intro m a x h
    simp only [List.length_cons] at h
    rw [memWriteN, ih _ _ _ (by omega), memRead_memWrite_ne _ _ (by omega)]

/-- Entries outside an address set do not matter to a read inside it. -/
theorem memRead_filter (p : Host.Cell → Bool) (a : Nat) (hp : ∀ b, p (a, b) = true) : ∀ m : List Host.Cell, memRead (m.filter p) a = memRead m a
  | [] => rfl
  | (k, b) :: m => by
    have ih := memRead_filter p a hp m
    by_cases hk : k = a
    · subst hk; simp [hp, memRead]
    · by_cases h : p (k, b) = true
      · simp [h, memRead, hk, ih]
      · simp [h, memRead, hk, ih]

theorem memReadRun_filter (m : List Host.Cell) (p : Host.Cell → Bool) : ∀ (n a : Nat), (∀ x, a ≤ x → x < a + n → ∀ b, p (x, b) = true) →
    memReadRun (m.filter p) a n = memReadRun m a n
  | 0, _, _ => rfl
  | n + 1, a, h => by
    rw [memReadRun, memReadRun, memRead_filter p a (h a (by omega) (by omega)), memReadRun_filter m p n (a + 1) (fun x h1 h2 => h x (by omega) (by omega))]

/-- Reading a range is reading its bytes one by one. -/
theorem memReadN_eq (m : List Host.Cell) (a n : Nat) : memReadN m a n = memReadRun m a n :=
  memReadRun_filter m _ n a (fun x h1 h2 b => by simp [h1, h2])

theorem memReadRun_memWriteN (bs : List Byte) : ∀ (m : List Host.Cell) (a : Nat), Memory.wf m = true →
    memReadRun (memWriteN m a bs) a bs.length = bs := by
  induction bs with
  | nil => intro m a _; rfl
  | cons b bs ih =>
    intro m a h
    simp only [memWriteN, List.length_cons, memReadRun]
    rw [memRead_memWriteN_out bs _ _ _ (by omega), memRead_memWrite_self a b h, ih _ _ (memWrite_wf a b h)]

/-- A write of several bytes puts them there. -/
theorem memReadN_memWriteN (bs : List Byte) (m : List Host.Cell) (a : Nat) (h : Memory.wf m = true) :
    memReadN (memWriteN m a bs) a bs.length = bs := (memReadN_eq _ _ _).trans (memReadRun_memWriteN bs m a h)

theorem memWriteCells_wf (cs : List Host.Cell) : ∀ {m : List Host.Cell}, Memory.wf m = true → Memory.wf (memWriteCells m cs) = true := by
  induction cs with
  | nil => intro m h; exact h
  | cons c cs ih => intro m h; exact ih (memWrite_wf c.1 c.2 h)

theorem wf_filter (p : Host.Cell → Bool) : ∀ {m : List Host.Cell}, Memory.wf m = true → Memory.wf (m.filter p) = true := by
  intro m
  induction m with
  | nil => intro h; exact h
  | cons c m ih =>
    intro h
    obtain ⟨k, b⟩ := c
    obtain ⟨hb, hk, hm⟩ := wf_cons h
    rw [List.filter_cons]
    split
    · exact wf_of_cons hb (fun c hc => hk c (List.mem_filter.mp hc).1) (ih hm)
    · exact ih hm

theorem memZero_wf {m : List Host.Cell} (a n : Nat) (h : Memory.wf m = true) : Memory.wf (memZero m a n) = true := wf_filter _ h

end Sys2Proof.Machine
end

