-- ==== Sys2Proof/Laws/State.lean ====
section
/-! SUPPORT. The small lemmas of the state: what each named update leaves of each field of the device. -/

namespace Sys2Proof.Machine

/-- What the clock's deadlines may write: the lease and what its expiry moves, attention records, the log, and what the end of an unlock closes. -/
def Dev.dueTo (d e : Dev) : Prop :=
  ∃ m p tr pw le aq ri se lg ti pr cn, e = { d with
    modState := m, prevState := p, transitions := tr, pwr := pw, lease := le, attnqs := aq, rings := ri, sec := se, log := lg, tidies := ti, procs := pr, cnts := cn }

theorem Dev.dueTo.refl (d : Dev) : d.dueTo d := ⟨_, _, _, _, _, _, _, _, _, _, _, _, rfl⟩

theorem Dev.dueTo.trans {d e f : Dev} (h : d.dueTo e) (k : e.dueTo f) : d.dueTo f := by
  obtain ⟨_, _, _, _, _, _, _, _, _, _, _, _, rfl⟩ := h
  obtain ⟨_, _, _, _, _, _, _, _, _, _, _, _, rfl⟩ := k
  exact ⟨_, _, _, _, _, _, _, _, _, _, _, _, rfl⟩

theorem dueTo_move (d : Dev) (m : ModState) : d.dueTo (d.move m) := by
  unfold Dev.move; dsimp only; split <;> exact ⟨_, _, _, _, _, _, _, _, _, _, _, _, rfl⟩

theorem dueTo_leaseWarning (d : Dev) : d.dueTo d.leaseWarning := by
  unfold Dev.leaseWarning; dsimp only; split <;> exact ⟨_, _, _, _, _, _, _, _, _, _, _, _, rfl⟩

theorem dueTo_storeHeld (d : Dev) : d.dueTo d.storeHeld := by
  unfold Dev.storeHeld
  generalize d.rings.map (·.1) = rs
  induction rs generalizing d with
  | nil => exact .refl d
  | cons r rs ih => exact Dev.dueTo.trans ⟨_, _, _, _, _, _, _, _, _, _, _, _, rfl⟩ (ih _)

theorem dueTo_leaseExpiry (d : Dev) : d.dueTo d.leaseExpiry := by
  unfold Dev.leaseExpiry; dsimp only
  split
  · refine Dev.dueTo.trans (e := (d.class4 cLeaseExpired).updLease (fun l => { l with status := .expired, expiries := satAdd 0xFFFFFFFF l.expiries 1, fromSnowpack := d.modState == .snowpack })) ⟨_, _, _, _, _, _, _, _, _, _, _, _, rfl⟩ ?_
    generalize (d.class4 cLeaseExpired).updLease _ = e
    have h : e.dueTo (if e.modState = .frost ∨ e.modState = .active ∨ e.modState = .snowpack then e.move .orphaned else e) := by
      split
      · exact dueTo_move _ _
      · exact .refl _
    refine h.trans ?_
    generalize (if e.modState = .frost ∨ e.modState = .active ∨ e.modState = .snowpack then e.move .orphaned else e) = f
    split
    · exact dueTo_storeHeld _
    · exact .refl _
  · exact .refl d

theorem dueTo_takeoverLapse (d : Dev) : d.dueTo d.takeoverLapse := by
  unfold Dev.takeoverLapse; dsimp only; split <;> exact ⟨_, _, _, _, _, _, _, _, _, _, _, _, rfl⟩

theorem dueTo_endUnlock (d : Dev) : d.dueTo d.endUnlock := by
  unfold Dev.endUnlock
  split
  · exact .refl d
  · dsimp only
    unfold Dev.warnUnlock Dev.logRec Dev.closeExtended
    simp only [Nat.reduceLeDiff, decide_false, Bool.false_and, Bool.false_eq_true, if_false]
    split <;> exact ⟨_, _, _, _, _, _, _, _, _, _, _, _, rfl⟩

theorem dueTo_whenDue {f : Dev → Dev} (hf : ∀ e : Dev, e.dueTo (f e)) (d : Dev) (x : Nat) : d.dueTo (d.whenDue x f) := by
  unfold Dev.whenDue Dev.atTime
  split
  · obtain ⟨_, _, _, _, _, _, _, _, _, _, _, _, h⟩ := hf { d with now := x }
    rw [h]; exact ⟨_, _, _, _, _, _, _, _, _, _, _, _, rfl⟩
  · exact .refl d

/-- The deadlines write nothing else. -/
theorem dueTo_deadlines (d : Dev) : d.dueTo d.deadlines := by
  have h : d.dueTo d.leaseDue :=
    ((dueTo_whenDue dueTo_leaseWarning d _).trans (dueTo_whenDue dueTo_leaseExpiry _ _)).trans (dueTo_whenDue dueTo_takeoverLapse _ _)
  refine h.trans ?_
  show d.leaseDue.dueTo d.leaseDue.unlockDue
  unfold Dev.unlockDue
  split
  · exact .refl _
  · exact dueTo_whenDue dueTo_endUnlock _ _

theorem deadlines_now (d : Dev) : d.deadlines.now = d.now := by obtain ⟨_, _, _, _, _, _, _, _, _, _, _, _, h⟩ := dueTo_deadlines d; rw [h]

@[simp] theorem State.dueAt_now (s : State) (t : Nat) : (s.dueAt t).now = max s.dev.now t := deadlines_now _
@[simp] theorem State.dueAt_reply (s : State) (t : Nat) : (s.dueAt t).reply = s.dev.reply := by
  obtain ⟨_, _, _, _, _, _, _, _, _, _, _, _, h⟩ := dueTo_deadlines ((s.clockAt t).elapse s.dev.now)
  unfold State.dueAt; rw [h]; rfl
@[simp] theorem State.dueAt_free (s : State) (t : Nat) : (s.dueAt t).free = s.dev.free := by
  obtain ⟨_, _, _, _, _, _, _, _, _, _, _, _, h⟩ := dueTo_deadlines ((s.clockAt t).elapse s.dev.now)
  unfold State.dueAt; rw [h]; rfl
@[simp] theorem State.dueAt_hostMem (s : State) (t : Nat) : (s.dueAt t).hostMem = s.dev.hostMem := by
  obtain ⟨_, _, _, _, _, _, _, _, _, _, _, _, h⟩ := dueTo_deadlines ((s.clockAt t).elapse s.dev.now)
  unfold State.dueAt; rw [h]; rfl
@[simp] theorem State.dueAt_devMem (s : State) (t : Nat) : (s.dueAt t).devMem = s.dev.devMem := by
  obtain ⟨_, _, _, _, _, _, _, _, _, _, _, _, h⟩ := dueTo_deadlines ((s.clockAt t).elapse s.dev.now)
  unfold State.dueAt; rw [h]; rfl
@[simp] theorem State.dueAt_units (s : State) (t : Nat) : (s.dueAt t).units = s.dev.units := by
  obtain ⟨_, _, _, _, _, _, _, _, _, _, _, _, h⟩ := dueTo_deadlines ((s.clockAt t).elapse s.dev.now)
  unfold State.dueAt; rw [h]; rfl
@[simp] theorem State.dueAt_views (s : State) (t : Nat) : (s.dueAt t).views = s.dev.views := by
  obtain ⟨_, _, _, _, _, _, _, _, _, _, _, _, h⟩ := dueTo_deadlines ((s.clockAt t).elapse s.dev.now)
  unfold State.dueAt; rw [h]; rfl
@[simp] theorem State.dueAt_emu (s : State) (t : Nat) : (s.dueAt t).emu = s.dev.emu := by
  obtain ⟨_, _, _, _, _, _, _, _, _, _, _, _, h⟩ := dueTo_deadlines ((s.clockAt t).elapse s.dev.now)
  unfold State.dueAt; rw [h]; rfl
@[simp] theorem State.dueAt_emuSeq (s : State) (t : Nat) : (s.dueAt t).emuSeq = s.dev.emuSeq := by
  obtain ⟨_, _, _, _, _, _, _, _, _, _, _, _, h⟩ := dueTo_deadlines ((s.clockAt t).elapse s.dev.now)
  unfold State.dueAt; rw [h]; rfl
@[simp] theorem State.dueAt_msix (s : State) (t : Nat) : (s.dueAt t).msix = s.dev.msix := by
  obtain ⟨_, _, _, _, _, _, _, _, _, _, _, _, h⟩ := dueTo_deadlines ((s.clockAt t).elapse s.dev.now)
  unfold State.dueAt; rw [h]; rfl
@[simp] theorem State.dueAt_hiLatch (s : State) (t : Nat) : (s.dueAt t).hiLatch = s.dev.hiLatch := by
  obtain ⟨_, _, _, _, _, _, _, _, _, _, _, _, h⟩ := dueTo_deadlines ((s.clockAt t).elapse s.dev.now)
  unfold State.dueAt; rw [h]; rfl
@[simp] theorem State.dueAt_time (s : State) (t : Nat) : (s.dueAt t).time = s.dev.time := by
  obtain ⟨_, _, _, _, _, _, _, _, _, _, _, _, h⟩ := dueTo_deadlines ((s.clockAt t).elapse s.dev.now)
  unfold State.dueAt; rw [h]; rfl
@[simp] theorem State.dueAt_syncs (s : State) (t : Nat) : (s.dueAt t).syncs = s.dev.syncs := by
  obtain ⟨_, _, _, _, _, _, _, _, _, _, _, _, h⟩ := dueTo_deadlines ((s.clockAt t).elapse s.dev.now)
  unfold State.dueAt; rw [h]; rfl
@[simp] theorem State.dueAt_launches (s : State) (t : Nat) : (s.dueAt t).launches = s.dev.launches := by
  obtain ⟨_, _, _, _, _, _, _, _, _, _, _, _, h⟩ := dueTo_deadlines ((s.clockAt t).elapse s.dev.now)
  unfold State.dueAt; rw [h]; rfl
@[simp] theorem State.dueAt_lateLaunches (s : State) (t : Nat) : (s.dueAt t).lateLaunches = s.dev.lateLaunches := by
  obtain ⟨_, _, _, _, _, _, _, _, _, _, _, _, h⟩ := dueTo_deadlines ((s.clockAt t).elapse s.dev.now)
  unfold State.dueAt; rw [h]; rfl
@[simp] theorem State.dueAt_ctxs (s : State) (t : Nat) : (s.dueAt t).ctxs = s.dev.ctxs := by
  obtain ⟨_, _, _, _, _, _, _, _, _, _, _, _, h⟩ := dueTo_deadlines ((s.clockAt t).elapse s.dev.now)
  unfold State.dueAt; rw [h]; rfl
@[simp] theorem State.dueAt_jobs (s : State) (t : Nat) : (s.dueAt t).jobs = s.dev.jobs := by
  obtain ⟨_, _, _, _, _, _, _, _, _, _, _, _, h⟩ := dueTo_deadlines ((s.clockAt t).elapse s.dev.now)
  unfold State.dueAt; rw [h]; rfl
@[simp] theorem State.dueAt_nextJob (s : State) (t : Nat) : (s.dueAt t).nextJob = s.dev.nextJob := by
  obtain ⟨_, _, _, _, _, _, _, _, _, _, _, _, h⟩ := dueTo_deadlines ((s.clockAt t).elapse s.dev.now)
  unfold State.dueAt; rw [h]; rfl
@[simp] theorem State.dueAt_cores (s : State) (t : Nat) : (s.dueAt t).cores = s.dev.cores := by
  obtain ⟨_, _, _, _, _, _, _, _, _, _, _, _, h⟩ := dueTo_deadlines ((s.clockAt t).elapse s.dev.now)
  unfold State.dueAt; rw [h]; rfl
@[simp] theorem State.dueAt_groups (s : State) (t : Nat) : (s.dueAt t).groups = s.dev.groups := by
  obtain ⟨_, _, _, _, _, _, _, _, _, _, _, _, h⟩ := dueTo_deadlines ((s.clockAt t).elapse s.dev.now)
  unfold State.dueAt; rw [h]; rfl
@[simp] theorem State.dueAt_regions (s : State) (t : Nat) : (s.dueAt t).regions = s.dev.regions := by
  obtain ⟨_, _, _, _, _, _, _, _, _, _, _, _, h⟩ := dueTo_deadlines ((s.clockAt t).elapse s.dev.now)
  unfold State.dueAt; rw [h]; rfl
@[simp] theorem State.dueAt_deferred (s : State) (t : Nat) : (s.dueAt t).deferred = s.dev.deferred := by
  obtain ⟨_, _, _, _, _, _, _, _, _, _, _, _, h⟩ := dueTo_deadlines ((s.clockAt t).elapse s.dev.now)
  unfold State.dueAt; rw [h]; rfl
@[simp] theorem State.dueAt_ctxOps (s : State) (t : Nat) : (s.dueAt t).ctxOps = s.dev.ctxOps := by
  obtain ⟨_, _, _, _, _, _, _, _, _, _, _, _, h⟩ := dueTo_deadlines ((s.clockAt t).elapse s.dev.now)
  unfold State.dueAt; rw [h]; rfl
@[simp] theorem State.dueAt_frostSaves (s : State) (t : Nat) : (s.dueAt t).frostSaves = s.dev.frostSaves := by
  obtain ⟨_, _, _, _, _, _, _, _, _, _, _, _, h⟩ := dueTo_deadlines ((s.clockAt t).elapse s.dev.now)
  unfold State.dueAt; rw [h]; rfl
@[simp] theorem State.dueAt_poison (s : State) (t : Nat) : (s.dueAt t).poison = s.dev.poison := by
  obtain ⟨_, _, _, _, _, _, _, _, _, _, _, _, h⟩ := dueTo_deadlines ((s.clockAt t).elapse s.dev.now)
  unfold State.dueAt; rw [h]; rfl
@[simp] theorem State.dueAt_badShares (s : State) (t : Nat) : (s.dueAt t).badShares = s.dev.badShares := by
  obtain ⟨_, _, _, _, _, _, _, _, _, _, _, _, h⟩ := dueTo_deadlines ((s.clockAt t).elapse s.dev.now)
  unfold State.dueAt; rw [h]; rfl
@[simp] theorem State.dueAt_goodLines (s : State) (t : Nat) : (s.dueAt t).goodLines = s.dev.goodLines := by
  obtain ⟨_, _, _, _, _, _, _, _, _, _, _, _, h⟩ := dueTo_deadlines ((s.clockAt t).elapse s.dev.now)
  unfold State.dueAt; rw [h]; rfl
@[simp] theorem State.dueAt_tracks (s : State) (t : Nat) : (s.dueAt t).tracks = s.dev.tracks := by
  obtain ⟨_, _, _, _, _, _, _, _, _, _, _, _, h⟩ := dueTo_deadlines ((s.clockAt t).elapse s.dev.now)
  unfold State.dueAt; rw [h]; rfl
@[simp] theorem State.dueAt_drams (s : State) (t : Nat) : (s.dueAt t).drams = s.dev.drams := by
  obtain ⟨_, _, _, _, _, _, _, _, _, _, _, _, h⟩ := dueTo_deadlines ((s.clockAt t).elapse s.dev.now)
  unfold State.dueAt; rw [h]; rfl
@[simp] theorem State.dueAt_routers (s : State) (t : Nat) : (s.dueAt t).routers = s.dev.routers := by
  obtain ⟨_, _, _, _, _, _, _, _, _, _, _, _, h⟩ := dueTo_deadlines ((s.clockAt t).elapse s.dev.now)
  unfold State.dueAt; rw [h]; rfl
@[simp] theorem State.dueAt_merges (s : State) (t : Nat) : (s.dueAt t).merges = s.dev.merges := by
  obtain ⟨_, _, _, _, _, _, _, _, _, _, _, _, h⟩ := dueTo_deadlines ((s.clockAt t).elapse s.dev.now)
  unfold State.dueAt; rw [h]; rfl
@[simp] theorem State.dueAt_netReqs (s : State) (t : Nat) : (s.dueAt t).netReqs = s.dev.netReqs := by
  obtain ⟨_, _, _, _, _, _, _, _, _, _, _, _, h⟩ := dueTo_deadlines ((s.clockAt t).elapse s.dev.now)
  unfold State.dueAt; rw [h]; rfl
@[simp] theorem State.dueAt_learned (s : State) (t : Nat) : (s.dueAt t).learned = s.dev.learned := by
  obtain ⟨_, _, _, _, _, _, _, _, _, _, _, _, h⟩ := dueTo_deadlines ((s.clockAt t).elapse s.dev.now)
  unfold State.dueAt; rw [h]; rfl
@[simp] theorem State.dueAt_regionIndex (s : State) (t : Nat) : (s.dueAt t).regionIndex = s.dev.regionIndex := by
  obtain ⟨_, _, _, _, _, _, _, _, _, _, _, _, h⟩ := dueTo_deadlines ((s.clockAt t).elapse s.dev.now)
  unfold State.dueAt; rw [h]; rfl
@[simp] theorem State.dueAt_trackStack (s : State) (t : Nat) : (s.dueAt t).trackStack = s.dev.trackStack := by
  obtain ⟨_, _, _, _, _, _, _, _, _, _, _, _, h⟩ := dueTo_deadlines ((s.clockAt t).elapse s.dev.now)
  unfold State.dueAt; rw [h]; rfl
@[simp] theorem State.dueAt_placing (s : State) (t : Nat) : (s.dueAt t).placing = s.dev.placing := by
  obtain ⟨_, _, _, _, _, _, _, _, _, _, _, _, h⟩ := dueTo_deadlines ((s.clockAt t).elapse s.dev.now)
  unfold State.dueAt; rw [h]; rfl
@[simp] theorem State.dueAt_geom (s : State) (t : Nat) : (s.dueAt t).geom = s.dev.geom := by
  obtain ⟨_, _, _, _, _, _, _, _, _, _, _, _, h⟩ := dueTo_deadlines ((s.clockAt t).elapse s.dev.now)
  unfold State.dueAt; rw [h]; rfl
@[simp] theorem State.dueAt_fwSelect (s : State) (t : Nat) : (s.dueAt t).fwSelect = s.dev.fwSelect := by
  obtain ⟨_, _, _, _, _, _, _, _, _, _, _, _, h⟩ := dueTo_deadlines ((s.clockAt t).elapse s.dev.now)
  unfold State.dueAt; rw [h]; rfl
@[simp] theorem State.dueAt_cccs (s : State) (t : Nat) : (s.dueAt t).cccs = s.dev.cccs := by
  obtain ⟨_, _, _, _, _, _, _, _, _, _, _, _, h⟩ := dueTo_deadlines ((s.clockAt t).elapse s.dev.now)
  unfold State.dueAt; rw [h]; rfl
@[simp] theorem State.dueAt_ent (s : State) (t : Nat) : (s.dueAt t).ent = s.dev.ent := by
  obtain ⟨_, _, _, _, _, _, _, _, _, _, _, _, h⟩ := dueTo_deadlines ((s.clockAt t).elapse s.dev.now)
  unfold State.dueAt; rw [h]; rfl
@[simp] theorem State.dueAt_flt (s : State) (t : Nat) : (s.dueAt t).flt = s.dev.flt := by
  obtain ⟨_, _, _, _, _, _, _, _, _, _, _, _, h⟩ := dueTo_deadlines ((s.clockAt t).elapse s.dev.now)
  unfold State.dueAt; rw [h]; rfl
@[simp] theorem State.dueAt_smu (s : State) (t : Nat) : (s.dueAt t).smu = s.dev.smu := by
  obtain ⟨_, _, _, _, _, _, _, _, _, _, _, _, h⟩ := dueTo_deadlines ((s.clockAt t).elapse s.dev.now)
  unfold State.dueAt; rw [h]; rfl
@[simp] theorem State.dueAt_occ (s : State) (t : Nat) : (s.dueAt t).occ = s.dev.occ := by
  obtain ⟨_, _, _, _, _, _, _, _, _, _, _, _, h⟩ := dueTo_deadlines ((s.clockAt t).elapse s.dev.now)
  unfold State.dueAt; rw [h]; rfl
@[simp] theorem State.dueAt_hostIf (s : State) (t : Nat) : (s.dueAt t).hostIf = s.dev.hostIf := by
  obtain ⟨_, _, _, _, _, _, _, _, _, _, _, _, h⟩ := dueTo_deadlines ((s.clockAt t).elapse s.dev.now)
  unfold State.dueAt; rw [h]; rfl
@[simp] theorem State.dueAt_ports (s : State) (t : Nat) : (s.dueAt t).ports = s.dev.ports := by
  obtain ⟨_, _, _, _, _, _, _, _, _, _, _, _, h⟩ := dueTo_deadlines ((s.clockAt t).elapse s.dev.now)
  unfold State.dueAt; rw [h]; rfl
@[simp] theorem State.dueAt_boot (s : State) (t : Nat) : (s.dueAt t).boot = s.dev.boot := by
  obtain ⟨_, _, _, _, _, _, _, _, _, _, _, _, h⟩ := dueTo_deadlines ((s.clockAt t).elapse s.dev.now)
  unfold State.dueAt; rw [h]; rfl
@[simp] theorem State.dueAt_pins (s : State) (t : Nat) : (s.dueAt t).pins = s.dev.pins := by
  obtain ⟨_, _, _, _, _, _, _, _, _, _, _, _, h⟩ := dueTo_deadlines ((s.clockAt t).elapse s.dev.now)
  unfold State.dueAt; rw [h]; rfl

@[simp] theorem move_now (d : Dev) (m : ModState) : (d.move m).now = d.now := by unfold Dev.move; dsimp only; split <;> rfl
@[simp] theorem move_reply (d : Dev) (m : ModState) : (d.move m).reply = d.reply := by unfold Dev.move; dsimp only; split <;> rfl
@[simp] theorem move_free (d : Dev) (m : ModState) : (d.move m).free = d.free := by unfold Dev.move; dsimp only; split <;> rfl
@[simp] theorem move_hostMem (d : Dev) (m : ModState) : (d.move m).hostMem = d.hostMem := by unfold Dev.move; dsimp only; split <;> rfl
@[simp] theorem move_devMem (d : Dev) (m : ModState) : (d.move m).devMem = d.devMem := by unfold Dev.move; dsimp only; split <;> rfl
@[simp] theorem move_units (d : Dev) (m : ModState) : (d.move m).units = d.units := by unfold Dev.move; dsimp only; split <;> rfl
@[simp] theorem move_views (d : Dev) (m : ModState) : (d.move m).views = d.views := by unfold Dev.move; dsimp only; split <;> rfl
@[simp] theorem move_rings (d : Dev) (m : ModState) : (d.move m).rings = d.rings := by unfold Dev.move; dsimp only; split <;> rfl
@[simp] theorem move_attnqs (d : Dev) (m : ModState) : (d.move m).attnqs = d.attnqs := by unfold Dev.move; dsimp only; split <;> rfl
@[simp] theorem move_emu (d : Dev) (m : ModState) : (d.move m).emu = d.emu := by unfold Dev.move; dsimp only; split <;> rfl
@[simp] theorem move_emuSeq (d : Dev) (m : ModState) : (d.move m).emuSeq = d.emuSeq := by unfold Dev.move; dsimp only; split <;> rfl
@[simp] theorem move_msix (d : Dev) (m : ModState) : (d.move m).msix = d.msix := by unfold Dev.move; dsimp only; split <;> rfl
@[simp] theorem move_hiLatch (d : Dev) (m : ModState) : (d.move m).hiLatch = d.hiLatch := by unfold Dev.move; dsimp only; split <;> rfl
@[simp] theorem move_time (d : Dev) (m : ModState) : (d.move m).time = d.time := by unfold Dev.move; dsimp only; split <;> rfl
@[simp] theorem move_syncs (d : Dev) (m : ModState) : (d.move m).syncs = d.syncs := by unfold Dev.move; dsimp only; split <;> rfl
@[simp] theorem move_launches (d : Dev) (m : ModState) : (d.move m).launches = d.launches := by unfold Dev.move; dsimp only; split <;> rfl
@[simp] theorem move_lateLaunches (d : Dev) (m : ModState) : (d.move m).lateLaunches = d.lateLaunches := by unfold Dev.move; dsimp only; split <;> rfl
@[simp] theorem move_ctxs (d : Dev) (m : ModState) : (d.move m).ctxs = d.ctxs := by unfold Dev.move; dsimp only; split <;> rfl
@[simp] theorem move_jobs (d : Dev) (m : ModState) : (d.move m).jobs = d.jobs := by unfold Dev.move; dsimp only; split <;> rfl
@[simp] theorem move_nextJob (d : Dev) (m : ModState) : (d.move m).nextJob = d.nextJob := by unfold Dev.move; dsimp only; split <;> rfl
@[simp] theorem move_cores (d : Dev) (m : ModState) : (d.move m).cores = d.cores := by unfold Dev.move; dsimp only; split <;> rfl
@[simp] theorem move_tidies (d : Dev) (m : ModState) : (d.move m).tidies = d.tidies := by unfold Dev.move; dsimp only; split <;> rfl
@[simp] theorem move_groups (d : Dev) (m : ModState) : (d.move m).groups = d.groups := by unfold Dev.move; dsimp only; split <;> rfl
@[simp] theorem move_regions (d : Dev) (m : ModState) : (d.move m).regions = d.regions := by unfold Dev.move; dsimp only; split <;> rfl
@[simp] theorem move_deferred (d : Dev) (m : ModState) : (d.move m).deferred = d.deferred := by unfold Dev.move; dsimp only; split <;> rfl
@[simp] theorem move_ctxOps (d : Dev) (m : ModState) : (d.move m).ctxOps = d.ctxOps := by unfold Dev.move; dsimp only; split <;> rfl
@[simp] theorem move_poison (d : Dev) (m : ModState) : (d.move m).poison = d.poison := by unfold Dev.move; dsimp only; split <;> rfl
@[simp] theorem move_badShares (d : Dev) (m : ModState) : (d.move m).badShares = d.badShares := by unfold Dev.move; dsimp only; split <;> rfl
@[simp] theorem move_goodLines (d : Dev) (m : ModState) : (d.move m).goodLines = d.goodLines := by unfold Dev.move; dsimp only; split <;> rfl
@[simp] theorem move_tracks (d : Dev) (m : ModState) : (d.move m).tracks = d.tracks := by unfold Dev.move; dsimp only; split <;> rfl
@[simp] theorem move_drams (d : Dev) (m : ModState) : (d.move m).drams = d.drams := by unfold Dev.move; dsimp only; split <;> rfl
@[simp] theorem move_routers (d : Dev) (m : ModState) : (d.move m).routers = d.routers := by unfold Dev.move; dsimp only; split <;> rfl
@[simp] theorem move_merges (d : Dev) (m : ModState) : (d.move m).merges = d.merges := by unfold Dev.move; dsimp only; split <;> rfl
@[simp] theorem move_netReqs (d : Dev) (m : ModState) : (d.move m).netReqs = d.netReqs := by unfold Dev.move; dsimp only; split <;> rfl
@[simp] theorem move_learned (d : Dev) (m : ModState) : (d.move m).learned = d.learned := by unfold Dev.move; dsimp only; split <;> rfl
@[simp] theorem move_regionIndex (d : Dev) (m : ModState) : (d.move m).regionIndex = d.regionIndex := by unfold Dev.move; dsimp only; split <;> rfl
@[simp] theorem move_trackStack (d : Dev) (m : ModState) : (d.move m).trackStack = d.trackStack := by unfold Dev.move; dsimp only; split <;> rfl
@[simp] theorem move_placing (d : Dev) (m : ModState) : (d.move m).placing = d.placing := by unfold Dev.move; dsimp only; split <;> rfl
@[simp] theorem move_geom (d : Dev) (m : ModState) : (d.move m).geom = d.geom := by unfold Dev.move; dsimp only; split <;> rfl
@[simp] theorem move_procs (d : Dev) (m : ModState) : (d.move m).procs = d.procs := by unfold Dev.move; dsimp only; split <;> rfl
@[simp] theorem move_fwSelect (d : Dev) (m : ModState) : (d.move m).fwSelect = d.fwSelect := by unfold Dev.move; dsimp only; split <;> rfl
@[simp] theorem move_log (d : Dev) (m : ModState) : (d.move m).log = d.log := by unfold Dev.move; dsimp only; split <;> rfl
@[simp] theorem move_cccs (d : Dev) (m : ModState) : (d.move m).cccs = d.cccs := by unfold Dev.move; dsimp only; split <;> rfl
@[simp] theorem move_lease (d : Dev) (m : ModState) : (d.move m).lease = d.lease := by unfold Dev.move; dsimp only; split <;> rfl
@[simp] theorem move_sec (d : Dev) (m : ModState) : (d.move m).sec = d.sec := by unfold Dev.move; dsimp only; split <;> rfl
@[simp] theorem move_ent (d : Dev) (m : ModState) : (d.move m).ent = d.ent := by unfold Dev.move; dsimp only; split <;> rfl
@[simp] theorem move_flt (d : Dev) (m : ModState) : (d.move m).flt = d.flt := by unfold Dev.move; dsimp only; split <;> rfl
@[simp] theorem move_smu (d : Dev) (m : ModState) : (d.move m).smu = d.smu := by unfold Dev.move; dsimp only; split <;> rfl
@[simp] theorem move_cnts (d : Dev) (m : ModState) : (d.move m).cnts = d.cnts := by unfold Dev.move; dsimp only; split <;> rfl
@[simp] theorem move_occ (d : Dev) (m : ModState) : (d.move m).occ = d.occ := by unfold Dev.move; dsimp only; split <;> rfl
@[simp] theorem move_reader (d : Dev) (m : ModState) : (d.move m).reader = d.reader := by unfold Dev.move; dsimp only; split <;> rfl
@[simp] theorem move_hostIf (d : Dev) (m : ModState) : (d.move m).hostIf = d.hostIf := by unfold Dev.move; dsimp only; split <;> rfl
@[simp] theorem move_ports (d : Dev) (m : ModState) : (d.move m).ports = d.ports := by unfold Dev.move; dsimp only; split <;> rfl
@[simp] theorem move_boot (d : Dev) (m : ModState) : (d.move m).boot = d.boot := by unfold Dev.move; dsimp only; split <;> rfl
@[simp] theorem move_pins (d : Dev) (m : ModState) : (d.move m).pins = d.pins := by unfold Dev.move; dsimp only; split <;> rfl
@[simp] theorem move_frostSaves (d : Dev) (m : ModState) : (d.move m).frostSaves = d.frostSaves := by unfold Dev.move; dsimp only; split <;> rfl
@[simp] theorem State.endsWith_occ (s : State) (t : Nat) (d : Dev) : (s.endsWith t d).dev.occ = [] := rfl
@[simp] theorem move_modState (d : Dev) (m : ModState) : (d.move m).modState = m := rfl
@[simp] theorem move_prevState (d : Dev) (m : ModState) : (d.move m).prevState = d.modState.code := by unfold Dev.move; dsimp only; split <;> rfl
@[simp] theorem move_transitions (d : Dev) (m : ModState) : (d.move m).transitions = (d.transitions + 1) % 2 ^ 16 := by unfold Dev.move; dsimp only; split <;> rfl

@[simp] theorem settle_now (d : Dev) : d.settle.now = d.now := by unfold Dev.settle; split <;> (try split) <;> simp
@[simp] theorem settle_reply (d : Dev) : d.settle.reply = d.reply := by unfold Dev.settle; split <;> (try split) <;> simp
@[simp] theorem settle_free (d : Dev) : d.settle.free = d.free := by unfold Dev.settle; split <;> (try split) <;> simp
@[simp] theorem settle_hostMem (d : Dev) : d.settle.hostMem = d.hostMem := by unfold Dev.settle; split <;> (try split) <;> simp
@[simp] theorem settle_devMem (d : Dev) : d.settle.devMem = d.devMem := by unfold Dev.settle; split <;> (try split) <;> simp
@[simp] theorem settle_units (d : Dev) : d.settle.units = d.units := by unfold Dev.settle; split <;> (try split) <;> simp
@[simp] theorem settle_views (d : Dev) : d.settle.views = d.views := by unfold Dev.settle; split <;> (try split) <;> simp
@[simp] theorem settle_rings (d : Dev) : d.settle.rings = d.rings := by unfold Dev.settle; split <;> (try split) <;> simp
@[simp] theorem settle_attnqs (d : Dev) : d.settle.attnqs = d.attnqs := by unfold Dev.settle; split <;> (try split) <;> simp
@[simp] theorem settle_emu (d : Dev) : d.settle.emu = d.emu := by unfold Dev.settle; split <;> (try split) <;> simp
@[simp] theorem settle_emuSeq (d : Dev) : d.settle.emuSeq = d.emuSeq := by unfold Dev.settle; split <;> (try split) <;> simp
@[simp] theorem settle_msix (d : Dev) : d.settle.msix = d.msix := by unfold Dev.settle; split <;> (try split) <;> simp
@[simp] theorem settle_hiLatch (d : Dev) : d.settle.hiLatch = d.hiLatch := by unfold Dev.settle; split <;> (try split) <;> simp
@[simp] theorem settle_time (d : Dev) : d.settle.time = d.time := by unfold Dev.settle; split <;> (try split) <;> simp
@[simp] theorem settle_syncs (d : Dev) : d.settle.syncs = d.syncs := by unfold Dev.settle; split <;> (try split) <;> simp
@[simp] theorem settle_launches (d : Dev) : d.settle.launches = d.launches := by unfold Dev.settle; split <;> (try split) <;> simp
@[simp] theorem settle_lateLaunches (d : Dev) : d.settle.lateLaunches = d.lateLaunches := by unfold Dev.settle; split <;> (try split) <;> simp
@[simp] theorem settle_ctxs (d : Dev) : d.settle.ctxs = d.ctxs := by unfold Dev.settle; split <;> (try split) <;> simp
@[simp] theorem settle_jobs (d : Dev) : d.settle.jobs = d.jobs := by unfold Dev.settle; split <;> (try split) <;> simp
@[simp] theorem settle_nextJob (d : Dev) : d.settle.nextJob = d.nextJob := by unfold Dev.settle; split <;> (try split) <;> simp
@[simp] theorem settle_cores (d : Dev) : d.settle.cores = d.cores := by unfold Dev.settle; split <;> (try split) <;> simp
@[simp] theorem settle_tidies (d : Dev) : d.settle.tidies = d.tidies := by unfold Dev.settle; split <;> (try split) <;> simp
@[simp] theorem settle_groups (d : Dev) : d.settle.groups = d.groups := by unfold Dev.settle; split <;> (try split) <;> simp
@[simp] theorem settle_regions (d : Dev) : d.settle.regions = d.regions := by unfold Dev.settle; split <;> (try split) <;> simp
@[simp] theorem settle_deferred (d : Dev) : d.settle.deferred = d.deferred := by unfold Dev.settle; split <;> (try split) <;> simp
@[simp] theorem settle_ctxOps (d : Dev) : d.settle.ctxOps = d.ctxOps := by unfold Dev.settle; split <;> (try split) <;> simp
@[simp] theorem settle_poison (d : Dev) : d.settle.poison = d.poison := by unfold Dev.settle; split <;> (try split) <;> simp
@[simp] theorem settle_badShares (d : Dev) : d.settle.badShares = d.badShares := by unfold Dev.settle; split <;> (try split) <;> simp
@[simp] theorem settle_goodLines (d : Dev) : d.settle.goodLines = d.goodLines := by unfold Dev.settle; split <;> (try split) <;> simp
@[simp] theorem settle_tracks (d : Dev) : d.settle.tracks = d.tracks := by unfold Dev.settle; split <;> (try split) <;> simp
@[simp] theorem settle_drams (d : Dev) : d.settle.drams = d.drams := by unfold Dev.settle; split <;> (try split) <;> simp
@[simp] theorem settle_routers (d : Dev) : d.settle.routers = d.routers := by unfold Dev.settle; split <;> (try split) <;> simp
@[simp] theorem settle_merges (d : Dev) : d.settle.merges = d.merges := by unfold Dev.settle; split <;> (try split) <;> simp
@[simp] theorem settle_netReqs (d : Dev) : d.settle.netReqs = d.netReqs := by unfold Dev.settle; split <;> (try split) <;> simp
@[simp] theorem settle_learned (d : Dev) : d.settle.learned = d.learned := by unfold Dev.settle; split <;> (try split) <;> simp
@[simp] theorem settle_regionIndex (d : Dev) : d.settle.regionIndex = d.regionIndex := by unfold Dev.settle; split <;> (try split) <;> simp
@[simp] theorem settle_trackStack (d : Dev) : d.settle.trackStack = d.trackStack := by unfold Dev.settle; split <;> (try split) <;> simp
@[simp] theorem settle_placing (d : Dev) : d.settle.placing = d.placing := by unfold Dev.settle; split <;> (try split) <;> simp
@[simp] theorem settle_geom (d : Dev) : d.settle.geom = d.geom := by unfold Dev.settle; split <;> (try split) <;> simp
@[simp] theorem settle_procs (d : Dev) : d.settle.procs = d.procs := by unfold Dev.settle; split <;> (try split) <;> simp
@[simp] theorem settle_fwSelect (d : Dev) : d.settle.fwSelect = d.fwSelect := by unfold Dev.settle; split <;> (try split) <;> simp
@[simp] theorem settle_log (d : Dev) : d.settle.log = d.log := by unfold Dev.settle; split <;> (try split) <;> simp
@[simp] theorem settle_cccs (d : Dev) : d.settle.cccs = d.cccs := by unfold Dev.settle; split <;> (try split) <;> simp
@[simp] theorem settle_lease (d : Dev) : d.settle.lease = d.lease := by unfold Dev.settle; split <;> (try split) <;> simp
@[simp] theorem settle_sec (d : Dev) : d.settle.sec = d.sec := by unfold Dev.settle; split <;> (try split) <;> simp
@[simp] theorem settle_ent (d : Dev) : d.settle.ent = d.ent := by unfold Dev.settle; split <;> (try split) <;> simp
@[simp] theorem settle_flt (d : Dev) : d.settle.flt = d.flt := by unfold Dev.settle; split <;> (try split) <;> simp
@[simp] theorem settle_smu (d : Dev) : d.settle.smu = d.smu := by unfold Dev.settle; split <;> (try split) <;> simp
@[simp] theorem settle_cnts (d : Dev) : d.settle.cnts = d.cnts := by unfold Dev.settle; split <;> (try split) <;> simp
@[simp] theorem settle_occ (d : Dev) : d.settle.occ = d.occ := by unfold Dev.settle; split <;> (try split) <;> simp
@[simp] theorem settle_reader (d : Dev) : d.settle.reader = d.reader := by unfold Dev.settle; split <;> (try split) <;> simp
@[simp] theorem settle_hostIf (d : Dev) : d.settle.hostIf = d.hostIf := by unfold Dev.settle; split <;> (try split) <;> simp
@[simp] theorem settle_ports (d : Dev) : d.settle.ports = d.ports := by unfold Dev.settle; split <;> (try split) <;> simp
@[simp] theorem settle_boot (d : Dev) : d.settle.boot = d.boot := by unfold Dev.settle; split <;> (try split) <;> simp
@[simp] theorem settle_pins (d : Dev) : d.settle.pins = d.pins := by unfold Dev.settle; split <;> (try split) <;> simp

@[simp] theorem State.endsWith_pending (s : State) (t : Nat) (d : Dev) : (s.endsWith t d).pending = s.pending := rfl
@[simp] theorem State.endsWith_now (s : State) (t : Nat) (d : Dev) : (s.endsWith t d).dev.now = max s.dev.now t := rfl
@[simp] theorem State.endsWith_reply (s : State) (t : Nat) (d : Dev) : (s.endsWith t d).dev.reply = d.reply := settle_reply d
@[simp] theorem State.endsWith_free (s : State) (t : Nat) (d : Dev) : (s.endsWith t d).dev.free = d.free := settle_free d
@[simp] theorem State.endsWith_hostMem (s : State) (t : Nat) (d : Dev) : (s.endsWith t d).dev.hostMem = d.hostMem := settle_hostMem d
@[simp] theorem State.endsWith_devMem (s : State) (t : Nat) (d : Dev) : (s.endsWith t d).dev.devMem = d.devMem := settle_devMem d
@[simp] theorem State.endsWith_units (s : State) (t : Nat) (d : Dev) : (s.endsWith t d).dev.units = d.units := settle_units d
@[simp] theorem State.endsWith_views (s : State) (t : Nat) (d : Dev) : (s.endsWith t d).dev.views = d.views := settle_views d
@[simp] theorem State.endsWith_rings (s : State) (t : Nat) (d : Dev) : (s.endsWith t d).dev.rings = d.rings := settle_rings d
@[simp] theorem State.endsWith_attnqs (s : State) (t : Nat) (d : Dev) : (s.endsWith t d).dev.attnqs = d.attnqs := settle_attnqs d
@[simp] theorem State.endsWith_emu (s : State) (t : Nat) (d : Dev) : (s.endsWith t d).dev.emu = d.emu := settle_emu d
@[simp] theorem State.endsWith_emuSeq (s : State) (t : Nat) (d : Dev) : (s.endsWith t d).dev.emuSeq = d.emuSeq := settle_emuSeq d
@[simp] theorem State.endsWith_msix (s : State) (t : Nat) (d : Dev) : (s.endsWith t d).dev.msix = d.msix := settle_msix d
@[simp] theorem State.endsWith_hiLatch (s : State) (t : Nat) (d : Dev) : (s.endsWith t d).dev.hiLatch = d.hiLatch := settle_hiLatch d
@[simp] theorem State.endsWith_time (s : State) (t : Nat) (d : Dev) : (s.endsWith t d).dev.time = d.time := settle_time d
@[simp] theorem State.endsWith_syncs (s : State) (t : Nat) (d : Dev) : (s.endsWith t d).dev.syncs = d.syncs := settle_syncs d
@[simp] theorem State.endsWith_launches (s : State) (t : Nat) (d : Dev) : (s.endsWith t d).dev.launches = d.launches := settle_launches d
@[simp] theorem State.endsWith_lateLaunches (s : State) (t : Nat) (d : Dev) : (s.endsWith t d).dev.lateLaunches = d.lateLaunches := settle_lateLaunches d
@[simp] theorem State.endsWith_ctxs (s : State) (t : Nat) (d : Dev) : (s.endsWith t d).dev.ctxs = d.ctxs := settle_ctxs d
@[simp] theorem State.endsWith_jobs (s : State) (t : Nat) (d : Dev) : (s.endsWith t d).dev.jobs = d.jobs := settle_jobs d
@[simp] theorem State.endsWith_nextJob (s : State) (t : Nat) (d : Dev) : (s.endsWith t d).dev.nextJob = d.nextJob := settle_nextJob d
@[simp] theorem State.endsWith_cores (s : State) (t : Nat) (d : Dev) : (s.endsWith t d).dev.cores = d.cores := settle_cores d
@[simp] theorem State.endsWith_tidies (s : State) (t : Nat) (d : Dev) : (s.endsWith t d).dev.tidies = d.tidies := settle_tidies d
@[simp] theorem State.endsWith_groups (s : State) (t : Nat) (d : Dev) : (s.endsWith t d).dev.groups = d.groups := settle_groups d
@[simp] theorem State.endsWith_regions (s : State) (t : Nat) (d : Dev) : (s.endsWith t d).dev.regions = d.regions := settle_regions d
@[simp] theorem State.endsWith_deferred (s : State) (t : Nat) (d : Dev) : (s.endsWith t d).dev.deferred = d.deferred := settle_deferred d
@[simp] theorem State.endsWith_ctxOps (s : State) (t : Nat) (d : Dev) : (s.endsWith t d).dev.ctxOps = d.ctxOps := settle_ctxOps d
@[simp] theorem State.endsWith_poison (s : State) (t : Nat) (d : Dev) : (s.endsWith t d).dev.poison = d.poison := settle_poison d
@[simp] theorem State.endsWith_badShares (s : State) (t : Nat) (d : Dev) : (s.endsWith t d).dev.badShares = d.badShares := settle_badShares d
@[simp] theorem State.endsWith_goodLines (s : State) (t : Nat) (d : Dev) : (s.endsWith t d).dev.goodLines = d.goodLines := settle_goodLines d
@[simp] theorem State.endsWith_tracks (s : State) (t : Nat) (d : Dev) : (s.endsWith t d).dev.tracks = d.tracks := settle_tracks d
@[simp] theorem State.endsWith_drams (s : State) (t : Nat) (d : Dev) : (s.endsWith t d).dev.drams = d.drams := settle_drams d
@[simp] theorem State.endsWith_routers (s : State) (t : Nat) (d : Dev) : (s.endsWith t d).dev.routers = d.routers := settle_routers d
@[simp] theorem State.endsWith_merges (s : State) (t : Nat) (d : Dev) : (s.endsWith t d).dev.merges = d.merges := settle_merges d
@[simp] theorem State.endsWith_netReqs (s : State) (t : Nat) (d : Dev) : (s.endsWith t d).dev.netReqs = d.netReqs := settle_netReqs d
@[simp] theorem State.endsWith_learned (s : State) (t : Nat) (d : Dev) : (s.endsWith t d).dev.learned = d.learned := settle_learned d
@[simp] theorem State.endsWith_regionIndex (s : State) (t : Nat) (d : Dev) : (s.endsWith t d).dev.regionIndex = d.regionIndex := settle_regionIndex d
@[simp] theorem State.endsWith_trackStack (s : State) (t : Nat) (d : Dev) : (s.endsWith t d).dev.trackStack = d.trackStack := settle_trackStack d
@[simp] theorem State.endsWith_placing (s : State) (t : Nat) (d : Dev) : (s.endsWith t d).dev.placing = d.placing := settle_placing d
@[simp] theorem State.endsWith_geom (s : State) (t : Nat) (d : Dev) : (s.endsWith t d).dev.geom = d.geom := settle_geom d
@[simp] theorem State.endsWith_procs (s : State) (t : Nat) (d : Dev) : (s.endsWith t d).dev.procs = d.procs := settle_procs d
@[simp] theorem State.endsWith_fwSelect (s : State) (t : Nat) (d : Dev) : (s.endsWith t d).dev.fwSelect = d.fwSelect := settle_fwSelect d
@[simp] theorem State.endsWith_log (s : State) (t : Nat) (d : Dev) : (s.endsWith t d).dev.log = d.log := settle_log d
@[simp] theorem State.endsWith_cccs (s : State) (t : Nat) (d : Dev) : (s.endsWith t d).dev.cccs = d.cccs := settle_cccs d
@[simp] theorem State.endsWith_lease (s : State) (t : Nat) (d : Dev) : (s.endsWith t d).dev.lease = d.lease := settle_lease d
@[simp] theorem State.endsWith_sec (s : State) (t : Nat) (d : Dev) : (s.endsWith t d).dev.sec = d.sec := settle_sec d
@[simp] theorem State.endsWith_ent (s : State) (t : Nat) (d : Dev) : (s.endsWith t d).dev.ent = d.ent := settle_ent d
@[simp] theorem State.endsWith_flt (s : State) (t : Nat) (d : Dev) : (s.endsWith t d).dev.flt = d.flt := settle_flt d
@[simp] theorem State.endsWith_smu (s : State) (t : Nat) (d : Dev) : (s.endsWith t d).dev.smu = d.smu := settle_smu d
@[simp] theorem State.endsWith_hostIf (s : State) (t : Nat) (d : Dev) : (s.endsWith t d).dev.hostIf = d.hostIf := settle_hostIf d
@[simp] theorem State.endsWith_ports (s : State) (t : Nat) (d : Dev) : (s.endsWith t d).dev.ports = d.ports := settle_ports d
@[simp] theorem State.endsWith_boot (s : State) (t : Nat) (d : Dev) : (s.endsWith t d).dev.boot = d.boot := settle_boot d
@[simp] theorem State.endsWith_pins (s : State) (t : Nat) (d : Dev) : (s.endsWith t d).dev.pins = d.pins := settle_pins d

@[simp] theorem updJob_now (d : Dev) (n : Nat) (f : Job → Job) : (d.updJob n f).now = d.now := by unfold Dev.updJob; split <;> rfl
@[simp] theorem updJob_reply (d : Dev) (n : Nat) (f : Job → Job) : (d.updJob n f).reply = d.reply := by unfold Dev.updJob; split <;> rfl
@[simp] theorem updJob_free (d : Dev) (n : Nat) (f : Job → Job) : (d.updJob n f).free = d.free := by unfold Dev.updJob; split <;> rfl
@[simp] theorem updJob_hostMem (d : Dev) (n : Nat) (f : Job → Job) : (d.updJob n f).hostMem = d.hostMem := by unfold Dev.updJob; split <;> rfl
@[simp] theorem updJob_devMem (d : Dev) (n : Nat) (f : Job → Job) : (d.updJob n f).devMem = d.devMem := by unfold Dev.updJob; split <;> rfl
@[simp] theorem updJob_modState (d : Dev) (n : Nat) (f : Job → Job) : (d.updJob n f).modState = d.modState := by unfold Dev.updJob; split <;> rfl
@[simp] theorem updJob_prevState (d : Dev) (n : Nat) (f : Job → Job) : (d.updJob n f).prevState = d.prevState := by unfold Dev.updJob; split <;> rfl
@[simp] theorem updJob_transitions (d : Dev) (n : Nat) (f : Job → Job) : (d.updJob n f).transitions = d.transitions := by unfold Dev.updJob; split <;> rfl
@[simp] theorem updJob_units (d : Dev) (n : Nat) (f : Job → Job) : (d.updJob n f).units = d.units := by unfold Dev.updJob; split <;> rfl
@[simp] theorem updJob_views (d : Dev) (n : Nat) (f : Job → Job) : (d.updJob n f).views = d.views := by unfold Dev.updJob; split <;> rfl
@[simp] theorem updJob_rings (d : Dev) (n : Nat) (f : Job → Job) : (d.updJob n f).rings = d.rings := by unfold Dev.updJob; split <;> rfl
@[simp] theorem updJob_attnqs (d : Dev) (n : Nat) (f : Job → Job) : (d.updJob n f).attnqs = d.attnqs := by unfold Dev.updJob; split <;> rfl
@[simp] theorem updJob_emu (d : Dev) (n : Nat) (f : Job → Job) : (d.updJob n f).emu = d.emu := by unfold Dev.updJob; split <;> rfl
@[simp] theorem updJob_emuSeq (d : Dev) (n : Nat) (f : Job → Job) : (d.updJob n f).emuSeq = d.emuSeq := by unfold Dev.updJob; split <;> rfl
@[simp] theorem updJob_msix (d : Dev) (n : Nat) (f : Job → Job) : (d.updJob n f).msix = d.msix := by unfold Dev.updJob; split <;> rfl
@[simp] theorem updJob_hiLatch (d : Dev) (n : Nat) (f : Job → Job) : (d.updJob n f).hiLatch = d.hiLatch := by unfold Dev.updJob; split <;> rfl
@[simp] theorem updJob_time (d : Dev) (n : Nat) (f : Job → Job) : (d.updJob n f).time = d.time := by unfold Dev.updJob; split <;> rfl
@[simp] theorem updJob_syncs (d : Dev) (n : Nat) (f : Job → Job) : (d.updJob n f).syncs = d.syncs := by unfold Dev.updJob; split <;> rfl
@[simp] theorem updJob_launches (d : Dev) (n : Nat) (f : Job → Job) : (d.updJob n f).launches = d.launches := by unfold Dev.updJob; split <;> rfl
@[simp] theorem updJob_lateLaunches (d : Dev) (n : Nat) (f : Job → Job) : (d.updJob n f).lateLaunches = d.lateLaunches := by unfold Dev.updJob; split <;> rfl
@[simp] theorem updJob_ctxs (d : Dev) (n : Nat) (f : Job → Job) : (d.updJob n f).ctxs = d.ctxs := by unfold Dev.updJob; split <;> rfl
@[simp] theorem updJob_nextJob (d : Dev) (n : Nat) (f : Job → Job) : (d.updJob n f).nextJob = d.nextJob := by unfold Dev.updJob; split <;> rfl
@[simp] theorem updJob_cores (d : Dev) (n : Nat) (f : Job → Job) : (d.updJob n f).cores = d.cores := by unfold Dev.updJob; split <;> rfl
@[simp] theorem updJob_tidies (d : Dev) (n : Nat) (f : Job → Job) : (d.updJob n f).tidies = d.tidies := by unfold Dev.updJob; split <;> rfl
@[simp] theorem updJob_groups (d : Dev) (n : Nat) (f : Job → Job) : (d.updJob n f).groups = d.groups := by unfold Dev.updJob; split <;> rfl
@[simp] theorem updJob_regions (d : Dev) (n : Nat) (f : Job → Job) : (d.updJob n f).regions = d.regions := by unfold Dev.updJob; split <;> rfl
@[simp] theorem updJob_deferred (d : Dev) (n : Nat) (f : Job → Job) : (d.updJob n f).deferred = d.deferred := by unfold Dev.updJob; split <;> rfl
@[simp] theorem updJob_ctxOps (d : Dev) (n : Nat) (f : Job → Job) : (d.updJob n f).ctxOps = d.ctxOps := by unfold Dev.updJob; split <;> rfl
@[simp] theorem updJob_frostSaves (d : Dev) (n : Nat) (f : Job → Job) : (d.updJob n f).frostSaves = d.frostSaves := by unfold Dev.updJob; split <;> rfl
@[simp] theorem updJob_poison (d : Dev) (n : Nat) (f : Job → Job) : (d.updJob n f).poison = d.poison := by unfold Dev.updJob; split <;> rfl
@[simp] theorem updJob_badShares (d : Dev) (n : Nat) (f : Job → Job) : (d.updJob n f).badShares = d.badShares := by unfold Dev.updJob; split <;> rfl
@[simp] theorem updJob_goodLines (d : Dev) (n : Nat) (f : Job → Job) : (d.updJob n f).goodLines = d.goodLines := by unfold Dev.updJob; split <;> rfl
@[simp] theorem updJob_tracks (d : Dev) (n : Nat) (f : Job → Job) : (d.updJob n f).tracks = d.tracks := by unfold Dev.updJob; split <;> rfl
@[simp] theorem updJob_drams (d : Dev) (n : Nat) (f : Job → Job) : (d.updJob n f).drams = d.drams := by unfold Dev.updJob; split <;> rfl
@[simp] theorem updJob_routers (d : Dev) (n : Nat) (f : Job → Job) : (d.updJob n f).routers = d.routers := by unfold Dev.updJob; split <;> rfl
@[simp] theorem updJob_merges (d : Dev) (n : Nat) (f : Job → Job) : (d.updJob n f).merges = d.merges := by unfold Dev.updJob; split <;> rfl
@[simp] theorem updJob_netReqs (d : Dev) (n : Nat) (f : Job → Job) : (d.updJob n f).netReqs = d.netReqs := by unfold Dev.updJob; split <;> rfl
@[simp] theorem updJob_learned (d : Dev) (n : Nat) (f : Job → Job) : (d.updJob n f).learned = d.learned := by unfold Dev.updJob; split <;> rfl
@[simp] theorem updJob_regionIndex (d : Dev) (n : Nat) (f : Job → Job) : (d.updJob n f).regionIndex = d.regionIndex := by unfold Dev.updJob; split <;> rfl
@[simp] theorem updJob_trackStack (d : Dev) (n : Nat) (f : Job → Job) : (d.updJob n f).trackStack = d.trackStack := by unfold Dev.updJob; split <;> rfl
@[simp] theorem updJob_placing (d : Dev) (n : Nat) (f : Job → Job) : (d.updJob n f).placing = d.placing := by unfold Dev.updJob; split <;> rfl
@[simp] theorem updJob_geom (d : Dev) (n : Nat) (f : Job → Job) : (d.updJob n f).geom = d.geom := by unfold Dev.updJob; split <;> rfl
@[simp] theorem updJob_procs (d : Dev) (n : Nat) (f : Job → Job) : (d.updJob n f).procs = d.procs := by unfold Dev.updJob; split <;> rfl
@[simp] theorem updJob_fwSelect (d : Dev) (n : Nat) (f : Job → Job) : (d.updJob n f).fwSelect = d.fwSelect := by unfold Dev.updJob; split <;> rfl
@[simp] theorem updJob_log (d : Dev) (n : Nat) (f : Job → Job) : (d.updJob n f).log = d.log := by unfold Dev.updJob; split <;> rfl
@[simp] theorem updJob_cccs (d : Dev) (n : Nat) (f : Job → Job) : (d.updJob n f).cccs = d.cccs := by unfold Dev.updJob; split <;> rfl
@[simp] theorem updJob_lease (d : Dev) (n : Nat) (f : Job → Job) : (d.updJob n f).lease = d.lease := by unfold Dev.updJob; split <;> rfl
@[simp] theorem updJob_sec (d : Dev) (n : Nat) (f : Job → Job) : (d.updJob n f).sec = d.sec := by unfold Dev.updJob; split <;> rfl
@[simp] theorem updJob_ent (d : Dev) (n : Nat) (f : Job → Job) : (d.updJob n f).ent = d.ent := by unfold Dev.updJob; split <;> rfl
@[simp] theorem updJob_flt (d : Dev) (n : Nat) (f : Job → Job) : (d.updJob n f).flt = d.flt := by unfold Dev.updJob; split <;> rfl
@[simp] theorem updJob_pwr (d : Dev) (n : Nat) (f : Job → Job) : (d.updJob n f).pwr = d.pwr := by unfold Dev.updJob; split <;> rfl
@[simp] theorem updJob_smu (d : Dev) (n : Nat) (f : Job → Job) : (d.updJob n f).smu = d.smu := by unfold Dev.updJob; split <;> rfl
@[simp] theorem updJob_cnts (d : Dev) (n : Nat) (f : Job → Job) : (d.updJob n f).cnts = d.cnts := by unfold Dev.updJob; split <;> rfl
@[simp] theorem updJob_occ (d : Dev) (n : Nat) (f : Job → Job) : (d.updJob n f).occ = d.occ := by unfold Dev.updJob; split <;> rfl
@[simp] theorem updJob_reader (d : Dev) (n : Nat) (f : Job → Job) : (d.updJob n f).reader = d.reader := by unfold Dev.updJob; split <;> rfl
@[simp] theorem updJob_hostIf (d : Dev) (n : Nat) (f : Job → Job) : (d.updJob n f).hostIf = d.hostIf := by unfold Dev.updJob; split <;> rfl
@[simp] theorem updJob_ports (d : Dev) (n : Nat) (f : Job → Job) : (d.updJob n f).ports = d.ports := by unfold Dev.updJob; split <;> rfl
@[simp] theorem updJob_boot (d : Dev) (n : Nat) (f : Job → Job) : (d.updJob n f).boot = d.boot := by unfold Dev.updJob; split <;> rfl
@[simp] theorem updJob_pins (d : Dev) (n : Nat) (f : Job → Job) : (d.updJob n f).pins = d.pins := by unfold Dev.updJob; split <;> rfl

@[simp] theorem updCtx_now (d : Dev) (n : Nat) (f : Ctx → Ctx) : (d.updCtx n f).now = d.now := rfl
@[simp] theorem updCtx_reply (d : Dev) (n : Nat) (f : Ctx → Ctx) : (d.updCtx n f).reply = d.reply := rfl
@[simp] theorem updCtx_free (d : Dev) (n : Nat) (f : Ctx → Ctx) : (d.updCtx n f).free = d.free := rfl
@[simp] theorem updCtx_hostMem (d : Dev) (n : Nat) (f : Ctx → Ctx) : (d.updCtx n f).hostMem = d.hostMem := rfl
@[simp] theorem updCtx_devMem (d : Dev) (n : Nat) (f : Ctx → Ctx) : (d.updCtx n f).devMem = d.devMem := rfl
@[simp] theorem updCtx_modState (d : Dev) (n : Nat) (f : Ctx → Ctx) : (d.updCtx n f).modState = d.modState := rfl
@[simp] theorem updCtx_prevState (d : Dev) (n : Nat) (f : Ctx → Ctx) : (d.updCtx n f).prevState = d.prevState := rfl
@[simp] theorem updCtx_transitions (d : Dev) (n : Nat) (f : Ctx → Ctx) : (d.updCtx n f).transitions = d.transitions := rfl
@[simp] theorem updCtx_units (d : Dev) (n : Nat) (f : Ctx → Ctx) : (d.updCtx n f).units = d.units := rfl
@[simp] theorem updCtx_views (d : Dev) (n : Nat) (f : Ctx → Ctx) : (d.updCtx n f).views = d.views := rfl
@[simp] theorem updCtx_rings (d : Dev) (n : Nat) (f : Ctx → Ctx) : (d.updCtx n f).rings = d.rings := rfl
@[simp] theorem updCtx_attnqs (d : Dev) (n : Nat) (f : Ctx → Ctx) : (d.updCtx n f).attnqs = d.attnqs := rfl
@[simp] theorem updCtx_emu (d : Dev) (n : Nat) (f : Ctx → Ctx) : (d.updCtx n f).emu = d.emu := rfl
@[simp] theorem updCtx_emuSeq (d : Dev) (n : Nat) (f : Ctx → Ctx) : (d.updCtx n f).emuSeq = d.emuSeq := rfl
@[simp] theorem updCtx_msix (d : Dev) (n : Nat) (f : Ctx → Ctx) : (d.updCtx n f).msix = d.msix := rfl
@[simp] theorem updCtx_hiLatch (d : Dev) (n : Nat) (f : Ctx → Ctx) : (d.updCtx n f).hiLatch = d.hiLatch := rfl
@[simp] theorem updCtx_time (d : Dev) (n : Nat) (f : Ctx → Ctx) : (d.updCtx n f).time = d.time := rfl
@[simp] theorem updCtx_syncs (d : Dev) (n : Nat) (f : Ctx → Ctx) : (d.updCtx n f).syncs = d.syncs := rfl
@[simp] theorem updCtx_launches (d : Dev) (n : Nat) (f : Ctx → Ctx) : (d.updCtx n f).launches = d.launches := rfl
@[simp] theorem updCtx_lateLaunches (d : Dev) (n : Nat) (f : Ctx → Ctx) : (d.updCtx n f).lateLaunches = d.lateLaunches := rfl
@[simp] theorem updCtx_jobs (d : Dev) (n : Nat) (f : Ctx → Ctx) : (d.updCtx n f).jobs = d.jobs := rfl
@[simp] theorem updCtx_nextJob (d : Dev) (n : Nat) (f : Ctx → Ctx) : (d.updCtx n f).nextJob = d.nextJob := rfl
@[simp] theorem updCtx_cores (d : Dev) (n : Nat) (f : Ctx → Ctx) : (d.updCtx n f).cores = d.cores := rfl
@[simp] theorem updCtx_tidies (d : Dev) (n : Nat) (f : Ctx → Ctx) : (d.updCtx n f).tidies = d.tidies := rfl
@[simp] theorem updCtx_groups (d : Dev) (n : Nat) (f : Ctx → Ctx) : (d.updCtx n f).groups = d.groups := rfl
@[simp] theorem updCtx_regions (d : Dev) (n : Nat) (f : Ctx → Ctx) : (d.updCtx n f).regions = d.regions := rfl
@[simp] theorem updCtx_deferred (d : Dev) (n : Nat) (f : Ctx → Ctx) : (d.updCtx n f).deferred = d.deferred := rfl
@[simp] theorem updCtx_ctxOps (d : Dev) (n : Nat) (f : Ctx → Ctx) : (d.updCtx n f).ctxOps = d.ctxOps := rfl
@[simp] theorem updCtx_frostSaves (d : Dev) (n : Nat) (f : Ctx → Ctx) : (d.updCtx n f).frostSaves = d.frostSaves := rfl
@[simp] theorem updCtx_poison (d : Dev) (n : Nat) (f : Ctx → Ctx) : (d.updCtx n f).poison = d.poison := rfl
@[simp] theorem updCtx_badShares (d : Dev) (n : Nat) (f : Ctx → Ctx) : (d.updCtx n f).badShares = d.badShares := rfl
@[simp] theorem updCtx_goodLines (d : Dev) (n : Nat) (f : Ctx → Ctx) : (d.updCtx n f).goodLines = d.goodLines := rfl
@[simp] theorem updCtx_tracks (d : Dev) (n : Nat) (f : Ctx → Ctx) : (d.updCtx n f).tracks = d.tracks := rfl
@[simp] theorem updCtx_drams (d : Dev) (n : Nat) (f : Ctx → Ctx) : (d.updCtx n f).drams = d.drams := rfl
@[simp] theorem updCtx_routers (d : Dev) (n : Nat) (f : Ctx → Ctx) : (d.updCtx n f).routers = d.routers := rfl
@[simp] theorem updCtx_merges (d : Dev) (n : Nat) (f : Ctx → Ctx) : (d.updCtx n f).merges = d.merges := rfl
@[simp] theorem updCtx_netReqs (d : Dev) (n : Nat) (f : Ctx → Ctx) : (d.updCtx n f).netReqs = d.netReqs := rfl
@[simp] theorem updCtx_learned (d : Dev) (n : Nat) (f : Ctx → Ctx) : (d.updCtx n f).learned = d.learned := rfl
@[simp] theorem updCtx_regionIndex (d : Dev) (n : Nat) (f : Ctx → Ctx) : (d.updCtx n f).regionIndex = d.regionIndex := rfl
@[simp] theorem updCtx_trackStack (d : Dev) (n : Nat) (f : Ctx → Ctx) : (d.updCtx n f).trackStack = d.trackStack := rfl
@[simp] theorem updCtx_placing (d : Dev) (n : Nat) (f : Ctx → Ctx) : (d.updCtx n f).placing = d.placing := rfl
@[simp] theorem updCtx_geom (d : Dev) (n : Nat) (f : Ctx → Ctx) : (d.updCtx n f).geom = d.geom := rfl
@[simp] theorem updCtx_procs (d : Dev) (n : Nat) (f : Ctx → Ctx) : (d.updCtx n f).procs = d.procs := rfl
@[simp] theorem updCtx_fwSelect (d : Dev) (n : Nat) (f : Ctx → Ctx) : (d.updCtx n f).fwSelect = d.fwSelect := rfl
@[simp] theorem updCtx_log (d : Dev) (n : Nat) (f : Ctx → Ctx) : (d.updCtx n f).log = d.log := rfl
@[simp] theorem updCtx_cccs (d : Dev) (n : Nat) (f : Ctx → Ctx) : (d.updCtx n f).cccs = d.cccs := rfl
@[simp] theorem updCtx_lease (d : Dev) (n : Nat) (f : Ctx → Ctx) : (d.updCtx n f).lease = d.lease := rfl
@[simp] theorem updCtx_sec (d : Dev) (n : Nat) (f : Ctx → Ctx) : (d.updCtx n f).sec = d.sec := rfl
@[simp] theorem updCtx_ent (d : Dev) (n : Nat) (f : Ctx → Ctx) : (d.updCtx n f).ent = d.ent := rfl
@[simp] theorem updCtx_flt (d : Dev) (n : Nat) (f : Ctx → Ctx) : (d.updCtx n f).flt = d.flt := rfl
@[simp] theorem updCtx_pwr (d : Dev) (n : Nat) (f : Ctx → Ctx) : (d.updCtx n f).pwr = d.pwr := rfl
@[simp] theorem updCtx_smu (d : Dev) (n : Nat) (f : Ctx → Ctx) : (d.updCtx n f).smu = d.smu := rfl
@[simp] theorem updCtx_cnts (d : Dev) (n : Nat) (f : Ctx → Ctx) : (d.updCtx n f).cnts = d.cnts := rfl
@[simp] theorem updCtx_occ (d : Dev) (n : Nat) (f : Ctx → Ctx) : (d.updCtx n f).occ = d.occ := rfl
@[simp] theorem updCtx_reader (d : Dev) (n : Nat) (f : Ctx → Ctx) : (d.updCtx n f).reader = d.reader := rfl
@[simp] theorem updCtx_hostIf (d : Dev) (n : Nat) (f : Ctx → Ctx) : (d.updCtx n f).hostIf = d.hostIf := rfl
@[simp] theorem updCtx_ports (d : Dev) (n : Nat) (f : Ctx → Ctx) : (d.updCtx n f).ports = d.ports := rfl
@[simp] theorem updCtx_boot (d : Dev) (n : Nat) (f : Ctx → Ctx) : (d.updCtx n f).boot = d.boot := rfl
@[simp] theorem updCtx_pins (d : Dev) (n : Nat) (f : Ctx → Ctx) : (d.updCtx n f).pins = d.pins := rfl

@[simp] theorem updCore_now (d : Dev) (n : Nat) (f : Core → Core) : (d.updCore n f).now = d.now := rfl
@[simp] theorem updCore_reply (d : Dev) (n : Nat) (f : Core → Core) : (d.updCore n f).reply = d.reply := rfl
@[simp] theorem updCore_free (d : Dev) (n : Nat) (f : Core → Core) : (d.updCore n f).free = d.free := rfl
@[simp] theorem updCore_hostMem (d : Dev) (n : Nat) (f : Core → Core) : (d.updCore n f).hostMem = d.hostMem := rfl
@[simp] theorem updCore_devMem (d : Dev) (n : Nat) (f : Core → Core) : (d.updCore n f).devMem = d.devMem := rfl
@[simp] theorem updCore_modState (d : Dev) (n : Nat) (f : Core → Core) : (d.updCore n f).modState = d.modState := rfl
@[simp] theorem updCore_prevState (d : Dev) (n : Nat) (f : Core → Core) : (d.updCore n f).prevState = d.prevState := rfl
@[simp] theorem updCore_transitions (d : Dev) (n : Nat) (f : Core → Core) : (d.updCore n f).transitions = d.transitions := rfl
@[simp] theorem updCore_units (d : Dev) (n : Nat) (f : Core → Core) : (d.updCore n f).units = d.units := rfl
@[simp] theorem updCore_views (d : Dev) (n : Nat) (f : Core → Core) : (d.updCore n f).views = d.views := rfl
@[simp] theorem updCore_rings (d : Dev) (n : Nat) (f : Core → Core) : (d.updCore n f).rings = d.rings := rfl
@[simp] theorem updCore_attnqs (d : Dev) (n : Nat) (f : Core → Core) : (d.updCore n f).attnqs = d.attnqs := rfl
@[simp] theorem updCore_emu (d : Dev) (n : Nat) (f : Core → Core) : (d.updCore n f).emu = d.emu := rfl
@[simp] theorem updCore_emuSeq (d : Dev) (n : Nat) (f : Core → Core) : (d.updCore n f).emuSeq = d.emuSeq := rfl
@[simp] theorem updCore_msix (d : Dev) (n : Nat) (f : Core → Core) : (d.updCore n f).msix = d.msix := rfl
@[simp] theorem updCore_hiLatch (d : Dev) (n : Nat) (f : Core → Core) : (d.updCore n f).hiLatch = d.hiLatch := rfl
@[simp] theorem updCore_time (d : Dev) (n : Nat) (f : Core → Core) : (d.updCore n f).time = d.time := rfl
@[simp] theorem updCore_syncs (d : Dev) (n : Nat) (f : Core → Core) : (d.updCore n f).syncs = d.syncs := rfl
@[simp] theorem updCore_launches (d : Dev) (n : Nat) (f : Core → Core) : (d.updCore n f).launches = d.launches := rfl
@[simp] theorem updCore_lateLaunches (d : Dev) (n : Nat) (f : Core → Core) : (d.updCore n f).lateLaunches = d.lateLaunches := rfl
@[simp] theorem updCore_ctxs (d : Dev) (n : Nat) (f : Core → Core) : (d.updCore n f).ctxs = d.ctxs := rfl
@[simp] theorem updCore_jobs (d : Dev) (n : Nat) (f : Core → Core) : (d.updCore n f).jobs = d.jobs := rfl
@[simp] theorem updCore_nextJob (d : Dev) (n : Nat) (f : Core → Core) : (d.updCore n f).nextJob = d.nextJob := rfl
@[simp] theorem updCore_tidies (d : Dev) (n : Nat) (f : Core → Core) : (d.updCore n f).tidies = d.tidies := rfl
@[simp] theorem updCore_groups (d : Dev) (n : Nat) (f : Core → Core) : (d.updCore n f).groups = d.groups := rfl
@[simp] theorem updCore_regions (d : Dev) (n : Nat) (f : Core → Core) : (d.updCore n f).regions = d.regions := rfl
@[simp] theorem updCore_deferred (d : Dev) (n : Nat) (f : Core → Core) : (d.updCore n f).deferred = d.deferred := rfl
@[simp] theorem updCore_ctxOps (d : Dev) (n : Nat) (f : Core → Core) : (d.updCore n f).ctxOps = d.ctxOps := rfl
@[simp] theorem updCore_frostSaves (d : Dev) (n : Nat) (f : Core → Core) : (d.updCore n f).frostSaves = d.frostSaves := rfl
@[simp] theorem updCore_poison (d : Dev) (n : Nat) (f : Core → Core) : (d.updCore n f).poison = d.poison := rfl
@[simp] theorem updCore_badShares (d : Dev) (n : Nat) (f : Core → Core) : (d.updCore n f).badShares = d.badShares := rfl
@[simp] theorem updCore_goodLines (d : Dev) (n : Nat) (f : Core → Core) : (d.updCore n f).goodLines = d.goodLines := rfl
@[simp] theorem updCore_tracks (d : Dev) (n : Nat) (f : Core → Core) : (d.updCore n f).tracks = d.tracks := rfl
@[simp] theorem updCore_drams (d : Dev) (n : Nat) (f : Core → Core) : (d.updCore n f).drams = d.drams := rfl
@[simp] theorem updCore_routers (d : Dev) (n : Nat) (f : Core → Core) : (d.updCore n f).routers = d.routers := rfl
@[simp] theorem updCore_merges (d : Dev) (n : Nat) (f : Core → Core) : (d.updCore n f).merges = d.merges := rfl
@[simp] theorem updCore_netReqs (d : Dev) (n : Nat) (f : Core → Core) : (d.updCore n f).netReqs = d.netReqs := rfl
@[simp] theorem updCore_learned (d : Dev) (n : Nat) (f : Core → Core) : (d.updCore n f).learned = d.learned := rfl
@[simp] theorem updCore_regionIndex (d : Dev) (n : Nat) (f : Core → Core) : (d.updCore n f).regionIndex = d.regionIndex := rfl
@[simp] theorem updCore_trackStack (d : Dev) (n : Nat) (f : Core → Core) : (d.updCore n f).trackStack = d.trackStack := rfl
@[simp] theorem updCore_placing (d : Dev) (n : Nat) (f : Core → Core) : (d.updCore n f).placing = d.placing := rfl
@[simp] theorem updCore_geom (d : Dev) (n : Nat) (f : Core → Core) : (d.updCore n f).geom = d.geom := rfl
@[simp] theorem updCore_procs (d : Dev) (n : Nat) (f : Core → Core) : (d.updCore n f).procs = d.procs := rfl
@[simp] theorem updCore_fwSelect (d : Dev) (n : Nat) (f : Core → Core) : (d.updCore n f).fwSelect = d.fwSelect := rfl
@[simp] theorem updCore_log (d : Dev) (n : Nat) (f : Core → Core) : (d.updCore n f).log = d.log := rfl
@[simp] theorem updCore_cccs (d : Dev) (n : Nat) (f : Core → Core) : (d.updCore n f).cccs = d.cccs := rfl
@[simp] theorem updCore_lease (d : Dev) (n : Nat) (f : Core → Core) : (d.updCore n f).lease = d.lease := rfl
@[simp] theorem updCore_sec (d : Dev) (n : Nat) (f : Core → Core) : (d.updCore n f).sec = d.sec := rfl
@[simp] theorem updCore_ent (d : Dev) (n : Nat) (f : Core → Core) : (d.updCore n f).ent = d.ent := rfl
@[simp] theorem updCore_flt (d : Dev) (n : Nat) (f : Core → Core) : (d.updCore n f).flt = d.flt := rfl
@[simp] theorem updCore_pwr (d : Dev) (n : Nat) (f : Core → Core) : (d.updCore n f).pwr = d.pwr := rfl
@[simp] theorem updCore_smu (d : Dev) (n : Nat) (f : Core → Core) : (d.updCore n f).smu = d.smu := rfl
@[simp] theorem updCore_cnts (d : Dev) (n : Nat) (f : Core → Core) : (d.updCore n f).cnts = d.cnts := rfl
@[simp] theorem updCore_occ (d : Dev) (n : Nat) (f : Core → Core) : (d.updCore n f).occ = d.occ := rfl
@[simp] theorem updCore_reader (d : Dev) (n : Nat) (f : Core → Core) : (d.updCore n f).reader = d.reader := rfl
@[simp] theorem updCore_hostIf (d : Dev) (n : Nat) (f : Core → Core) : (d.updCore n f).hostIf = d.hostIf := rfl
@[simp] theorem updCore_ports (d : Dev) (n : Nat) (f : Core → Core) : (d.updCore n f).ports = d.ports := rfl
@[simp] theorem updCore_boot (d : Dev) (n : Nat) (f : Core → Core) : (d.updCore n f).boot = d.boot := rfl
@[simp] theorem updCore_pins (d : Dev) (n : Nat) (f : Core → Core) : (d.updCore n f).pins = d.pins := rfl

@[simp] theorem updTidy_now (d : Dev) (n : Nat) (f : Tidy → Tidy) : (d.updTidy n f).now = d.now := rfl
@[simp] theorem updTidy_reply (d : Dev) (n : Nat) (f : Tidy → Tidy) : (d.updTidy n f).reply = d.reply := rfl
@[simp] theorem updTidy_free (d : Dev) (n : Nat) (f : Tidy → Tidy) : (d.updTidy n f).free = d.free := rfl
@[simp] theorem updTidy_hostMem (d : Dev) (n : Nat) (f : Tidy → Tidy) : (d.updTidy n f).hostMem = d.hostMem := rfl
@[simp] theorem updTidy_devMem (d : Dev) (n : Nat) (f : Tidy → Tidy) : (d.updTidy n f).devMem = d.devMem := rfl
@[simp] theorem updTidy_modState (d : Dev) (n : Nat) (f : Tidy → Tidy) : (d.updTidy n f).modState = d.modState := rfl
@[simp] theorem updTidy_prevState (d : Dev) (n : Nat) (f : Tidy → Tidy) : (d.updTidy n f).prevState = d.prevState := rfl
@[simp] theorem updTidy_transitions (d : Dev) (n : Nat) (f : Tidy → Tidy) : (d.updTidy n f).transitions = d.transitions := rfl
@[simp] theorem updTidy_units (d : Dev) (n : Nat) (f : Tidy → Tidy) : (d.updTidy n f).units = d.units := rfl
@[simp] theorem updTidy_views (d : Dev) (n : Nat) (f : Tidy → Tidy) : (d.updTidy n f).views = d.views := rfl
@[simp] theorem updTidy_rings (d : Dev) (n : Nat) (f : Tidy → Tidy) : (d.updTidy n f).rings = d.rings := rfl
@[simp] theorem updTidy_attnqs (d : Dev) (n : Nat) (f : Tidy → Tidy) : (d.updTidy n f).attnqs = d.attnqs := rfl
@[simp] theorem updTidy_emu (d : Dev) (n : Nat) (f : Tidy → Tidy) : (d.updTidy n f).emu = d.emu := rfl
@[simp] theorem updTidy_emuSeq (d : Dev) (n : Nat) (f : Tidy → Tidy) : (d.updTidy n f).emuSeq = d.emuSeq := rfl
@[simp] theorem updTidy_msix (d : Dev) (n : Nat) (f : Tidy → Tidy) : (d.updTidy n f).msix = d.msix := rfl
@[simp] theorem updTidy_hiLatch (d : Dev) (n : Nat) (f : Tidy → Tidy) : (d.updTidy n f).hiLatch = d.hiLatch := rfl
@[simp] theorem updTidy_time (d : Dev) (n : Nat) (f : Tidy → Tidy) : (d.updTidy n f).time = d.time := rfl
@[simp] theorem updTidy_syncs (d : Dev) (n : Nat) (f : Tidy → Tidy) : (d.updTidy n f).syncs = d.syncs := rfl
@[simp] theorem updTidy_launches (d : Dev) (n : Nat) (f : Tidy → Tidy) : (d.updTidy n f).launches = d.launches := rfl
@[simp] theorem updTidy_lateLaunches (d : Dev) (n : Nat) (f : Tidy → Tidy) : (d.updTidy n f).lateLaunches = d.lateLaunches := rfl
@[simp] theorem updTidy_ctxs (d : Dev) (n : Nat) (f : Tidy → Tidy) : (d.updTidy n f).ctxs = d.ctxs := rfl
@[simp] theorem updTidy_jobs (d : Dev) (n : Nat) (f : Tidy → Tidy) : (d.updTidy n f).jobs = d.jobs := rfl
@[simp] theorem updTidy_nextJob (d : Dev) (n : Nat) (f : Tidy → Tidy) : (d.updTidy n f).nextJob = d.nextJob := rfl
@[simp] theorem updTidy_cores (d : Dev) (n : Nat) (f : Tidy → Tidy) : (d.updTidy n f).cores = d.cores := rfl
@[simp] theorem updTidy_groups (d : Dev) (n : Nat) (f : Tidy → Tidy) : (d.updTidy n f).groups = d.groups := rfl
@[simp] theorem updTidy_regions (d : Dev) (n : Nat) (f : Tidy → Tidy) : (d.updTidy n f).regions = d.regions := rfl
@[simp] theorem updTidy_deferred (d : Dev) (n : Nat) (f : Tidy → Tidy) : (d.updTidy n f).deferred = d.deferred := rfl
@[simp] theorem updTidy_ctxOps (d : Dev) (n : Nat) (f : Tidy → Tidy) : (d.updTidy n f).ctxOps = d.ctxOps := rfl
@[simp] theorem updTidy_frostSaves (d : Dev) (n : Nat) (f : Tidy → Tidy) : (d.updTidy n f).frostSaves = d.frostSaves := rfl
@[simp] theorem updTidy_poison (d : Dev) (n : Nat) (f : Tidy → Tidy) : (d.updTidy n f).poison = d.poison := rfl
@[simp] theorem updTidy_badShares (d : Dev) (n : Nat) (f : Tidy → Tidy) : (d.updTidy n f).badShares = d.badShares := rfl
@[simp] theorem updTidy_goodLines (d : Dev) (n : Nat) (f : Tidy → Tidy) : (d.updTidy n f).goodLines = d.goodLines := rfl
@[simp] theorem updTidy_tracks (d : Dev) (n : Nat) (f : Tidy → Tidy) : (d.updTidy n f).tracks = d.tracks := rfl
@[simp] theorem updTidy_drams (d : Dev) (n : Nat) (f : Tidy → Tidy) : (d.updTidy n f).drams = d.drams := rfl
@[simp] theorem updTidy_routers (d : Dev) (n : Nat) (f : Tidy → Tidy) : (d.updTidy n f).routers = d.routers := rfl
@[simp] theorem updTidy_merges (d : Dev) (n : Nat) (f : Tidy → Tidy) : (d.updTidy n f).merges = d.merges := rfl
@[simp] theorem updTidy_netReqs (d : Dev) (n : Nat) (f : Tidy → Tidy) : (d.updTidy n f).netReqs = d.netReqs := rfl
@[simp] theorem updTidy_learned (d : Dev) (n : Nat) (f : Tidy → Tidy) : (d.updTidy n f).learned = d.learned := rfl
@[simp] theorem updTidy_regionIndex (d : Dev) (n : Nat) (f : Tidy → Tidy) : (d.updTidy n f).regionIndex = d.regionIndex := rfl
@[simp] theorem updTidy_trackStack (d : Dev) (n : Nat) (f : Tidy → Tidy) : (d.updTidy n f).trackStack = d.trackStack := rfl
@[simp] theorem updTidy_placing (d : Dev) (n : Nat) (f : Tidy → Tidy) : (d.updTidy n f).placing = d.placing := rfl
@[simp] theorem updTidy_geom (d : Dev) (n : Nat) (f : Tidy → Tidy) : (d.updTidy n f).geom = d.geom := rfl
@[simp] theorem updTidy_procs (d : Dev) (n : Nat) (f : Tidy → Tidy) : (d.updTidy n f).procs = d.procs := rfl
@[simp] theorem updTidy_fwSelect (d : Dev) (n : Nat) (f : Tidy → Tidy) : (d.updTidy n f).fwSelect = d.fwSelect := rfl
@[simp] theorem updTidy_log (d : Dev) (n : Nat) (f : Tidy → Tidy) : (d.updTidy n f).log = d.log := rfl
@[simp] theorem updTidy_cccs (d : Dev) (n : Nat) (f : Tidy → Tidy) : (d.updTidy n f).cccs = d.cccs := rfl
@[simp] theorem updTidy_lease (d : Dev) (n : Nat) (f : Tidy → Tidy) : (d.updTidy n f).lease = d.lease := rfl
@[simp] theorem updTidy_sec (d : Dev) (n : Nat) (f : Tidy → Tidy) : (d.updTidy n f).sec = d.sec := rfl
@[simp] theorem updTidy_ent (d : Dev) (n : Nat) (f : Tidy → Tidy) : (d.updTidy n f).ent = d.ent := rfl
@[simp] theorem updTidy_flt (d : Dev) (n : Nat) (f : Tidy → Tidy) : (d.updTidy n f).flt = d.flt := rfl
@[simp] theorem updTidy_pwr (d : Dev) (n : Nat) (f : Tidy → Tidy) : (d.updTidy n f).pwr = d.pwr := rfl
@[simp] theorem updTidy_smu (d : Dev) (n : Nat) (f : Tidy → Tidy) : (d.updTidy n f).smu = d.smu := rfl
@[simp] theorem updTidy_cnts (d : Dev) (n : Nat) (f : Tidy → Tidy) : (d.updTidy n f).cnts = d.cnts := rfl
@[simp] theorem updTidy_occ (d : Dev) (n : Nat) (f : Tidy → Tidy) : (d.updTidy n f).occ = d.occ := rfl
@[simp] theorem updTidy_reader (d : Dev) (n : Nat) (f : Tidy → Tidy) : (d.updTidy n f).reader = d.reader := rfl
@[simp] theorem updTidy_hostIf (d : Dev) (n : Nat) (f : Tidy → Tidy) : (d.updTidy n f).hostIf = d.hostIf := rfl
@[simp] theorem updTidy_ports (d : Dev) (n : Nat) (f : Tidy → Tidy) : (d.updTidy n f).ports = d.ports := rfl
@[simp] theorem updTidy_boot (d : Dev) (n : Nat) (f : Tidy → Tidy) : (d.updTidy n f).boot = d.boot := rfl
@[simp] theorem updTidy_pins (d : Dev) (n : Nat) (f : Tidy → Tidy) : (d.updTidy n f).pins = d.pins := rfl

@[simp] theorem updRing_now (d : Dev) (n : Nat) (f : Ring → Ring) : (d.updRing n f).now = d.now := rfl
@[simp] theorem updRing_reply (d : Dev) (n : Nat) (f : Ring → Ring) : (d.updRing n f).reply = d.reply := rfl
@[simp] theorem updRing_free (d : Dev) (n : Nat) (f : Ring → Ring) : (d.updRing n f).free = d.free := rfl
@[simp] theorem updRing_hostMem (d : Dev) (n : Nat) (f : Ring → Ring) : (d.updRing n f).hostMem = d.hostMem := rfl
@[simp] theorem updRing_devMem (d : Dev) (n : Nat) (f : Ring → Ring) : (d.updRing n f).devMem = d.devMem := rfl
@[simp] theorem updRing_modState (d : Dev) (n : Nat) (f : Ring → Ring) : (d.updRing n f).modState = d.modState := rfl
@[simp] theorem updRing_prevState (d : Dev) (n : Nat) (f : Ring → Ring) : (d.updRing n f).prevState = d.prevState := rfl
@[simp] theorem updRing_transitions (d : Dev) (n : Nat) (f : Ring → Ring) : (d.updRing n f).transitions = d.transitions := rfl
@[simp] theorem updRing_units (d : Dev) (n : Nat) (f : Ring → Ring) : (d.updRing n f).units = d.units := rfl
@[simp] theorem updRing_views (d : Dev) (n : Nat) (f : Ring → Ring) : (d.updRing n f).views = d.views := rfl
@[simp] theorem updRing_attnqs (d : Dev) (n : Nat) (f : Ring → Ring) : (d.updRing n f).attnqs = d.attnqs := rfl
@[simp] theorem updRing_emu (d : Dev) (n : Nat) (f : Ring → Ring) : (d.updRing n f).emu = d.emu := rfl
@[simp] theorem updRing_emuSeq (d : Dev) (n : Nat) (f : Ring → Ring) : (d.updRing n f).emuSeq = d.emuSeq := rfl
@[simp] theorem updRing_msix (d : Dev) (n : Nat) (f : Ring → Ring) : (d.updRing n f).msix = d.msix := rfl
@[simp] theorem updRing_hiLatch (d : Dev) (n : Nat) (f : Ring → Ring) : (d.updRing n f).hiLatch = d.hiLatch := rfl
@[simp] theorem updRing_time (d : Dev) (n : Nat) (f : Ring → Ring) : (d.updRing n f).time = d.time := rfl
@[simp] theorem updRing_syncs (d : Dev) (n : Nat) (f : Ring → Ring) : (d.updRing n f).syncs = d.syncs := rfl
@[simp] theorem updRing_launches (d : Dev) (n : Nat) (f : Ring → Ring) : (d.updRing n f).launches = d.launches := rfl
@[simp] theorem updRing_lateLaunches (d : Dev) (n : Nat) (f : Ring → Ring) : (d.updRing n f).lateLaunches = d.lateLaunches := rfl
@[simp] theorem updRing_ctxs (d : Dev) (n : Nat) (f : Ring → Ring) : (d.updRing n f).ctxs = d.ctxs := rfl
@[simp] theorem updRing_jobs (d : Dev) (n : Nat) (f : Ring → Ring) : (d.updRing n f).jobs = d.jobs := rfl
@[simp] theorem updRing_nextJob (d : Dev) (n : Nat) (f : Ring → Ring) : (d.updRing n f).nextJob = d.nextJob := rfl
@[simp] theorem updRing_cores (d : Dev) (n : Nat) (f : Ring → Ring) : (d.updRing n f).cores = d.cores := rfl
@[simp] theorem updRing_tidies (d : Dev) (n : Nat) (f : Ring → Ring) : (d.updRing n f).tidies = d.tidies := rfl
@[simp] theorem updRing_groups (d : Dev) (n : Nat) (f : Ring → Ring) : (d.updRing n f).groups = d.groups := rfl
@[simp] theorem updRing_regions (d : Dev) (n : Nat) (f : Ring → Ring) : (d.updRing n f).regions = d.regions := rfl
@[simp] theorem updRing_deferred (d : Dev) (n : Nat) (f : Ring → Ring) : (d.updRing n f).deferred = d.deferred := rfl
@[simp] theorem updRing_ctxOps (d : Dev) (n : Nat) (f : Ring → Ring) : (d.updRing n f).ctxOps = d.ctxOps := rfl
@[simp] theorem updRing_frostSaves (d : Dev) (n : Nat) (f : Ring → Ring) : (d.updRing n f).frostSaves = d.frostSaves := rfl
@[simp] theorem updRing_poison (d : Dev) (n : Nat) (f : Ring → Ring) : (d.updRing n f).poison = d.poison := rfl
@[simp] theorem updRing_badShares (d : Dev) (n : Nat) (f : Ring → Ring) : (d.updRing n f).badShares = d.badShares := rfl
@[simp] theorem updRing_goodLines (d : Dev) (n : Nat) (f : Ring → Ring) : (d.updRing n f).goodLines = d.goodLines := rfl
@[simp] theorem updRing_tracks (d : Dev) (n : Nat) (f : Ring → Ring) : (d.updRing n f).tracks = d.tracks := rfl
@[simp] theorem updRing_drams (d : Dev) (n : Nat) (f : Ring → Ring) : (d.updRing n f).drams = d.drams := rfl
@[simp] theorem updRing_routers (d : Dev) (n : Nat) (f : Ring → Ring) : (d.updRing n f).routers = d.routers := rfl
@[simp] theorem updRing_merges (d : Dev) (n : Nat) (f : Ring → Ring) : (d.updRing n f).merges = d.merges := rfl
@[simp] theorem updRing_netReqs (d : Dev) (n : Nat) (f : Ring → Ring) : (d.updRing n f).netReqs = d.netReqs := rfl
@[simp] theorem updRing_learned (d : Dev) (n : Nat) (f : Ring → Ring) : (d.updRing n f).learned = d.learned := rfl
@[simp] theorem updRing_regionIndex (d : Dev) (n : Nat) (f : Ring → Ring) : (d.updRing n f).regionIndex = d.regionIndex := rfl
@[simp] theorem updRing_trackStack (d : Dev) (n : Nat) (f : Ring → Ring) : (d.updRing n f).trackStack = d.trackStack := rfl
@[simp] theorem updRing_placing (d : Dev) (n : Nat) (f : Ring → Ring) : (d.updRing n f).placing = d.placing := rfl
@[simp] theorem updRing_geom (d : Dev) (n : Nat) (f : Ring → Ring) : (d.updRing n f).geom = d.geom := rfl
@[simp] theorem updRing_procs (d : Dev) (n : Nat) (f : Ring → Ring) : (d.updRing n f).procs = d.procs := rfl
@[simp] theorem updRing_fwSelect (d : Dev) (n : Nat) (f : Ring → Ring) : (d.updRing n f).fwSelect = d.fwSelect := rfl
@[simp] theorem updRing_log (d : Dev) (n : Nat) (f : Ring → Ring) : (d.updRing n f).log = d.log := rfl
@[simp] theorem updRing_cccs (d : Dev) (n : Nat) (f : Ring → Ring) : (d.updRing n f).cccs = d.cccs := rfl
@[simp] theorem updRing_lease (d : Dev) (n : Nat) (f : Ring → Ring) : (d.updRing n f).lease = d.lease := rfl
@[simp] theorem updRing_sec (d : Dev) (n : Nat) (f : Ring → Ring) : (d.updRing n f).sec = d.sec := rfl
@[simp] theorem updRing_ent (d : Dev) (n : Nat) (f : Ring → Ring) : (d.updRing n f).ent = d.ent := rfl
@[simp] theorem updRing_flt (d : Dev) (n : Nat) (f : Ring → Ring) : (d.updRing n f).flt = d.flt := rfl
@[simp] theorem updRing_pwr (d : Dev) (n : Nat) (f : Ring → Ring) : (d.updRing n f).pwr = d.pwr := rfl
@[simp] theorem updRing_smu (d : Dev) (n : Nat) (f : Ring → Ring) : (d.updRing n f).smu = d.smu := rfl
@[simp] theorem updRing_cnts (d : Dev) (n : Nat) (f : Ring → Ring) : (d.updRing n f).cnts = d.cnts := rfl
@[simp] theorem updRing_occ (d : Dev) (n : Nat) (f : Ring → Ring) : (d.updRing n f).occ = d.occ := rfl
@[simp] theorem updRing_reader (d : Dev) (n : Nat) (f : Ring → Ring) : (d.updRing n f).reader = d.reader := rfl
@[simp] theorem updRing_hostIf (d : Dev) (n : Nat) (f : Ring → Ring) : (d.updRing n f).hostIf = d.hostIf := rfl
@[simp] theorem updRing_ports (d : Dev) (n : Nat) (f : Ring → Ring) : (d.updRing n f).ports = d.ports := rfl
@[simp] theorem updRing_boot (d : Dev) (n : Nat) (f : Ring → Ring) : (d.updRing n f).boot = d.boot := rfl
@[simp] theorem updRing_pins (d : Dev) (n : Nat) (f : Ring → Ring) : (d.updRing n f).pins = d.pins := rfl

@[simp] theorem updProc_now (d : Dev) (n : Nat) (f : Proc → Proc) : (d.updProc n f).now = d.now := rfl
@[simp] theorem updProc_reply (d : Dev) (n : Nat) (f : Proc → Proc) : (d.updProc n f).reply = d.reply := rfl
@[simp] theorem updProc_free (d : Dev) (n : Nat) (f : Proc → Proc) : (d.updProc n f).free = d.free := rfl
@[simp] theorem updProc_hostMem (d : Dev) (n : Nat) (f : Proc → Proc) : (d.updProc n f).hostMem = d.hostMem := rfl
@[simp] theorem updProc_devMem (d : Dev) (n : Nat) (f : Proc → Proc) : (d.updProc n f).devMem = d.devMem := rfl
@[simp] theorem updProc_modState (d : Dev) (n : Nat) (f : Proc → Proc) : (d.updProc n f).modState = d.modState := rfl
@[simp] theorem updProc_prevState (d : Dev) (n : Nat) (f : Proc → Proc) : (d.updProc n f).prevState = d.prevState := rfl
@[simp] theorem updProc_transitions (d : Dev) (n : Nat) (f : Proc → Proc) : (d.updProc n f).transitions = d.transitions := rfl
@[simp] theorem updProc_units (d : Dev) (n : Nat) (f : Proc → Proc) : (d.updProc n f).units = d.units := rfl
@[simp] theorem updProc_views (d : Dev) (n : Nat) (f : Proc → Proc) : (d.updProc n f).views = d.views := rfl
@[simp] theorem updProc_rings (d : Dev) (n : Nat) (f : Proc → Proc) : (d.updProc n f).rings = d.rings := rfl
@[simp] theorem updProc_attnqs (d : Dev) (n : Nat) (f : Proc → Proc) : (d.updProc n f).attnqs = d.attnqs := rfl
@[simp] theorem updProc_emu (d : Dev) (n : Nat) (f : Proc → Proc) : (d.updProc n f).emu = d.emu := rfl
@[simp] theorem updProc_emuSeq (d : Dev) (n : Nat) (f : Proc → Proc) : (d.updProc n f).emuSeq = d.emuSeq := rfl
@[simp] theorem updProc_msix (d : Dev) (n : Nat) (f : Proc → Proc) : (d.updProc n f).msix = d.msix := rfl
@[simp] theorem updProc_hiLatch (d : Dev) (n : Nat) (f : Proc → Proc) : (d.updProc n f).hiLatch = d.hiLatch := rfl
@[simp] theorem updProc_time (d : Dev) (n : Nat) (f : Proc → Proc) : (d.updProc n f).time = d.time := rfl
@[simp] theorem updProc_syncs (d : Dev) (n : Nat) (f : Proc → Proc) : (d.updProc n f).syncs = d.syncs := rfl
@[simp] theorem updProc_launches (d : Dev) (n : Nat) (f : Proc → Proc) : (d.updProc n f).launches = d.launches := rfl
@[simp] theorem updProc_lateLaunches (d : Dev) (n : Nat) (f : Proc → Proc) : (d.updProc n f).lateLaunches = d.lateLaunches := rfl
@[simp] theorem updProc_ctxs (d : Dev) (n : Nat) (f : Proc → Proc) : (d.updProc n f).ctxs = d.ctxs := rfl
@[simp] theorem updProc_jobs (d : Dev) (n : Nat) (f : Proc → Proc) : (d.updProc n f).jobs = d.jobs := rfl
@[simp] theorem updProc_nextJob (d : Dev) (n : Nat) (f : Proc → Proc) : (d.updProc n f).nextJob = d.nextJob := rfl
@[simp] theorem updProc_cores (d : Dev) (n : Nat) (f : Proc → Proc) : (d.updProc n f).cores = d.cores := rfl
@[simp] theorem updProc_tidies (d : Dev) (n : Nat) (f : Proc → Proc) : (d.updProc n f).tidies = d.tidies := rfl
@[simp] theorem updProc_groups (d : Dev) (n : Nat) (f : Proc → Proc) : (d.updProc n f).groups = d.groups := rfl
@[simp] theorem updProc_regions (d : Dev) (n : Nat) (f : Proc → Proc) : (d.updProc n f).regions = d.regions := rfl
@[simp] theorem updProc_deferred (d : Dev) (n : Nat) (f : Proc → Proc) : (d.updProc n f).deferred = d.deferred := rfl
@[simp] theorem updProc_ctxOps (d : Dev) (n : Nat) (f : Proc → Proc) : (d.updProc n f).ctxOps = d.ctxOps := rfl
@[simp] theorem updProc_frostSaves (d : Dev) (n : Nat) (f : Proc → Proc) : (d.updProc n f).frostSaves = d.frostSaves := rfl
@[simp] theorem updProc_poison (d : Dev) (n : Nat) (f : Proc → Proc) : (d.updProc n f).poison = d.poison := rfl
@[simp] theorem updProc_badShares (d : Dev) (n : Nat) (f : Proc → Proc) : (d.updProc n f).badShares = d.badShares := rfl
@[simp] theorem updProc_goodLines (d : Dev) (n : Nat) (f : Proc → Proc) : (d.updProc n f).goodLines = d.goodLines := rfl
@[simp] theorem updProc_tracks (d : Dev) (n : Nat) (f : Proc → Proc) : (d.updProc n f).tracks = d.tracks := rfl
@[simp] theorem updProc_drams (d : Dev) (n : Nat) (f : Proc → Proc) : (d.updProc n f).drams = d.drams := rfl
@[simp] theorem updProc_routers (d : Dev) (n : Nat) (f : Proc → Proc) : (d.updProc n f).routers = d.routers := rfl
@[simp] theorem updProc_merges (d : Dev) (n : Nat) (f : Proc → Proc) : (d.updProc n f).merges = d.merges := rfl
@[simp] theorem updProc_netReqs (d : Dev) (n : Nat) (f : Proc → Proc) : (d.updProc n f).netReqs = d.netReqs := rfl
@[simp] theorem updProc_learned (d : Dev) (n : Nat) (f : Proc → Proc) : (d.updProc n f).learned = d.learned := rfl
@[simp] theorem updProc_regionIndex (d : Dev) (n : Nat) (f : Proc → Proc) : (d.updProc n f).regionIndex = d.regionIndex := rfl
@[simp] theorem updProc_trackStack (d : Dev) (n : Nat) (f : Proc → Proc) : (d.updProc n f).trackStack = d.trackStack := rfl
@[simp] theorem updProc_placing (d : Dev) (n : Nat) (f : Proc → Proc) : (d.updProc n f).placing = d.placing := rfl
@[simp] theorem updProc_geom (d : Dev) (n : Nat) (f : Proc → Proc) : (d.updProc n f).geom = d.geom := rfl
@[simp] theorem updProc_fwSelect (d : Dev) (n : Nat) (f : Proc → Proc) : (d.updProc n f).fwSelect = d.fwSelect := rfl
@[simp] theorem updProc_log (d : Dev) (n : Nat) (f : Proc → Proc) : (d.updProc n f).log = d.log := rfl
@[simp] theorem updProc_cccs (d : Dev) (n : Nat) (f : Proc → Proc) : (d.updProc n f).cccs = d.cccs := rfl
@[simp] theorem updProc_lease (d : Dev) (n : Nat) (f : Proc → Proc) : (d.updProc n f).lease = d.lease := rfl
@[simp] theorem updProc_sec (d : Dev) (n : Nat) (f : Proc → Proc) : (d.updProc n f).sec = d.sec := rfl
@[simp] theorem updProc_ent (d : Dev) (n : Nat) (f : Proc → Proc) : (d.updProc n f).ent = d.ent := rfl
@[simp] theorem updProc_flt (d : Dev) (n : Nat) (f : Proc → Proc) : (d.updProc n f).flt = d.flt := rfl
@[simp] theorem updProc_pwr (d : Dev) (n : Nat) (f : Proc → Proc) : (d.updProc n f).pwr = d.pwr := rfl
@[simp] theorem updProc_smu (d : Dev) (n : Nat) (f : Proc → Proc) : (d.updProc n f).smu = d.smu := rfl
@[simp] theorem updProc_cnts (d : Dev) (n : Nat) (f : Proc → Proc) : (d.updProc n f).cnts = d.cnts := rfl
@[simp] theorem updProc_occ (d : Dev) (n : Nat) (f : Proc → Proc) : (d.updProc n f).occ = d.occ := rfl
@[simp] theorem updProc_reader (d : Dev) (n : Nat) (f : Proc → Proc) : (d.updProc n f).reader = d.reader := rfl
@[simp] theorem updProc_hostIf (d : Dev) (n : Nat) (f : Proc → Proc) : (d.updProc n f).hostIf = d.hostIf := rfl
@[simp] theorem updProc_ports (d : Dev) (n : Nat) (f : Proc → Proc) : (d.updProc n f).ports = d.ports := rfl
@[simp] theorem updProc_boot (d : Dev) (n : Nat) (f : Proc → Proc) : (d.updProc n f).boot = d.boot := rfl
@[simp] theorem updProc_pins (d : Dev) (n : Nat) (f : Proc → Proc) : (d.updProc n f).pins = d.pins := rfl

@[simp] theorem updHdr_now (d : Dev) (n : Nat) (f : UnitHdr → UnitHdr) : (d.updHdr n f).now = d.now := rfl
@[simp] theorem updHdr_reply (d : Dev) (n : Nat) (f : UnitHdr → UnitHdr) : (d.updHdr n f).reply = d.reply := rfl
@[simp] theorem updHdr_free (d : Dev) (n : Nat) (f : UnitHdr → UnitHdr) : (d.updHdr n f).free = d.free := rfl
@[simp] theorem updHdr_hostMem (d : Dev) (n : Nat) (f : UnitHdr → UnitHdr) : (d.updHdr n f).hostMem = d.hostMem := rfl
@[simp] theorem updHdr_devMem (d : Dev) (n : Nat) (f : UnitHdr → UnitHdr) : (d.updHdr n f).devMem = d.devMem := rfl
@[simp] theorem updHdr_modState (d : Dev) (n : Nat) (f : UnitHdr → UnitHdr) : (d.updHdr n f).modState = d.modState := rfl
@[simp] theorem updHdr_prevState (d : Dev) (n : Nat) (f : UnitHdr → UnitHdr) : (d.updHdr n f).prevState = d.prevState := rfl
@[simp] theorem updHdr_transitions (d : Dev) (n : Nat) (f : UnitHdr → UnitHdr) : (d.updHdr n f).transitions = d.transitions := rfl
@[simp] theorem updHdr_views (d : Dev) (n : Nat) (f : UnitHdr → UnitHdr) : (d.updHdr n f).views = d.views := rfl
@[simp] theorem updHdr_rings (d : Dev) (n : Nat) (f : UnitHdr → UnitHdr) : (d.updHdr n f).rings = d.rings := rfl
@[simp] theorem updHdr_attnqs (d : Dev) (n : Nat) (f : UnitHdr → UnitHdr) : (d.updHdr n f).attnqs = d.attnqs := rfl
@[simp] theorem updHdr_emu (d : Dev) (n : Nat) (f : UnitHdr → UnitHdr) : (d.updHdr n f).emu = d.emu := rfl
@[simp] theorem updHdr_emuSeq (d : Dev) (n : Nat) (f : UnitHdr → UnitHdr) : (d.updHdr n f).emuSeq = d.emuSeq := rfl
@[simp] theorem updHdr_msix (d : Dev) (n : Nat) (f : UnitHdr → UnitHdr) : (d.updHdr n f).msix = d.msix := rfl
@[simp] theorem updHdr_hiLatch (d : Dev) (n : Nat) (f : UnitHdr → UnitHdr) : (d.updHdr n f).hiLatch = d.hiLatch := rfl
@[simp] theorem updHdr_time (d : Dev) (n : Nat) (f : UnitHdr → UnitHdr) : (d.updHdr n f).time = d.time := rfl
@[simp] theorem updHdr_syncs (d : Dev) (n : Nat) (f : UnitHdr → UnitHdr) : (d.updHdr n f).syncs = d.syncs := rfl
@[simp] theorem updHdr_launches (d : Dev) (n : Nat) (f : UnitHdr → UnitHdr) : (d.updHdr n f).launches = d.launches := rfl
@[simp] theorem updHdr_lateLaunches (d : Dev) (n : Nat) (f : UnitHdr → UnitHdr) : (d.updHdr n f).lateLaunches = d.lateLaunches := rfl
@[simp] theorem updHdr_ctxs (d : Dev) (n : Nat) (f : UnitHdr → UnitHdr) : (d.updHdr n f).ctxs = d.ctxs := rfl
@[simp] theorem updHdr_jobs (d : Dev) (n : Nat) (f : UnitHdr → UnitHdr) : (d.updHdr n f).jobs = d.jobs := rfl
@[simp] theorem updHdr_nextJob (d : Dev) (n : Nat) (f : UnitHdr → UnitHdr) : (d.updHdr n f).nextJob = d.nextJob := rfl
@[simp] theorem updHdr_cores (d : Dev) (n : Nat) (f : UnitHdr → UnitHdr) : (d.updHdr n f).cores = d.cores := rfl
@[simp] theorem updHdr_tidies (d : Dev) (n : Nat) (f : UnitHdr → UnitHdr) : (d.updHdr n f).tidies = d.tidies := rfl
@[simp] theorem updHdr_groups (d : Dev) (n : Nat) (f : UnitHdr → UnitHdr) : (d.updHdr n f).groups = d.groups := rfl
@[simp] theorem updHdr_regions (d : Dev) (n : Nat) (f : UnitHdr → UnitHdr) : (d.updHdr n f).regions = d.regions := rfl
@[simp] theorem updHdr_deferred (d : Dev) (n : Nat) (f : UnitHdr → UnitHdr) : (d.updHdr n f).deferred = d.deferred := rfl
@[simp] theorem updHdr_ctxOps (d : Dev) (n : Nat) (f : UnitHdr → UnitHdr) : (d.updHdr n f).ctxOps = d.ctxOps := rfl
@[simp] theorem updHdr_frostSaves (d : Dev) (n : Nat) (f : UnitHdr → UnitHdr) : (d.updHdr n f).frostSaves = d.frostSaves := rfl
@[simp] theorem updHdr_poison (d : Dev) (n : Nat) (f : UnitHdr → UnitHdr) : (d.updHdr n f).poison = d.poison := rfl
@[simp] theorem updHdr_badShares (d : Dev) (n : Nat) (f : UnitHdr → UnitHdr) : (d.updHdr n f).badShares = d.badShares := rfl
@[simp] theorem updHdr_goodLines (d : Dev) (n : Nat) (f : UnitHdr → UnitHdr) : (d.updHdr n f).goodLines = d.goodLines := rfl
@[simp] theorem updHdr_tracks (d : Dev) (n : Nat) (f : UnitHdr → UnitHdr) : (d.updHdr n f).tracks = d.tracks := rfl
@[simp] theorem updHdr_drams (d : Dev) (n : Nat) (f : UnitHdr → UnitHdr) : (d.updHdr n f).drams = d.drams := rfl
@[simp] theorem updHdr_routers (d : Dev) (n : Nat) (f : UnitHdr → UnitHdr) : (d.updHdr n f).routers = d.routers := rfl
@[simp] theorem updHdr_merges (d : Dev) (n : Nat) (f : UnitHdr → UnitHdr) : (d.updHdr n f).merges = d.merges := rfl
@[simp] theorem updHdr_netReqs (d : Dev) (n : Nat) (f : UnitHdr → UnitHdr) : (d.updHdr n f).netReqs = d.netReqs := rfl
@[simp] theorem updHdr_learned (d : Dev) (n : Nat) (f : UnitHdr → UnitHdr) : (d.updHdr n f).learned = d.learned := rfl
@[simp] theorem updHdr_regionIndex (d : Dev) (n : Nat) (f : UnitHdr → UnitHdr) : (d.updHdr n f).regionIndex = d.regionIndex := rfl
@[simp] theorem updHdr_trackStack (d : Dev) (n : Nat) (f : UnitHdr → UnitHdr) : (d.updHdr n f).trackStack = d.trackStack := rfl
@[simp] theorem updHdr_placing (d : Dev) (n : Nat) (f : UnitHdr → UnitHdr) : (d.updHdr n f).placing = d.placing := rfl
@[simp] theorem updHdr_geom (d : Dev) (n : Nat) (f : UnitHdr → UnitHdr) : (d.updHdr n f).geom = d.geom := rfl
@[simp] theorem updHdr_procs (d : Dev) (n : Nat) (f : UnitHdr → UnitHdr) : (d.updHdr n f).procs = d.procs := rfl
@[simp] theorem updHdr_fwSelect (d : Dev) (n : Nat) (f : UnitHdr → UnitHdr) : (d.updHdr n f).fwSelect = d.fwSelect := rfl
@[simp] theorem updHdr_log (d : Dev) (n : Nat) (f : UnitHdr → UnitHdr) : (d.updHdr n f).log = d.log := rfl
@[simp] theorem updHdr_cccs (d : Dev) (n : Nat) (f : UnitHdr → UnitHdr) : (d.updHdr n f).cccs = d.cccs := rfl
@[simp] theorem updHdr_lease (d : Dev) (n : Nat) (f : UnitHdr → UnitHdr) : (d.updHdr n f).lease = d.lease := rfl
@[simp] theorem updHdr_sec (d : Dev) (n : Nat) (f : UnitHdr → UnitHdr) : (d.updHdr n f).sec = d.sec := rfl
@[simp] theorem updHdr_ent (d : Dev) (n : Nat) (f : UnitHdr → UnitHdr) : (d.updHdr n f).ent = d.ent := rfl
@[simp] theorem updHdr_flt (d : Dev) (n : Nat) (f : UnitHdr → UnitHdr) : (d.updHdr n f).flt = d.flt := rfl
@[simp] theorem updHdr_pwr (d : Dev) (n : Nat) (f : UnitHdr → UnitHdr) : (d.updHdr n f).pwr = d.pwr := rfl
@[simp] theorem updHdr_smu (d : Dev) (n : Nat) (f : UnitHdr → UnitHdr) : (d.updHdr n f).smu = d.smu := rfl
@[simp] theorem updHdr_cnts (d : Dev) (n : Nat) (f : UnitHdr → UnitHdr) : (d.updHdr n f).cnts = d.cnts := rfl
@[simp] theorem updHdr_occ (d : Dev) (n : Nat) (f : UnitHdr → UnitHdr) : (d.updHdr n f).occ = d.occ := rfl
@[simp] theorem updHdr_reader (d : Dev) (n : Nat) (f : UnitHdr → UnitHdr) : (d.updHdr n f).reader = d.reader := rfl
@[simp] theorem updHdr_hostIf (d : Dev) (n : Nat) (f : UnitHdr → UnitHdr) : (d.updHdr n f).hostIf = d.hostIf := rfl
@[simp] theorem updHdr_ports (d : Dev) (n : Nat) (f : UnitHdr → UnitHdr) : (d.updHdr n f).ports = d.ports := rfl
@[simp] theorem updHdr_boot (d : Dev) (n : Nat) (f : UnitHdr → UnitHdr) : (d.updHdr n f).boot = d.boot := rfl
@[simp] theorem updHdr_pins (d : Dev) (n : Nat) (f : UnitHdr → UnitHdr) : (d.updHdr n f).pins = d.pins := rfl

@[simp] theorem noteFor_now (d : Dev) (c : Option Nat) (p ev n : Nat) (x : SampleItem) : (d.noteFor c p ev n x).now = d.now := rfl
@[simp] theorem noteFor_reply (d : Dev) (c : Option Nat) (p ev n : Nat) (x : SampleItem) : (d.noteFor c p ev n x).reply = d.reply := rfl
@[simp] theorem noteFor_free (d : Dev) (c : Option Nat) (p ev n : Nat) (x : SampleItem) : (d.noteFor c p ev n x).free = d.free := rfl
@[simp] theorem noteFor_hostMem (d : Dev) (c : Option Nat) (p ev n : Nat) (x : SampleItem) : (d.noteFor c p ev n x).hostMem = d.hostMem := rfl
@[simp] theorem noteFor_devMem (d : Dev) (c : Option Nat) (p ev n : Nat) (x : SampleItem) : (d.noteFor c p ev n x).devMem = d.devMem := rfl
@[simp] theorem noteFor_modState (d : Dev) (c : Option Nat) (p ev n : Nat) (x : SampleItem) : (d.noteFor c p ev n x).modState = d.modState := rfl
@[simp] theorem noteFor_prevState (d : Dev) (c : Option Nat) (p ev n : Nat) (x : SampleItem) : (d.noteFor c p ev n x).prevState = d.prevState := rfl
@[simp] theorem noteFor_transitions (d : Dev) (c : Option Nat) (p ev n : Nat) (x : SampleItem) : (d.noteFor c p ev n x).transitions = d.transitions := rfl
@[simp] theorem noteFor_units (d : Dev) (c : Option Nat) (p ev n : Nat) (x : SampleItem) : (d.noteFor c p ev n x).units = d.units := rfl
@[simp] theorem noteFor_views (d : Dev) (c : Option Nat) (p ev n : Nat) (x : SampleItem) : (d.noteFor c p ev n x).views = d.views := rfl
@[simp] theorem noteFor_rings (d : Dev) (c : Option Nat) (p ev n : Nat) (x : SampleItem) : (d.noteFor c p ev n x).rings = d.rings := rfl
@[simp] theorem noteFor_attnqs (d : Dev) (c : Option Nat) (p ev n : Nat) (x : SampleItem) : (d.noteFor c p ev n x).attnqs = d.attnqs := rfl
@[simp] theorem noteFor_emu (d : Dev) (c : Option Nat) (p ev n : Nat) (x : SampleItem) : (d.noteFor c p ev n x).emu = d.emu := rfl
@[simp] theorem noteFor_emuSeq (d : Dev) (c : Option Nat) (p ev n : Nat) (x : SampleItem) : (d.noteFor c p ev n x).emuSeq = d.emuSeq := rfl
@[simp] theorem noteFor_msix (d : Dev) (c : Option Nat) (p ev n : Nat) (x : SampleItem) : (d.noteFor c p ev n x).msix = d.msix := rfl
@[simp] theorem noteFor_hiLatch (d : Dev) (c : Option Nat) (p ev n : Nat) (x : SampleItem) : (d.noteFor c p ev n x).hiLatch = d.hiLatch := rfl
@[simp] theorem noteFor_time (d : Dev) (c : Option Nat) (p ev n : Nat) (x : SampleItem) : (d.noteFor c p ev n x).time = d.time := rfl
@[simp] theorem noteFor_syncs (d : Dev) (c : Option Nat) (p ev n : Nat) (x : SampleItem) : (d.noteFor c p ev n x).syncs = d.syncs := rfl
@[simp] theorem noteFor_launches (d : Dev) (c : Option Nat) (p ev n : Nat) (x : SampleItem) : (d.noteFor c p ev n x).launches = d.launches := rfl
@[simp] theorem noteFor_lateLaunches (d : Dev) (c : Option Nat) (p ev n : Nat) (x : SampleItem) : (d.noteFor c p ev n x).lateLaunches = d.lateLaunches := rfl
@[simp] theorem noteFor_ctxs (d : Dev) (c : Option Nat) (p ev n : Nat) (x : SampleItem) : (d.noteFor c p ev n x).ctxs = d.ctxs := rfl
@[simp] theorem noteFor_jobs (d : Dev) (c : Option Nat) (p ev n : Nat) (x : SampleItem) : (d.noteFor c p ev n x).jobs = d.jobs := rfl
@[simp] theorem noteFor_nextJob (d : Dev) (c : Option Nat) (p ev n : Nat) (x : SampleItem) : (d.noteFor c p ev n x).nextJob = d.nextJob := rfl
@[simp] theorem noteFor_cores (d : Dev) (c : Option Nat) (p ev n : Nat) (x : SampleItem) : (d.noteFor c p ev n x).cores = d.cores := rfl
@[simp] theorem noteFor_tidies (d : Dev) (c : Option Nat) (p ev n : Nat) (x : SampleItem) : (d.noteFor c p ev n x).tidies = d.tidies := rfl
@[simp] theorem noteFor_groups (d : Dev) (c : Option Nat) (p ev n : Nat) (x : SampleItem) : (d.noteFor c p ev n x).groups = d.groups := rfl
@[simp] theorem noteFor_regions (d : Dev) (c : Option Nat) (p ev n : Nat) (x : SampleItem) : (d.noteFor c p ev n x).regions = d.regions := rfl
@[simp] theorem noteFor_deferred (d : Dev) (c : Option Nat) (p ev n : Nat) (x : SampleItem) : (d.noteFor c p ev n x).deferred = d.deferred := rfl
@[simp] theorem noteFor_ctxOps (d : Dev) (c : Option Nat) (p ev n : Nat) (x : SampleItem) : (d.noteFor c p ev n x).ctxOps = d.ctxOps := rfl
@[simp] theorem noteFor_frostSaves (d : Dev) (c : Option Nat) (p ev n : Nat) (x : SampleItem) : (d.noteFor c p ev n x).frostSaves = d.frostSaves := rfl
@[simp] theorem noteFor_poison (d : Dev) (c : Option Nat) (p ev n : Nat) (x : SampleItem) : (d.noteFor c p ev n x).poison = d.poison := rfl
@[simp] theorem noteFor_badShares (d : Dev) (c : Option Nat) (p ev n : Nat) (x : SampleItem) : (d.noteFor c p ev n x).badShares = d.badShares := rfl
@[simp] theorem noteFor_goodLines (d : Dev) (c : Option Nat) (p ev n : Nat) (x : SampleItem) : (d.noteFor c p ev n x).goodLines = d.goodLines := rfl
@[simp] theorem noteFor_tracks (d : Dev) (c : Option Nat) (p ev n : Nat) (x : SampleItem) : (d.noteFor c p ev n x).tracks = d.tracks := rfl
@[simp] theorem noteFor_drams (d : Dev) (c : Option Nat) (p ev n : Nat) (x : SampleItem) : (d.noteFor c p ev n x).drams = d.drams := rfl
@[simp] theorem noteFor_routers (d : Dev) (c : Option Nat) (p ev n : Nat) (x : SampleItem) : (d.noteFor c p ev n x).routers = d.routers := rfl
@[simp] theorem noteFor_merges (d : Dev) (c : Option Nat) (p ev n : Nat) (x : SampleItem) : (d.noteFor c p ev n x).merges = d.merges := rfl
@[simp] theorem noteFor_netReqs (d : Dev) (c : Option Nat) (p ev n : Nat) (x : SampleItem) : (d.noteFor c p ev n x).netReqs = d.netReqs := rfl
@[simp] theorem noteFor_learned (d : Dev) (c : Option Nat) (p ev n : Nat) (x : SampleItem) : (d.noteFor c p ev n x).learned = d.learned := rfl
@[simp] theorem noteFor_regionIndex (d : Dev) (c : Option Nat) (p ev n : Nat) (x : SampleItem) : (d.noteFor c p ev n x).regionIndex = d.regionIndex := rfl
@[simp] theorem noteFor_trackStack (d : Dev) (c : Option Nat) (p ev n : Nat) (x : SampleItem) : (d.noteFor c p ev n x).trackStack = d.trackStack := rfl
@[simp] theorem noteFor_placing (d : Dev) (c : Option Nat) (p ev n : Nat) (x : SampleItem) : (d.noteFor c p ev n x).placing = d.placing := rfl
@[simp] theorem noteFor_geom (d : Dev) (c : Option Nat) (p ev n : Nat) (x : SampleItem) : (d.noteFor c p ev n x).geom = d.geom := rfl
@[simp] theorem noteFor_procs (d : Dev) (c : Option Nat) (p ev n : Nat) (x : SampleItem) : (d.noteFor c p ev n x).procs = d.procs := rfl
@[simp] theorem noteFor_fwSelect (d : Dev) (c : Option Nat) (p ev n : Nat) (x : SampleItem) : (d.noteFor c p ev n x).fwSelect = d.fwSelect := rfl
@[simp] theorem noteFor_log (d : Dev) (c : Option Nat) (p ev n : Nat) (x : SampleItem) : (d.noteFor c p ev n x).log = d.log := rfl
@[simp] theorem noteFor_cccs (d : Dev) (c : Option Nat) (p ev n : Nat) (x : SampleItem) : (d.noteFor c p ev n x).cccs = d.cccs := rfl
@[simp] theorem noteFor_lease (d : Dev) (c : Option Nat) (p ev n : Nat) (x : SampleItem) : (d.noteFor c p ev n x).lease = d.lease := rfl
@[simp] theorem noteFor_sec (d : Dev) (c : Option Nat) (p ev n : Nat) (x : SampleItem) : (d.noteFor c p ev n x).sec = d.sec := rfl
@[simp] theorem noteFor_ent (d : Dev) (c : Option Nat) (p ev n : Nat) (x : SampleItem) : (d.noteFor c p ev n x).ent = d.ent := rfl
@[simp] theorem noteFor_flt (d : Dev) (c : Option Nat) (p ev n : Nat) (x : SampleItem) : (d.noteFor c p ev n x).flt = d.flt := rfl
@[simp] theorem noteFor_pwr (d : Dev) (c : Option Nat) (p ev n : Nat) (x : SampleItem) : (d.noteFor c p ev n x).pwr = d.pwr := rfl
@[simp] theorem noteFor_smu (d : Dev) (c : Option Nat) (p ev n : Nat) (x : SampleItem) : (d.noteFor c p ev n x).smu = d.smu := rfl
@[simp] theorem noteFor_cnts (d : Dev) (c : Option Nat) (p ev n : Nat) (x : SampleItem) : (d.noteFor c p ev n x).cnts = d.cnts := rfl
@[simp] theorem noteFor_reader (d : Dev) (c : Option Nat) (p ev n : Nat) (x : SampleItem) : (d.noteFor c p ev n x).reader = d.reader := rfl
@[simp] theorem noteFor_hostIf (d : Dev) (c : Option Nat) (p ev n : Nat) (x : SampleItem) : (d.noteFor c p ev n x).hostIf = d.hostIf := rfl
@[simp] theorem noteFor_ports (d : Dev) (c : Option Nat) (p ev n : Nat) (x : SampleItem) : (d.noteFor c p ev n x).ports = d.ports := rfl
@[simp] theorem noteFor_boot (d : Dev) (c : Option Nat) (p ev n : Nat) (x : SampleItem) : (d.noteFor c p ev n x).boot = d.boot := rfl
@[simp] theorem noteFor_pins (d : Dev) (c : Option Nat) (p ev n : Nat) (x : SampleItem) : (d.noteFor c p ev n x).pins = d.pins := rfl
@[simp] theorem note_now (d : Dev) (p ev n : Nat) (x : SampleItem) : (d.note p ev n x).now = d.now := rfl
@[simp] theorem note_reply (d : Dev) (p ev n : Nat) (x : SampleItem) : (d.note p ev n x).reply = d.reply := rfl
@[simp] theorem note_free (d : Dev) (p ev n : Nat) (x : SampleItem) : (d.note p ev n x).free = d.free := rfl
@[simp] theorem note_hostMem (d : Dev) (p ev n : Nat) (x : SampleItem) : (d.note p ev n x).hostMem = d.hostMem := rfl
@[simp] theorem note_devMem (d : Dev) (p ev n : Nat) (x : SampleItem) : (d.note p ev n x).devMem = d.devMem := rfl
@[simp] theorem note_modState (d : Dev) (p ev n : Nat) (x : SampleItem) : (d.note p ev n x).modState = d.modState := rfl
@[simp] theorem note_prevState (d : Dev) (p ev n : Nat) (x : SampleItem) : (d.note p ev n x).prevState = d.prevState := rfl
@[simp] theorem note_transitions (d : Dev) (p ev n : Nat) (x : SampleItem) : (d.note p ev n x).transitions = d.transitions := rfl
@[simp] theorem note_units (d : Dev) (p ev n : Nat) (x : SampleItem) : (d.note p ev n x).units = d.units := rfl
@[simp] theorem note_views (d : Dev) (p ev n : Nat) (x : SampleItem) : (d.note p ev n x).views = d.views := rfl
@[simp] theorem note_rings (d : Dev) (p ev n : Nat) (x : SampleItem) : (d.note p ev n x).rings = d.rings := rfl
@[simp] theorem note_attnqs (d : Dev) (p ev n : Nat) (x : SampleItem) : (d.note p ev n x).attnqs = d.attnqs := rfl
@[simp] theorem note_emu (d : Dev) (p ev n : Nat) (x : SampleItem) : (d.note p ev n x).emu = d.emu := rfl
@[simp] theorem note_emuSeq (d : Dev) (p ev n : Nat) (x : SampleItem) : (d.note p ev n x).emuSeq = d.emuSeq := rfl
@[simp] theorem note_msix (d : Dev) (p ev n : Nat) (x : SampleItem) : (d.note p ev n x).msix = d.msix := rfl
@[simp] theorem note_hiLatch (d : Dev) (p ev n : Nat) (x : SampleItem) : (d.note p ev n x).hiLatch = d.hiLatch := rfl
@[simp] theorem note_time (d : Dev) (p ev n : Nat) (x : SampleItem) : (d.note p ev n x).time = d.time := rfl
@[simp] theorem note_syncs (d : Dev) (p ev n : Nat) (x : SampleItem) : (d.note p ev n x).syncs = d.syncs := rfl
@[simp] theorem note_launches (d : Dev) (p ev n : Nat) (x : SampleItem) : (d.note p ev n x).launches = d.launches := rfl
@[simp] theorem note_lateLaunches (d : Dev) (p ev n : Nat) (x : SampleItem) : (d.note p ev n x).lateLaunches = d.lateLaunches := rfl
@[simp] theorem note_ctxs (d : Dev) (p ev n : Nat) (x : SampleItem) : (d.note p ev n x).ctxs = d.ctxs := rfl
@[simp] theorem note_jobs (d : Dev) (p ev n : Nat) (x : SampleItem) : (d.note p ev n x).jobs = d.jobs := rfl
@[simp] theorem note_nextJob (d : Dev) (p ev n : Nat) (x : SampleItem) : (d.note p ev n x).nextJob = d.nextJob := rfl
@[simp] theorem note_cores (d : Dev) (p ev n : Nat) (x : SampleItem) : (d.note p ev n x).cores = d.cores := rfl
@[simp] theorem note_tidies (d : Dev) (p ev n : Nat) (x : SampleItem) : (d.note p ev n x).tidies = d.tidies := rfl
@[simp] theorem note_groups (d : Dev) (p ev n : Nat) (x : SampleItem) : (d.note p ev n x).groups = d.groups := rfl
@[simp] theorem note_regions (d : Dev) (p ev n : Nat) (x : SampleItem) : (d.note p ev n x).regions = d.regions := rfl
@[simp] theorem note_deferred (d : Dev) (p ev n : Nat) (x : SampleItem) : (d.note p ev n x).deferred = d.deferred := rfl
@[simp] theorem note_ctxOps (d : Dev) (p ev n : Nat) (x : SampleItem) : (d.note p ev n x).ctxOps = d.ctxOps := rfl
@[simp] theorem note_frostSaves (d : Dev) (p ev n : Nat) (x : SampleItem) : (d.note p ev n x).frostSaves = d.frostSaves := rfl
@[simp] theorem note_poison (d : Dev) (p ev n : Nat) (x : SampleItem) : (d.note p ev n x).poison = d.poison := rfl
@[simp] theorem note_badShares (d : Dev) (p ev n : Nat) (x : SampleItem) : (d.note p ev n x).badShares = d.badShares := rfl
@[simp] theorem note_goodLines (d : Dev) (p ev n : Nat) (x : SampleItem) : (d.note p ev n x).goodLines = d.goodLines := rfl
@[simp] theorem note_tracks (d : Dev) (p ev n : Nat) (x : SampleItem) : (d.note p ev n x).tracks = d.tracks := rfl
@[simp] theorem note_drams (d : Dev) (p ev n : Nat) (x : SampleItem) : (d.note p ev n x).drams = d.drams := rfl
@[simp] theorem note_routers (d : Dev) (p ev n : Nat) (x : SampleItem) : (d.note p ev n x).routers = d.routers := rfl
@[simp] theorem note_merges (d : Dev) (p ev n : Nat) (x : SampleItem) : (d.note p ev n x).merges = d.merges := rfl
@[simp] theorem note_netReqs (d : Dev) (p ev n : Nat) (x : SampleItem) : (d.note p ev n x).netReqs = d.netReqs := rfl
@[simp] theorem note_learned (d : Dev) (p ev n : Nat) (x : SampleItem) : (d.note p ev n x).learned = d.learned := rfl
@[simp] theorem note_regionIndex (d : Dev) (p ev n : Nat) (x : SampleItem) : (d.note p ev n x).regionIndex = d.regionIndex := rfl
@[simp] theorem note_trackStack (d : Dev) (p ev n : Nat) (x : SampleItem) : (d.note p ev n x).trackStack = d.trackStack := rfl
@[simp] theorem note_placing (d : Dev) (p ev n : Nat) (x : SampleItem) : (d.note p ev n x).placing = d.placing := rfl
@[simp] theorem note_geom (d : Dev) (p ev n : Nat) (x : SampleItem) : (d.note p ev n x).geom = d.geom := rfl
@[simp] theorem note_procs (d : Dev) (p ev n : Nat) (x : SampleItem) : (d.note p ev n x).procs = d.procs := rfl
@[simp] theorem note_fwSelect (d : Dev) (p ev n : Nat) (x : SampleItem) : (d.note p ev n x).fwSelect = d.fwSelect := rfl
@[simp] theorem note_log (d : Dev) (p ev n : Nat) (x : SampleItem) : (d.note p ev n x).log = d.log := rfl
@[simp] theorem note_cccs (d : Dev) (p ev n : Nat) (x : SampleItem) : (d.note p ev n x).cccs = d.cccs := rfl
@[simp] theorem note_lease (d : Dev) (p ev n : Nat) (x : SampleItem) : (d.note p ev n x).lease = d.lease := rfl
@[simp] theorem note_sec (d : Dev) (p ev n : Nat) (x : SampleItem) : (d.note p ev n x).sec = d.sec := rfl
@[simp] theorem note_ent (d : Dev) (p ev n : Nat) (x : SampleItem) : (d.note p ev n x).ent = d.ent := rfl
@[simp] theorem note_flt (d : Dev) (p ev n : Nat) (x : SampleItem) : (d.note p ev n x).flt = d.flt := rfl
@[simp] theorem note_pwr (d : Dev) (p ev n : Nat) (x : SampleItem) : (d.note p ev n x).pwr = d.pwr := rfl
@[simp] theorem note_smu (d : Dev) (p ev n : Nat) (x : SampleItem) : (d.note p ev n x).smu = d.smu := rfl
@[simp] theorem note_cnts (d : Dev) (p ev n : Nat) (x : SampleItem) : (d.note p ev n x).cnts = d.cnts := rfl
@[simp] theorem note_reader (d : Dev) (p ev n : Nat) (x : SampleItem) : (d.note p ev n x).reader = d.reader := rfl
@[simp] theorem note_hostIf (d : Dev) (p ev n : Nat) (x : SampleItem) : (d.note p ev n x).hostIf = d.hostIf := rfl
@[simp] theorem note_ports (d : Dev) (p ev n : Nat) (x : SampleItem) : (d.note p ev n x).ports = d.ports := rfl
@[simp] theorem note_boot (d : Dev) (p ev n : Nat) (x : SampleItem) : (d.note p ev n x).boot = d.boot := rfl
@[simp] theorem note_pins (d : Dev) (p ev n : Nat) (x : SampleItem) : (d.note p ev n x).pins = d.pins := rfl
@[simp] theorem noteFor_sync (d : Dev) (c : Option Nat) (p ev n : Nat) (x : SampleItem) (i : Nat) : (d.noteFor c p ev n x).sync i = d.sync i := rfl
@[simp] theorem note_sync (d : Dev) (p ev n : Nat) (x : SampleItem) (i : Nat) : (d.note p ev n x).sync i = d.sync i := rfl
@[simp] theorem noteFor_ring (d : Dev) (c : Option Nat) (p ev n : Nat) (x : SampleItem) (i : Nat) : (d.noteFor c p ev n x).ring i = d.ring i := rfl
@[simp] theorem note_ring (d : Dev) (p ev n : Nat) (x : SampleItem) (i : Nat) : (d.note p ev n x).ring i = d.ring i := rfl
@[simp] theorem noteFor_core (d : Dev) (c : Option Nat) (p ev n : Nat) (x : SampleItem) (i : Nat) : (d.noteFor c p ev n x).core i = d.core i := rfl
@[simp] theorem note_core (d : Dev) (p ev n : Nat) (x : SampleItem) (i : Nat) : (d.note p ev n x).core i = d.core i := rfl
@[simp] theorem noteFor_ctx (d : Dev) (c : Option Nat) (p ev n : Nat) (x : SampleItem) (i : Nat) : (d.noteFor c p ev n x).ctx i = d.ctx i := rfl
@[simp] theorem note_ctx (d : Dev) (p ev n : Nat) (x : SampleItem) (i : Nat) : (d.note p ev n x).ctx i = d.ctx i := rfl
@[simp] theorem noteFor_tidy (d : Dev) (c : Option Nat) (p ev n : Nat) (x : SampleItem) (i : Nat) : (d.noteFor c p ev n x).tidy i = d.tidy i := rfl
@[simp] theorem note_tidy (d : Dev) (p ev n : Nat) (x : SampleItem) (i : Nat) : (d.note p ev n x).tidy i = d.tidy i := rfl
@[simp] theorem noteFor_port (d : Dev) (c : Option Nat) (p ev n : Nat) (x : SampleItem) (i : Nat) : (d.noteFor c p ev n x).port i = d.port i := rfl
@[simp] theorem note_port (d : Dev) (p ev n : Nat) (x : SampleItem) (i : Nat) : (d.note p ev n x).port i = d.port i := rfl
@[simp] theorem noteFor_attnq (d : Dev) (c : Option Nat) (p ev n : Nat) (x : SampleItem) (i : Nat) : (d.noteFor c p ev n x).attnq i = d.attnq i := rfl
@[simp] theorem note_attnq (d : Dev) (p ev n : Nat) (x : SampleItem) (i : Nat) : (d.note p ev n x).attnq i = d.attnq i := rfl
@[simp] theorem noteFor_proc (d : Dev) (c : Option Nat) (p ev n : Nat) (x : SampleItem) (i : Nat) : (d.noteFor c p ev n x).proc i = d.proc i := rfl
@[simp] theorem note_proc (d : Dev) (p ev n : Nat) (x : SampleItem) (i : Nat) : (d.note p ev n x).proc i = d.proc i := rfl
@[simp] theorem noteFor_cnt (d : Dev) (c : Option Nat) (p ev n : Nat) (x : SampleItem) (i : Nat) : (d.noteFor c p ev n x).cnt i = d.cnt i := rfl
@[simp] theorem note_cnt (d : Dev) (p ev n : Nat) (x : SampleItem) (i : Nat) : (d.note p ev n x).cnt i = d.cnt i := rfl
@[simp] theorem noteFor_view (d : Dev) (c : Option Nat) (p ev n : Nat) (x : SampleItem) (i : Nat) : (d.noteFor c p ev n x).view i = d.view i := rfl
@[simp] theorem note_view (d : Dev) (p ev n : Nat) (x : SampleItem) (i : Nat) : (d.note p ev n x).view i = d.view i := rfl
@[simp] theorem noteFor_epoch (d : Dev) (c : Option Nat) (p ev n : Nat) (x : SampleItem) (i : Nat) : (d.noteFor c p ev n x).epoch i = d.epoch i := rfl
@[simp] theorem note_epoch (d : Dev) (p ev n : Nat) (x : SampleItem) (i : Nat) : (d.note p ev n x).epoch i = d.epoch i := rfl
@[simp] theorem noteFor_hdr (d : Dev) (c : Option Nat) (p ev n : Nat) (x : SampleItem) (i : Nat) : (d.noteFor c p ev n x).hdr i = d.hdr i := rfl
@[simp] theorem note_hdr (d : Dev) (p ev n : Nat) (x : SampleItem) (i : Nat) : (d.note p ev n x).hdr i = d.hdr i := rfl

end Sys2Proof.Machine
end

