-- ==== Sys2Proof/Laws/Ops.lean ====
section
/-! SUPPORT. What each shared operation can do, said once: running a command, raising a record, forming a completion, taking a command from a ring. -/

namespace Sys2Proof.Machine

/-! ### Running a command -/

theorem run_eq (s : State) (t : Nat) (f : Dev → Dev) : s.run t f = .next (s.endsWith t (f (s.dueAt t))) := rfl

/-- A module with work has work when it goes ACTIVE from FROST. -/
theorem working_anew (d : Dev) (h : d.working = true) : ({ d.move .active with frostSaves := [] } : Dev).working = true := by
  simp only [Dev.working, Dev.anyRunning, Dev.anyJob, Dev.saving, move_jobs, move_ctxs, Bool.or_eq_true, List.any_eq_true, Bool.and_eq_true, List.contains_nil, Bool.not_false, Bool.and_true] at h ⊢
  exact h.imp id (fun ⟨e, he, hs, _⟩ => ⟨e, he, hs⟩)

/-- What `settle` leaves agrees with the work in progress. -/
theorem settle_coherent (d : Dev) : d.settle.coherent = true := by
  unfold Dev.settle Dev.coherent
  split
  · rename_i h
    split
    · rename_i hw
      generalize hz : ({ d.move .active with frostSaves := [] } : Dev) = z
      have h1 : z.working = true := hz ▸ working_anew d hw
      have h2 : z.modState = .active := by rw [← hz]; rfl
      simp [h1, h2]
    · rename_i hw; simp [h, hw]
  · rename_i h
    split
    · rename_i hw; simp [h, hw]
    · rename_i hw
      have : (d.move .frost).working = d.working := by unfold Dev.move Dev.working Dev.anyRunning Dev.anyJob Dev.saving; dsimp only; split <;> rfl
      simp [this, hw]
  · rename_i h1 h2
    have h1' : (d.modState == ModState.frost) = false := by simpa using h1
    have h2' : (d.modState == ModState.active) = false := by simpa using h2
    simp [h1', h2']

/-- A device that agrees with its work settles where it is. -/
theorem settle_of_coherent {d : Dev} (h : d.coherent = true) : d.settle = d := by
  unfold Dev.settle
  split
  · rename_i hm
    have : d.working = false := by simpa [Dev.coherent, hm] using h
    simp [this]
  · rename_i hm
    have : d.working = true := by simpa [Dev.coherent, hm] using h
    simp [this]
  · rfl

/-- Outside FROST and ACTIVE nothing settles. -/
theorem settle_of_state {d : Dev} (h1 : d.modState ≠ .frost) (h2 : d.modState ≠ .active) : d.settle = d := by
  unfold Dev.settle; split <;> simp_all

theorem ring_endsWith (s : State) (t : Nat) (d : Dev) (r : Nat) : (s.endsWith t d).dev.ring r = d.ring r := by unfold Dev.ring; simp

@[simp] theorem coherent_setNow (d : Dev) (n : Nat) : ({ d with now := n } : Dev).coherent = d.coherent := rfl

/-! ### Rings -/

@[simp] theorem ring_updRing_self (d : Dev) (r : Nat) (f : Ring → Ring) : (d.updRing r f).ring r = f (d.ring r) := by simp [Dev.updRing, Dev.ring]

theorem ring_updRing_ne (d : Dev) {r x : Nat} (f : Ring → Ring) (h : r ≠ x) : (d.updRing r f).ring x = d.ring x := by
  simp [Dev.updRing, Dev.ring, getD_put_ne _ _ _ h]

/-- A record raised changes the attention queues only. -/
theorem raiseFor_form (d : Dev) (fn cls code page w v : Nat) : ∃ q, d.raiseFor fn cls code page w v = { d with attnqs := q } := by
  unfold Dev.raiseFor; dsimp only; split <;> exact ⟨_, rfl⟩

/-- A completion formed goes to the completion store, or waits at its ring. -/
theorem complete_form (d : Dev) (r : Nat) (c : Completion) : ∃ g l, d.complete r c = { d with rings := g, lease := l } := by
  unfold Dev.complete; split <;> exact ⟨_, _, rfl⟩

/-- While host writes go on, a completion waits at its ring. -/
theorem complete_running {d : Dev} (h : d.hostStopped = false) (r : Nat) (c : Completion) :
    d.complete r c = d.updRing r (fun g => { g with held := g.held ++ [c] }) := by simp [Dev.complete, h]

/-- An answer touches rings, the completion store and, for ILLEGAL_IN_STATE, the attention queues. -/
theorem answer_form (d : Dev) (c : Cmd) (code r0 r1 : Nat) : ∃ g l q, d.answer c code r0 r1 = { d with rings := g, lease := l, attnqs := q } := by
  unfold Dev.answer
  split
  · exact ⟨_, _, _, rfl⟩
  · dsimp only
    obtain ⟨q, hq⟩ : ∃ q, (if code = cIllegal then d.logCmd c code else d) = { d with attnqs := q } := by
      split
      · exact raiseFor_form ..
      · exact ⟨_, rfl⟩
    rw [hq]
    obtain ⟨g, hg⟩ : ∃ g, (if c.interim then ({ d with attnqs := q } : Dev).updRing c.ring (fun r => { r with awaiting := r.awaiting - 1 }) else { d with attnqs := q }) = { d with attnqs := q, rings := g } := by
      split <;> exact ⟨_, rfl⟩
    rw [hg]
    obtain ⟨g', l, h⟩ := complete_form ({ d with attnqs := q, rings := g } : Dev) c.ring (({ d with attnqs := q, rings := g } : Dev).completion c code true r0 r1)
    exact ⟨g', l, q, by rw [h]⟩

/-- An unknown opcode completed at the head of a ring touches rings and the completion store. -/
theorem answer_badFormat_form (d : Dev) (c : Cmd) (r0 r1 : Nat) : ∃ g l, d.answer c cBadFormat r0 r1 = { d with rings := g, lease := l } := by
  unfold Dev.answer
  split
  · exact ⟨_, _, rfl⟩
  · have : ¬ cBadFormat = cIllegal := by decide
    simp only [this, if_false]
    split
    · obtain ⟨g, l, h⟩ := complete_form (d.updRing c.ring (fun r => { r with awaiting := r.awaiting - 1 })) c.ring ((d.updRing c.ring (fun r => { r with awaiting := r.awaiting - 1 })).completion c cBadFormat true r0 r1)
      exact ⟨g, l, by rw [h]; rfl⟩
    · exact complete_form ..

/-- Completing the unknown opcodes at a ring's head touches rings and the completion store only. -/
theorem fetchUnknown_form (n r : Nat) (d : Dev) : ∃ g l, d.fetchUnknown n r = { d with rings := g, lease := l } := by
  suffices h : ∀ n (d : Dev), ∃ g l, Dev.fetchUnknown n r d = { d with rings := g, lease := l } from h n d
  intro n
  induction n with
  | zero => intro d; exact ⟨_, _, rfl⟩
  | succ n ih =>
    intro d
    unfold Dev.fetchUnknown
    split
    · exact ⟨_, _, rfl⟩
    · split
      · exact ⟨_, _, rfl⟩
      · rename_i c _ _
        obtain ⟨g, l, h⟩ := answer_badFormat_form (d.advanceHead r) c 0 0
        obtain ⟨g', l', h'⟩ := ih ((d.advanceHead r).answer c cBadFormat 0 0)
        exact ⟨g', l', by rw [h', h]; rfl⟩

@[simp] theorem fetchUnknown_now (n r : Nat) (d : Dev) : (d.fetchUnknown n r).now = d.now := by obtain ⟨g, l, h⟩ := fetchUnknown_form n r d; rw [h]
@[simp] theorem fetchUnknown_reply (n r : Nat) (d : Dev) : (d.fetchUnknown n r).reply = d.reply := by obtain ⟨g, l, h⟩ := fetchUnknown_form n r d; rw [h]
@[simp] theorem fetchUnknown_free (n r : Nat) (d : Dev) : (d.fetchUnknown n r).free = d.free := by obtain ⟨g, l, h⟩ := fetchUnknown_form n r d; rw [h]
@[simp] theorem fetchUnknown_hostMem (n r : Nat) (d : Dev) : (d.fetchUnknown n r).hostMem = d.hostMem := by obtain ⟨g, l, h⟩ := fetchUnknown_form n r d; rw [h]
@[simp] theorem fetchUnknown_devMem (n r : Nat) (d : Dev) : (d.fetchUnknown n r).devMem = d.devMem := by obtain ⟨g, l, h⟩ := fetchUnknown_form n r d; rw [h]
@[simp] theorem fetchUnknown_modState (n r : Nat) (d : Dev) : (d.fetchUnknown n r).modState = d.modState := by obtain ⟨g, l, h⟩ := fetchUnknown_form n r d; rw [h]
@[simp] theorem fetchUnknown_prevState (n r : Nat) (d : Dev) : (d.fetchUnknown n r).prevState = d.prevState := by obtain ⟨g, l, h⟩ := fetchUnknown_form n r d; rw [h]
@[simp] theorem fetchUnknown_transitions (n r : Nat) (d : Dev) : (d.fetchUnknown n r).transitions = d.transitions := by obtain ⟨g, l, h⟩ := fetchUnknown_form n r d; rw [h]
@[simp] theorem fetchUnknown_units (n r : Nat) (d : Dev) : (d.fetchUnknown n r).units = d.units := by obtain ⟨g, l, h⟩ := fetchUnknown_form n r d; rw [h]
@[simp] theorem fetchUnknown_views (n r : Nat) (d : Dev) : (d.fetchUnknown n r).views = d.views := by obtain ⟨g, l, h⟩ := fetchUnknown_form n r d; rw [h]
@[simp] theorem fetchUnknown_attnqs (n r : Nat) (d : Dev) : (d.fetchUnknown n r).attnqs = d.attnqs := by obtain ⟨g, l, h⟩ := fetchUnknown_form n r d; rw [h]
@[simp] theorem fetchUnknown_emu (n r : Nat) (d : Dev) : (d.fetchUnknown n r).emu = d.emu := by obtain ⟨g, l, h⟩ := fetchUnknown_form n r d; rw [h]
@[simp] theorem fetchUnknown_msix (n r : Nat) (d : Dev) : (d.fetchUnknown n r).msix = d.msix := by obtain ⟨g, l, h⟩ := fetchUnknown_form n r d; rw [h]
@[simp] theorem fetchUnknown_hiLatch (n r : Nat) (d : Dev) : (d.fetchUnknown n r).hiLatch = d.hiLatch := by obtain ⟨g, l, h⟩ := fetchUnknown_form n r d; rw [h]
@[simp] theorem fetchUnknown_time (n r : Nat) (d : Dev) : (d.fetchUnknown n r).time = d.time := by obtain ⟨g, l, h⟩ := fetchUnknown_form n r d; rw [h]
@[simp] theorem fetchUnknown_syncs (n r : Nat) (d : Dev) : (d.fetchUnknown n r).syncs = d.syncs := by obtain ⟨g, l, h⟩ := fetchUnknown_form n r d; rw [h]
@[simp] theorem fetchUnknown_launches (n r : Nat) (d : Dev) : (d.fetchUnknown n r).launches = d.launches := by obtain ⟨g, l, h⟩ := fetchUnknown_form n r d; rw [h]
@[simp] theorem fetchUnknown_lateLaunches (n r : Nat) (d : Dev) : (d.fetchUnknown n r).lateLaunches = d.lateLaunches := by obtain ⟨g, l, h⟩ := fetchUnknown_form n r d; rw [h]
@[simp] theorem fetchUnknown_ctxs (n r : Nat) (d : Dev) : (d.fetchUnknown n r).ctxs = d.ctxs := by obtain ⟨g, l, h⟩ := fetchUnknown_form n r d; rw [h]
@[simp] theorem fetchUnknown_jobs (n r : Nat) (d : Dev) : (d.fetchUnknown n r).jobs = d.jobs := by obtain ⟨g, l, h⟩ := fetchUnknown_form n r d; rw [h]
@[simp] theorem fetchUnknown_nextJob (n r : Nat) (d : Dev) : (d.fetchUnknown n r).nextJob = d.nextJob := by obtain ⟨g, l, h⟩ := fetchUnknown_form n r d; rw [h]
@[simp] theorem fetchUnknown_cores (n r : Nat) (d : Dev) : (d.fetchUnknown n r).cores = d.cores := by obtain ⟨g, l, h⟩ := fetchUnknown_form n r d; rw [h]
@[simp] theorem fetchUnknown_tidies (n r : Nat) (d : Dev) : (d.fetchUnknown n r).tidies = d.tidies := by obtain ⟨g, l, h⟩ := fetchUnknown_form n r d; rw [h]
@[simp] theorem fetchUnknown_groups (n r : Nat) (d : Dev) : (d.fetchUnknown n r).groups = d.groups := by obtain ⟨g, l, h⟩ := fetchUnknown_form n r d; rw [h]
@[simp] theorem fetchUnknown_regions (n r : Nat) (d : Dev) : (d.fetchUnknown n r).regions = d.regions := by obtain ⟨g, l, h⟩ := fetchUnknown_form n r d; rw [h]
@[simp] theorem fetchUnknown_deferred (n r : Nat) (d : Dev) : (d.fetchUnknown n r).deferred = d.deferred := by obtain ⟨g, l, h⟩ := fetchUnknown_form n r d; rw [h]
@[simp] theorem fetchUnknown_ctxOps (n r : Nat) (d : Dev) : (d.fetchUnknown n r).ctxOps = d.ctxOps := by obtain ⟨g, l, h⟩ := fetchUnknown_form n r d; rw [h]
@[simp] theorem fetchUnknown_poison (n r : Nat) (d : Dev) : (d.fetchUnknown n r).poison = d.poison := by obtain ⟨g, l, h⟩ := fetchUnknown_form n r d; rw [h]
@[simp] theorem fetchUnknown_badShares (n r : Nat) (d : Dev) : (d.fetchUnknown n r).badShares = d.badShares := by obtain ⟨g, l, h⟩ := fetchUnknown_form n r d; rw [h]
@[simp] theorem fetchUnknown_goodLines (n r : Nat) (d : Dev) : (d.fetchUnknown n r).goodLines = d.goodLines := by obtain ⟨g, l, h⟩ := fetchUnknown_form n r d; rw [h]
@[simp] theorem fetchUnknown_tracks (n r : Nat) (d : Dev) : (d.fetchUnknown n r).tracks = d.tracks := by obtain ⟨g, l, h⟩ := fetchUnknown_form n r d; rw [h]
@[simp] theorem fetchUnknown_drams (n r : Nat) (d : Dev) : (d.fetchUnknown n r).drams = d.drams := by obtain ⟨g, l, h⟩ := fetchUnknown_form n r d; rw [h]
@[simp] theorem fetchUnknown_routers (n r : Nat) (d : Dev) : (d.fetchUnknown n r).routers = d.routers := by obtain ⟨g, l, h⟩ := fetchUnknown_form n r d; rw [h]
@[simp] theorem fetchUnknown_merges (n r : Nat) (d : Dev) : (d.fetchUnknown n r).merges = d.merges := by obtain ⟨g, l, h⟩ := fetchUnknown_form n r d; rw [h]
@[simp] theorem fetchUnknown_netReqs (n r : Nat) (d : Dev) : (d.fetchUnknown n r).netReqs = d.netReqs := by obtain ⟨g, l, h⟩ := fetchUnknown_form n r d; rw [h]
@[simp] theorem fetchUnknown_learned (n r : Nat) (d : Dev) : (d.fetchUnknown n r).learned = d.learned := by obtain ⟨g, l, h⟩ := fetchUnknown_form n r d; rw [h]
@[simp] theorem fetchUnknown_regionIndex (n r : Nat) (d : Dev) : (d.fetchUnknown n r).regionIndex = d.regionIndex := by obtain ⟨g, l, h⟩ := fetchUnknown_form n r d; rw [h]
@[simp] theorem fetchUnknown_trackStack (n r : Nat) (d : Dev) : (d.fetchUnknown n r).trackStack = d.trackStack := by obtain ⟨g, l, h⟩ := fetchUnknown_form n r d; rw [h]
@[simp] theorem fetchUnknown_placing (n r : Nat) (d : Dev) : (d.fetchUnknown n r).placing = d.placing := by obtain ⟨g, l, h⟩ := fetchUnknown_form n r d; rw [h]
@[simp] theorem fetchUnknown_geom (n r : Nat) (d : Dev) : (d.fetchUnknown n r).geom = d.geom := by obtain ⟨g, l, h⟩ := fetchUnknown_form n r d; rw [h]
@[simp] theorem fetchUnknown_procs (n r : Nat) (d : Dev) : (d.fetchUnknown n r).procs = d.procs := by obtain ⟨g, l, h⟩ := fetchUnknown_form n r d; rw [h]
@[simp] theorem fetchUnknown_fwSelect (n r : Nat) (d : Dev) : (d.fetchUnknown n r).fwSelect = d.fwSelect := by obtain ⟨g, l, h⟩ := fetchUnknown_form n r d; rw [h]
@[simp] theorem fetchUnknown_log (n r : Nat) (d : Dev) : (d.fetchUnknown n r).log = d.log := by obtain ⟨g, l, h⟩ := fetchUnknown_form n r d; rw [h]
@[simp] theorem fetchUnknown_cccs (n r : Nat) (d : Dev) : (d.fetchUnknown n r).cccs = d.cccs := by obtain ⟨g, l, h⟩ := fetchUnknown_form n r d; rw [h]
@[simp] theorem fetchUnknown_sec (n r : Nat) (d : Dev) : (d.fetchUnknown n r).sec = d.sec := by obtain ⟨g, l, h⟩ := fetchUnknown_form n r d; rw [h]
@[simp] theorem fetchUnknown_ent (n r : Nat) (d : Dev) : (d.fetchUnknown n r).ent = d.ent := by obtain ⟨g, l, h⟩ := fetchUnknown_form n r d; rw [h]
@[simp] theorem fetchUnknown_flt (n r : Nat) (d : Dev) : (d.fetchUnknown n r).flt = d.flt := by obtain ⟨g, l, h⟩ := fetchUnknown_form n r d; rw [h]
@[simp] theorem fetchUnknown_pwr (n r : Nat) (d : Dev) : (d.fetchUnknown n r).pwr = d.pwr := by obtain ⟨g, l, h⟩ := fetchUnknown_form n r d; rw [h]
@[simp] theorem fetchUnknown_smu (n r : Nat) (d : Dev) : (d.fetchUnknown n r).smu = d.smu := by obtain ⟨g, l, h⟩ := fetchUnknown_form n r d; rw [h]
@[simp] theorem fetchUnknown_cnts (n r : Nat) (d : Dev) : (d.fetchUnknown n r).cnts = d.cnts := by obtain ⟨g, l, h⟩ := fetchUnknown_form n r d; rw [h]
@[simp] theorem fetchUnknown_reader (n r : Nat) (d : Dev) : (d.fetchUnknown n r).reader = d.reader := by obtain ⟨g, l, h⟩ := fetchUnknown_form n r d; rw [h]
@[simp] theorem fetchUnknown_hostIf (n r : Nat) (d : Dev) : (d.fetchUnknown n r).hostIf = d.hostIf := by obtain ⟨g, l, h⟩ := fetchUnknown_form n r d; rw [h]
@[simp] theorem fetchUnknown_ports (n r : Nat) (d : Dev) : (d.fetchUnknown n r).ports = d.ports := by obtain ⟨g, l, h⟩ := fetchUnknown_form n r d; rw [h]
@[simp] theorem fetchUnknown_boot (n r : Nat) (d : Dev) : (d.fetchUnknown n r).boot = d.boot := by obtain ⟨g, l, h⟩ := fetchUnknown_form n r d; rw [h]
@[simp] theorem fetchUnknown_pins (n r : Nat) (d : Dev) : (d.fetchUnknown n r).pins = d.pins := by obtain ⟨g, l, h⟩ := fetchUnknown_form n r d; rw [h]

/-- The completions that wait at a ring stay, in their order, before those of the unknown opcodes. -/
theorem answer_held_prefix (d : Dev) (c : Cmd) (code r0 r1 r : Nat) : (d.ring r).held <+: ((d.answer c code r0 r1).ring r).held := by
  have hrf : ∀ (d : Dev) fn cls k page w v, (d.raiseFor fn cls k page w v).rings = d.rings := by
    intro d fn cls k page w v; obtain ⟨q, h⟩ := raiseFor_form d fn cls k page w v; rw [h]
  have hu : ∀ (d : Dev) (x : Nat) (f : Ring → Ring), (∀ g, g.held <+: (f g).held) → (d.ring r).held <+: ((d.updRing x f).ring r).held := by
    intro d x f hf
    by_cases hx : x = r
    · subst hx; simpa using hf _
    · exact (ring_updRing_ne d f hx).symm ▸ List.prefix_rfl
  have hc : ∀ (d : Dev) (x : Nat) (y : Completion), (d.ring r).held <+: ((d.complete x y).ring r).held := by
    intro d x y
    unfold Dev.complete
    split
    · exact List.prefix_rfl
    · exact hu d x _ (fun g => List.prefix_append _ _)
  unfold Dev.answer
  split
  · exact List.prefix_rfl
  · refine List.IsPrefix.trans ?_ (hc _ _ _)
    have h1 : (d.ring r).held = ((if code = cIllegal then d.logCmd c code else d).ring r).held := by
      split
      · unfold Dev.logCmd Dev.ring; rw [hrf]
      · rfl
    rw [h1]
    by_cases hi : c.interim = true
    · simp only [hi, if_true]
      exact hu _ _ _ (fun g => List.prefix_rfl)
    · simp only [hi]
      exact List.prefix_rfl

theorem fetchUnknown_held_prefix (n x r : Nat) (d : Dev) : (d.ring r).held <+: ((d.fetchUnknown n x).ring r).held := by
  suffices h : ∀ n (d : Dev), (d.ring r).held <+: ((Dev.fetchUnknown n x d).ring r).held from h n d
  intro n
  induction n with
  | zero => intro d; exact List.prefix_rfl
  | succ n ih =>
    intro d
    unfold Dev.fetchUnknown
    split
    · exact List.prefix_rfl
    · split
      · exact List.prefix_rfl
      · rename_i c _ _
        refine List.IsPrefix.trans ?_ (ih _)
        refine List.IsPrefix.trans ?_ (answer_held_prefix _ c _ _ _ r)
        by_cases hx : x = r
        · subst hx; simp [Dev.advanceHead]
        · exact (ring_updRing_ne d _ hx).symm ▸ List.prefix_rfl

/-- What a completion formed, and an unknown opcode taken, leave of a ring: everything but SQ_HEAD, the completions that wait and the count of final records awaited. -/
theorem answer_ring_keeps {α : Type} (φ : Ring → α) (hφ : ∀ (g : Ring) a b c, φ { g with sqHead := a, held := b, awaiting := c } = φ g)
    (d : Dev) (c : Cmd) (code r0 r1 r : Nat) : φ ((d.answer c code r0 r1).ring r) = φ (d.ring r) := by
  have hu : ∀ (d : Dev) (x : Nat) (f : Ring → Ring), (∀ g, φ (f g) = φ g) → φ ((d.updRing x f).ring r) = φ (d.ring r) := by
    intro d x f hf
    by_cases hx : x = r
    · subst hx; simpa using hf _
    · rw [ring_updRing_ne d f hx]
  have hc : ∀ (d : Dev) (x : Nat) (y : Completion), φ ((d.complete x y).ring r) = φ (d.ring r) := by
    intro d x y
    unfold Dev.complete
    split
    · rfl
    · exact hu d x _ (fun g => hφ g g.sqHead _ g.awaiting)
  unfold Dev.answer
  split
  · rfl
  · refine (hc _ _ _).trans ?_
    have h1 : φ ((if code = cIllegal then d.logCmd c code else d).ring r) = φ (d.ring r) := by
      split
      · obtain ⟨q, h⟩ := raiseFor_form d c.fn 1 code (0x1000 + c.ring) (c.opcode + 65536 * c.index) (c.tag + (if c.auth then c.keySlot * 2 ^ 32 else 0))
        unfold Dev.logCmd; rw [h]; rfl
      · rfl
    rw [← h1]
    by_cases hi : c.interim = true
    · simp only [hi, if_true]
      exact hu _ _ _ (fun g => hφ g g.sqHead g.held _)
    · simp only [hi]
      rfl

theorem fetchUnknown_ring_keeps {α : Type} (φ : Ring → α) (hφ : ∀ (g : Ring) a b c, φ { g with sqHead := a, held := b, awaiting := c } = φ g)
    (n x r : Nat) (d : Dev) : φ ((d.fetchUnknown n x).ring r) = φ (d.ring r) := by
  suffices h : ∀ n (d : Dev), φ ((Dev.fetchUnknown n x d).ring r) = φ (d.ring r) from h n d
  intro n
  induction n with
  | zero => intro d; rfl
  | succ n ih =>
    intro d
    unfold Dev.fetchUnknown
    split
    · rfl
    · split
      · rfl
      · rename_i c _ _
        rw [ih, answer_ring_keeps φ hφ]
        by_cases hx : x = r
        · subst hx
          rw [Dev.advanceHead, ring_updRing_self]
          exact hφ _ _ _ _
        · rw [Dev.advanceHead, ring_updRing_ne d _ hx]

@[simp] theorem fetchUnknown_cqTail (n x r : Nat) (d : Dev) : ((d.fetchUnknown n x).ring r).cqTail = (d.ring r).cqTail :=
  fetchUnknown_ring_keeps Ring.cqTail (fun _ _ _ _ => rfl) n x r d

/-- What an authentication check leaves: the security core's counts and the attention queues are all it touches. -/
theorem authFailure_form (d : Dev) (c : Cmd) (code : Nat) : ∃ x q, d.authFailure c code = { d with sec := x, attnqs := q } := by
  unfold Dev.authFailure Dev.logCmd Dev.raise
  dsimp only
  obtain ⟨q, hq⟩ := raiseFor_form ({ d with sec := { d.sec with fails := satAdd 31 d.sec.fails 1, total := satAdd 0xFFFF d.sec.total 1 } } : Dev) c.fn 1 code (0x1000 + c.ring) (c.opcode + 65536 * c.index) (c.tag + (if c.auth then c.keySlot * 2 ^ 32 else 0))
  rw [hq]
  split
  · obtain ⟨q', hq'⟩ := raiseFor_form ({ d with sec := { d.sec with fails := satAdd 31 d.sec.fails 1, total := satAdd 0xFFFF d.sec.total 1, level := satAdd 15 d.sec.level 1, lockoutEnd := d.deviceTime + lockoutTicks (satAdd 15 d.sec.level 1), lockoutLen := lockoutTicks (satAdd 15 d.sec.level 1) }, attnqs := q } : Dev) 0 1 cAuthLockout UnitId.sec.page (satAdd 15 d.sec.level 1) (d.deviceTime + lockoutTicks (satAdd 15 d.sec.level 1))
    exact ⟨_, q', hq'⟩
  · exact ⟨_, q, rfl⟩

/-- Steps 1 to 7 touch the security core's state and the attention queues. -/
theorem preCheck_form (d : Dev) (c : Cmd) (sp : CmdSpec) (cond : Option Nat) : ∃ x q, (d.preCheck c sp cond).1 = { d with sec := x, attnqs := q } := by
  unfold Dev.preCheck
  repeat' split
  all_goals first
    | exact ⟨_, _, rfl⟩
    | exact authFailure_form ..

/-- A command that its ring brings to execution runs its row's body, and the unknown opcodes behind it are completed. -/
theorem ringCmd_of_admits {d : Dev} {r : Nat} {c : Cmd} {spec : Cmd → CmdSpec} {mine : Cmd → Bool} {cond : Cmd → Option Nat} {body : Cmd → Dev → Dev}
    (hproc : (spec { ring := r, fn := 0, index := 0, word := 0 }).proc = (spec c).proc) (h : d.admits r c (spec c) (cond c)) (hm : mine c = true) :
    d.ringCmd r spec mine cond body = (body c (d.taken r c (spec c) (cond c))).fetchUnknown 65536 r := by
  obtain ⟨hh, ho, ha, hp, hk⟩ := h
  have hw : d.waitingHead (spec { ring := r, fn := 0, index := 0, word := 0 }) r mine = none := by
    unfold Dev.waitingHead
    rw [hproc]
    split
    · rfl
    · rename_i p hpp
      have := hp p hpp
      simp only [Dev.procBusy, Bool.or_eq_false_iff, Bool.not_eq_false'] at this
      obtain ⟨⟨h1, h2⟩, h3⟩ := this
      have h3 : (d.proc p).waiting = [] := by simpa using h3
      simp [h1, h2, h3]
  have hpre : (d.advanceHead r).preCheck c (spec c) (cond c) = (d.taken r c (spec c) (cond c), none) := Prod.ext rfl ha
  generalize hd' : d.taken r c (spec c) (cond c) = d' at hk hpre ⊢
  have hprocs : d'.procs = d.procs := by
    obtain ⟨x, q, hx⟩ := preCheck_form (d.advanceHead r) c (spec c) (cond c)
    rw [hpre] at hx
    exact (congrArg Dev.procs hx).trans rfl
  have hstep : d'.stepEight c (spec c) body = body c d' := by
    unfold Dev.stepEight
    split
    · rfl
    · rename_i p hpp
      have hb : d'.procBusy p = false := by
        have := hp p hpp
        simpa [Dev.procBusy, Dev.proc, hprocs] using this
      rw [hb]
      by_cases hadm : (spec c).admin = true
      · simp [hadm, hk hadm]
      · simp [hadm]
  unfold Dev.ringCmd
  rw [hw]
  simp only [hh, ho, hm, beq_self_eq_true, Bool.and_self, if_true, hpre, hstep]

/-! ### Accesses to DRAM -/

/-- What counting an access at the stack interfaces can change. -/
theorem stackTraffic_form (d : Dev) (ctx : Option Nat) (a n : Nat) (write : Bool) : ∃ r o, d.stackTraffic ctx a n write = { d with reader := r, occ := o } := by
  unfold Dev.stackTraffic
  split
  · exact ⟨d.reader, d.occ, rfl⟩
  · generalize granulePieces a n = l
    induction l generalizing d with
    | nil => exact ⟨d.reader, d.occ, rfl⟩
    | cons x l ih =>
      simp only [List.foldl_cons]
      obtain ⟨r, o, h⟩ := ih (({ d with reader := { d.reader with traffic := d.reader.traffic.put (d.stackOf x.1) _ } } : Dev).noteFor ctx (UnitId.dram (d.stackOf x.1)).page (if write then 0x481 else 0x480) x.2)
      exact ⟨r, o, by rw [h]; rfl⟩

/-- What an access that takes its tracking entries and frees them within the step can change. -/
theorem trackPass_form (d : Dev) (ctx : Option Nat) (a n : Nat) (write : Bool) : ∃ k r o, d.trackPass ctx a n write = { d with tracks := k, reader := r, occ := o } := by
  unfold Dev.trackPass
  split
  · obtain ⟨r, o, h⟩ := stackTraffic_form _ ctx a n write
    exact ⟨_, r, o, h⟩
  · exact ⟨d.tracks, d.reader, d.occ, rfl⟩

end Sys2Proof.Machine
end

