-- ==== Sys2Proof/Laws/Links.lean ====
section
/-! SUPPORT. What the loss and the disabling of ports leaves alone (Table 19-8). -/

namespace Sys2Proof.Machine

/-- Two devices agree on the module state, the fault state, the jobs, the contexts, the lease, the time, the units' headers and the security core. -/
def Dev.linkSame (d e : Dev) : Prop := e.modState = d.modState ∧ e.flt = d.flt ∧ e.jobs = d.jobs ∧ e.ctxs = d.ctxs ∧ e.lease = d.lease ∧ e.now = d.now ∧ e.units = d.units ∧ e.sec = d.sec

theorem linkSame_refl (d : Dev) : d.linkSame d := ⟨rfl, rfl, rfl, rfl, rfl, rfl, rfl, rfl⟩

theorem linkSame_trans {d e f : Dev} (h : d.linkSame e) (g : e.linkSame f) : d.linkSame f :=
  ⟨g.1.trans h.1, g.2.1.trans h.2.1, g.2.2.1.trans h.2.2.1, g.2.2.2.1.trans h.2.2.2.1, g.2.2.2.2.1.trans h.2.2.2.2.1, g.2.2.2.2.2.1.trans h.2.2.2.2.2.1, g.2.2.2.2.2.2.1.trans h.2.2.2.2.2.2.1, g.2.2.2.2.2.2.2.trans h.2.2.2.2.2.2.2⟩

theorem linkSame_foldl {α : Type} (f : Dev → α → Dev) (hf : ∀ (d : Dev) (a : α), d.linkSame (f d a)) (l : List α) (d : Dev) : d.linkSame (l.foldl f d) := by
  induction l generalizing d with
  | nil => exact linkSame_refl d
  | cons a l ih => exact linkSame_trans (hf d a) (ih (f d a))

theorem linkSame_writeHost (d : Dev) (a : Nat) (bs : List Byte) : d.linkSame (d.writeHost a bs) := ⟨rfl, rfl, rfl, rfl, rfl, rfl, rfl, rfl⟩
theorem linkSame_updXq (d : Dev) (p : Nat) (f : XferRing → XferRing) : d.linkSame (d.updXq p f) := ⟨rfl, rfl, rfl, rfl, rfl, rfl, rfl, rfl⟩
theorem linkSame_updPort (d : Dev) (p : Nat) (f : Port → Port) : d.linkSame (d.updPort p f) := ⟨rfl, rfl, rfl, rfl, rfl, rfl, rfl, rfl⟩
theorem linkSame_xqWake (d : Dev) (p : Nat) : d.linkSame (d.xqWake p) := ⟨rfl, rfl, rfl, rfl, rfl, rfl, rfl, rfl⟩
theorem linkSame_treeChanged (d : Dev) : d.linkSame d.treeChanged := ⟨rfl, rfl, rfl, rfl, rfl, rfl, rfl, rfl⟩
theorem linkSame_writeDev (d : Dev) (a : Nat) (bs : List Byte) : d.linkSame (d.writeDev a bs) := ⟨rfl, rfl, rfl, rfl, rfl, rfl, rfl, rfl⟩

theorem linkSame_raise (d : Dev) (cls code page w v : Nat) : d.linkSame (d.raise cls code page w v) := by
  obtain ⟨q, hq⟩ := raiseFor_form d 0 cls code page w v
  unfold Dev.raise
  rw [hq]
  exact ⟨rfl, rfl, rfl, rfl, rfl, rfl, rfl, rfl⟩

theorem linkSame_writeXferCompletion (d : Dev) (p : Nat) (x : Xfer) (code : Nat) : d.linkSame (d.writeXferCompletion p x code) := by
  unfold Dev.writeXferCompletion
  dsimp only
  generalize leBytes 2 _ ++ leBytes 2 _ ++ leBytes 4 _ ++ leBytes 8 _ = bs
  have h : ∀ e, (d.writeHost ((d.port p).xq.cqBase + 16 * (d.port p).xq.cqTail) bs).linkSame e → d.linkSame e := fun e => linkSame_trans (linkSame_writeHost d _ bs)
  split
  · exact h _ (linkSame_trans (linkSame_updXq _ p _) (linkSame_xqWake _ p))
  · exact h _ (linkSame_updXq _ p _)

theorem linkSame_xqFlush (n p : Nat) (d : Dev) : d.linkSame (Dev.xqFlush n p d) := by
  induction n generalizing d with
  | zero => exact linkSame_refl d
  | succ n ih =>
    unfold Dev.xqFlush
    dsimp only
    split
    · exact linkSame_refl d
    · split
      · exact linkSame_refl d
      · split
        · exact linkSame_refl d
        · exact linkSame_trans (linkSame_writeXferCompletion d p _ _) (ih _)

theorem linkSame_freeBytes (d : Dev) (a n : Nat) : d.linkSame (d.freeBytes a n) :=
  linkSame_foldl _ (fun e _ => linkSame_trans (e := e.takeFree.2) ⟨rfl, rfl, rfl, rfl, rfl, rfl, rfl, rfl⟩ (linkSame_writeDev _ _ _)) _ d

theorem linkSame_loseStarted (d : Dev) (p code : Nat) (sel : Xfer → Bool) : d.linkSame (d.loseStarted p code sel) := by
  unfold Dev.loseStarted
  dsimp only
  refine linkSame_trans (linkSame_updXq d p _) (linkSame_foldl _ (fun (e : Dev) (x : Xfer) => ?_) _ _)
  split
  · exact linkSame_freeBytes e _ _
  · exact linkSame_refl e

theorem linkSame_loseXfers (d : Dev) (p code : Nat) (sel : Xfer → Bool) : d.linkSame (d.loseXfers p code sel) := by
  unfold Dev.loseXfers
  dsimp only
  exact linkSame_trans (linkSame_loseStarted d p code sel) (linkSame_trans (linkSame_updXq _ p _) (linkSame_xqFlush _ _ _))

theorem linkSame_partnerRecord (d : Dev) (p peer code id : Nat) : d.linkSame (d.partnerRecord p peer code id) := by
  unfold Dev.partnerRecord Dev.class5
  exact linkSame_trans (linkSame_raise d _ _ _ _ _) (linkSame_treeChanged _)

/-- Disabling every port changes ports, transfer completions, messages, records and the memories only. -/
theorem disablePorts_same (d : Dev) : d.linkSame d.disablePorts := by
  unfold Dev.disablePorts
  refine linkSame_foldl _ (fun e p => ?_) _ d
  unfold Dev.disablePort
  dsimp only
  refine linkSame_trans ?_ (linkSame_updPort _ p _)
  unfold Dev.detachPort
  dsimp only
  have keep : ∀ x : Dev, x.linkSame (if isEth p = true then (e.port p).verified.foldl (fun d e => d.dropPeer p e.1 e.2) x
      else match (e.port p).partner with
        | some y => if (e.port p).pstate = .loopback then x else x.partnerRecord p 0 2 y.deviceId
        | none => x) := by
    intro x
    split
    · refine linkSame_foldl _ (fun y q => ?_) _ _
      unfold Dev.dropPeer
      dsimp only
      exact linkSame_trans (linkSame_updPort y p _) (linkSame_partnerRecord _ _ _ _ _)
    · split
      · split
        · exact linkSame_refl x
        · exact linkSame_partnerRecord x _ _ _ _
      · exact linkSame_refl x
  split
  · exact linkSame_trans (linkSame_updPort e p _) (linkSame_trans (keep _) (linkSame_loseXfers _ _ _ _))
  · exact linkSame_trans (linkSame_updPort e p _) (keep _)

theorem linkSame_logRec (d : Dev) (proc level point code data : Nat) : d.linkSame (d.logRec proc level point code data) := by
  unfold Dev.logRec
  split
  · exact ⟨rfl, rfl, rfl, rfl, rfl, rfl, rfl, rfl⟩
  · unfold Dev.log' Dev.logAt
    dsimp only
    split
    · exact linkSame_trans (e := { d with log := d.log.push { seq := d.log.seq + 1, time := d.deviceTime, proc, level, point, code, data } }) ⟨rfl, rfl, rfl, rfl, rfl, rfl, rfl, rfl⟩ (linkSame_raise _ _ _ _ _ _)
    · exact ⟨rfl, rfl, rfl, rfl, rfl, rfl, rfl, rfl⟩

/-- A fatal error outside RESET, when none is being written: DUMPING, with its cause and the state it left; jobs and contexts stay as they are. -/
theorem fatal_facts (d : Dev) (cause page kind address syndrome : Nat) (h1 : d.modState ≠ .reset) (h2 : d.flt.fatal = none) :
    (d.fatal cause page kind address syndrome).modState = .dumping ∧ (d.fatal cause page kind address syndrome).flt.fatal.map (fun f => (f.cause, f.prev)) = some (cause, d.modState.code)
    ∧ (d.fatal cause page kind address syndrome).jobs = d.jobs ∧ (d.fatal cause page kind address syndrome).ctxs = d.ctxs := by
  unfold Dev.fatal
  rw [if_neg h1]
  dsimp only
  have hz : d.linkSame ((d.logFault page kind sevFatal 0x7F address 0 syndrome).class15 cause d.deviceTime) := linkSame_trans (linkSame_logRec _ _ _ _ _ _) (linkSame_raise _ _ _ _ _ _)
  generalize (d.logFault page kind sevFatal 0x7F address 0 syndrome).class15 cause d.deviceTime = z at hz ⊢
  obtain ⟨g1, g2, g3, g4, g5, g6, g7, g8⟩ := hz
  simp only [g2, h2]
  obtain ⟨k1, k2, k3, k4, k5, k6, k7, k8⟩ := disablePorts_same (({ z with flt := { d.flt with dump := d.flt.dump.map (Dump.countFatal), fatal := some { cause, time := z.deviceTime, prev := z.modState.code, later := (d.flt.dump.map Dump.countFatal).isSome, record := z.faultData z.deviceTime page kind sevFatal 0x7F address 0 syndrome 1 } } } : Dev).move .dumping)
  refine ⟨k1.trans rfl, ?_, k3.trans g3, k4.trans g4⟩
  rw [k2]
  show some (cause, z.modState.code) = _
  rw [g1]

/-- The detach of a port changes what the disabling of one changes. -/
theorem detachPort_same (d : Dev) (p code : Nat) : d.linkSame (d.detachPort p code) := by
  unfold Dev.detachPort
  dsimp only
  have keep : ∀ x : Dev, x.linkSame (if isEth p = true then (d.port p).verified.foldl (fun d e => d.dropPeer p e.1 e.2) x
      else match (d.port p).partner with
        | some y => if (d.port p).pstate = .loopback then x else x.partnerRecord p 0 2 y.deviceId
        | none => x) := by
    intro x
    split
    · refine linkSame_foldl _ (fun y q => ?_) _ _
      unfold Dev.dropPeer
      dsimp only
      exact linkSame_trans (linkSame_updPort y p _) (linkSame_partnerRecord _ _ _ _ _)
    · split
      · split
        · exact linkSame_refl x
        · exact linkSame_partnerRecord x _ _ _ _
      · exact linkSame_refl x
  split
  · exact linkSame_trans (linkSame_updPort d p _) (linkSame_trans (keep _) (linkSame_loseXfers _ _ _ _))
  · exact linkSame_trans (linkSame_updPort d p _) (keep _)

theorem resetPort_same (d : Dev) (p : Nat) : d.linkSame (d.resetPort p) := by
  unfold Dev.resetPort
  dsimp only
  exact linkSame_trans (detachPort_same d p _) (linkSame_trans (linkSame_loseStarted _ p _ _) (linkSame_trans (linkSame_updXq _ p _) (linkSame_trans (linkSame_xqFlush _ p _) (linkSame_updPort _ p _))))

/-! ### Ports -/

@[simp] theorem port_updPort_self (d : Dev) (p : Nat) (f : Port → Port) : (d.updPort p f).port p = f (d.port p) := by simp [Dev.updPort, Dev.port]
theorem port_updPort_ne (d : Dev) {p x : Nat} (f : Port → Port) (h : p ≠ x) : (d.updPort p f).port x = d.port x := by simp [Dev.updPort, Dev.port, getD_put_ne _ _ _ h]

@[simp] theorem port_class5 (d : Dev) (p peer code id x : Nat) : (d.class5 p peer code id).port x = d.port x := by
  unfold Dev.class5 Dev.raise
  obtain ⟨q, hq⟩ := raiseFor_form d 0 5 code (portUnit p).page (p + 256 * peer) (id % 2 ^ 64)
  rw [hq]; rfl

@[simp] theorem port_partnerRecord (d : Dev) (p peer code id x : Nat) : (d.partnerRecord p peer code id).port x = d.port x := (port_class5 d p peer code id x)

/-- An entry to UP (R452): the port is UP with its partner, and no other port changes. -/
theorem enterUp_port (d : Dev) (p : Nat) (x : Identity) :
    (d.enterUp p x).port p = { d.port p with pstate := .up, partner := some x, lastId := some x.deviceId, partnerLow := false, retrainAt := none } ∧ ∀ q, p ≠ q → (d.enterUp p x).port q = d.port q := by
  unfold Dev.enterUp
  dsimp only
  constructor
  · rw [apply_ite (fun e : Dev => e.port p)]; simp
  · intro q h
    rw [apply_ite (fun e : Dev => e.port q)]; simp [port_updPort_ne _ _ h]

/-- What a port's update leaves alone, where it leaves it alone at every port. -/
theorem port_updPort_keeps {α : Type} (φ : Port → α) (d : Dev) (p x : Nat) (f : Port → Port) (hf : ∀ g, φ (f g) = φ g) : φ ((d.updPort p f).port x) = φ (d.port x) := by
  by_cases h : p = x
  · subst h; rw [port_updPort_self, hf]
  · rw [port_updPort_ne _ _ h]

theorem port_freeBytes (d : Dev) (a n x : Nat) : (d.freeBytes a n).port x = d.port x := by
  unfold Dev.freeBytes
  generalize upFrom 0 ((n + 7) / 8) = l
  induction l generalizing d with
  | nil => rfl
  | cons i l ih => rw [List.foldl_cons, ih]; rfl

section Transfers
variable {α : Type} (φ : Port → α) (hxq : ∀ (g : Port) q, φ { g with xq := q } = φ g)
include hxq

theorem port_updXq_keeps (d : Dev) (p x : Nat) (f : XferRing → XferRing) : φ ((d.updXq p f).port x) = φ (d.port x) := port_updPort_keeps φ d p x _ (fun g => hxq g _)

theorem port_writeXferCompletion_keeps (d : Dev) (p x : Nat) (y : Xfer) (code : Nat) : φ ((d.writeXferCompletion p y code).port x) = φ (d.port x) := by
  unfold Dev.writeXferCompletion
  dsimp only
  generalize leBytes 2 _ ++ leBytes 2 _ ++ leBytes 4 _ ++ leBytes 8 _ = bs
  split
  · have hw : ∀ z : Dev, φ ((z.xqWake p).port x) = φ (z.port x) := fun z => port_updXq_keeps φ hxq z p x (fun g => { g with armed := false })
    exact (hw _).trans (port_updXq_keeps φ hxq _ p x _)
  · exact port_updXq_keeps φ hxq _ p x _

theorem port_xqFlush_keeps (n p x : Nat) (d : Dev) : φ ((Dev.xqFlush n p d).port x) = φ (d.port x) := by
  induction n generalizing d with
  | zero => rfl
  | succ n ih =>
    unfold Dev.xqFlush
    dsimp only
    split
    · rfl
    · split
      · rfl
      · split
        · rfl
        · exact (ih _).trans (port_writeXferCompletion_keeps φ hxq d p x _ _)

theorem port_loseStarted_keeps (d : Dev) (p x code : Nat) (sel : Xfer → Bool) : φ ((d.loseStarted p code sel).port x) = φ (d.port x) := by
  unfold Dev.loseStarted
  dsimp only
  have h : ∀ (l : List Xfer) (e : Dev), (l.foldl (fun (d : Dev) (x : Xfer) => if x.xop = 2 then d.freeBytes x.addr x.len else d) e).port x = e.port x := by
    intro l; induction l with
    | nil => intro e; rfl
    | cons a l ih =>
      intro e; rw [List.foldl_cons, ih]
      split
      · exact port_freeBytes e _ _ x
      · rfl
  rw [h]
  exact port_updXq_keeps φ hxq d p x _

theorem port_loseXfers_keeps (d : Dev) (p x code : Nat) (sel : Xfer → Bool) : φ ((d.loseXfers p code sel).port x) = φ (d.port x) := by
  unfold Dev.loseXfers
  dsimp only
  exact (port_xqFlush_keeps φ hxq _ p x _).trans ((port_updXq_keeps φ hxq _ p x _).trans (port_loseStarted_keeps φ hxq d p x code sel))

variable (hpe : ∀ (g : Port) q, φ { g with peers := q } = φ g)
include hpe

omit hxq in
theorem port_dropPeer_keeps (d : Dev) (p k x : Nat) (y : Peer) : φ ((d.dropPeer p k y).port x) = φ (d.port x) := by
  unfold Dev.dropPeer
  dsimp only
  rw [port_partnerRecord]
  exact port_updPort_keeps φ d p x _ (fun g => hpe g _)

/-- A detach leaves of a port what neither its partner, its retrain, its peers nor its transfer ring holds. -/
theorem port_detach_keeps (d : Dev) (p code x : Nat) :
    φ ((d.detachPort p code).port x) = φ ((d.updPort p (fun g => { g with partner := none, retrainAt := none, partnerLow := false })).port x) := by
  unfold Dev.detachPort
  dsimp only
  generalize hy : d.updPort p (fun g => { g with partner := none, retrainAt := none, partnerLow := false }) = y
  have hf : ∀ (l : List (Nat × Peer)) (z : Dev), φ ((l.foldl (fun (d : Dev) (e : Nat × Peer) => d.dropPeer p e.1 e.2) z).port x) = φ (z.port x) := by
    intro l; induction l with
    | nil => intro z; rfl
    | cons a l ih => intro z; rw [List.foldl_cons, ih, port_dropPeer_keeps φ hpe]
  have key : φ ((if isEth p = true then (d.port p).verified.foldl (fun (d : Dev) e => d.dropPeer p e.1 e.2) y
      else match (d.port p).partner with
        | some w => if (d.port p).pstate = .loopback then y else y.partnerRecord p 0 2 w.deviceId
        | none => y).port x) = φ (y.port x) := by
    split
    · exact hf _ y
    · split
      · split
        · rfl
        · rw [port_partnerRecord]
      · rfl
  split
  · exact (port_loseXfers_keeps φ hxq _ p x code _).trans key
  · exact key

end Transfers

end Sys2Proof.Machine
end

