-- ==== Sys2Proof/Laws/Resets.lean ====
section
/-! SUPPORT. What a warm reset and the release of a reset leave, said once (Table 17-8, R414). -/

namespace Sys2Proof.Machine

/-- Two devices agree on the time, the memories, the units' headers, the held dump, the key slots, the geometry, the bring-up and the pins. -/
def Dev.quiet (d e : Dev) : Prop :=
  e.now = d.now ∧ e.hostMem = d.hostMem ∧ e.devMem = d.devMem ∧ e.units = d.units ∧ e.flt.dump = d.flt.dump ∧ e.modState = d.modState
  ∧ e.sec.slots = d.sec.slots ∧ e.geom = d.geom ∧ e.boot = d.boot ∧ e.pins = d.pins ∧ e.transitions = d.transitions ∧ e.time = d.time

theorem quiet_refl (d : Dev) : d.quiet d := ⟨rfl, rfl, rfl, rfl, rfl, rfl, rfl, rfl, rfl, rfl, rfl, rfl⟩

theorem quiet_trans {d e f : Dev} (h : d.quiet e) (g : e.quiet f) : d.quiet f := by
  obtain ⟨h1, h2, h3, h4, h5, h6, h7, h8, h9, h10, h11, h12⟩ := h
  obtain ⟨g1, g2, g3, g4, g5, g6, g7, g8, g9, g10, g11, g12⟩ := g
  exact ⟨g1.trans h1, g2.trans h2, g3.trans h3, g4.trans h4, g5.trans h5, g6.trans h6, g7.trans h7, g8.trans h8, g9.trans h9, g10.trans h10, g11.trans h11, g12.trans h12⟩

theorem quiet_foldl {α : Type} (f : Dev → α → Dev) (hf : ∀ (d : Dev) (a : α), d.quiet (f d a)) (l : List α) (d : Dev) : d.quiet (l.foldl f d) := by
  induction l generalizing d with
  | nil => exact quiet_refl d
  | cons a l ih => exact quiet_trans (hf d a) (ih (f d a))

theorem quiet_raiseFor (d : Dev) (fn cls code page w v : Nat) : d.quiet (d.raiseFor fn cls code page w v) := by
  obtain ⟨q, hq⟩ := raiseFor_form d fn cls code page w v
  rw [hq]
  exact ⟨rfl, rfl, rfl, rfl, rfl, rfl, rfl, rfl, rfl, rfl, rfl, rfl⟩

theorem quiet_logAt (d : Dev) (time proc level point code data : Nat) : d.quiet (d.logAt time proc level point code data) := by
  unfold Dev.logAt Dev.raise
  dsimp only
  split
  · exact quiet_trans (e := { d with log := d.log.push { seq := d.log.seq + 1, time, proc, level, point, code, data } })
      ⟨rfl, rfl, rfl, rfl, rfl, rfl, rfl, rfl, rfl, rfl, rfl, rfl⟩ (quiet_raiseFor _ _ _ _ _ _ _)
  · exact ⟨rfl, rfl, rfl, rfl, rfl, rfl, rfl, rfl, rfl, rfl, rfl, rfl⟩

theorem quiet_logRec (d : Dev) (proc level point code data : Nat) : d.quiet (d.logRec proc level point code data) := by
  unfold Dev.logRec
  split
  · exact ⟨rfl, rfl, rfl, rfl, rfl, rfl, rfl, rfl, rfl, rfl, rfl, rfl⟩
  · exact quiet_logAt d _ _ _ _ _ _

theorem quiet_logCe (d : Dev) (p : CeRun → Bool) : d.quiet (d.logCe p) := by
  unfold Dev.logCe
  exact quiet_trans (e := { d with flt := { d.flt with ce := d.flt.ce.filter (fun x => !p x) } })
    ⟨rfl, rfl, rfl, rfl, rfl, rfl, rfl, rfl, rfl, rfl, rfl, rfl⟩ (quiet_foldl _ (fun _ _ => quiet_logRec _ _ _ _ _ _) _ _)

theorem quiet_closeExtended (d : Dev) : d.quiet d.closeExtended := by
  unfold Dev.closeExtended
  split
  · exact quiet_refl d
  · exact ⟨rfl, rfl, rfl, rfl, rfl, rfl, rfl, rfl, rfl, rfl, rfl, rfl⟩

theorem quiet_endUnlock (d : Dev) : d.quiet d.endUnlock := by
  unfold Dev.endUnlock Dev.warnUnlock
  split
  · exact quiet_refl d
  · dsimp only
    refine quiet_trans ?_ (quiet_logRec _ _ _ _ _ _)
    refine quiet_trans ?_ (quiet_closeExtended _)
    exact ⟨rfl, rfl, rfl, rfl, rfl, rfl, rfl, rfl, rfl, rfl, rfl, rfl⟩

theorem quiet_flushErrq (d : Dev) (p : Nat) : d.quiet (d.flushErrq p) := by
  unfold Dev.flushErrq
  split
  · exact quiet_refl d
  · dsimp only
    refine quiet_trans (e := { d with cccs := _ }) ?_ (quiet_foldl _ (fun _ _ => quiet_logAt _ _ _ _ _ _ _) _ _)
    exact ⟨rfl, rfl, rfl, rfl, rfl, rfl, rfl, rfl, rfl, rfl, rfl, rfl⟩

theorem getD_foldl_put {α : Type} (g : Nat → α) (x : α) (ps : List Nat) (t : Tab α) (p : Nat) :
    (ps.foldl (fun (t : Tab α) p => t.put p (g p)) t).getD p x = if p ∈ ps then g p else t.getD p x := by
  induction ps generalizing t with
  | nil => simp
  | cons a ps ih =>
    rw [List.foldl_cons, ih]
    by_cases h : p ∈ ps
    · simp [h]
    · by_cases ha : a = p
      · subst ha; simp [h]
      · have : ¬ p = a := fun hh => ha hh.symm
        simp [h, this, getD_put_ne _ _ _ ha]

theorem get?_mapVals {α β : Type} (f : α → β) (l : Tab α) (p : Nat) :
    (Tab.get? (l.map (fun (e : Nat × α) => (e.1, f e.2)) : Tab β) p) = (l.get? p).map f := by
  induction l with
  | nil => rfl
  | cons a l ih =>
    obtain ⟨k, v⟩ := a
    simp only [List.map_cons, Tab.get?]
    by_cases h : k = p
    · simp only [h, if_true]; rfl
    · simp only [h, if_false]; exact ih

/-- The epochs after every page is reset: that of each page in the tree, and of each that has been, increments once (R29). -/
theorem resetUnits_epoch (d : Dev) (p : Nat) :
    (d.resetUnits.getD p {}).epoch = if p ∈ (UnitId.subtree d.geo .root).map UnitId.page ∨ (d.units.get? p).isSome then nextEpoch (d.epoch p) else 1 := by
  unfold Dev.resetUnits
  rw [getD_foldl_put (fun p => ({ epoch := nextEpoch (d.epoch p), prev := d.epoch p, changedAt := d.now } : UnitHdr))]
  by_cases h : p ∈ (UnitId.subtree d.geo .root).map UnitId.page
  · simp only [h, if_true, true_or]
  · simp only [h, if_false, false_or]
    unfold Tab.getD
    rw [get?_mapVals (fun e : UnitHdr => ({ epoch := nextEpoch e.epoch, prev := e.epoch, changedAt := d.now } : UnitHdr))]
    unfold Dev.epoch Dev.hdr Tab.getD
    cases d.units.get? p <;> rfl

/-- What a warm reset leaves: RESET, DRAM, host memory, the dump and the key slots; nothing of jobs, contexts, rings and regions; the epochs one on. -/
theorem warmReset_facts (d : Dev) :
    let w := d.warmReset
    w.modState = .reset ∧ w.prevState = d.modState.code ∧ w.now = d.now ∧ w.hostMem = d.hostMem ∧ w.devMem = d.devMem.filter (fun c => isDram c.1)
    ∧ w.jobs = [] ∧ w.ctxs = [] ∧ w.rings = [] ∧ w.regions = [] ∧ w.cores = [] ∧ w.attnqs = [] ∧ w.launches = [] ∧ w.lease.status = .none
    ∧ w.flt.dump = d.flt.dump ∧ w.sec.slots = d.sec.slots ∧ w.boot = d.boot ∧ w.pins = d.pins
    ∧ (∀ p, w.epoch p = if p ∈ (UnitId.subtree d.geo .root).map UnitId.page ∨ (d.units.get? p).isSome then nextEpoch (d.epoch p) else 1) := by
  have h1 : d.quiet (d.endUnlock.logCe (fun _ => true)) := quiet_trans (quiet_endUnlock d) (quiet_logCe _ _)
  generalize he : d.endUnlock.logCe (fun _ => true) = e at h1
  have h2 : (e.move .reset).quiet ((upFrom 3 4).foldl (fun d p => d.flushErrq p) (e.move .reset)) := quiet_foldl _ (fun _ _ => quiet_flushErrq _ _) _ _
  have hp : ((upFrom 3 4).foldl (fun d p => d.flushErrq p) (e.move .reset)).prevState = (e.move .reset).prevState := by
    have hq : ∀ (x : Dev) p, (x.flushErrq p).prevState = x.prevState := by
      intro x p
      have hl : ∀ (l : List LogRec) (y : Dev), (l.foldl (fun d r => d.logAt r.time r.proc r.level r.point r.code r.data) y).prevState = y.prevState := by
        intro l
        induction l with
        | nil => intro y; rfl
        | cons a l ih =>
          intro y
          rw [List.foldl_cons, ih]
          unfold Dev.logAt Dev.raise
          dsimp only
          split
          · obtain ⟨q, h⟩ := raiseFor_form ({ y with log := y.log.push { seq := y.log.seq + 1, time := a.time, proc := a.proc, level := a.level, point := a.point, code := a.code, data := a.data } } : Dev) 0 1 0x303 (procPage a.proc) (a.proc + 65536 * (a.point % 65536)) (y.log.seq + 1)
            rw [h]
          · rfl
      unfold Dev.flushErrq
      split
      · rfl
      · exact hl _ _
    have : ∀ (l : List Nat) (x : Dev), (l.foldl (fun d p => d.flushErrq p) x).prevState = x.prevState := by
      intro l; induction l with
      | nil => intro x; rfl
      | cons a l ih => intro x; rw [List.foldl_cons, ih, hq]
    exact this _ _
  unfold Dev.warmReset
  rw [he]
  dsimp only
  generalize hf : (upFrom 3 4).foldl (fun d p => d.flushErrq p) (e.move .reset) = f at h2 hp
  have hm : e.move .reset = { e with modState := .reset, prevState := e.modState.code, transitions := (e.transitions + 1) % 2 ^ 16 } := rfl
  rw [hm] at h2 hp
  obtain ⟨a1, a2, a3, a4, a5, a6, a7, a8, a9, a10, a11, a12⟩ := h1
  obtain ⟨b1, b2, b3, b4, b5, b6, b7, b8, b9, b10, b11, b12⟩ := h2
  dsimp only at b1 b2 b3 b4 b5 b6 b7 b8 b9 b10 hp
  have hk : f.sec.kept.slots = f.sec.slots := rfl
  have hg : f.geo = d.geo := by unfold Dev.geo; rw [b8, a8]
  have hep : ∀ p, f.epoch p = d.epoch p := by intro p; unfold Dev.epoch Dev.hdr; rw [b4, a4]
  refine ⟨b6, by rw [hp, a6], b1.trans a1, b2.trans a2, by rw [b3, a3], rfl, rfl, rfl, rfl, rfl, rfl, rfl, rfl, b5.trans a5, (hk.trans b7).trans a7, b9.trans a9, b10.trans a10, ?_⟩
  intro p
  unfold Dev.epoch Dev.hdr
  dsimp only
  rw [resetUnits_epoch, hg, hep, b4.trans a4]
  rfl

/-- The release of a reset: BOOT; a warm bring-up from stage 2 or, after a boot failure, one from stage 1. -/
theorem releaseReset_facts (d : Dev) :
    let w := d.releaseReset
    w.modState = .boot ∧ w.prevState = d.modState.code ∧ w.transitions = 0 ∧ w.boot.failReason = 0 ∧ w.boot.stage = (if d.boot.failReason = 0 then 2 else 1) ∧ w.boot.warm = decide (d.boot.failReason = 0)
    ∧ w.devMem = d.devMem ∧ w.hostMem = d.hostMem ∧ w.jobs = d.jobs ∧ w.ctxs = d.ctxs ∧ w.rings = d.rings ∧ w.now = d.now ∧ w.units = d.units ∧ w.flt = d.flt ∧ w.sec = d.sec := by
  unfold Dev.releaseReset Dev.enterBoot
  dsimp only
  refine ⟨rfl, rfl, rfl, ?_, ?_, ?_, rfl, rfl, rfl, rfl, rfl, rfl, rfl, rfl, rfl⟩ <;> split <;> simp_all

/-- A reset of the whole module leaves a bring-up under way over the memories, the dump and the keys that it keeps. -/
theorem released_facts (d : Dev) :
    let w := d.warmReset.releaseReset
    w.modState = .boot ∧ w.prevState = 0 ∧ w.transitions = 0 ∧ w.boot.failReason = 0 ∧ w.boot.stage = (if d.boot.failReason = 0 then 2 else 1) ∧ w.boot.warm = decide (d.boot.failReason = 0)
    ∧ w.devMem = d.devMem.filter (fun c => isDram c.1) ∧ w.hostMem = d.hostMem ∧ w.jobs = [] ∧ w.ctxs = [] ∧ w.rings = [] ∧ w.now = d.now ∧ w.flt.dump = d.flt.dump ∧ w.sec.slots = d.sec.slots
    ∧ (∀ p, w.epoch p = if p ∈ (UnitId.subtree d.geo .root).map UnitId.page ∨ (d.units.get? p).isSome then nextEpoch (d.epoch p) else 1) := by
  obtain ⟨a1, a2, a3, a4, a5, a6, a7, a8, a9, a10, a11, a12, a13, a14, a15, a16, a17, a18⟩ := warmReset_facts d
  obtain ⟨b1, b2, b3, b4, b5, b6, b7, b8, b9, b10, b11, b12, b13, b14, b15⟩ := releaseReset_facts d.warmReset
  dsimp only
  refine ⟨b1, by rw [b2, a1]; rfl, b3, b4, by rw [b5, a16], by rw [b6, a16], b7.trans a5, b8.trans a4, b9.trans a6, b10.trans a7, b11.trans a8, b12.trans a3, by rw [b14, a14], by rw [b15, a15], ?_⟩
  intro p
  rw [← a18 p]
  unfold Dev.epoch Dev.hdr
  rw [b13]

/-- A cold reset: RESET, device time back at its start, DRAM, the dump and the log gone, epochs 1; host memory and the key slots stay. -/
theorem coldReset_facts (d : Dev) :
    let w := d.coldReset
    w.modState = .reset ∧ w.time.running = false ∧ w.devMem = [] ∧ w.jobs = [] ∧ w.rings = [] ∧ w.flt.dump = none ∧ w.log.records = [] ∧ w.hostMem = d.hostMem ∧ w.sec.slots = d.sec.slots
    ∧ (∀ p, w.epoch p = 1) ∧ w.pins = d.pins := by
  obtain ⟨a1, a2, a3, a4, a5, a6, a7, a8, a9, a10, a11, a12, a13, a14, a15, a16, a17, a18⟩ := warmReset_facts d
  unfold Dev.coldReset
  generalize d.warmReset = w at *
  exact ⟨a1, rfl, rfl, a6, a8, rfl, rfl, a4, a15, fun _ => rfl, a17⟩

/-- The loss of VAUX33: a cold reset that the cap, the lease and the log do not outlive either; each slot's counter becomes its reserve mark. -/
theorem auxLoss_facts (d : Dev) :
    let w := d.auxLoss
    w.modState = .reset ∧ w.devMem = [] ∧ w.jobs = [] ∧ w.flt.dump = none ∧ w.pwr.cap = 1200 ∧ w.lease.status = .none ∧ w.log.seq = 0 ∧ w.hostMem = d.hostMem ∧ (∀ p, w.epoch p = 1)
    ∧ w.sec.slots = d.sec.slots.map (fun (e : Nat × KeySlot) => (e.1, { e.2 with last := e.2.reserve })) := by
  obtain ⟨c1, c2, c3, c4, c5, c6, c7, c8, c9, c10, c11⟩ := coldReset_facts d
  unfold Dev.auxLoss
  generalize d.coldReset = w at *
  refine ⟨c1, c3, c4, c6, rfl, rfl, rfl, c8, c10, ?_⟩
  rw [← c9]

/-! ### What the clock leaves of the module's state -/

/-- Expiry alone moves the module's state, from FROST, ACTIVE or SNOWPACK to ORPHANED. -/
theorem dueAt_modState (s : State) (t : Nat) :
    (s.dueAt t).modState = s.dev.modState ∨ ((s.dueAt t).modState = .orphaned ∧ (s.dev.modState = .frost ∨ s.dev.modState = .active ∨ s.dev.modState = .snowpack)) := by
  have hst : ∀ (x : Dev), x.storeHeld.modState = x.modState := by
    intro x; unfold Dev.storeHeld
    generalize x.rings.map (·.1) = rs
    induction rs generalizing x with
    | nil => rfl
    | cons r rs ih => simp only [List.foldl_cons]; rw [ih]; rfl
  have h1 : ∀ (x : Dev) k, (x.whenDue k Dev.leaseWarning).modState = x.modState := by
    intro x k; unfold Dev.whenDue Dev.atTime Dev.leaseWarning; split
    · dsimp only; split <;> rfl
    · rfl
  have h2 : ∀ (x : Dev) k, (x.whenDue k Dev.leaseExpiry).modState = x.modState ∨ ((x.whenDue k Dev.leaseExpiry).modState = .orphaned ∧ (x.modState = .frost ∨ x.modState = .active ∨ x.modState = .snowpack)) := by
    intro x k; unfold Dev.whenDue Dev.atTime; split
    · unfold Dev.leaseExpiry
      dsimp only
      split
      · generalize hy : Dev.updLease _ _ = y
        have hm : y.modState = x.modState := by rw [← hy]; rfl
        have hz : (if y.modState = .frost ∨ y.modState = .active ∨ y.modState = .snowpack then y.move .orphaned else y).modState = x.modState
            ∨ ((if y.modState = .frost ∨ y.modState = .active ∨ y.modState = .snowpack then y.move .orphaned else y).modState = .orphaned ∧ (x.modState = .frost ∨ x.modState = .active ∨ x.modState = .snowpack)) := by
          split
          · rename_i h; exact .inr ⟨by unfold Dev.move; rfl, by rw [← hm]; exact h⟩
          · exact .inl hm
        generalize (if y.modState = .frost ∨ y.modState = .active ∨ y.modState = .snowpack then y.move .orphaned else y) = z at hz ⊢
        split
        · rw [hst]; exact hz
        · exact hz
      · exact .inl rfl
    · exact .inl rfl
  have h3 : ∀ (x : Dev) k, (x.whenDue k Dev.takeoverLapse).modState = x.modState := by
    intro x k; unfold Dev.whenDue Dev.atTime Dev.takeoverLapse; split
    · dsimp only; split <;> rfl
    · rfl
  have h4 : ∀ (x : Dev), x.unlockDue.modState = x.modState := by
    intro x; unfold Dev.unlockDue; split
    · rfl
    · unfold Dev.whenDue Dev.atTime; split
      · exact (quiet_endUnlock _).2.2.2.2.2.1
      · rfl
  have hb : ∃ b, (s.clockAt t).elapse s.dev.now = b ∧ b.modState = s.dev.modState := ⟨_, rfl, rfl⟩
  obtain ⟨b, hb, hm⟩ := hb
  unfold State.dueAt Dev.deadlines
  rw [hb, h4]
  unfold Dev.leaseDue
  dsimp only
  rw [h3]
  have := h2 (b.whenDue (b.lease.setAt + 750000 * b.lease.interval) Dev.leaseWarning) ((b.whenDue (b.lease.setAt + 750000 * b.lease.interval) Dev.leaseWarning).lease.deadline + 1)
  rw [h1, hm] at this
  exact this

/-- A PF function reset leaves what a warm reset does, with the configuration space at its defaults. -/
theorem functionReset_facts (d : Dev) :
    let w := d.warmReset.resetConfig.releaseReset
    w.modState = .boot ∧ w.prevState = 0 ∧ w.transitions = 0 ∧ w.boot.failReason = 0 ∧ w.boot.stage = (if d.boot.failReason = 0 then 2 else 1) ∧ w.boot.warm = decide (d.boot.failReason = 0)
    ∧ w.devMem = d.devMem.filter (fun c => isDram c.1) ∧ w.hostMem = d.hostMem ∧ w.jobs = [] ∧ w.ctxs = [] ∧ w.rings = [] ∧ w.now = d.now ∧ w.flt.dump = d.flt.dump ∧ w.sec.slots = d.sec.slots
    ∧ (∀ p, w.epoch p = if p ∈ (UnitId.subtree d.geo .root).map UnitId.page ∨ (d.units.get? p).isSome then nextEpoch (d.epoch p) else 1) := by
  obtain ⟨a1, a2, a3, a4, a5, a6, a7, a8, a9, a10, a11, a12, a13, a14, a15, a16, a17, a18⟩ := warmReset_facts d
  obtain ⟨b1, b2, b3, b4, b5, b6, b7, b8, b9, b10, b11, b12, b13, b14, b15⟩ := releaseReset_facts d.warmReset.resetConfig
  have c : ∀ x : Dev, x.resetConfig.boot = x.boot ∧ x.resetConfig.modState = x.modState ∧ x.resetConfig.devMem = x.devMem ∧ x.resetConfig.hostMem = x.hostMem ∧ x.resetConfig.jobs = x.jobs ∧ x.resetConfig.ctxs = x.ctxs
      ∧ x.resetConfig.rings = x.rings ∧ x.resetConfig.now = x.now ∧ x.resetConfig.units = x.units ∧ x.resetConfig.flt = x.flt ∧ x.resetConfig.sec = x.sec := fun x => ⟨rfl, rfl, rfl, rfl, rfl, rfl, rfl, rfl, rfl, rfl, rfl⟩
  obtain ⟨c1, c2, c3, c4, c5, c6, c7, c8, c9, c10, c11⟩ := c d.warmReset
  dsimp only
  refine ⟨b1, by rw [b2, c2, a1]; rfl, b3, b4, by rw [b5, c1, a16], by rw [b6, c1, a16], (b7.trans c3).trans a5, (b8.trans c4).trans a4, (b9.trans c5).trans a6, (b10.trans c6).trans a7, (b11.trans c7).trans a8, (b12.trans c8).trans a3, by rw [b14, c10, a14], by rw [b15, c11, a15], ?_⟩
  intro p
  rw [← a18 p]
  unfold Dev.epoch Dev.hdr
  rw [b13, c9]

/-! ### Unit resets -/

theorem freshCore_units (d : Dev) (n : Nat) : (d.freshCore n).units = d.units := by
  unfold Dev.freshCore
  have : ∀ (l : List Nat) (x : Dev), (l.foldl (fun (d : Dev) m => { d with tidies := d.tidies.del (8 * n + m) }) x).units = x.units := by
    intro l; induction l with
    | nil => intro x; rfl
    | cons a l ih => intro x; rw [List.foldl_cons, ih]
  exact this _ _

theorem restartProc_units (d : Dev) (p : Nat) : (d.restartProc p).units = d.units := by
  unfold Dev.restartProc; dsimp only; split <;> rfl

/-- What a unit's hardware state holds is not its header. -/
theorem initUnit_units (d : Dev) (u : UnitId) : (d.initUnit u).units = d.units := by
  cases u with
  | core n => exact freshCore_units _ _
  | ccc c => exact restartProc_units _ _
  | sched => exact restartProc_units _ _
  | pwr => exact restartProc_units _ _
  | sholo k => exact (resetPort_same _ _).2.2.2.2.2.2.1
  | eth k => exact (resetPort_same _ _).2.2.2.2.2.2.1
  | _ => rfl

theorem hdr_updHdr_self (d : Dev) (p : Nat) (f : UnitHdr → UnitHdr) : (d.updHdr p f).hdr p = f (d.hdr p) := by simp [Dev.updHdr, Dev.hdr]
theorem hdr_updHdr_ne (d : Dev) {p x : Nat} (f : UnitHdr → UnitHdr) (h : p ≠ x) : (d.updHdr p f).hdr x = d.hdr x := by simp [Dev.updHdr, Dev.hdr, getD_put_ne _ _ _ h]

/-- The return of counter windows to their reset values changes no header. -/
theorem clearWindows_units (d : Dev) (us : List UnitId) : (d.clearWindows us).units = d.units := by
  unfold Dev.clearWindows
  dsimp only
  generalize us.map UnitId.page = ps
  suffices h : ∀ (l : List Nat) (x : Dev), (l.foldl (fun d p => d.sampleStore p 0xFFFFFFFF) x).units = x.units from h ps d
  intro l
  induction l with
  | nil => intro x; rfl
  | cons a l ih =>
    intro x
    rw [List.foldl_cons, ih]
    unfold Dev.sampleStore
    (repeat' split) <;> rfl

/-- The reset of a unit without units below it: RESETTING and its epoch one on; no other header changes. -/
theorem beginReset_leaf (d : Dev) (u : UnitId) (h : u.children d.geo = []) :
    (d.beginReset u).hdr u.page = { d.hdr u.page with ustate := .resetting, epoch := nextEpoch (d.hdr u.page).epoch, prev := (d.hdr u.page).epoch, changedAt := d.now }
    ∧ ∀ p, u.page ≠ p → (d.beginReset u).hdr p = d.hdr p := by
  have hs : UnitId.subtree d.geo u = [u] := by unfold UnitId.subtree; rw [h]; rfl
  have hu : (d.beginReset u).units = ((d.bumpEpoch u).updHdr u.page (fun h => { h with ustate := .resetting })).units := by
    unfold Dev.beginReset
    rw [hs]
    dsimp only
    rw [clearWindows_units]
    exact (initUnit_units _ u).trans rfl
  constructor
  · unfold Dev.hdr; rw [hu]; exact (hdr_updHdr_self _ _ _).trans (by unfold Dev.bumpEpoch; rw [hdr_updHdr_self]; rfl)
  · intro p hp; unfold Dev.hdr; rw [hu]; exact (hdr_updHdr_ne _ _ hp).trans (hdr_updHdr_ne d _ hp)

/-- A log record changes the log and, of level ERROR, the attention queues. -/
theorem logAt_form (d : Dev) (time proc level point code data : Nat) : ∃ l q, d.logAt time proc level point code data = { d with log := l, attnqs := q } := by
  unfold Dev.logAt Dev.raise
  dsimp only
  split
  · generalize d.log.push _ = lg
    obtain ⟨q, hq⟩ := raiseFor_form { d with log := lg } 0 1 0x303 (procPage proc) (proc + 65536 * (point % 65536)) (d.log.seq + 1)
    exact ⟨lg, q, hq⟩
  · exact ⟨_, d.attnqs, rfl⟩

/-- A log record of the present, or a cluster control core's buffered one. -/
theorem logRec_form (d : Dev) (proc level point code data : Nat) : ∃ c l q, d.logRec proc level point code data = { d with cccs := c, log := l, attnqs := q } := by
  unfold Dev.logRec
  split
  · exact ⟨_, d.log, d.attnqs, rfl⟩
  · obtain ⟨l, q, h⟩ := logAt_form d d.deviceTime proc level point code data
    exact ⟨d.cccs, l, q, h⟩

/-- A fatal error's two records change the log and the attention queues. -/
theorem fatalRecords_form (d : Dev) (page kind address syndrome cause time : Nat) : ∃ c l q, (d.logFault page kind sevFatal 0x7F address 0 syndrome).class15 cause time = { d with cccs := c, log := l, attnqs := q } := by
  obtain ⟨c, l, q, h⟩ := logRec_form d (d.errorProc page) lvError pointFault (sevCode sevFatal) (d.faultData d.deviceTime page kind sevFatal 0x7F address 0 syndrome 1)
  obtain ⟨q', h'⟩ := raiseFor_form { d with cccs := c, log := l, attnqs := q } 0 15 cDeviceFatal 0 cause time
  exact ⟨c, l, q', by unfold Dev.class15 Dev.raise Dev.logFault; rw [h, h']⟩

/-- What a cluster control core buffered goes to the log. -/
theorem flushErrq_form (d : Dev) (p : Nat) : ∃ c l q, d.flushErrq p = { d with cccs := c, log := l, attnqs := q } := by
  have hf : ∀ (rs : List LogRec) (x : Dev), ∃ l q, rs.foldl (fun d r => d.logAt r.time r.proc r.level r.point r.code r.data) x = { x with log := l, attnqs := q } := by
    intro rs; induction rs with
    | nil => intro x; exact ⟨x.log, x.attnqs, rfl⟩
    | cons r rs ih =>
      intro x
      obtain ⟨l, q, h⟩ := logAt_form x r.time r.proc r.level r.point r.code r.data
      obtain ⟨l', q', h'⟩ := ih { x with log := l, attnqs := q }
      exact ⟨l', q', by rw [List.foldl_cons, h, h']⟩
  unfold Dev.flushErrq
  split
  · exact ⟨d.cccs, d.log, d.attnqs, rfl⟩
  · obtain ⟨l, q, h⟩ := hf (d.cccs.getD (p - 3) {}).errq { d with cccs := d.cccs.put (p - 3) { d.cccs.getD (p - 3) {} with errq := [] } }
    exact ⟨_, l, q, h⟩

/-- The end of a restart: the processor's pages idle, its restart counted, its buffered reports logged, and the clusters parked by the power core; nothing else changes. -/
theorem endRestart_form (d : Dev) (p : Nat) : ∃ u c l q w, d.endRestart p = { d with units := u, procs := d.procs.put p { d.proc p with restarting := false, restarts := satAdd 0xFFFF (d.proc p).restarts 1 }, cccs := c, log := l, attnqs := q, pwr := w } := by
  have hu : ∀ (us : List UnitId) (x : Dev), ∃ y, us.foldl (fun d u => d.updHdr u.page (fun h => { h with ustate := .idle })) x = { x with units := y } := by
    intro us; induction us with
    | nil => intro x; exact ⟨x.units, rfl⟩
    | cons u us ih => intro x; obtain ⟨y, h⟩ := ih (x.updHdr u.page (fun h => { h with ustate := .idle })); exact ⟨y, by rw [List.foldl_cons, h]; rfl⟩
  obtain ⟨u, hu⟩ := hu (procUnits p) d
  have hc : ∃ c, ((({ d with units := u } : Dev).updProc p (fun q => { q with restarting := false })).countRestart p)
      = { d with units := u, procs := d.procs.put p { d.proc p with restarting := false, restarts := satAdd 0xFFFF (d.proc p).restarts 1 }, cccs := c } := by
    unfold Dev.countRestart
    dsimp only
    split
    · exact ⟨d.cccs, by simp [Dev.updProc, Dev.proc, put_put_self]⟩
    · exact ⟨d.cccs.put (p - 3) { d.cccs.getD (p - 3) {} with restarts := satAdd 0xFFFF (d.cccs.getD (p - 3) {}).restarts 1 }, by simp only [Dev.updProc, Dev.proc, put_put_self, getD_put_self]⟩
  obtain ⟨c, hc⟩ := hc
  obtain ⟨c', l, q, hf⟩ := flushErrq_form { d with units := u, procs := d.procs.put p { d.proc p with restarting := false, restarts := satAdd 0xFFFF (d.proc p).restarts 1 }, cccs := c } p
  unfold Dev.endRestart
  dsimp only
  rw [hu, hc, hf]
  split
  · exact ⟨u, c', l, q, _, rfl⟩
  · exact ⟨u, c', l, q, d.pwr, rfl⟩

/-- The end of a restart changes no header but that of the processor's pages. -/
theorem endRestart_units (d : Dev) (k : Nat) :
    (d.endRestart k).units = ((procUnits k).foldl (fun d u => d.updHdr u.page (fun h => { h with ustate := .idle })) d).units := by
  unfold Dev.endRestart
  dsimp only
  generalize (procUnits k).foldl (fun d u => d.updHdr u.page (fun h => { h with ustate := .idle })) d = e
  have h : (((e.updProc k (fun q => { q with restarting := false })).countRestart k).flushErrq k).units = e.units := by
    rw [(quiet_flushErrq _ k).2.2.2.1]
    unfold Dev.countRestart
    dsimp only
    split <;> rfl
  split
  · exact h
  · exact h

theorem endRestart_hdr (d : Dev) (k p : Nat) : (d.hdr p).ustate = .idle → ((d.endRestart k).hdr p).ustate = .idle := by
  intro h
  have hf : ∀ (l : List UnitId) (x : Dev), (x.hdr p).ustate = .idle → ((l.foldl (fun d u => d.updHdr u.page (fun h => { h with ustate := .idle })) x).hdr p).ustate = .idle := by
    intro l; induction l with
    | nil => intro x h; exact h
    | cons a l ih =>
      intro x hx
      rw [List.foldl_cons]
      apply ih
      by_cases e : a.page = p
      · rw [← e, hdr_updHdr_self]
      · rw [hdr_updHdr_ne _ _ e]; exact hx
  unfold Dev.hdr
  rw [endRestart_units]
  exact hf _ d h

theorem endRestart_epoch (d : Dev) (k p : Nat) : (d.endRestart k).epoch p = d.epoch p := by
  have hf : ∀ (l : List UnitId) (x : Dev), (l.foldl (fun d u => d.updHdr u.page (fun h => { h with ustate := .idle })) x).epoch p = x.epoch p := by
    intro l; induction l with
    | nil => intro x; rfl
    | cons a l ih =>
      intro x
      rw [List.foldl_cons, ih]
      unfold Dev.epoch
      by_cases e : a.page = p
      · rw [← e, hdr_updHdr_self]
      · rw [hdr_updHdr_ne _ _ e]
  unfold Dev.epoch Dev.hdr
  rw [endRestart_units]
  exact hf _ d

/-- A unit whose reset completes is IDLE. -/
theorem endUnit_idle (d : Dev) (u : UnitId) : ((d.endUnit u).hdr u.page).ustate = .idle := by
  have h0 : ((d.updHdr u.page (fun h => { h with ustate := .idle })).hdr u.page).ustate = .idle := by rw [hdr_updHdr_self]
  cases u with
  | ccc c => unfold Dev.endUnit; exact endRestart_hdr _ _ _ h0
  | sched => unfold Dev.endUnit; exact endRestart_hdr _ _ _ h0
  | pwr => unfold Dev.endUnit; exact endRestart_hdr _ _ _ h0
  | _ => unfold Dev.endUnit; exact h0

theorem endUnit_epoch (d : Dev) (u : UnitId) (p : Nat) : (d.endUnit u).epoch p = d.epoch p := by
  have h0 : ∀ v : UnitId, (d.updHdr v.page (fun h => { h with ustate := .idle })).epoch p = d.epoch p := by
    intro v
    unfold Dev.epoch
    by_cases e : v.page = p
    · rw [← e, hdr_updHdr_self]
    · rw [hdr_updHdr_ne _ _ e]
  cases u with
  | ccc c => unfold Dev.endUnit; exact (endRestart_epoch _ _ _).trans (h0 _)
  | sched => unfold Dev.endUnit; exact (endRestart_epoch _ _ _).trans (h0 _)
  | pwr => unfold Dev.endUnit; exact (endRestart_epoch _ _ _).trans (h0 _)
  | _ => unfold Dev.endUnit; exact h0 _

end Sys2Proof.Machine
end

