-- ==== Sys2Proof/Laws/Boot.lean ====
section
/-! SUPPORT. What the verification of the boot images leaves (R376, R475). -/

namespace Sys2Proof.Machine

theorem add_eq_or_of_and : ∀ a b : Nat, a &&& b = 0 → a + b = a ||| b := by
  intro a
  induction a using Nat.strongRecOn with
  | ind a ih =>
    intro b h
    by_cases ha : a = 0
    · subst ha; simp
    · have hd : (a / 2) &&& (b / 2) = 0 := by rw [← Nat.and_div_two, h]
      have h1 := ih (a / 2) (by omega) (b / 2) hd
      rw [← Nat.or_div_two] at h1
      have hm : a % 2 = 0 ∨ b % 2 = 0 := by
        have : (a &&& b).testBit 0 = false := by rw [h]; simp
        rw [Nat.testBit_and] at this
        simp only [Nat.testBit_zero, Bool.and_eq_false_iff, decide_eq_false_iff_not] at this
        omega
      have ho : (a ||| b) % 2 = a % 2 + b % 2 := by
        have : (a ||| b).testBit 0 = (a.testBit 0 || b.testBit 0) := Nat.testBit_or _ _ _
        simp only [Nat.testBit_zero] at this
        rcases Nat.mod_two_eq_zero_or_one a with x | x <;> rcases Nat.mod_two_eq_zero_or_one b with y | y <;> rcases Nat.mod_two_eq_zero_or_one (a ||| b) with z | z <;> simp_all
      omega

/-- Taking a set bit out of a mask leaves its other bits. -/
theorem bit_clear (m p i : Nat) : bit (m - (m &&& 2 ^ p)) i = (bit m i && decide (i ≠ p)) := by
  have h : (m ^^^ (m &&& 2 ^ p)) &&& (m &&& 2 ^ p) = 0 := by
    apply Nat.eq_of_testBit_eq; intro i; simp only [Nat.testBit_and, Nat.testBit_xor, Nat.zero_testBit]; cases m.testBit i <;> cases (2 ^ p).testBit i <;> rfl
  have h2 := add_eq_or_of_and _ _ h
  have h3 : (m ^^^ (m &&& 2 ^ p)) ||| (m &&& 2 ^ p) = m := by
    apply Nat.eq_of_testBit_eq; intro i; simp only [Nat.testBit_or, Nat.testBit_and, Nat.testBit_xor]; cases m.testBit i <;> cases (2 ^ p).testBit i <;> rfl
  have h4 : m - (m &&& 2 ^ p) = m ^^^ (m &&& 2 ^ p) := by omega
  unfold bit
  rw [h4, Nat.testBit_xor, Nat.testBit_and, Nat.testBit_two_pow]
  by_cases hp : p = i
  · simp [hp]
  · have : i ≠ p := fun e => hp e.symm
    simp [hp, this]

theorem bit_setBit (m p i : Nat) : bit (setBit m p) i = (bit m i || decide (p = i)) := by
  unfold bit setBit
  rw [Nat.testBit_or, Nat.testBit_two_pow]

/-- The image that a processor may start from sets its bit of the verified images, and no other; the images of other processors stay. -/
theorem bootImage_form (z : Dev) (p : Nat) (a b : Bool) : ∃ pr im, z.bootImage p a b = { z with procs := pr, boot := { z.boot with images := im } }
    ∧ (∀ q, p ≠ q → Tab.getD pr q {} = z.proc q) ∧ bit im p = ((!a && z.bootable p (z.proc p).image) || (z.proc p).other.any (fun x => !b && z.bootable p x)) ∧ ∀ i, p ≠ i → bit im i = bit z.boot.images i := by
  have hclear : ∀ i, p ≠ i → bit (z.boot.images - (z.boot.images &&& 2 ^ p)) i = bit z.boot.images i := fun i h => by rw [bit_clear]; simp [Ne.symm h]
  have hset : ∀ i, p ≠ i → bit (setBit z.boot.images p) i = bit z.boot.images i := fun i h => by rw [bit_setBit]; simp [h]
  unfold Dev.bootImage
  dsimp only
  by_cases h1 : (!a && z.bootable p (z.proc p).image) = true
  · rw [if_pos h1]
    exact ⟨z.procs, _, rfl, fun _ _ => rfl, by rw [bit_setBit, h1]; simp, hset⟩
  · rw [if_neg h1]
    rw [Bool.not_eq_true] at h1
    rw [h1]
    cases ho : (z.proc p).other with
    | none => exact ⟨z.procs, _, rfl, fun _ _ => rfl, by rw [bit_clear]; simp, hclear⟩
    | some x =>
      dsimp only
      by_cases h2 : (!b && z.bootable p x) = true
      · rw [if_pos h2]
        exact ⟨_, _, rfl, fun q hq => getD_put_ne _ _ _ hq, by rw [bit_setBit]; simp [h2], hset⟩
      · rw [if_neg h2]
        exact ⟨z.procs, _, rfl, fun _ _ => rfl, by rw [bit_clear]; simp only [Option.any_some, Bool.not_eq_true] at *; simp [h2], hclear⟩

/-- The images of several processors, each verified once. -/
theorem bootImages_form (g h : Nat → Bool) : ∀ (l : List Nat) (z : Dev), l.Nodup → ∃ pr im, l.foldl (fun (d : Dev) p => d.bootImage p (g p) (h p)) z = { z with procs := pr, boot := { z.boot with images := im } }
    ∧ ∀ p ∈ l, bit im p = ((!g p && z.bootable p (z.proc p).image) || (z.proc p).other.any (fun x => !h p && z.bootable p x)) := by
  suffices H : ∀ (l : List Nat) (z : Dev), l.Nodup → ∃ pr im, l.foldl (fun (d : Dev) p => d.bootImage p (g p) (h p)) z = { z with procs := pr, boot := { z.boot with images := im } }
      ∧ (∀ p ∈ l, bit im p = ((!g p && z.bootable p (z.proc p).image) || (z.proc p).other.any (fun x => !h p && z.bootable p x))) ∧ ∀ p, p ∉ l → bit im p = bit z.boot.images p by
    intro l z hl; obtain ⟨pr, im, e, k, _⟩ := H l z hl; exact ⟨pr, im, e, k⟩
  intro l
  induction l with
  | nil => exact fun z _ => ⟨z.procs, z.boot.images, rfl, fun p hp => absurd hp List.not_mem_nil, fun _ _ => rfl⟩
  | cons a l ih =>
    intro z hl
    rw [List.nodup_cons] at hl
    obtain ⟨pr, im, e, k1, k2, k3⟩ := bootImage_form z a (g a) (h a)
    obtain ⟨pr', im', e', m1, m2⟩ := ih { z with procs := pr, boot := { z.boot with images := im } } hl.2
    refine ⟨pr', im', by rw [List.foldl_cons, e, e'], ?_, ?_⟩
    · intro p hp
      rcases List.mem_cons.mp hp with rfl | hp
      · rw [m2 p hl.1]; exact k2
      · have hne : a ≠ p := fun e => hl.1 (e ▸ hp)
        have := k1 p hne
        rw [m1 p hp]
        show ((!g p && z.bootable p (Tab.getD pr p {}).image) || (Tab.getD pr p {}).other.any (fun x => !h p && z.bootable p x)) = _
        rw [this]
    · intro p hp
      rw [List.mem_cons, not_or] at hp
      rw [m2 p hp.2]
      exact k3 p (fun e => hp.1 e.symm)

end Sys2Proof.Machine
end

