-- ==== Sys2Proof/Laws/Counters.lean ====
section
/-! SUPPORT. What the clock does to the counters and to the freeze operations that wait for their S (R430, R438). -/

namespace Sys2Proof.Machine

/-- Two devices differ in their counter windows and in the count of lost samples alone. -/
def Dev.counted (d e : Dev) : Prop := ∃ w n, e = { d with cnts := w, reader := { d.reader with lost := n } }

theorem Dev.counted.refl (d : Dev) : d.counted d := ⟨d.cnts, d.reader.lost, rfl⟩

theorem Dev.counted.trans {d e f : Dev} (h : d.counted e) (g : e.counted f) : d.counted f := by
  obtain ⟨_, _, rfl⟩ := h
  obtain ⟨_, _, rfl⟩ := g
  exact ⟨_, _, rfl⟩

theorem counted_foldl {α : Type} (f : Dev → α → Dev) (hf : ∀ (d : Dev) (a : α), d.counted (f d a)) (l : List α) (d : Dev) : d.counted (l.foldl f d) := by
  induction l generalizing d with
  | nil => exact .refl d
  | cons a l ih => exact (hf d a).trans (ih (f d a))

theorem counted_updCnt (d : Dev) (p : Nat) (f : CntWin → CntWin) : d.counted (d.updCnt p f) := ⟨_, d.reader.lost, rfl⟩

theorem counted_wrapped (d : Dev) (p n beyond : Nat) (x : SampleItem) : d.counted (d.wrapped p n beyond x) := by
  unfold Dev.wrapped
  dsimp only
  split
  · exact counted_updCnt d p _
  · split
    · split
      · exact ⟨_, _, rfl⟩
      · exact counted_updCnt d p _
    · exact counted_updCnt d p _

theorem counted_addTo (d : Dev) (p n k : Nat) (x : SampleItem) : d.counted (d.addTo p n k x) := by
  unfold Dev.addTo
  dsimp only
  split
  · exact .refl d
  · split
    · exact counted_updCnt d p _
    · exact counted_wrapped d p n _ x

theorem counted_countEvent (d : Dev) (p ev k : Nat) (ctx : Option Nat) (x : SampleItem) : d.counted (d.countEvent p ev k ctx x) := by
  refine counted_foldl _ (fun d n => ?_) _ d
  dsimp only
  split
  · exact counted_addTo d p n k x
  · exact .refl d

theorem counted_slotCycles (d : Dev) (n k : Nat) : d.counted (d.slotCycles n k) := by
  refine counted_foldl _ (fun d s => ?_) _ d
  exact (counted_updCnt d _ _).trans (counted_countEvent _ _ _ _ _ _)

theorem counted_pageCycles (d : Dev) (x y p : Nat) : d.counted (d.pageCycles x y p) := by
  unfold Dev.pageCycles
  generalize unitOf p = o
  cases o with
  | none => exact .refl d
  | some u =>
    have base : ∀ (a b : Nat) (ctx : Option Nat) (i : SampleItem), d.counted ((d.countEvent p 1 a ctx i).countEvent p 2 b none i) :=
      fun a b ctx i => (counted_countEvent d p 1 a ctx i).trans (counted_countEvent _ p 2 b none i)
    have rest : ∀ (e : Dev) (item : SampleItem) (k : Nat) (ctx : Option Nat), e.counted (match u with
        | .core n => (e.slotCycles n k).countEvent p 0x110 (k * (16 - e.issueDuty (coreCluster e.geo n)) / 16) ctx item
        | .acc n => if (e.core n).shadowWait then e.countEvent p 0x282 k ctx item else e
        | .tidy n m => if (e.tidy (8 * n + m)).wait.isSome then e.countEvent p 0x384 k ctx item else e
        | .dram h => if 65536 ≤ (((e.tracks.getD h {}).used.map (·.2)).sum) then e.countEvent p 0x483 k none item else e
        | _ => e) := by
      intro e item k ctx
      cases u with
      | core n => exact (counted_slotCycles e n k).trans (counted_countEvent _ _ _ _ _ _)
      | acc n => dsimp only; split; exact counted_countEvent _ _ _ _ _ _; exact .refl _
      | tidy n m => dsimp only; split; exact counted_countEvent _ _ _ _ _ _; exact .refl _
      | dram n => dsimp only; split; exact counted_countEvent _ _ _ _ _ _; exact .refl _
      | _ => exact .refl e
    exact (base _ _ _ _).trans (rest _ _ _ _)

/-- The cycles between two times change the counters and the count of lost samples alone. -/
theorem counted_cycles (d : Dev) (x y : Nat) : d.counted (d.cycles x y) := by
  unfold Dev.cycles
  split
  · exact .refl d
  · obtain ⟨_, _, h⟩ := counted_foldl (fun d e => d.pageCycles x y e.1) (fun d e => counted_pageCycles d x y e.1) d.cnts d
    dsimp only
    rw [h]
    exact ⟨_, _, rfl⟩

theorem earliest_mem : ∀ (l : List FreezeOp) (o : FreezeOp), earliest l = some o → o ∈ l ∧ ∀ x ∈ l, o.s ≤ x.s
  | [], _, h => by cases h
  | a :: l, o, h => by
    unfold earliest at h
    cases hl : earliest l with
    | none =>
      have hnil : l = [] := by
        cases l with
        | nil => rfl
        | cons b l => unfold earliest at hl; cases he : earliest l <;> rw [he] at hl <;> dsimp only at hl
                      · cases hl
                      · split at hl <;> cases hl
      rw [hl] at h
      obtain rfl := Option.some.inj h
      subst hnil
      simp
    | some y =>
      rw [hl] at h
      obtain ⟨i1, i2⟩ := earliest_mem l y hl
      dsimp only at h
      split at h
      · obtain rfl := Option.some.inj h
        refine ⟨List.mem_cons_of_mem _ i1, fun x hx => ?_⟩
        rcases List.mem_cons.mp hx with rfl | hx
        · omega
        · exact i2 x hx
      · obtain rfl := Option.some.inj h
        refine ⟨List.mem_cons_self, fun x hx => ?_⟩
        rcases List.mem_cons.mp hx with rfl | hx
        · exact Nat.le_refl _
        · have := i2 x hx; omega

theorem earliest_none : ∀ (l : List FreezeOp), earliest l = none → l = []
  | [], _ => rfl
  | _ :: l, h => by
    unfold earliest at h
    cases he : earliest l <;> rw [he] at h <;> dsimp only at h
    · cases h
    · split at h <;> cases h

theorem freezeEffect_ops (d : Dev) (o : FreezeOp) : (d.freezeEffect o).reader.ops = d.reader.ops.erase o ∧ (d.freezeEffect o).now = d.now := by
  unfold Dev.freezeEffect; dsimp only; split <;> exact ⟨rfl, rfl⟩

/-- When the clock has run to now, no operation waits that has reached its S (R438). -/
theorem elapseOps_waiting : ∀ (fuel from' : Nat) (d : Dev), d.reader.ops.length ≤ fuel →
    ∀ o ∈ (Dev.elapseOps fuel from' d).reader.ops, d.now < o.s
  | 0, from', d, h => by
    intro o ho
    obtain ⟨_, _, hc⟩ := counted_cycles d from' d.now
    unfold Dev.elapseOps at ho
    rw [hc] at ho
    have hnil : d.reader.ops = [] := List.length_eq_zero_iff.mp (by omega)
    have ho' : o ∈ d.reader.ops := ho
    rw [hnil] at ho'
    cases ho'
  | fuel + 1, from', d, h => by
    unfold Dev.elapseOps
    cases he : earliest d.reader.ops with
    | none =>
      dsimp only
      obtain ⟨_, _, hc⟩ := counted_cycles d from' d.now
      intro o ho
      rw [hc] at ho
      have hnil : d.reader.ops = [] := earliest_none _ he
      have ho' : o ∈ d.reader.ops := ho
      rw [hnil] at ho'
      cases ho'
    | some q =>
      obtain ⟨hq, hall⟩ := earliest_mem _ _ he
      dsimp only
      split
      · rename_i hle
        obtain ⟨_, _, hc⟩ := counted_cycles d from' q.s
        have hn : ((d.cycles from' q.s).freezeEffect q).now = d.now := by rw [(freezeEffect_ops _ _).2, hc]
        have ho : ((d.cycles from' q.s).freezeEffect q).reader.ops = d.reader.ops.erase q := by rw [(freezeEffect_ops _ _).1, hc]
        have ih := elapseOps_waiting fuel (max from' q.s) ((d.cycles from' q.s).freezeEffect q) (by rw [ho, List.length_erase_of_mem hq]; omega)
        rw [hn] at ih
        exact ih
      · obtain ⟨_, _, hc⟩ := counted_cycles d from' d.now
        intro o ho
        rw [hc] at ho
        have := hall o ho
        omega

/-- The reader that a command of time `t` finds. -/
theorem dueAt_reader (s : State) (t : Nat) : (s.dueAt t).reader = (Dev.elapseOps s.dev.reader.ops.length s.dev.now (s.clockAt t)).reader := by
  obtain ⟨_, _, _, _, _, _, _, _, _, _, _, _, h⟩ := dueTo_deadlines ((s.clockAt t).elapse s.dev.now)
  unfold State.dueAt; rw [h]; rfl

/-- One operation waits: what the clock leaves of it (R438). -/
theorem dueAt_one (s : State) (t : Nat) (o : FreezeOp) (h : s.dev.reader.ops = [o]) :
    ((s.dueAt t).now < o.s → ∃ n, (s.dueAt t).reader = { s.dev.reader with lost := n })
    ∧ (o.s ≤ (s.dueAt t).now → o.op ≠ 2 → ∃ n, (s.dueAt t).reader =
        { s.dev.reader with lost := n, ops := [], frozen := o.op == 0, freezeTime := o.s, applied := s.dev.reader.applied ++ [o] })
    ∧ (o.s ≤ (s.dueAt t).now → o.op = 2 → ∃ n, (s.dueAt t).reader =
        { s.dev.reader with lost := n, ops := [], captured := some (o, ((s.clockAt t).cycles s.dev.now o.s).snapshot) }) := by
  rw [dueAt_reader, State.dueAt_now, h]
  have hr : (s.clockAt t).reader = s.dev.reader := rfl
  have hn : (s.clockAt t).now = max s.dev.now t := rfl
  have hl : ([o] : List FreezeOp).length = 1 := rfl
  rw [hl]
  unfold Dev.elapseOps
  have he : earliest (s.clockAt t).reader.ops = some o := by rw [hr, h]; rfl
  rw [he]
  dsimp only
  refine ⟨?_, ?_, ?_⟩
  · intro k
    rw [if_neg (by rw [hn]; omega)]
    obtain ⟨_, n, hc⟩ := counted_cycles (s.clockAt t) s.dev.now (s.clockAt t).now
    exact ⟨n, by rw [hc]; rfl⟩
  · intro k k2
    rw [if_pos (by rw [hn]; omega)]
    unfold Dev.elapseOps
    obtain ⟨w, n, hc⟩ := counted_cycles (s.clockAt t) s.dev.now o.s
    obtain ⟨_, n2, hc2⟩ := counted_cycles (((s.clockAt t).cycles s.dev.now o.s).freezeEffect o) (max s.dev.now o.s) (((s.clockAt t).cycles s.dev.now o.s).freezeEffect o).now
    refine ⟨n2, ?_⟩
    rw [hc2, hc]
    unfold Dev.freezeEffect
    dsimp only
    rw [if_neg k2]
    show _ = _
    simp only [hr, h, List.erase_cons_head]
  · intro k k2
    rw [if_pos (by rw [hn]; omega)]
    unfold Dev.elapseOps
    generalize hx : ((s.clockAt t).cycles s.dev.now o.s).snapshot = recs
    obtain ⟨w, n, hc⟩ := counted_cycles (s.clockAt t) s.dev.now o.s
    obtain ⟨_, n2, hc2⟩ := counted_cycles (((s.clockAt t).cycles s.dev.now o.s).freezeEffect o) (max s.dev.now o.s) (((s.clockAt t).cycles s.dev.now o.s).freezeEffect o).now
    refine ⟨n2, ?_⟩
    rw [hc2]
    unfold Dev.freezeEffect
    dsimp only
    rw [if_pos k2, hx, hc]
    simp only [hr, h, List.erase_cons_head]

end Sys2Proof.Machine
end

