-- ==== Sys2Proof/Laws/Device.lean ====
section
/-! SUPPORT. What a write of device memory does, said once: the bytes, the lines' poison, the merge windows, the groups it disturbs and the reservations it ends (R172, R280, R400). -/

namespace Sys2Proof.Machine

theorem reservation_map (p : Tidy → Bool) (k : Nat) : ∀ t : Tab Tidy, ∃ r, Tab.getD (t.map (fun e => if p e.2 then (e.1, { e.2 with reservation := none }) else e)) k {} = { Tab.getD t k {} with reservation := r }
  | [] => ⟨none, rfl⟩
  | (a, x) :: t => by
    obtain ⟨r, h⟩ := reservation_map p k t
    unfold Tab.getD at *
    simp only [List.map_cons]
    by_cases hp : p x = true
    · simp only [hp, if_true]
      unfold Tab.get?
      by_cases hk : a = k
      · simp only [hk, if_true]; exact ⟨none, rfl⟩
      · simp only [hk, if_false]; exact ⟨r, h⟩
    · simp only [hp, Bool.false_eq_true, if_false]
      unfold Tab.get?
      by_cases hk : a = k
      · simp only [hk, if_true]; exact ⟨x.reservation, rfl⟩
      · simp only [hk, if_false]; exact ⟨r, h⟩

/-- Tidy cores that differ in their load reservations alone. -/
def Tidies.freed (t u : Tab Tidy) : Prop := ∀ k, ∃ r, Tab.getD u k {} = { Tab.getD t k {} with reservation := r }

theorem Tidies.freed.refl (t : Tab Tidy) : Tidies.freed t t := fun k => ⟨(Tab.getD t k {}).reservation, rfl⟩

theorem Tidies.freed.trans {t u v : Tab Tidy} (h : Tidies.freed t u) (g : Tidies.freed u v) : Tidies.freed t v := fun k => by
  obtain ⟨_, h⟩ := h k
  obtain ⟨r, g⟩ := g k
  exact ⟨r, by rw [g, h]⟩

/-- A store beside the running groups. -/
theorem storeDev_form (d : Dev) (a : Nat) (bs : List Byte) : ∃ p ba g mg gr td, d.storeDev a bs =
    { d with devMem := memWriteN d.devMem a bs, poison := p, badShares := ba, goodLines := g, merges := mg, groups := gr, tidies := td } ∧ Tidies.freed d.tidies td :=
  ⟨_, _, _, _, _, _, rfl, fun k => reservation_map (fun x => x.reservation.any (fun r => rangesMeet (64 * (r / 64)) 64 a bs.length)) k d.tidies⟩

/-- A run of stores. -/
theorem storeDevs_form {α : Type} (at' : α → Nat) (bs : α → List Byte) (l : List α) (d : Dev) : ∃ m p ba g mg gr td, l.foldl (fun d x => d.storeDev (at' x) (bs x)) d =
    { d with devMem := m, poison := p, badShares := ba, goodLines := g, merges := mg, groups := gr, tidies := td }
    ∧ m = l.foldl (fun m x => memWriteN m (at' x) (bs x)) d.devMem ∧ Tidies.freed d.tidies td := by
  induction l generalizing d with
  | nil => exact ⟨d.devMem, d.poison, d.badShares, d.goodLines, d.merges, d.groups, d.tidies, rfl, rfl, .refl _⟩
  | cons x l ih =>
    obtain ⟨p, ba, g, mg, gr, td, h, hf⟩ := storeDev_form d (at' x) (bs x)
    obtain ⟨m, p, ba, g, mg, gr, td', h', hm, hf'⟩ := ih (d.storeDev (at' x) (bs x))
    rw [h] at h' hm hf'
    refine ⟨m, p, ba, g, mg, gr, td', ?_, hm, hf.trans hf'⟩
    rw [List.foldl_cons, h, h']

/-- A write by the device itself. -/
theorem writeDev_form (d : Dev) (a : Nat) (bs : List Byte) : ∃ p ba g mg, d.writeDev a bs =
    { d with devMem := memWriteN d.devMem a bs, poison := p, badShares := ba, goodLines := g, merges := mg } := ⟨_, _, _, _, rfl⟩

/-- Bytes that become free values. -/
theorem freeBytes_form (d : Dev) (a n : Nat) : ∃ m p ba g mg fr, d.freeBytes a n = { d with devMem := m, poison := p, badShares := ba, goodLines := g, merges := mg, free := fr } := by
  unfold Dev.freeBytes
  generalize upFrom 0 ((n + 7) / 8) = l
  induction l generalizing d with
  | nil => exact ⟨d.devMem, d.poison, d.badShares, d.goodLines, d.merges, d.free, rfl⟩
  | cons i l ih =>
    rw [List.foldl_cons]
    obtain ⟨m, p, ba, g, mg, fr, h⟩ := ih (let (w, d) := d.takeFree; d.writeDev (a + 8 * i) (leBytes (min 8 (n - 8 * i)) w))
    exact ⟨m, p, ba, g, mg, fr, h.trans rfl⟩

theorem freeBytesAll_form (l : List (Nat × Nat)) (d : Dev) : ∃ m p ba g mg fr, l.foldl (fun d r => d.freeBytes r.1 r.2) d =
    { d with devMem := m, poison := p, badShares := ba, goodLines := g, merges := mg, free := fr } := by
  induction l generalizing d with
  | nil => exact ⟨d.devMem, d.poison, d.badShares, d.goodLines, d.merges, d.free, rfl⟩
  | cons x l ih =>
    obtain ⟨_, _, _, _, _, _, h⟩ := freeBytes_form d x.1 x.2
    rw [List.foldl_cons, h]
    obtain ⟨m, p, ba, g, mg, fr, h'⟩ := ih { d with devMem := _, poison := _, badShares := _, goodLines := _, merges := _, free := _ }
    exact ⟨m, p, ba, g, mg, fr, h'⟩

end Sys2Proof.Machine
end

