-- ==== Sys2Proof/Laws/Matrix.lean ====
section
/-! SUPPORT. Tiles and shadow buffers: what a word of a tile reads after each operation on it, and what a core reads after an update of it or of another. -/

namespace Sys2Proof.Machine

/-- The numbers counted up from a start. -/
theorem mem_upFrom : ∀ (n b a : Nat), a ∈ upFrom b n ↔ b ≤ a ∧ a < b + n
  | 0, b, a => by simp only [upFrom, List.not_mem_nil, false_iff]; omega
  | n + 1, b, a => by
    simp only [upFrom, List.mem_cons, mem_upFrom n (b + 1) a]
    omega

@[simp] theorem length_upFrom : ∀ (n b : Nat), (upFrom b n).length = n
  | 0, _ => rfl
  | n + 1, b => by simp [upFrom, length_upFrom n (b + 1)]

theorem getElem?_upFrom : ∀ (n b i : Nat), (upFrom b n)[i]? = if i < n then some (b + i) else none
  | 0, b, i => by simp [upFrom]
  | n + 1, b, 0 => by simp [upFrom]
  | n + 1, b, i + 1 => by
    simp only [upFrom, List.getElem?_cons_succ, getElem?_upFrom n (b + 1) i]
    by_cases h : i < n
    · simp [h]; omega
    · simp [h]

/-! ### Tables -/

@[simp] theorem get?_del_self {α : Type} (t : Tab α) (k : Nat) : Tab.get? (Tab.del t k) k = none := by
  induction t with
  | nil => rfl
  | cons e t ih =>
    obtain ⟨k', w⟩ := e
    unfold Tab.del
    split
    · exact ih
    · rename_i h; simp [Tab.get?, h, ih]

theorem get?_del_ne {α : Type} (t : Tab α) {k x : Nat} (h : k ≠ x) : Tab.get? (Tab.del t k) x = Tab.get? t x := by
  induction t with
  | nil => rfl
  | cons e t ih =>
    obtain ⟨k', w⟩ := e
    unfold Tab.del
    split
    · rename_i h2; subst h2; simp [Tab.get?, h, ih]
    · simp [Tab.get?, ih]

/-- A table kept only at some keys. -/
theorem get?_filter {α : Type} (t : Tab α) (p : Nat → Bool) (x : Nat) :
    Tab.get? (t.filter (fun e => p e.1) : Tab α) x = if p x then Tab.get? t x else none := by
  induction t with
  | nil => simp [Tab.get?]
  | cons e t ih =>
    obtain ⟨k, w⟩ := e
    rw [List.filter_cons]
    by_cases hp : p k = true
    · simp only [hp, if_true]
      simp only [Tab.get?]
      rw [ih]
      by_cases hk : k = x
      · subst hk; simp [hp]
      · simp [hk]
    · simp only [hp]
      rw [if_neg (by simp), ih]
      simp only [Tab.get?]
      by_cases hk : k = x
      · subst hk; simp [hp]
      · simp [hk]

/-! ### Cores -/

@[simp] theorem core_updCore_self (d : Dev) (n : Nat) (f : Core → Core) : (d.updCore n f).core n = f (d.core n) := by simp [Dev.updCore, Dev.core]

theorem core_updCore_ne (d : Dev) {n x : Nat} (f : Core → Core) (h : n ≠ x) : (d.updCore n f).core x = d.core x := by
  simp [Dev.updCore, Dev.core, getD_put_ne _ _ _ h]

theorem updCore_updCore (d : Dev) (n : Nat) (f g : Core → Core) : (d.updCore n f).updCore n g = d.updCore n (fun c => g (f c)) := by
  simp [Dev.updCore, Dev.core]

/-! ### Words of a tile -/

theorem tileKey_eq {t r c t' r' c' : Nat} (hr : r < 256) (hc : c < 256) (hr' : r' < 256) (hc' : c' < 256) (h : tileKey t r c = tileKey t' r' c') :
    t = t' ∧ r = r' ∧ c = c' := by unfold tileKey at h; omega

theorem tileWord_setWord_self (k : Core) (t r c v : Nat) : (k.setWord t r c v).tileWord t r c = v := by
  unfold Core.setWord Core.tileWord Tab.getD
  dsimp only
  split
  · rename_i h; rw [get?_del_self, h]; rfl
  · rw [get?_put_self]; rfl

theorem tileWord_setWord_ne (k : Core) {t r c t' r' c' : Nat} (v : Nat) (h : tileKey t r c ≠ tileKey t' r' c') :
    (k.setWord t r c v).tileWord t' r' c' = k.tileWord t' r' c' := by
  unfold Core.setWord Core.tileWord Tab.getD
  dsimp only
  split
  · rw [get?_del_ne _ h]
  · rw [get?_put_ne _ _ h]

theorem tileWord_clearTile (k : Core) (t rows cols t' r c : Nat) (hr : r < 256) (hc : c < 256) :
    (k.clearTile t rows cols).tileWord t' r c = if t' = t ∧ r < rows ∧ c < cols then 0 else k.tileWord t' r c := by
  unfold Core.clearTile Core.tileWord Tab.getD
  dsimp only
  rw [get?_filter k.tiles (fun e => !(e / 65536 == t && decide (e / 256 % 256 < rows) && decide (e % 256 < cols)))]
  have h1 : tileKey t' r c / 65536 = t' := by unfold tileKey; omega
  have h2 : tileKey t' r c / 256 % 256 = r := by unfold tileKey; omega
  have h3 : tileKey t' r c % 256 = c := by unfold tileKey; omega
  rw [h1, h2, h3]
  by_cases h : t' = t ∧ r < rows ∧ c < cols
  · rw [if_pos h]; simp [h.1, h.2.1, h.2.2]
  · rw [if_neg h, if_pos]
    by_cases g : t' = t <;> by_cases g2 : r < rows <;> by_cases g3 : c < cols <;> simp_all

/-- What a tile reads after words are set by place: the last word set at a place, else what it read before. -/
theorem tileWord_setWords (t t' r c : Nat) (hr : r < 256) (hc : c < 256) : ∀ (ws : List (Nat × Nat)) (k : Core), (∀ e ∈ ws, e.1 < 65536) →
    (ws.foldl (fun k e => k.setWord t (e.1 / 256) (e.1 % 256) e.2) k).tileWord t' r c =
      if t' = t then ((ws.reverse.find? (fun e => e.1 == r * 256 + c)).map (·.2)).getD (k.tileWord t r c) else k.tileWord t' r c := by
  intro ws
  induction ws with
  | nil => intro k _; by_cases h : t' = t <;> simp [h]
  | cons e ws ih =>
    intro k hb
    rw [List.foldl_cons, ih _ (fun x hx => hb x (List.mem_cons_of_mem _ hx))]
    have he := hb e List.mem_cons_self
    by_cases h : t' = t
    · subst h
      simp only [if_true, List.reverse_cons, List.find?_append]
      cases hf : ws.reverse.find? (fun e => e.1 == r * 256 + c) with
      | some x => simp
      | none =>
        simp only [Option.map_none, Option.getD_none, Option.none_or]
        by_cases hk : e.1 = r * 256 + c
        · have h1 : e.1 / 256 = r := by omega
          have h2 : e.1 % 256 = c := by omega
          rw [h1, h2, tileWord_setWord_self]
          simp [hk]
        · rw [tileWord_setWord_ne _ _ (by unfold tileKey; omega)]
          simp [hk]
    · simp only [h, if_false]
      rw [tileWord_setWord_ne]
      unfold tileKey; omega

/-- Words set by place, all that share a place alike: each place reads its word. -/
theorem tileWord_setWords_mem (t r c v : Nat) (hr : r < 256) (hc : c < 256) (ws : List (Nat × Nat)) (k : Core) (hb : ∀ e ∈ ws, e.1 < 65536)
    (hm : (r * 256 + c, v) ∈ ws) (hu : ∀ e ∈ ws, e.1 = r * 256 + c → e.2 = v) :
    (ws.foldl (fun k e => k.setWord t (e.1 / 256) (e.1 % 256) e.2) k).tileWord t r c = v := by
  rw [tileWord_setWords t t r c hr hc ws k hb, if_pos rfl]
  cases hf : ws.reverse.find? (fun e => e.1 == r * 256 + c) with
  | none =>
    have := List.find?_eq_none.mp hf (r * 256 + c, v) (List.mem_reverse.mpr hm)
    simp at this
  | some x =>
    have h1 := List.mem_of_find?_eq_some hf
    have h2 := List.find?_some hf
    exact hu x (List.mem_reverse.mp h1) (by simpa using h2)

/-- Places that no word was set at read as before. -/
theorem tileWord_setWords_out (t r c : Nat) (hr : r < 256) (hc : c < 256) (ws : List (Nat × Nat)) (k : Core) (hb : ∀ e ∈ ws, e.1 < 65536)
    (hu : ∀ e ∈ ws, e.1 ≠ r * 256 + c) :
    (ws.foldl (fun k e => k.setWord t (e.1 / 256) (e.1 % 256) e.2) k).tileWord t r c = k.tileWord t r c := by
  rw [tileWord_setWords t t r c hr hc ws k hb, if_pos rfl]
  have : ws.reverse.find? (fun e => e.1 == r * 256 + c) = none := by
    rw [List.find?_eq_none]
    intro x hx
    simpa using hu x (List.mem_reverse.mp hx)
  rw [this]; rfl

/-- The words of a region by place, and the tile that receives them. -/
theorem tileWord_region (t rows cols : Nat) (f : Nat → Nat → Nat) (k : Core) (hr : rows ≤ 256) (hc : cols ≤ 256) (t' r c : Nat) (hr' : r < 256) (hc' : c < 256) :
    (k.putTile t rows cols ((upFrom 0 rows).flatMap (fun r => (upFrom 0 cols).map (fun c => (r * 256 + c, f r c))))).tileWord t' r c =
      if t' = t ∧ r < rows ∧ c < cols then f r c else k.tileWord t' r c := by
  have mem : ∀ a b n, a ∈ upFrom b n ↔ b ≤ a ∧ a < b + n := by
    intro a b n
    exact mem_upFrom n b a
  have hb : ∀ e ∈ ((upFrom 0 rows).flatMap (fun r => (upFrom 0 cols).map (fun c => (r * 256 + c, f r c)))), e.1 < 65536 ∧ e.1 / 256 < rows ∧ e.1 % 256 < cols ∧ e.2 = f (e.1 / 256) (e.1 % 256) := by
    intro e he
    simp only [List.mem_flatMap, List.mem_map, mem] at he
    obtain ⟨a, ha, b, hb, rfl⟩ := he
    have h1 : (a * 256 + b) / 256 = a := by omega
    have h2 : (a * 256 + b) % 256 = b := by omega
    dsimp only
    rw [h1, h2]
    exact ⟨by omega, by omega, by omega, rfl⟩
  unfold Core.putTile
  by_cases h : t' = t
  · subst h
    by_cases hin : r < rows ∧ c < cols
    · rw [if_pos ⟨rfl, hin⟩]
      refine tileWord_setWords_mem _ _ _ _ hr' hc' _ _ (fun e he => (hb e he).1) ?_ ?_
      · simp only [List.mem_flatMap, List.mem_map, mem]
        exact ⟨r, by omega, c, by omega, rfl⟩
      · intro e he hk
        obtain ⟨_, _, _, h4⟩ := hb e he
        rw [h4, hk]
        have h1 : (r * 256 + c) / 256 = r := by omega
        have h2 : (r * 256 + c) % 256 = c := by omega
        rw [h1, h2]
    · rw [if_neg (fun g => hin g.2), tileWord_setWords_out _ _ _ hr' hc' _ _ (fun e he => (hb e he).1)]
      · rw [tileWord_clearTile _ _ _ _ _ _ _ hr' hc', if_neg (fun g => hin g.2)]
      · intro e he hk
        obtain ⟨_, h2, h3, _⟩ := hb e he
        rw [hk] at h2 h3
        apply hin
        constructor <;> omega
  · rw [tileWord_setWords t t' r c hr' hc' _ _ (fun e he => (hb e he).1)]
    simp only [h, if_false, false_and]
    rw [tileWord_clearTile _ _ _ _ _ _ _ hr' hc', if_neg (fun g => h g.1)]

/-- Putting words changes nothing but the tiles of a core. -/
theorem putTile_rest (k : Core) (t rows cols : Nat) (ws : List (Nat × Nat)) : ∃ tl, k.putTile t rows cols ws = { k with tiles := tl } := by
  unfold Core.putTile
  suffices h : ∀ (ws : List (Nat × Nat)) (k : Core), ∃ tl, ws.foldl (fun k e => k.setWord t (e.1 / 256) (e.1 % 256) e.2) k = { k with tiles := tl } by
    obtain ⟨tl, h⟩ := h ws (k.clearTile t rows cols)
    exact ⟨tl, by rw [h]; rfl⟩
  intro ws
  induction ws with
  | nil => intro k; exact ⟨_, rfl⟩
  | cons e ws ih =>
    intro k
    obtain ⟨tl, h⟩ := ih (k.setWord t (e.1 / 256) (e.1 % 256) e.2)
    exact ⟨tl, by rw [List.foldl_cons, h]; rfl⟩

/-- A descriptor that takes the array: the core keeps its shape and tile, and counters may be noted. -/
theorem onArray_form (d : Dev) (n a b : Nat) (x : SampleItem) : ∃ o, d.onArray n a b x = ({ d with occ := o } : Dev).updCore n (fun c => { c with lastArray := some (a, b) }) := ⟨_, rfl⟩

theorem updCore_withOcc (d : Dev) (n : Nat) (f : Core → Core) (o : List Occ) : ({ d.updCore n f with occ := o } : Dev) = ({ d with occ := o } : Dev).updCore n f := rfl

theorem note_form (d : Dev) (p e k : Nat) (x : SampleItem) : ∃ o, d.note p e k x = { d with occ := o } := ⟨_, rfl⟩

/-- One that takes the array and notes three counts. -/
theorem arrayNotes_form (d : Dev) (n a b : Nat) (x : SampleItem) (p1 e1 k1 p2 e2 k2 p3 e3 k3 : Nat) :
    ∃ o, ((((d.onArray n a b x).note p1 e1 k1 x).note p2 e2 k2 x).note p3 e3 k3 x) = ({ d with occ := o } : Dev).updCore n (fun c => { c with lastArray := some (a, b) }) := by
  obtain ⟨_, h0⟩ := onArray_form d n a b x
  rw [h0]
  obtain ⟨_, h1⟩ := note_form _ p1 e1 k1 x
  rw [h1]
  obtain ⟨_, h2⟩ := note_form _ p2 e2 k2 x
  rw [h2]
  obtain ⟨o, h3⟩ := note_form _ p3 e3 k3 x
  rw [h3]
  exact ⟨o, rfl⟩

/-- The counts noted play no part in what lands. -/
theorem landRaise_occ (d : Dev) (n : Nat) (f : Core → Core) (m tag : Nat) (fl : AccFlags) (k : Nat) (o : List Occ) :
    (((({ d with occ := o } : Dev).updCore n f).raiseAcc n m tag fl).landMatrix n k) = { (((d.updCore n f).raiseAcc n m tag fl).landMatrix n k) with occ := o } := rfl

end Sys2Proof.Machine
end

