-- ==== Sys2Proof/Laws/Sua.lean ====
section
/-! SUPPORT. What counting and noting in a beat can change, said once; and what a beat's decisions write (R149 to R171). -/

namespace Sys2Proof.Machine

/-- Two devices differ in the SUA pages, the running groups' counts, the routers' counts and the notes for the counters alone. -/
def Dev.tallied (d e : Dev) : Prop := (∃ cs gs rs o, e = { d with cores := cs, groups := gs, routers := rs, occ := o }) ∧ ∀ k, ∃ x, e.core k = { d.core k with sua := x }

theorem Dev.tallied.refl (d : Dev) : d.tallied d := ⟨⟨_, _, _, _, rfl⟩, fun k => ⟨(d.core k).sua, rfl⟩⟩

theorem Dev.tallied.trans {d e f : Dev} (h : d.tallied e) (g : e.tallied f) : d.tallied f := by
  obtain ⟨⟨_, _, _, _, h1⟩, h2⟩ := h
  obtain ⟨⟨a, b, c, o, g1⟩, g2⟩ := g
  refine ⟨⟨a, b, c, o, by rw [g1, h1]⟩, fun k => ?_⟩
  obtain ⟨x, hx⟩ := h2 k
  obtain ⟨y, hy⟩ := g2 k
  exact ⟨y, by rw [hy, hx]⟩

theorem tallied_foldl {α : Type} (f : Dev → α → Dev) (hf : ∀ (d : Dev) (a : α), d.tallied (f d a)) (l : List α) (d : Dev) : d.tallied (l.foldl f d) := by
  induction l generalizing d with
  | nil => exact .refl d
  | cons a l ih => exact (hf d a).trans (ih (f d a))

theorem tallied_updSua (d : Dev) (n : Nat) (f : Sua → Sua) : d.tallied (d.updSua n f) := by
  refine ⟨⟨_, _, _, _, rfl⟩, fun k => ?_⟩
  unfold Dev.updSua
  by_cases h : n = k
  · subst h; rw [core_updCore_self]; exact ⟨_, rfl⟩
  · rw [core_updCore_ne _ _ h]; exact ⟨_, rfl⟩

theorem tallied_updGroup (d : Dev) (key : Nat) (f : GroupRun → GroupRun) : d.tallied (d.updGroup key f) := by
  unfold Dev.updGroup
  split
  · exact ⟨⟨_, _, _, _, rfl⟩, fun k => ⟨_, rfl⟩⟩
  · exact .refl d

theorem tallied_note (d : Dev) (p ev n : Nat) (x : SampleItem) : d.tallied (d.note p ev n x) := ⟨⟨_, _, _, _, rfl⟩, fun _ => ⟨_, rfl⟩⟩

theorem tallied_noteSua (d : Dev) (n ev c : Nat) : d.tallied (d.noteSua n ev c) := tallied_note _ _ _ _ _

theorem tallied_noteLanes (d : Dev) (n k c : Nat) : d.tallied (d.noteLanes n k c) := tallied_note _ _ _ _ _

theorem tallied_countMembers (d : Dev) (ms : List Nat) : d.tallied (d.countMembers ms) := by
  unfold Dev.countMembers Dev.countCombines
  refine tallied_foldl _ (fun d c => ?_) _ d
  exact ⟨⟨_, _, _, _, rfl⟩, fun _ => ⟨_, rfl⟩⟩

theorem tallied_noteMembers (d : Dev) (ms : List Nat) (ev n : Nat) : d.tallied (d.noteMembers ms ev n) := by
  unfold Dev.noteMembers
  exact tallied_foldl _ (fun d k => tallied_noteSua d k ev n) _ d

theorem tallied_beatEnds (d : Dev) (ms : List Nat) (ev : Nat) : d.tallied (d.beatEnds ms ev) := by
  unfold Dev.beatEnds
  dsimp only
  split
  · exact (tallied_noteMembers _ _ _ _).trans (tallied_countMembers _ _)
  · exact tallied_noteMembers _ _ _ _

theorem tallied_countRows (d : Dev) (p : Problem) (l : List Nat) : d.tallied (d.countRows p l) := by
  unfold Dev.countRows
  exact tallied_foldl _ (fun d _ => tallied_noteSua d _ _ _) _ d

theorem tallied_countEval (d : Dev) (key : Nat) (p : Problem) (e : SuaUnit × Decision) (kept : Bool) : d.tallied (d.countEval key p e kept) := by
  unfold Dev.countEval
  dsimp only
  refine Dev.tallied.trans ?_ (tallied_updGroup _ _ _)
  refine Dev.tallied.trans ?_ (tallied_updSua _ _ _)
  have step : ∀ (d : Dev) (c : Nat × Nat), d.tallied (if kept then ((d.updSua c.1 (fun s => { s with evals := w64 (s.evals + c.2) })).noteSua c.1 0x300 c.2).noteLanes c.1 0 c.2
      else (d.updSua c.1 (fun s => { s with evals := w64 (s.evals + c.2) })).noteSua c.1 0x300 c.2) := by
    intro d c
    split
    · exact ((tallied_updSua _ _ _).trans (tallied_noteSua _ _ _ _)).trans (tallied_noteLanes _ _ _ _)
    · exact (tallied_updSua _ _ _).trans (tallied_noteSua _ _ _ _)
  split
  · exact (tallied_foldl _ step _ d).trans (tallied_countMembers _ _)
  · exact tallied_foldl _ step _ d

theorem tallied_countDiscard (d : Dev) (key : Nat) (p : Problem) (u : SuaUnit) : d.tallied (d.countDiscard key p u) := by
  unfold Dev.countDiscard
  refine Dev.tallied.trans (tallied_foldl _ (fun d c => ?_) _ d) (tallied_updGroup _ _ _)
  exact ((tallied_updSua _ _ _).trans (tallied_noteSua _ _ _ _)).trans (tallied_noteLanes _ _ _ _)

theorem tallied_noteConflict (d : Dev) (key : Nat) (p : Problem) (b : Bool) (i j : Nat) : d.tallied (d.noteConflict key p b i j) := by
  unfold Dev.noteConflict
  exact (tallied_foldl _ (fun d k => tallied_updSua d k _) _ d).trans (tallied_updGroup _ _ _)

/-- Reading the problem sees no difference. -/
theorem tallied_reads {d e : Dev} (h : d.tallied e) : e.devMem = d.devMem ∧ (∀ r st u, e.decideUnit r st u = d.decideUnit r st u) ∧ (∀ p, e.suaStates p = d.suaStates p)
    ∧ (∀ p a b, e.unitsCoupled p a b = d.unitsCoupled p a b) ∧ ∀ rs, e.firstPoison rs = d.firstPoison rs := by
  obtain ⟨⟨_, _, _, _, rfl⟩, _⟩ := h
  exact ⟨rfl, fun _ _ _ => rfl, fun _ => rfl, fun _ _ _ => rfl, fun _ => rfl⟩

theorem tallied_firstConflict {d e : Dev} (h : d.tallied e) (p : Problem) : ∀ us, e.firstConflict p us = d.firstConflict p us
  | [] => rfl
  | u :: us => by
    have hc : (fun x => e.unitsCoupled p u x) = (fun x => d.unitsCoupled p u x) := funext (fun x => (tallied_reads h).2.2.2.1 p u x)
    unfold Dev.firstConflict
    rw [hc, tallied_firstConflict h p us]

theorem tallied_statsOff {d e : Dev} (h : d.tallied e) (k : Nat) : e.statsOff k = d.statsOff k := by
  obtain ⟨x, hx⟩ := h.2 k
  unfold Dev.statsOff
  rw [hx]

/-- A state bit's write keeps every other byte. -/
theorem setStateBit_frame (d : Dev) (key : Nat) (ms : List Nat) (off i : Nat) (v : Bool) {a : Nat} (ha : a ≠ stateByte ms off i) :
    memRead (d.setStateBit key ms off i v).devMem a = memRead d.devMem a := by
  unfold Dev.setStateBit
  dsimp only
  show memRead (memWriteN _ _ _) a = _
  apply memRead_memWriteN_out
  simp only [List.length_singleton]
  unfold stateByte at ha
  omega

/-- The bytes of a unit that a commit may write. -/
theorem commitFlip_frame (d : Dev) (key : Nat) (p : Problem) (u : SuaUnit) (pick old : Nat) {a : Nat}
    (ha : ∀ i, (i = u.first ∨ i = pick ∨ i = old) → (u.cat = false → i = u.first) → a ≠ stateByte p.members p.state i) :
    memRead (d.commitFlip key p u pick old).devMem a = memRead d.devMem a := by
  unfold Dev.commitFlip
  dsimp only
  rw [(tallied_reads (tallied_updGroup _ _ _)).1, (tallied_reads (tallied_noteSua _ _ _ _)).1]
  cases hc : u.cat
  · simp only [Bool.false_eq_true, if_false]
    exact setStateBit_frame _ _ _ _ _ _ (ha _ (Or.inl rfl) (fun _ => rfl))
  · simp only [if_true]
    rw [setStateBit_frame _ _ _ _ _ _ (ha pick (Or.inr (Or.inl rfl)) (by simp [hc])), setStateBit_frame _ _ _ _ _ _ (ha old (Or.inr (Or.inr rfl)) (by simp [hc]))]

theorem bestSlot_mem : ∀ (l : List (Nat × Nat)) (b : Nat × Nat), bestSlot l b = b ∨ bestSlot l b ∈ l
  | [], b => Or.inl rfl
  | e :: l, b => by
    unfold bestSlot
    split
    · rcases bestSlot_mem l e with h | h
      · right; rw [h]; exact List.mem_cons_self
      · right; exact List.mem_cons_of_mem _ h
    · rcases bestSlot_mem l b with h | h
      · left; exact h
      · right; exact List.mem_cons_of_mem _ h

theorem decideUnit_pick (d : Dev) (r : SuaRun) (st : List Bool) (u : SuaUnit) (hu : u.cat = true) : (d.decideUnit r st u).pick = u.first ∨ (d.decideUnit r st u).pick ∈ u.slots := by
  unfold Dev.decideUnit
  rw [if_pos hu]
  unfold Dev.decideCat
  dsimp only
  have hin : ∀ (l : List Nat) (f : Nat → Nat) (b0 : Nat), ((bestSlot ((l.map (fun k => (k, f k))).drop 1) ((l.map (fun k => (k, f k))).headD (u.first, b0))).1 = u.first)
      ∨ ((bestSlot ((l.map (fun k => (k, f k))).drop 1) ((l.map (fun k => (k, f k))).headD (u.first, b0))).1 ∈ l) := by
    intro l f b0
    cases l with
    | nil => left; rfl
    | cons a l =>
      right
      simp only [List.map_cons, List.drop_succ_cons, List.drop_zero, List.headD_cons]
      rcases bestSlot_mem (l.map (fun k => (k, f k))) (a, f a) with h | h
      · rw [h]; exact List.mem_cons_self
      · obtain ⟨x, hx, h2⟩ := List.mem_map.mp h
        rw [← h2]; exact List.mem_cons_of_mem _ hx
  exact hin u.slots _ 0

theorem now_mem (st : List Bool) (u : SuaUnit) (hu : u.cat = true) : u.now st = u.first ∨ u.now st ∈ u.slots := by
  unfold SuaUnit.now
  rw [if_pos hu]
  cases h : u.slots.find? (fun i => st.getD i false) with
  | none => left; rfl
  | some i => right; exact List.mem_of_find?_eq_some h

/-- Committing decisions on some units keeps every byte that holds no state of theirs. -/
theorem commits_frame (d : Dev) (key : Nat) (r : SuaRun) (us : List SuaUnit) (st : List Bool) {a : Nat} (ha : ¬ (∃ u ∈ us, ∃ i, (i = u.first ∨ i ∈ u.slots) ∧ a = stateByte r.p.members r.p.state i)) :
    ∀ (l : List (SuaUnit × Decision)) (e : Dev), (∀ x ∈ l, x.1 ∈ us ∧ x.2 = d.decideUnit r st x.1) →
      memRead (l.foldl (fun d e => d.commitFlip key r.p e.1 e.2.pick (e.1.now st)) e).devMem a = memRead e.devMem a
  | [], _, _ => rfl
  | x :: l, e, h => by
    rw [List.foldl_cons, commits_frame d key r us st ha l _ (fun y hy => h y (List.mem_cons_of_mem _ hy))]
    obtain ⟨h1, h2⟩ := h x List.mem_cons_self
    apply commitFlip_frame
    intro i hi hcat hne
    apply ha
    refine ⟨x.1, h1, i, ?_, hne⟩
    cases hc : x.1.cat
    · left; exact hcat hc
    · rcases hi with hi | hi | hi
      · left; exact hi
      · rw [hi, h2]; exact decideUnit_pick d r st x.1 hc
      · rw [hi]; exact now_mem st x.1 hc

/-- Deciding some units keeps every byte that holds no state of theirs. -/
theorem decideAll_frame (d : Dev) (key : Nat) (r : SuaRun) (us : List SuaUnit) (allow : SuaUnit → Bool) {a : Nat}
    (ha : ¬ (∃ u ∈ us, ∃ i, (i = u.first ∨ i ∈ u.slots) ∧ a = stateByte r.p.members r.p.state i)) : memRead (d.decideAll key r us allow).1.devMem a = memRead d.devMem a := by
  unfold Dev.decideAll
  dsimp only
  rw [commits_frame d key r us (d.suaStates r.p) ha]
  · rw [(tallied_reads (tallied_foldl _ (fun d e => tallied_countEval d key r.p e true) _ d)).1]
  · intro x hx
    obtain ⟨u, hu, rfl⟩ := List.mem_map.mp (List.mem_filter.mp hx).1
    exact ⟨hu, rfl⟩

/-! Decisions, states and commits work from device memory alone. -/

theorem suaStates_of_mem {a b : Dev} (h : a.devMem = b.devMem) (p : Problem) : a.suaStates p = b.suaStates p := by
  unfold Dev.suaStates; congr 1; funext i; unfold Dev.stateBit; rw [h]

theorem decideUnit_of_mem {a b : Dev} (h : a.devMem = b.devMem) (r : SuaRun) (st : List Bool) (u : SuaUnit) : a.decideUnit r st u = b.decideUnit r st u := by
  have hf : ∀ u i, a.suaField r.p r.us st u i = b.suaField r.p r.us st u i := by
    intro u i
    have hJ : a.suaJ r.p = b.suaJ r.p := by funext i k; unfold Dev.suaJ Dev.coupling; rw [h]
    unfold Dev.suaField; rw [h, hJ]
  unfold Dev.decideUnit Dev.decideCat Dev.decideBinary
  simp only [hf]

theorem setStateBit_of_mem {a b : Dev} (h : a.devMem = b.devMem) (key : Nat) (ms : List Nat) (off i : Nat) (v : Bool) :
    (a.setStateBit key ms off i v).devMem = (b.setStateBit key ms off i v).devMem := by
  unfold Dev.setStateBit
  dsimp only
  show memWriteN _ _ _ = memWriteN _ _ _
  rw [h]

theorem commitFlip_of_mem {a b : Dev} (h : a.devMem = b.devMem) (key : Nat) (p : Problem) (u : SuaUnit) (pick old : Nat) :
    (a.commitFlip key p u pick old).devMem = (b.commitFlip key p u pick old).devMem := by
  unfold Dev.commitFlip
  dsimp only
  rw [(tallied_reads (tallied_updGroup _ _ _)).1, (tallied_reads (tallied_updGroup _ _ _)).1, (tallied_reads (tallied_noteSua _ _ _ _)).1, (tallied_reads (tallied_noteSua _ _ _ _)).1]
  split
  · exact setStateBit_of_mem (setStateBit_of_mem h _ _ _ _ _) _ _ _ _ _
  · exact setStateBit_of_mem h _ _ _ _ _

/-! What a window counts leaves memory. -/

theorem countEvals_mem {α : Type} (key : Nat) (p : Problem) (f : α → SuaUnit × Decision) (k : α → Bool) (l : List α) (d : Dev) :
    (l.foldl (fun d e => d.countEval key p (f e) (k e)) d).devMem = d.devMem :=
  (tallied_reads (tallied_foldl _ (fun d x => tallied_countEval d key p (f x) (k x)) l d)).1

theorem countDiscards_mem {α : Type} (key : Nat) (p : Problem) (f : α → SuaUnit) (l : List α) (d : Dev) : (l.foldl (fun d e => d.countDiscard key p (f e)) d).devMem = d.devMem :=
  (tallied_reads (tallied_foldl _ (fun d x => tallied_countDiscard d key p (f x)) l d)).1

theorem noteSuas_mem {α : Type} (ev : Nat) (f c : α → Nat) (l : List α) (d : Dev) : (l.foldl (fun d x => d.noteSua (f x) ev (c x)) d).devMem = d.devMem :=
  (tallied_reads (tallied_foldl _ (fun d x => tallied_noteSua d (f x) ev (c x)) l d)).1

/-- Classified lane-cycles are notes alone. -/
theorem noteLanesAll_form {α : Type} (f c : α → Nat) (k : Nat) (l : List α) (d : Dev) : ∃ o, l.foldl (fun d x => d.noteLanes (f x) k (c x)) d = { d with occ := o } := by
  induction l generalizing d with
  | nil => exact ⟨d.occ, rfl⟩
  | cons x l ih => exact ih (d.noteLanes (f x) k (c x))

/-- Combining over a group counts at the routers alone. -/
theorem countMembers_form (d : Dev) (ms : List Nat) : ∃ rs o, d.countMembers ms = { d with routers := rs, occ := o } := by
  unfold Dev.countMembers Dev.countCombines
  dsimp only
  generalize (combineAt (fun i => coreCluster d.geo (ms.getD i (ms.headD 0))) (coreCluster d.geo (ms.headD 0)) (logicalTree 32 0 ms.length)).2 = l
  generalize d.pageCtx (UnitId.core (ms.headD 0)).page = ctx
  induction l generalizing d with
  | nil => exact ⟨d.routers, d.occ, rfl⟩
  | cons x l ih =>
    obtain ⟨rs, o, h⟩ := ih ((d.updRouter x (fun r => { r with combines := satAdd 0xFFFFFFFF r.combines 1 })).noteFor ctx (UnitId.router x).page 0x403 1)
    rw [noteFor_groups] at h
    exact ⟨rs, o, h.trans rfl⟩

/-- Marking a group's requests as started keeps every other core, every queue's tickets and what had started. -/
theorem markStarted_form (l : List (Nat × Desc)) (d : Dev) : (∃ cs, d.markStarted l = { d with cores := cs }) ∧ (∀ k, k ∉ l.map (·.1) → (d.markStarted l).core k = d.core k)
    ∧ (∀ k, ((d.markStarted l).core k).suaQ.map (·.ticket) = ((d.core k).suaQ).map (·.ticket))
    ∧ (∀ k t, (∀ y ∈ (d.core k).suaQ, y.ticket = t → y.started = true) → ∀ y ∈ ((d.markStarted l).core k).suaQ, y.ticket = t → y.started = true)
    ∧ ∀ m ∈ l, ∀ y ∈ ((d.markStarted l).core m.1).suaQ, y.ticket = m.2.ticket → y.started = true := by
  induction l generalizing d with
  | nil => exact ⟨⟨_, rfl⟩, fun _ _ => rfl, fun _ => rfl, fun _ _ h => h, fun m hm => absurd hm (by simp)⟩
  | cons a l ih =>
    let g : Core → Core := fun c => { c with suaQ := c.suaQ.map (fun x => if x.ticket = a.2.ticket then { x with started := true } else x) }
    obtain ⟨⟨cs, h⟩, h2, h3, h4, h5⟩ := ih (d.updCore a.1 g)
    have e1 : d.markStarted (a :: l) = (d.updCore a.1 g).markStarted l := rfl
    have hq : ∀ y ∈ ((d.updCore a.1 g).core a.1).suaQ, y.ticket = a.2.ticket → y.started = true := by
      rw [core_updCore_self]
      intro y hy ht
      obtain ⟨z, hz, rfl⟩ := List.mem_map.mp hy
      by_cases hz2 : z.ticket = a.2.ticket
      · rw [if_pos hz2]
      · rw [if_neg hz2] at ht; exact absurd ht hz2
    have hkeep : ∀ k t, (∀ y ∈ (d.core k).suaQ, y.ticket = t → y.started = true) → ∀ y ∈ ((d.updCore a.1 g).core k).suaQ, y.ticket = t → y.started = true := by
      intro k t hk
      by_cases hka : a.1 = k
      · subst hka
        rw [core_updCore_self]
        intro y hy ht
        obtain ⟨z, hz, rfl⟩ := List.mem_map.mp hy
        by_cases hz2 : z.ticket = a.2.ticket
        · rw [if_pos hz2]
        · rw [if_neg hz2] at ht ⊢; exact hk z hz ht
      · rw [core_updCore_ne _ _ hka]; exact hk
    refine ⟨⟨cs, by rw [e1, h]; rfl⟩, ?_, ?_, ?_, ?_⟩
    · intro k hk
      rw [List.map_cons, List.mem_cons, not_or] at hk
      rw [e1, h2 k hk.2, core_updCore_ne _ _ (fun hh => hk.1 hh.symm)]
    · intro k
      rw [e1, h3 k]
      by_cases hk : a.1 = k
      · subst hk
        rw [core_updCore_self]
        show (List.map _ (List.map _ _)) = _
        rw [List.map_map]
        congr 1
        funext y
        simp only [Function.comp_apply]
        split <;> rfl
      · rw [core_updCore_ne _ _ hk]
    · intro k t hk
      rw [e1]
      exact h4 k t (hkeep k t hk)
    · intro m hm
      rw [e1]
      rcases List.mem_cons.mp hm with rfl | hm
      · exact h4 _ _ hq
      · exact h5 m hm

/-- Stores of the same records for several members. -/
theorem storeDevs2_form {α β : Type} (at' : α → β → Nat) (bs : β → List Byte) (rs : List β) (l : List α) (d : Dev) : ∃ m p ba g mg gr td,
    l.foldl (fun d k => rs.foldl (fun d r => d.storeDev (at' k r) (bs r)) d) d = { d with devMem := m, poison := p, badShares := ba, goodLines := g, merges := mg, groups := gr, tidies := td }
    ∧ m = l.foldl (fun m k => rs.foldl (fun m r => memWriteN m (at' k r) (bs r)) m) d.devMem ∧ Tidies.freed d.tidies td := by
  induction l generalizing d with
  | nil => exact ⟨d.devMem, d.poison, d.badShares, d.goodLines, d.merges, d.groups, d.tidies, rfl, rfl, .refl _⟩
  | cons x l ih =>
    obtain ⟨m, p, ba, g, mg, gr, td, h, hm, hf⟩ := storeDevs_form (at' x) bs rs d
    rw [List.foldl_cons, List.foldl_cons, h, ← hm]
    obtain ⟨m2, p2, ba2, g2, mg2, gr2, td2, h2, hm2, hf2⟩ := ih { d with devMem := m, poison := p, badShares := ba, goodLines := g, merges := mg, groups := gr, tidies := td }
    exact ⟨m2, p2, ba2, g2, mg2, gr2, td2, h2, hm2, hf.trans hf2⟩

/-- Counting combines for every sequence. -/
theorem countMembersAll_form (ms : List Nat) (l : List Nat) (d : Dev) : ∃ rs o, l.foldl (fun d _ => d.countMembers ms) d = { d with routers := rs, occ := o } := by
  induction l generalizing d with
  | nil => exact ⟨d.routers, d.occ, rfl⟩
  | cons x l ih =>
    obtain ⟨rs, o, h⟩ := countMembers_form d ms
    rw [List.foldl_cons, h]
    obtain ⟨rs2, o2, h2⟩ := ih { d with routers := rs, occ := o }
    exact ⟨rs2, o2, h2⟩

/-- A run of notes. -/
theorem notes_form {α : Type} (f : Dev → α → Dev) (hf : ∀ d x, ∃ o, f d x = { d with occ := o }) (l : List α) (d : Dev) : ∃ o, l.foldl f d = { d with occ := o } := by
  induction l generalizing d with
  | nil => exact ⟨d.occ, rfl⟩
  | cons x l ih =>
    obtain ⟨o, h⟩ := hf d x
    rw [List.foldl_cons, h]
    obtain ⟨o2, h2⟩ := ih { d with occ := o }
    exact ⟨o2, h2⟩

end Sys2Proof.Machine
end

