-- ==== Sys2Proof/Laws/Mover.lean ====
section
/-! SUPPORT. What moving data can change, said once; and the bytes that COPY, GATHER and NET_ADD leave (R272 to R274, R400). -/

namespace Sys2Proof.Machine

/-- Two devices differ in memory and what goes with its bytes, the tracking of accesses, the routers' counts and the notes for the counters alone. -/
def Dev.shifted (d e : Dev) : Prop :=
  (∃ m k r o p ba g mg gr td fr rs, e = { d with devMem := m, tracks := k, reader := r, occ := o, poison := p, badShares := ba, goodLines := g, merges := mg, groups := gr, tidies := td, free := fr, routers := rs })
    ∧ Tidies.freed d.tidies e.tidies

theorem Dev.shifted.refl (d : Dev) : d.shifted d := ⟨⟨_, _, _, _, _, _, _, _, _, _, _, _, rfl⟩, .refl _⟩

theorem Dev.shifted.trans {d e f : Dev} (h : d.shifted e) (g : e.shifted f) : d.shifted f := by
  obtain ⟨⟨_, _, _, _, _, _, _, _, _, _, _, _, h1⟩, h2⟩ := h
  obtain ⟨⟨a, b, c, i, j, k, l, m, n, o, p, q, g1⟩, g2⟩ := g
  exact ⟨⟨a, b, c, i, j, k, l, m, n, o, p, q, by rw [g1, h1]⟩, h2.trans g2⟩

theorem shifted_foldl {α : Type} (f : Dev → α → Dev) (hf : ∀ (d : Dev) (a : α), d.shifted (f d a)) (l : List α) (d : Dev) : d.shifted (l.foldl f d) := by
  induction l generalizing d with
  | nil => exact .refl d
  | cons a l ih => exact (hf d a).trans (ih (f d a))

theorem shifted_core {d e : Dev} (h : d.shifted e) (k : Nat) : e.core k = d.core k := by
  obtain ⟨⟨_, _, _, _, _, _, _, _, _, _, _, _, h⟩, _⟩ := h
  rw [h]; rfl

theorem shifted_jobs {d e : Dev} (h : d.shifted e) : e.jobs = d.jobs ∧ e.ctxs = d.ctxs := by
  obtain ⟨⟨_, _, _, _, _, _, _, _, _, _, _, _, h⟩, _⟩ := h
  rw [h]; exact ⟨rfl, rfl⟩

theorem shifted_tidy {d e : Dev} (h : d.shifted e) (k : Nat) : ∃ r, e.tidy k = { d.tidy k with reservation := r } := h.2 k

theorem shifted_note (d : Dev) (p ev n : Nat) (x : SampleItem) : d.shifted (d.note p ev n x) := ⟨⟨_, _, _, _, _, _, _, _, _, _, _, _, rfl⟩, .refl _⟩

theorem shifted_trackPass (d : Dev) (ctx : Option Nat) (a n : Nat) (w : Bool) : d.shifted (d.trackPass ctx a n w) := by
  obtain ⟨k, r, o, h⟩ := trackPass_form d ctx a n w
  rw [h]
  exact ⟨⟨_, _, _, _, _, _, _, _, _, _, _, _, rfl⟩, .refl _⟩

theorem trackPass_mem (d : Dev) (ctx : Option Nat) (a n : Nat) (w : Bool) : (d.trackPass ctx a n w).devMem = d.devMem := by
  obtain ⟨k, r, o, h⟩ := trackPass_form d ctx a n w
  rw [h]

theorem lineInsert_mem (a : Nat) : ∀ l : List Nat, a ∈ lineInsert a l ∧ ∀ q ∈ l, q ∈ lineInsert a l
  | [] => ⟨by simp [lineInsert], by simp⟩
  | b :: l => by
    obtain ⟨ih1, ih2⟩ := lineInsert_mem a l
    unfold lineInsert
    split
    · exact ⟨List.mem_cons_self, fun q hq => List.mem_cons_of_mem _ hq⟩
    · split
      · rename_i h; exact ⟨by rw [h]; exact List.mem_cons_self, fun q hq => hq⟩
      · refine ⟨List.mem_cons_of_mem _ ih1, fun q hq => ?_⟩
        rcases List.mem_cons.mp hq with rfl | hq
        · exact List.mem_cons_self
        · exact List.mem_cons_of_mem _ (ih2 q hq)

/-- A run of lines becomes poisoned. -/
theorem poisonLines_form (l : List Nat) (d : Dev) : ∃ p, l.foldl (fun d l => d.poisonLine l) d = { d with poison := p } ∧ (∀ q ∈ l, q ∈ p) ∧ ∀ q ∈ d.poison, q ∈ p := by
  induction l generalizing d with
  | nil => exact ⟨d.poison, rfl, by simp, fun _ h => h⟩
  | cons a l ih =>
    obtain ⟨p, h1, h2, h3⟩ := ih (d.poisonLine a)
    refine ⟨p, by rw [List.foldl_cons, h1]; rfl, ?_, ?_⟩
    · intro q hq
      rcases List.mem_cons.mp hq with rfl | hq
      · exact h3 _ (lineInsert_mem _ _).1
      · exact h2 q hq
    · intro q hq; exact h3 _ ((lineInsert_mem _ _).2 q hq)

theorem shifted_disturb (d : Dev) (self : Option Nat) (a n : Nat) : d.shifted (d.disturb self a n) :=
  ⟨⟨_, _, _, _, _, _, _, _, _, _, _, _, rfl⟩, fun k => reservation_map (fun x => x.reservation.any (fun r => rangesMeet (64 * (r / 64)) 64 a n)) k d.tidies⟩

/-- Bytes written where their source may have been poisoned. -/
theorem writeDevPoison_form (d : Dev) (a : Nat) (bs : List Byte) (bad : List Nat) : d.shifted (d.writeDevPoison a bs bad) ∧ (d.writeDevPoison a bs bad).devMem = memWriteN d.devMem a bs
    ∧ ∀ q ∈ bad, q ∈ (d.writeDevPoison a bs bad).poison := by
  unfold Dev.writeDevPoison
  obtain ⟨p0, ba, g, mg, h0⟩ := writeDev_form d a bs
  rw [h0]
  obtain ⟨p, h1, h2, _⟩ := poisonLines_form bad ({ d with devMem := memWriteN d.devMem a bs, poison := p0, badShares := ba, goodLines := g, merges := mg } : Dev)
  rw [h1]
  exact ⟨⟨⟨_, _, _, _, _, _, _, _, _, _, _, _, rfl⟩, .refl _⟩, rfl, h2⟩

theorem shifted_storeDev (d : Dev) (a : Nat) (bs : List Byte) : d.shifted (d.storeDev a bs) := by
  obtain ⟨p, ba, g, mg, gr, td, h, hf⟩ := storeDev_form d a bs
  rw [h]
  exact ⟨⟨_, _, _, _, _, _, _, _, _, _, _, _, rfl⟩, hf⟩

theorem storeDev_mem (d : Dev) (a : Nat) (bs : List Byte) : (d.storeDev a bs).devMem = memWriteN d.devMem a bs := rfl

theorem shifted_freeBytes (d : Dev) (a n : Nat) : d.shifted (d.freeBytes a n) := by
  obtain ⟨m, p, ba, g, mg, fr, h⟩ := freeBytes_form d a n
  rw [h]
  exact ⟨⟨_, _, _, _, _, _, _, _, _, _, _, _, rfl⟩, .refl _⟩

/-- Combining along a tree counts at the routers alone. -/
theorem countCombines_form (d : Dev) (ctx : Option Nat) (c : Nat → Nat) (dest : Nat) (t : ArrivalTree) : ∃ rs o, d.countCombines ctx c dest t = { d with routers := rs, occ := o } := by
  unfold Dev.countCombines
  generalize (combineAt c dest t).2 = l
  induction l generalizing d with
  | nil => exact ⟨d.routers, d.occ, rfl⟩
  | cons x l ih =>
    obtain ⟨rs, o, h⟩ := ih ((d.updRouter x (fun r => { r with combines := satAdd 0xFFFFFFFF r.combines 1 })).noteFor ctx (UnitId.router x).page 0x403 1)
    exact ⟨rs, o, h.trans rfl⟩

theorem shifted_countCombines (d : Dev) (ctx : Option Nat) (c : Nat → Nat) (dest : Nat) (t : ArrivalTree) : d.shifted (d.countCombines ctx c dest t) := by
  obtain ⟨rs, o, h⟩ := countCombines_form d ctx c dest t
  rw [h]
  exact ⟨⟨_, _, _, _, _, _, _, _, _, _, _, _, rfl⟩, .refl _⟩

theorem countCombines_mem (d : Dev) (ctx : Option Nat) (c : Nat → Nat) (dest : Nat) (t : ArrivalTree) : (d.countCombines ctx c dest t).devMem = d.devMem := by
  obtain ⟨rs, o, h⟩ := countCombines_form d ctx c dest t
  rw [h]

theorem mem_foldl {α : Type} (f : Dev → α → Dev) (hf : ∀ (d : Dev) (a : α), (f d a).devMem = d.devMem) (l : List α) (d : Dev) : (l.foldl f d).devMem = d.devMem := by
  induction l generalizing d with
  | nil => rfl
  | cons a l ih => rw [List.foldl_cons, ih, hf]

/-- What the count of changed results can change. -/
theorem countTdc_form (d : Dev) (id : Nat) (k : TdcCause) : ∃ js cs, d.countTdc id k = { d with jobs := js, ctxs := cs } := by
  have uj : ∀ (e : Dev) f, ∃ js, e.updJob id f = { e with jobs := js } := by
    intro e f
    unfold Dev.updJob
    split <;> exact ⟨_, rfl⟩
  unfold Dev.countTdc
  split
  · exact ⟨d.jobs, d.ctxs, rfl⟩
  · dsimp only
    obtain ⟨js, hjs⟩ := uj d (fun j => { j with tdc := satAdd 0xFFFFFFFE j.tdc 1 })
    rw [hjs]
    exact ⟨_, _, rfl⟩

theorem jobRead_length (d : Dev) (j : Job) (a n : Nat) : (d.jobRead j a n).length = n := by simp [Dev.jobRead]

/-! ### The moves -/

/-- A request's landing reaches its own core alone. -/
theorem landMove_core (d : Dev) (n ticket : Nat) : (d.landMove n ticket).core n = { d.core n with moveQ := landIn (d.core n).moveQ ticket } ∧ ∀ k, k ≠ n → (d.landMove n ticket).core k = d.core k := by
  unfold Dev.landMove
  exact ⟨core_updCore_self _ _ _, fun k hk => core_updCore_ne _ _ (fun h => hk h.symm)⟩

/-- A request lands after a move. -/
theorem landNote_form {d e : Dev} (h : d.shifted e) (n ticket p ev c : Nat) (x : SampleItem) :
    ((e.landMove n ticket).note p ev c x).core n = { d.core n with moveQ := landIn (d.core n).moveQ ticket } ∧ (∀ k, k ≠ n → ((e.landMove n ticket).note p ev c x).core k = d.core k)
      ∧ (∀ k, ∃ r, ((e.landMove n ticket).note p ev c x).tidy k = { d.tidy k with reservation := r }) ∧ ((e.landMove n ticket).note p ev c x).devMem = e.devMem
      ∧ ((e.landMove n ticket).note p ev c x).poison = e.poison ∧ ((e.landMove n ticket).note p ev c x).jobs = d.jobs ∧ ((e.landMove n ticket).note p ev c x).ctxs = d.ctxs := by
  obtain ⟨h1, h2⟩ := landMove_core e n ticket
  refine ⟨?_, ?_, ?_, rfl, rfl, (shifted_jobs h).1, (shifted_jobs h).2⟩
  · show (e.landMove n ticket).core n = _
    rw [h1, shifted_core h]
  · intro k hk
    show (e.landMove n ticket).core k = _
    rw [h2 k hk, shifted_core h]
  · intro k
    exact shifted_tidy h k

/-- COPY: the bytes, where the two ranges do not meet, and the lines that poison reaches. -/
theorem moveCopy_form (d : Dev) (j : Job) (w : Nat) : d.shifted (d.moveCopy j w)
    ∧ (mvSrc w + mvCount w ≤ mvDst w ∨ mvDst w + mvCount w ≤ mvSrc w → (d.moveCopy j w).devMem = memWriteN d.devMem (mvDst w) (d.jobRead j (mvSrc w) (mvCount w))
      ∧ ∀ l ∈ d.poisonMap j (mvSrc w) (mvDst w) (mvCount w), l ∈ (d.moveCopy j w).poison) := by
  unfold Dev.moveCopy
  dsimp only
  have t0 := (shifted_trackPass d (some j.ctx) (j.redirect (mvSrc w)) (mvCount w) false).trans (shifted_trackPass _ (some j.ctx) (mvDst w) (mvCount w) true)
  have m0 := (trackPass_mem (d.trackPass (some j.ctx) (j.redirect (mvSrc w)) (mvCount w) false) (some j.ctx) (mvDst w) (mvCount w) true).trans (trackPass_mem d _ _ _ _)
  generalize (d.trackPass (some j.ctx) (j.redirect (mvSrc w)) (mvCount w) false).trackPass (some j.ctx) (mvDst w) (mvCount w) true = z at t0 m0
  obtain ⟨w1, w2, w3⟩ := writeDevPoison_form z (mvDst w) (d.jobRead j (mvSrc w) (mvCount w)) (d.poisonMap j (mvSrc w) (mvDst w) (mvCount w))
  have hs := (t0.trans w1).trans (shifted_disturb _ none (mvDst w) (mvCount w))
  split
  · refine ⟨hs.trans (shifted_freeBytes _ _ _), fun h => ?_⟩
    omega
  · exact ⟨hs, fun _ => ⟨w2.trans (by rw [m0]), w3⟩⟩

/-- GATHER without pooling: every byte outside the rows' destination stays. -/
theorem gatherRows_form (d : Dev) (j : Job) (w : Nat) (idx : List Nat) (n : Nat) (hn : idx.length ≤ n) : d.shifted (d.gatherRows j w idx)
    ∧ ∀ a, a < mvDst w ∨ mvDst w + n * mvRowBytes w ≤ a → memRead (d.gatherRows j w idx).devMem a = memRead d.devMem a := by
  unfold Dev.gatherRows
  dsimp only
  have step : ∀ (e : Dev) (r : Nat × Nat), e.shifted ((((e.trackPass (some j.ctx) (j.redirect (mvSrc w + r.1 * mvRowBytes w)) (mvRowBytes w) false).trackPass (some j.ctx) (mvDst w + r.2 * mvRowBytes w) (mvRowBytes w) true).writeDevPoison (mvDst w + r.2 * mvRowBytes w) (e.jobRead j (mvSrc w + r.1 * mvRowBytes w) (mvRowBytes w)) (e.poisonMap j (mvSrc w + r.1 * mvRowBytes w) (mvDst w + r.2 * mvRowBytes w) (mvRowBytes w))).disturb none (mvDst w + r.2 * mvRowBytes w) (mvRowBytes w))
      ∧ ((((e.trackPass (some j.ctx) (j.redirect (mvSrc w + r.1 * mvRowBytes w)) (mvRowBytes w) false).trackPass (some j.ctx) (mvDst w + r.2 * mvRowBytes w) (mvRowBytes w) true).writeDevPoison (mvDst w + r.2 * mvRowBytes w) (e.jobRead j (mvSrc w + r.1 * mvRowBytes w) (mvRowBytes w)) (e.poisonMap j (mvSrc w + r.1 * mvRowBytes w) (mvDst w + r.2 * mvRowBytes w) (mvRowBytes w))).disturb none (mvDst w + r.2 * mvRowBytes w) (mvRowBytes w)).devMem
        = memWriteN e.devMem (mvDst w + r.2 * mvRowBytes w) (e.jobRead j (mvSrc w + r.1 * mvRowBytes w) (mvRowBytes w)) := by
    intro e r
    have t0 := (shifted_trackPass e (some j.ctx) (j.redirect (mvSrc w + r.1 * mvRowBytes w)) (mvRowBytes w) false).trans (shifted_trackPass _ (some j.ctx) (mvDst w + r.2 * mvRowBytes w) (mvRowBytes w) true)
    have m0 := (trackPass_mem (e.trackPass (some j.ctx) (j.redirect (mvSrc w + r.1 * mvRowBytes w)) (mvRowBytes w) false) (some j.ctx) (mvDst w + r.2 * mvRowBytes w) (mvRowBytes w) true).trans (trackPass_mem e _ _ _ _)
    generalize (e.trackPass (some j.ctx) (j.redirect (mvSrc w + r.1 * mvRowBytes w)) (mvRowBytes w) false).trackPass (some j.ctx) (mvDst w + r.2 * mvRowBytes w) (mvRowBytes w) true = z at t0 m0
    obtain ⟨w1, w2, _⟩ := writeDevPoison_form z (mvDst w + r.2 * mvRowBytes w) (e.jobRead j (mvSrc w + r.1 * mvRowBytes w) (mvRowBytes w)) (e.poisonMap j (mvSrc w + r.1 * mvRowBytes w) (mvDst w + r.2 * mvRowBytes w) (mvRowBytes w))
    exact ⟨(t0.trans w1).trans (shifted_disturb _ _ _ _), w2.trans (by rw [m0])⟩
  refine ⟨shifted_foldl _ (fun e r => (step e r).1) _ d, ?_⟩
  have hr : ∀ r ∈ idx.zipIdx, r.2 < n := by
    intro r hr
    have h1 := List.mem_zipIdx_iff_getElem?.mp hr
    have h2 := (List.getElem?_eq_some_iff.mp h1).1
    omega
  generalize idx.zipIdx = l at hr
  intro a ha
  induction l generalizing d with
  | nil => rfl
  | cons r l ih =>
    rw [List.foldl_cons, ih _ (fun y hy => hr y (List.mem_cons_of_mem _ hy)), (step d r).2]
    apply memRead_memWriteN_out
    rw [jobRead_length]
    have : r.2 * mvRowBytes w + mvRowBytes w ≤ n * mvRowBytes w := by
      have := Nat.mul_le_mul_right (mvRowBytes w) (hr r List.mem_cons_self)
      rw [Nat.succ_mul] at this
      exact this
    omega

/-- GATHER with pooling: the bags' words, each bag along its own trees, and nothing else. -/
theorem gatherPool_form (d : Dev) (id : Nat) (j : Job) (w : Nat) (bags : List (List (Nat × Nat))) (as : Arrivals) : ∃ e js cs, d.gatherPool id j w bags as = { e with jobs := js, ctxs := cs } ∧ d.shifted e
    ∧ e.devMem = memWriteN d.devMem (mvDst w) (bags.zipIdx.flatMap (fun b => (d.bagResult j w (fun f => arrivalTree as b.2 f ((d.ctx j.ctx).throughput && mvElem w != 3) b.1.length) b.1).flatMap (leBytes 4))) := by
  unfold Dev.gatherPool
  dsimp only
  generalize hres : List.map (fun (b : List (Nat × Nat) × Nat) => (d.bagResult j w (fun f => arrivalTree as b.2 f ((d.ctx j.ctx).throughput && mvElem w != 3) b.1.length) b.1,
    decide (2 ≤ b.1.length) && (upFrom 0 ((mvRowElems w + flitWords - 1) / flitWords)).any (fun f => sumDiffers (arrivalTree as b.2 f ((d.ctx j.ctx).throughput && mvElem w != 3) b.1.length) b.1.length))) bags.zipIdx = res
  have hfl : res.flatMap (fun r => r.1.flatMap (leBytes 4)) = bags.zipIdx.flatMap (fun b => (d.bagResult j w (fun f => arrivalTree as b.2 f ((d.ctx j.ctx).throughput && mvElem w != 3) b.1.length) b.1).flatMap (leBytes 4)) := by
    rw [← hres, List.flatMap_map]
  rw [← hfl]
  have s1 : d.shifted (bags.foldl (fun d b => b.foldl (fun d r => d.trackPass (some j.ctx) (j.redirect (mvSrc w + r.1 * mvRowBytes w)) (mvRowBytes w) false) d) d) :=
    shifted_foldl _ (fun e b => shifted_foldl _ (fun e r => shifted_trackPass e _ _ _ _) b e) bags d
  have m1 : (bags.foldl (fun d b => b.foldl (fun d r => d.trackPass (some j.ctx) (j.redirect (mvSrc w + r.1 * mvRowBytes w)) (mvRowBytes w) false) d) d).devMem = d.devMem :=
    mem_foldl _ (fun e b => mem_foldl _ (fun e r => trackPass_mem e _ _ _ _) b e) bags d
  generalize bags.foldl (fun d b => b.foldl (fun d r => d.trackPass (some j.ctx) (j.redirect (mvSrc w + r.1 * mvRowBytes w)) (mvRowBytes w) false) d) d = d1 at s1 m1 ⊢
  have s2 := fun (F : Dev → List (Nat × Nat) × Nat → Dev) (hF : ∀ (e : Dev) b, e.shifted (F e b)) => s1.trans (shifted_foldl F hF bags.zipIdx d1)
  have m2 := fun (F : Dev → List (Nat × Nat) × Nat → Dev) (hF : ∀ (e : Dev) b, (F e b).devMem = e.devMem) => (mem_foldl F hF bags.zipIdx d1).trans m1
  generalize hF : (fun (e : Dev) (b : List (Nat × Nat) × Nat) => if b.1.isEmpty = true then e else e.countCombines (some j.ctx) (fun i => e.homeCluster (j.redirect (mvSrc w + ((b.1[i]?).getD (0, 0)).1 * mvRowBytes w))) (e.homeCluster (mvDst w)) (arrivalTree as b.2 0 ((d.ctx j.ctx).throughput && mvElem w != 3) b.1.length)) = F
  have s2 := s2 F (by intro e b; rw [← hF]; dsimp only; split; exact .refl e; exact shifted_countCombines _ _ _ _ _)
  have m2 := m2 F (by intro e b; rw [← hF]; dsimp only; split; rfl; exact countCombines_mem _ _ _ _ _)
  generalize List.foldl F d1 bags.zipIdx = d2 at s2 m2 ⊢
  have s3 := (s2.trans (shifted_trackPass d2 (some j.ctx) (mvDst w) (mvRowElems w * 4 * bags.length) true)).trans (shifted_storeDev _ (mvDst w) (res.flatMap (fun r => r.1.flatMap (leBytes 4))))
  have m3 : ((d2.trackPass (some j.ctx) (mvDst w) (mvRowElems w * 4 * bags.length) true).storeDev (mvDst w) (res.flatMap (fun r => r.1.flatMap (leBytes 4)))).devMem = memWriteN d.devMem (mvDst w) (res.flatMap (fun r => r.1.flatMap (leBytes 4))) := by
    rw [storeDev_mem, trackPass_mem, m2]
  generalize (d2.trackPass (some j.ctx) (mvDst w) (mvRowElems w * 4 * bags.length) true).storeDev (mvDst w) (res.flatMap (fun r => r.1.flatMap (leBytes 4))) = e at s3 m3 ⊢
  split
  · obtain ⟨js, cs, h⟩ := countTdc_form e id .net
    exact ⟨e, js, cs, h, s3, m3⟩
  · exact ⟨e, e.jobs, e.ctxs, rfl, s3, m3⟩

/-- A NET_ADD lands on every member and on no other core. -/
theorem landMoves_form (l : List (Nat × Desc)) (d : Dev) : (∃ cs, l.foldl (fun d e => d.landMove e.1 e.2.ticket) d = { d with cores := cs })
    ∧ (∀ k, k ∉ l.map (·.1) → (l.foldl (fun d e => d.landMove e.1 e.2.ticket) d).core k = d.core k)
    ∧ (∀ k T, (∀ z ∈ (d.core k).moveQ, z.ticket = T → z.landed = true) → ∀ z ∈ ((l.foldl (fun d e => d.landMove e.1 e.2.ticket) d).core k).moveQ, z.ticket = T → z.landed = true)
    ∧ ∀ m ∈ l, ∀ z ∈ ((l.foldl (fun d e => d.landMove e.1 e.2.ticket) d).core m.1).moveQ, z.ticket = m.2.ticket → z.landed = true := by
  induction l generalizing d with
  | nil => exact ⟨⟨_, rfl⟩, fun _ _ => rfl, fun _ _ h => h, fun m hm => absurd hm (by simp)⟩
  | cons a l ih =>
    obtain ⟨⟨cs, h1⟩, h2, h3, h4⟩ := ih (d.landMove a.1 a.2.ticket)
    have self : ∀ T, (T = a.2.ticket ∨ (∀ z ∈ (d.core a.1).moveQ, z.ticket = T → z.landed = true)) → ∀ z ∈ ((d.landMove a.1 a.2.ticket).core a.1).moveQ, z.ticket = T → z.landed = true := by
      intro T hT z hz hzt
      rw [(landMove_core d a.1 a.2.ticket).1] at hz
      obtain ⟨u, hu, rfl⟩ := List.mem_map.mp hz
      by_cases hk : u.ticket = a.2.ticket
      · rw [if_pos hk]
      · rw [if_neg hk] at hzt ⊢
        rcases hT with hT | hT
        · exact absurd (hzt.trans hT) hk
        · exact hT u hu hzt
    rw [List.foldl_cons]
    refine ⟨⟨cs, by rw [h1]; rfl⟩, ?_, ?_, ?_⟩
    · intro k hk
      rw [List.map_cons, List.mem_cons, not_or] at hk
      rw [h2 k hk.2, (landMove_core d a.1 a.2.ticket).2 k hk.1]
    · intro k T hT
      apply h3
      by_cases hk : k = a.1
      · subst hk
        exact self T (Or.inr hT)
      · rw [(landMove_core d a.1 a.2.ticket).2 k hk]; exact hT
    · intro m hm
      rcases List.mem_cons.mp hm with rfl | hm
      · exact h3 _ _ (self _ (Or.inl rfl))
      · exact h4 m hm

/-- In BITWISE mode, and for integers, the tree of every flit is the logical one (R136, R281). -/
theorem arrivalTree_bitwise (as : Arrivals) (bag f n : Nat) : arrivalTree as bag f false n = logicalTree 32 0 n := by
  unfold arrivalTree
  split
  · simp
  · rfl

/-- NET_ADD: the sums at every destination, and the landing on every member. -/
theorem moveNetAdd_form (d : Dev) (id : Nat) (j : Job) (as : Arrivals) (k : Nat) (y : Desc) (rest : List (Nat × Desc)) (dests : List Nat)
    (hd : (if mvAll y.word then ((k, y) :: rest).map (fun (e : Nat × Desc) => e.1) else [mvDestCore y.word]) = dests)
    (hb : ((k, y) :: rest).findSome? (fun e => (d.firstPoison [(mvSrc e.2.word, 4 * mvCount y.word)]).map (fun a => (e.1, a))) = none)
    (hl : ((k, y) :: rest).findSome? (fun e => d.moveFault id e.1 ((dests.filter (fun k => k != e.1)).map (fun k => (shareBase k + mvDst y.word, 4 * mvCount y.word)))) = none) :
    ∃ e, d.moveNetAdd id j ((k, y) :: rest) as = e
      ∧ e.devMem = dests.foldl (fun m k => memWriteN m (shareBase k + mvDst y.word) ((d.netSums ((k, y) :: rest) (mvElem y.word == 3) (mvCount y.word)
          (fun f => arrivalTree as 0 f ((d.ctx j.ctx).throughput && !(mvElem y.word == 3)) ((k, y) :: rest).length)).flatMap (leBytes 4))) d.devMem
      ∧ (∀ q, q ∉ ((k, y) :: rest).map (·.1) → e.core q = d.core q) ∧ (∀ q, ∃ r, e.tidy q = { d.tidy q with reservation := r })
      ∧ ∀ m ∈ (k, y) :: rest, ∀ z ∈ (e.core m.1).moveQ, z.ticket = m.2.ticket → z.landed = true := by
  refine ⟨_, rfl, ?_⟩
  unfold Dev.moveNetAdd
  dsimp only
  rw [hd, hb, hl]
  dsimp only
  generalize hbs : (d.netSums ((k, y) :: rest) (mvElem y.word == 3) (mvCount y.word) (fun f => arrivalTree as 0 f ((d.ctx j.ctx).throughput && !(mvElem y.word == 3)) ((k, y) :: rest).length)).flatMap (leBytes 4) = bs
  have s1 := shifted_countCombines d (some j.ctx) (fun i => coreCluster d.geo ((((k, y) :: rest)[i]?.map (·.1)).getD 0)) (coreCluster d.geo (dests.headD k)) (arrivalTree as 0 0 ((d.ctx j.ctx).throughput && !(mvElem y.word == 3)) ((k, y) :: rest).length)
  have m1 := countCombines_mem d (some j.ctx) (fun i => coreCluster d.geo ((((k, y) :: rest)[i]?.map (·.1)).getD 0)) (coreCluster d.geo (dests.headD k)) (arrivalTree as 0 0 ((d.ctx j.ctx).throughput && !(mvElem y.word == 3)) ((k, y) :: rest).length)
  generalize d.countCombines (some j.ctx) (fun i => coreCluster d.geo ((((k, y) :: rest)[i]?.map (·.1)).getD 0)) (coreCluster d.geo (dests.headD k)) (arrivalTree as 0 0 ((d.ctx j.ctx).throughput && !(mvElem y.word == 3)) ((k, y) :: rest).length) = d1 at s1 m1 ⊢
  have s2 := s1.trans (shifted_foldl (fun d k => d.storeDev (shareBase k + mvDst y.word) bs) (fun e _ => shifted_storeDev e _ _) dests d1)
  obtain ⟨mm, _, _, _, _, _, _, hst, hmm, _⟩ := storeDevs_form (fun k => shareBase k + mvDst y.word) (fun _ => bs) dests d1
  have m2 : (dests.foldl (fun d k => d.storeDev (shareBase k + mvDst y.word) bs) d1).devMem = dests.foldl (fun m k => memWriteN m (shareBase k + mvDst y.word) bs) d.devMem := by
    rw [hst, ← m1]; exact hmm
  generalize dests.foldl (fun d k => d.storeDev (shareBase k + mvDst y.word) bs) d1 = d2 at s2 m2 ⊢
  obtain ⟨⟨cs, l1⟩, l2, _, l4⟩ := landMoves_form ((k, y) :: rest) d2
  have n2 : ∀ (l : List (Nat × Desc)) (e : Dev), ∃ o, l.foldl (fun d (e : Nat × Desc) => d.note (UnitId.core e.1).page 0x112 (4 * mvCount y.word) (e.2.item id 2 (mvSrc e.2.word))) e = { e with occ := o } :=
    fun l e => notes_form _ (fun d x => ⟨_, rfl⟩) l e
  obtain ⟨o, h3⟩ := n2 (((k, y) :: rest).filter (fun e => dests.contains e.1)) (((k, y) :: rest).foldl (fun d e => d.landMove e.1 e.2.ticket) d2)
  rw [h3]
  have fin : ∀ f : Dev, (∃ js cx, f = { ({ ((k, y) :: rest).foldl (fun d e => d.landMove e.1 e.2.ticket) d2 with occ := o } : Dev) with jobs := js, ctxs := cx }) →
      f.devMem = dests.foldl (fun m k => memWriteN m (shareBase k + mvDst y.word) bs) d.devMem ∧ (∀ q, q ∉ ((k, y) :: rest).map (·.1) → f.core q = d.core q)
      ∧ (∀ q, ∃ r, f.tidy q = { d.tidy q with reservation := r }) ∧ ∀ m ∈ (k, y) :: rest, ∀ z ∈ (f.core m.1).moveQ, z.ticket = m.2.ticket → z.landed = true := by
    rintro f ⟨js, cx, rfl⟩
    refine ⟨?_, fun q hq => ?_, fun q => ?_, fun m hm z hz => l4 m hm z hz⟩
    · rw [l1]; exact m2
    · exact (l2 q hq).trans (shifted_core s2 q)
    · rw [l1]; exact shifted_tidy s2 q
  subst hbs
  split
  · exact fin _ (countTdc_form _ id .net)
  · exact fin _ ⟨_, _, rfl⟩

end Sys2Proof.Machine
end

