-- ==== Sys2Proof/Laws/Pages.lean ====
section
/-! SUPPORT. What a write of a firmware-served register does where no other write waits at its processor. -/

namespace Sys2Proof.Machine

theorem mem_of_get? {α : Type} (t : Tab α) (k : Nat) (v : α) (h : Tab.get? t k = some v) : (k, v) ∈ t := by
  induction t with
  | nil => simp [Tab.get?] at h
  | cons e t ih =>
    unfold Tab.get? at h
    split at h
    · rename_i hk; injection h with h; subst h; subst hk; exact List.mem_cons_self
    · exact List.mem_cons_of_mem _ (ih h)

/-- Where every entry of a table yields nothing, an entry put into it yields what it yields alone. -/
theorem flatMap_put {α β : Type} (g : Nat × α → List β) (t : Tab α) (k : Nat) (v : α) (h : t.flatMap g = []) : (Tab.put t k v).flatMap g = g (k, v) := by
  induction t with
  | nil => simp [Tab.put]
  | cons e t ih =>
    obtain ⟨x, w⟩ := e
    rw [List.flatMap_cons, List.append_eq_nil_iff] at h
    unfold Tab.put
    split
    · rw [List.flatMap_cons, List.flatMap_cons, h.1, h.2]; simp
    · split
      · rw [List.flatMap_cons, h.2]; simp
      · rw [List.flatMap_cons, h.1, ih h.2]; rfl

/-- With nothing waiting at its processor, a page's own queue is empty. -/
theorem writes_of_emuWaiting {d : Dev} {u : UnitId} (hu : unitOf u.page = some u) (h : d.emuWaiting u = []) : (d.emuPage u).writes = [] := by
  unfold Dev.emuPage Tab.getD
  cases hg : Tab.get? d.emu u.page with
  | none => rfl
  | some e =>
    have hm := mem_of_get? _ _ _ hg
    unfold Dev.emuWaiting at h
    rw [List.flatMap_eq_nil_iff] at h
    have := h _ hm
    simpa [hu] using this

/-- The write is applied at once, and the code of its failure is recorded; the page's queue is empty again, and the next arrival has the next number. -/
theorem emuWriteNow_eq {d : Dev} {u : UnitId} (off data : Nat) (hm : d.modState ≠ .reset) (hs : d.notServing u = false) (hh : d.serverHalted u = false)
    (hu : unitOf u.page = some u) (hw : d.emuWaiting u = []) :
    d.emuWriteNow 0 u off data =
      ((({ d with emu := d.emu.put u.page { d.emuPage u with writes := [] }, emuSeq := d.emuSeq + 1 } : Dev).emuEffect 0 u off (data % 2 ^ 32)).1).emuFail u
        (({ d with emu := d.emu.put u.page { d.emuPage u with writes := [] }, emuSeq := d.emuSeq + 1 } : Dev).emuEffect 0 u off (data % 2 ^ 32)).2 := by
  have hq := writes_of_emuWaiting hu hw
  unfold Dev.emuWriteNow
  rw [if_neg (by simp [hm])]
  unfold Dev.emuPut
  rw [if_neg (by simp [hs]), if_neg (by rw [hq]; decide)]
  have hput : ({ d.updEmu u (fun e => { e with writes := e.writes ++ [({ fn := 0, off, data := data % 2 ^ 32, seq := d.emuSeq } : EmuWrite)] }) with emuSeq := d.emuSeq + 1 } : Dev)
      = { d with emu := d.emu.put u.page { d.emuPage u with writes := [{ fn := 0, off, data := data % 2 ^ 32, seq := d.emuSeq }] }, emuSeq := d.emuSeq + 1 } := by
    have e : ({ d.emuPage u with writes := (d.emuPage u).writes ++ [({ fn := 0, off, data := data % 2 ^ 32, seq := d.emuSeq } : EmuWrite)] } : EmuPage)
        = { d.emuPage u with writes := [{ fn := 0, off, data := data % 2 ^ 32, seq := d.emuSeq }] } := by rw [hq]; rfl
    exact congrArg (fun p => ({ d with emu := d.emu.put u.page p, emuSeq := d.emuSeq + 1 } : Dev)) e
  dsimp only
  rw [hput]
  have hwait : ({ d with emu := d.emu.put u.page { d.emuPage u with writes := [{ fn := 0, off, data := data % 2 ^ 32, seq := d.emuSeq }] }, emuSeq := d.emuSeq + 1 } : Dev).emuWaiting u = [(u, d.emuSeq)] := by
    unfold Dev.emuWaiting at hw ⊢
    dsimp only
    rw [flatMap_put _ _ _ _ hw]
    simp [hu]
  rw [hwait]
  simp only [List.length_singleton, Dev.emuServe]
  rw [hwait]
  show Dev.emuTake _ u = _
  unfold Dev.emuTake
  rw [if_neg (by
    have h1 : ∀ (e : Tab EmuPage) n, ({ d with emu := e, emuSeq := n } : Dev).notServing u = d.notServing u := fun _ _ => rfl
    have h2 : ∀ (e : Tab EmuPage) n, ({ d with emu := e, emuSeq := n } : Dev).serverHalted u = d.serverHalted u := fun _ _ => rfl
    rw [h1, h2, hs, hh]; decide)]
  simp only [Dev.emuPage, Dev.updEmu, getD_put_self, put_put_self]

end Sys2Proof.Machine
end

