-- ==== Sys2Proof/WellFormed.lean ====
section
/-! DEFINITION. Which commands are well formed: every operand within the range that its register, record, pin or table gives it. -/

namespace Sys2Proof

/-- A number within its range. -/
def below (n bound : Nat) : Bool := decide (n < bound)

/-- A number of at most `n` bits. -/
def wide (v n : Nat) : Bool := below v (2 ^ n)

/-- A time. -/
def time (t : Nat) : Bool := wide t 64

/-- A command on a ring, at a large core, at a tidy core (8n + m), at a port. -/
def onRing (t ring : Nat) : Bool := time t && below ring 256
def onCore (t core : Nat) : Bool := time t && below core 16
def onTidy (t tc : Nat) : Bool := time t && below tc 128
def onPort (t port : Nat) : Bool := time t && below port 20

/-- A byte at a 64-bit address. -/
def cellOk (c : Host.Cell) : Bool := below c.1 (2 ^ 64)

/-- The length of a register access: 1, 2 or 4 bytes aligned to itself, or 8 aligned to 4 (R42, R45). -/
def accessLen (len off : Nat) : Bool := (len == 1 || (len == 2 && off % 2 == 0) || (len == 4 && off % 4 == 0) || (len == 8 && off % 4 == 0)) && decide (off + len ≤ 4096)

/-- Register writes: x1 to x31, f and v registers, CSR numbers, values within their widths (R17). -/
def RegWrite.wf : RegWrite → Bool
  | .x n w => decide (1 ≤ n) && below n 32 && below w (2 ^ 64)
  | .f n w => below n 32 && below w (2 ^ 64)
  | .v n w => below n 32 && below w (2 ^ 2048)
  | .fcsr w => below w 256
  | .vl w => below w (2 ^ 64)
  | .vtype w => below w (2 ^ 64)
  | .csr n w => below n 4096 && below w (2 ^ 64)
  | .reserve a => a.all (fun x => below x (2 ^ 64))

def TidyEffect.wf : TidyEffect → Bool
  | .retire ws loads stores nextPc fflags =>
    ws.all RegWrite.wf && loads.all (fun a => below a (2 ^ 64)) && stores.all cellOk && below nextPc (2 ^ 64) && below fflags 32
  | .trap cause tval => below cause 256 && below tval (2 ^ 64)
  | .stepEnd => true
  | .fetch => true

/-- The operand positions of an association. -/
def ArrivalTree.positions : ArrivalTree → List Nat
  | .leaf i => [i]
  | .node l r => l.positions ++ r.positions

/-- Each of the operand positions 0 to n − 1 once. -/
def ArrivalTree.wf (t : ArrivalTree) : Bool := (List.range t.positions.length).all (fun i => t.positions.contains i)

/-- An association of the sums of a request. -/
def arrivalWf (a : Arrivals) : Bool := a.all (fun e => e.2.2.wf)

def FwImage.wf (x : FwImage) : Bool :=
  below x.proc 8 && below x.version (2 ^ 32) && below x.key 4 && below x.revokes 16 && x.sigR.length == 48 && x.sigS.length == 48

def LoadEstimate.wf (x : LoadEstimate) : Bool := decide (2 ≤ x.slopeDuty) && decide (x.slopeDuty ≤ 16)

def Temperatures.wf (x : Temperatures) : Bool := x.clusters.length == 4 && x.stackTemps.length == 32 && (x.hub :: x.clusters ++ x.stackTemps).all (fun c => below c 256)

def SmuSample.wf (x : SmuSample) : Bool := below x.energyA (2 ^ 64) && below x.energyB (2 ^ 64)

def SmuFrameIn.wf (x : SmuFrameIn) : Bool := below x.power 65536 && below x.errors (2 ^ 560) && x.jobs.all (fun j => below j.1 (2 ^ 32))

def SmuImage.wf (x : SmuImage) : Bool := below x.version (2 ^ 32) && x.sigR.length == 48 && x.sigS.length == 48

def ErrorSite.wf (x : ErrorSite) : Bool :=
  below x.page 0x1120 && decide (1 ≤ x.kind) && decide (x.kind ≤ 0x0B) && below x.address (2 ^ 64) && below x.syndrome 65536 && below x.element (2 ^ 21) && x.path.all (fun c => below c 64)

def NetRequest.wf (x : NetRequest) : Bool :=
  below x.target 0x1120 && below x.requester 0x1120 && below x.address (2 ^ 64) && decide (1 ≤ x.bytes) && decide (x.bytes ≤ 1024) && x.passed.all (fun p => below p.1 4 && below p.2 (2 ^ 32))

def SampleItem.wf (x : SampleItem) : Bool :=
  below x.kind 4 && below x.tidy 8 && below x.job (2 ^ 32) && below x.tag 65536 && below x.ticket 65536 && below x.itemAddr (2 ^ 64)
  && below x.itemWord (2 ^ 32) && below x.dataAddr (2 ^ 64) && below x.category 4

def SampleOutcome.wf : SampleOutcome → Bool
  | .completed latency => below latency (2 ^ 32)
  | .discarded => true

def Identity.wf (x : Identity) : Bool := below x.deviceId (2 ^ 128) && below x.gens 4 && below x.port 32 && below x.position 8192 && below x.align 4

def Incoming.wf (x : Incoming) : Bool := below x.off (2 ^ 64) && below x.len (2 ^ 32) && x.post.all (fun o => below o 16384)

def TransferEnd.wf : TransferEnd → Bool
  | .done bs => below bs.length (2 ^ 32)
  | .refused code => below code 4096
  | .arrived bs => below bs.length (2 ^ 32)

def Datagram.wf (x : Datagram) : Bool :=
  below x.addr (2 ^ 128) && below x.udp 65536
  && (match x.kind with
      | .identity i => i.wf
      | .ack numbers => decide (numbers.length ≤ 4096) && numbers.all (fun n => wide n 64)
      | .data => true)

def StageResult.wf (x : StageResult) : Bool := below x.badRun 128 && below x.badOther 128 && below x.clusters 16 && below x.chainFailed (2 ^ 20)

def JtagAccess.wf : JtagAccess → Bool
  | .boundaryScan => true
  | .haltTidy tc | .resumeTidy tc | .stepTidy tc | .readPc tc => below tc 128
  | .haltProc p | .resumeProc p => below p 7
  | .readReg tc reg => below tc 128 && below reg 65536
  | .writeReg tc reg value => below tc 128 && below reg 65536 && below value (2 ^ 64)
  | .writePc tc value => below tc 128 && below value (2 ^ 64)
  | .readMem a => below a (2 ^ 64)
  | .writeMem a _ => below a (2 ^ 64)
  | .stepProc p => below p 7
  | .readF tc reg => below tc 128 && below reg 32
  | .writeF tc reg value => below tc 128 && below reg 32 && below value (2 ^ 64)
  | .readV tc reg lane => below tc 128 && below reg 32 && below lane 32
  | .writeV tc reg lane value => below tc 128 && below reg 32 && below lane 32 && below value (2 ^ 64)
  | .readCsr tc csr => below tc 128 && below csr 4096
  | .writeCsr tc csr value => below tc 128 && below csr 4096 && below value (2 ^ 64)
  | .readProcReg p reg => below p 7 && below reg 65536
  | .writeProcReg p reg value => below p 7 && below reg 65536 && below value (2 ^ 64)
  | .readProcMem p a => below p 7 && below a (2 ^ 64)
  | .writeProcMem p a value => below p 7 && below a (2 ^ 64) && below value (2 ^ 64)

/-- A well-formed command: each check is the range of one operand. -/
def Instr.wf : Instr → Bool
  | .nop t ring => onRing t ring
  | .ctxCreate t ring => onRing t ring
  | .ctxDestroy t ring => onRing t ring
  | .ctxSave t ring => onRing t ring
  | .ctxSaveDone t ctx => time t && below ctx 64
  | .ctxRestore t ring => onRing t ring
  | .ctxRestoreDone t ctx => time t && below ctx 64
  | .jobDefine t ring => onRing t ring
  | .jobPlace t ring => onRing t ring
  | .jobQueue t ring => onRing t ring
  | .jobAbort t ring => onRing t ring
  | .jobRelease t ring => onRing t ring
  | .seedRequest t ring => onRing t ring
  | .entropyRead t ring => onRing t ring
  | .setCap t ring => onRing t ring
  | .setPlatformLimit t ring => onRing t ring
  | .setIceMode t ring => onRing t ring
  | .powerStateSnowpack t ring => onRing t ring
  | .powerStateFrost t ring => onRing t ring
  | .fwStage t ring => onRing t ring
  | .fwStageComplete t proc image => time t && below proc 7 && image.wf
  | .fwActivate t ring => onRing t ring
  | .activationStart t proc => time t && below proc 7
  | .activationSelfCheckPass t proc => time t && below proc 7
  | .activationRestartTimeout t proc => time t && below proc 7
  | .activationAbandon t proc => time t && below proc 7
  | .attach t ring => onRing t ring
  | .leaseRenew t ring => onRing t ring
  | .takeover t ring => onRing t ring
  | .orphanResolveResume t ring => onRing t ring
  | .orphanResolveDiscard t ring => onRing t ring
  | .detach t ring => onRing t ring
  | .unitReset t ring => onRing t ring
  | .unitResetComplete t page => time t && below page 0x4000
  | .moduleReset t ring => onRing t ring
  | .keyManageInstall t ring => onRing t ring
  | .keyManageReplace t ring => onRing t ring
  | .keyManageRevoke t ring => onRing t ring
  | .keyManageSetPassword t ring => onRing t ring
  | .keyManageClearPassword t ring => onRing t ring
  | .keyManageCommit t => time t
  | .lifeState t ring => onRing t ring
  | .lifeStateCommit t => time t
  | .debugUnlockOwner t ring => onRing t ring
  | .ownerVerifierDone t => time t
  | .debugUnlockChallenge t ring => onRing t ring
  | .debugUnlockResponse t ring => onRing t ring
  | .debugUnlockLock t ring => onRing t ring
  | .smuAccountAssign t ring => onRing t ring
  | .smuAccountLabel t ring => onRing t ring
  | .counterFreezeFreeze t ring => onRing t ring
  | .counterFreezeUnfreeze t ring => onRing t ring
  | .counterFreezeSnapshot t ring => onRing t ring
  | .counterFreezeSampleDrain t ring => onRing t ring
  | .dumpRead t ring => onRing t ring
  | .dumpReadDone t => time t
  | .dumpRelease t ring => onRing t ring
  | .ringEnable t fn ring => time t && below fn 32 && below ring 256
  | .ringDisable t fn ring => time t && below fn 32 && below ring 256
  | .sqTailDoorbell t fn ring value host => time t && below fn 32 && below ring 256 && wide value 32 && host.all cellOk
  | .cqHeadWrite t fn ring value => time t && below fn 32 && below ring 256 && wide value 32
  | .ringWakeArm t fn ring vector => time t && below fn 32 && below ring 256 && wide vector 32
  | .completionWrite t ring => onRing t ring
  | .attnqPop t fn queue => time t && below fn 32 && below queue 32
  | .registerWrite t fn page off len data => time t && below fn 32 && below page 0x4001 && below off 4096 && accessLen len off && wide data 64
  | .rcRead t fn page span => time t && below fn 32 && below page 0x4000 && below span.off 4096 && accessLen span.len span.off
  | .latchingLoRead t fn page span => time t && below fn 32 && below page 0x4000 && below span.off 4096 && accessLen span.len span.off
  | .emulatedPageRead t fn page span => time t && below fn 32 && below page 0x4000 && below span.off 4096 && accessLen span.len span.off
  | .emulatedPageWrite t fn page off len data => time t && below fn 32 && below page 0x4000 && below off 4096 && accessLen len off && wide data 64
  | .emulatedWriteApply t page => time t && below page 0x4000
  | .emulatedReadTimeout t fn page off => time t && below fn 32 && below page 0x4000 && below off 4096
  | .bar2Read t fn off len => time t && below fn 32 && wide off 41 && decide (1 ≤ len) && decide (len ≤ 4096)
  | .bar2Write t fn off bytes => time t && below fn 32 && wide off 41 && decide (bytes.length ≤ 4096)
  | .timeDomainLock t => time t
  | .alignInterval t => time t
  | .alignMessage t port msg => onPort t port && below msg.hops 8192 && decide (-2 ^ 63 ≤ msg.offset) && decide (msg.offset < 2 ^ 63)
  | .alignHoldover t => time t
  | .launchReleaseSend t job => time t && wide job 32
  | .jobLaunch t job => time t && wide job 32
  | .jobDone t job => time t && wide job 32
  | .jobFaultFinal t job => time t && wide job 32
  | .syncConfigWrite t obj data => time t && below obj 16384 && wide data 32
  | .syncCountWrite t obj data => time t && below obj 16384 && wide data 32
  | .syncExpectedWrite t obj data => time t && below obj 16384 && wide data 32
  | .syncPost t obj data => time t && below obj 16384 && wide data 32
  | .syncClear t obj data => time t && below obj 16384 && wide data 32
  | .barrierFiring t obj => time t && below obj 16384
  | .tidyCoreInstruction t tc effect => onTidy t tc && effect.wf
  | .xrCsrWrite t tc swap rs1 => onTidy t tc && below swap.rd 32 && below swap.csr 4096 && below rs1 32
  | .xmIssue t tc rd rs1 => onTidy t tc && below rd 32 && below rs1 32
  | .xmWait t tc rd rs1 => onTidy t tc && below rd 32 && below rs1 32
  | .xmDone t tc rd rs1 => onTidy t tc && below rd 32 && below rs1 32
  | .xsPost t tc rd rs1 rs2 => onTidy t tc && below rd 32 && below rs1 32 && below rs2 32
  | .xsClear t tc rd rs1 => onTidy t tc && below rd 32 && below rs1 32
  | .xcCvt t tc vd vs2 fmt _ => onTidy t tc && below vd 32 && below vs2 32 && below fmt 16
  | .xcSrnd t tc vd vs2 rs1 fmt _ => onTidy t tc && below vd 32 && below vs2 32 && below rs1 32 && below fmt 16
  | .xrDraw t tc vd rs1 => onTidy t tc && below vd 32 && below rs1 32
  | .xrDmask t tc vd rs1 rs2 => onTidy t tc && below vd 32 && below rs1 32 && below rs2 32
  | .xrSlate t tc vd rs1 => onTidy t tc && below vd 32 && below rs1 32
  | .xtDraw t tc rd rs1 => onTidy t tc && below rd 32 && below rs1 32
  | .xdMove t tc rd rs1 => onTidy t tc && below rd 32 && below rs1 32
  | .xdWait t tc rd rs1 => onTidy t tc && below rd 32 && below rs1 32
  | .matmul t core => onCore t core
  | .reduce t core => onCore t core
  | .tileClear t core => onCore t core
  | .tileDrain t core => onCore t core
  | .tileLoad t core => onCore t core
  | .tileCopy t core => onCore t core
  | .chainAdd t core => onCore t core
  | .runningSumHandover t core => onCore t core
  | .writeOutEnd t core buffer => onCore t core && below buffer 4
  | .descriptorComplete t core _ => onCore t core
  | .suaFields t core => onCore t core
  | .suaSweep t core _ => onCore t core
  | .chromaticBeat t core => onCore t core
  | .windowStep t core => onCore t core
  | .synchronousBeat t core => onCore t core
  | .annealRun t core _ => onCore t core
  | .annealStep t core => onCore t core
  | .tokenDraw t core => onCore t core
  | .copy t core => onCore t core
  | .gather t core arrivals => onCore t core && arrivalWf arrivals
  | .netAdd t core arrivals => onCore t core && arrivalWf arrivals
  | .sourceSettled t src => time t && below src 2
  | .repetitionCountFailure t src => time t && below src 2
  | .adaptiveProportionFailure t src => time t && below src 2
  | .entropyWindowEnd t src raw => time t && below src 2 && decide (raw.length ≤ 4096)
  | .drbgInstantiateDone t => time t
  | .drbgReseed t => time t
  | .generateRequest t => time t
  | .entRetest t data => time t && wide data 32
  | .testPatternSelect t data => time t && wide data 32
  | .testPatternDeselect t data => time t && wide data 32
  | .entTestHiWrite t data => time t && wide data 32
  | .governorEstimate t load => time t && load.wf
  | .controlPeriod t => time t
  | .capTakesEffect t => time t
  | .settlingIntervalEnd t => time t
  | .iceModeTakesEffect t => time t
  | .smuWindowRecord t arrival => time t && below arrival.errors (2 ^ 160) && below arrival.endAt (2 ^ 64)
  | .smuAbsenceTimeout t => time t
  | .distrustEnter t => time t
  | .distrustExit t => time t
  | .capOverrun t => time t
  | .emergencyClear t => time t
  | .sensorSample t temps => time t && temps.wf
  | .snowpackEntryComplete t => time t
  | .snowpackExitComplete t => time t
  | .smuMetrologyInterval t sample => time t && sample.wf
  | .smuFrame t frame => time t && frame.wf
  | .attributionInterval t => time t
  | .readSigned call account nonce => time call.t && below call.channel 2 && below account 256 && wide nonce 128
  | .readPubkey call => time call.t && below call.channel 2
  | .readLog call index => time call.t && below call.channel 2 && below index 4096
  | .smuSealNAssert t nonce => time t && wide nonce 128
  | .sealingImageLoad t image => time t && image.wf
  | .smuSealNRelease t => time t
  | .smuNvStore t => time t
  | .vsmu33Loss t => time t
  | .vsmu33PowerOn t => time t
  | .smuReadReqGo t fn data => time t && below fn 32 && wide data 32
  | .signedReadingWritten t => time t
  | .logCopy t => time t
  | .logHostSizeWrite t data => time t && wide data 32
  | .leaseWarning t => time t
  | .leaseExpiry t => time t
  | .takeoverLapse t => time t
  | .challengeExpiry t => time t
  | .unlockExpiry t => time t
  | .correctedError t error => time t && error.wf
  | .uncorrectableError t error => time t && error.wf
  | .patrolScrub t address _ => time t && wide address 64
  | .fatalError t cause page detail => time t && below cause 256 && below page 0x4000 && wide detail 64
  | .dumpWritten t => time t
  | .dumpWriteTimeout t => time t
  | .securityWatchdog t => time t
  | .controlMessageTimeout t page => time t && below page 0x4000
  | .slotRetirement t slot => time t && below slot 20
  | .spareSubstitution t core _ => onCore t core
  | .networkRequestArrival t req => time t && req.wf
  | .networkReplyArrival t id => time t && wide id 64
  | .epochNotice t port page epoch => time t && below port 0x1120 && below page 0x4000 && wide epoch 16
  | .trackingEntryGrant t stack => time t && below stack 32
  | .dramRefresh t stack waits => time t && below stack 32 && wide waits 32
  | .coldReset t => time t
  | .hostReset t => time t
  | .pfFunctionLevelReset t => time t
  | .vfFunctionLevelReset t fn => time t && below fn 32
  | .vfResetComplete t fn => time t && below fn 32
  | .counterWrap t page index occurrences item => time t && below page 0x4000 && below index 8 && wide occurrences 32 && item.wf
  | .sampleRecordWrite t page outcome => time t && below page 0x4000 && outcome.wf
  | .samplePop t fn data => time t && below fn 32 && wide data 32
  | .cntSelWrite t fn page index data => time t && below fn 32 && below page 0x4000 && below index 8 && wide data 32
  | .cntHiWrite t fn page index data => time t && below fn 32 && below page 0x4000 && below index 8 && wide data 32
  | .counterFreezeAtS t => time t
  | .snapshotWriteOut t => time t
  | .bwWindowEnd t counts => time t && decide (counts.length = 128) && counts.all (fun x => below x.1 (2 ^ 64) && below x.2 (2 ^ 64))
  | .bwWindowWrite t fn data => time t && below fn 32 && wide data 32
  | .pcieLinkRetrain t gen width _ => time t && below gen 8 && below width 32
  | .sholoTrainingComplete t port gen _ => onPort t port && below gen 8
  | .identityFrame t port ident => onPort t port && ident.wf
  | .flitCrcFail t port delay => onPort t port && wide delay 32
  | .replayLimitRetrain t port => onPort t port
  | .signalLoss t port => onPort t port
  | .retrainTimeout t port => onPort t port
  | .portEnableWrite t port data => onPort t port && wide data 32
  | .xqControlEnable t port data => onPort t port && wide data 32
  | .xqTailDoorbell t port value host => onPort t port && wide value 32 && host.all cellOk
  | .transferWrite t port => onPort t port
  | .transferRead t port => onPort t port
  | .incomingTransfer t port xfer => onPort t port && xfer.wf
  | .transferComplete t port index result => onPort t port && wide index 16 && result.wf
  | .rxwEnableWrite t port data => onPort t port && wide data 32
  | .ethDatagram t port datagram => onPort t port && datagram.wf
  | .ethResendTimeout t port peer resend => onPort t port && below peer 256 && wide resend.number 64 && wide resend.delay 32
  | .linkRefclkLoss t => time t
  | .sysRefclkLoss t => time t
  | .hostRefclkLoss t => time t
  | .vin48Loss t => time t
  | .vin48ExcursionBegin t group => time t && below group 2
  | .vin48ExcursionEnd t group => time t && below group 2
  | .vaux33Loss t => time t
  | .hubPowerGood t => time t
  | .bringupStageEnd t result => time t && result.wf
  | .inputPowerTimeout t => time t
  | .smuWaitTimeout t => time t
  | .bringupTimeout t => time t
  | .dramTrainingAttempt t stack _ => time t && below stack 32
  | .slotSelfTest t slot _ => time t && below slot 20
  | .vin48InRange t => time t
  | .perstNRelease t => time t
  | .lockoutEnd t => time t
  | .jtagAccess t access => time t && access.wf
  | .partnerLowPower t port => onPort t port
  | .linkRefclkReturn t => time t

end Sys2Proof
end

