-- ==== Sys2Proof/Laws/PerInstr.lean ====
section
/-! SUPPORT. A family of statements made for every command by itself: the time that a well-formed command carries is a device time of 64 bits (R66). -/

namespace Sys2Proof.Laws.TimeInRange

/-- The time at which a command takes its place. -/
def timeOf : Instr → Nat
  | .nop t _ => t
  | .ctxCreate t _ => t
  | .ctxDestroy t _ => t
  | .ctxSave t _ => t
  | .ctxSaveDone t _ => t
  | .ctxRestore t _ => t
  | .ctxRestoreDone t _ => t
  | .jobDefine t _ => t
  | .jobPlace t _ => t
  | .jobQueue t _ => t
  | .jobAbort t _ => t
  | .jobRelease t _ => t
  | .seedRequest t _ => t
  | .entropyRead t _ => t
  | .setCap t _ => t
  | .setPlatformLimit t _ => t
  | .setIceMode t _ => t
  | .powerStateSnowpack t _ => t
  | .powerStateFrost t _ => t
  | .fwStage t _ => t
  | .fwStageComplete t _ _ => t
  | .fwActivate t _ => t
  | .activationStart t _ => t
  | .activationSelfCheckPass t _ => t
  | .activationRestartTimeout t _ => t
  | .activationAbandon t _ => t
  | .attach t _ => t
  | .leaseRenew t _ => t
  | .takeover t _ => t
  | .orphanResolveResume t _ => t
  | .orphanResolveDiscard t _ => t
  | .detach t _ => t
  | .unitReset t _ => t
  | .unitResetComplete t _ => t
  | .moduleReset t _ => t
  | .keyManageInstall t _ => t
  | .keyManageReplace t _ => t
  | .keyManageRevoke t _ => t
  | .keyManageSetPassword t _ => t
  | .keyManageClearPassword t _ => t
  | .keyManageCommit t => t
  | .lifeState t _ => t
  | .lifeStateCommit t => t
  | .debugUnlockOwner t _ => t
  | .ownerVerifierDone t => t
  | .debugUnlockChallenge t _ => t
  | .debugUnlockResponse t _ => t
  | .debugUnlockLock t _ => t
  | .smuAccountAssign t _ => t
  | .smuAccountLabel t _ => t
  | .counterFreezeFreeze t _ => t
  | .counterFreezeUnfreeze t _ => t
  | .counterFreezeSnapshot t _ => t
  | .counterFreezeSampleDrain t _ => t
  | .dumpRead t _ => t
  | .dumpReadDone t => t
  | .dumpRelease t _ => t
  | .ringEnable t _ _ => t
  | .ringDisable t _ _ => t
  | .sqTailDoorbell t _ _ _ _ => t
  | .cqHeadWrite t _ _ _ => t
  | .ringWakeArm t _ _ _ => t
  | .completionWrite t _ => t
  | .attnqPop t _ _ => t
  | .registerWrite t _ _ _ _ _ => t
  | .rcRead t _ _ _ => t
  | .latchingLoRead t _ _ _ => t
  | .emulatedPageRead t _ _ _ => t
  | .emulatedPageWrite t _ _ _ _ _ => t
  | .emulatedWriteApply t _ => t
  | .emulatedReadTimeout t _ _ _ => t
  | .bar2Read t _ _ _ => t
  | .bar2Write t _ _ _ => t
  | .timeDomainLock t => t
  | .alignInterval t => t
  | .alignMessage t _ _ => t
  | .alignHoldover t => t
  | .launchReleaseSend t _ => t
  | .jobLaunch t _ => t
  | .jobDone t _ => t
  | .jobFaultFinal t _ => t
  | .syncConfigWrite t _ _ => t
  | .syncCountWrite t _ _ => t
  | .syncExpectedWrite t _ _ => t
  | .syncPost t _ _ => t
  | .syncClear t _ _ => t
  | .barrierFiring t _ => t
  | .tidyCoreInstruction t _ _ => t
  | .xrCsrWrite t _ _ _ => t
  | .xmIssue t _ _ _ => t
  | .xmWait t _ _ _ => t
  | .xmDone t _ _ _ => t
  | .xsPost t _ _ _ _ => t
  | .xsClear t _ _ _ => t
  | .xcCvt t _ _ _ _ _ => t
  | .xcSrnd t _ _ _ _ _ _ => t
  | .xrDraw t _ _ _ => t
  | .xrDmask t _ _ _ _ => t
  | .xrSlate t _ _ _ => t
  | .xtDraw t _ _ _ => t
  | .xdMove t _ _ _ => t
  | .xdWait t _ _ _ => t
  | .matmul t _ => t
  | .reduce t _ => t
  | .tileClear t _ => t
  | .tileDrain t _ => t
  | .tileLoad t _ => t
  | .tileCopy t _ => t
  | .chainAdd t _ => t
  | .runningSumHandover t _ => t
  | .writeOutEnd t _ _ => t
  | .descriptorComplete t _ _ => t
  | .suaFields t _ => t
  | .suaSweep t _ _ => t
  | .chromaticBeat t _ => t
  | .windowStep t _ => t
  | .synchronousBeat t _ => t
  | .annealRun t _ _ => t
  | .annealStep t _ => t
  | .tokenDraw t _ => t
  | .copy t _ => t
  | .gather t _ _ => t
  | .netAdd t _ _ => t
  | .sourceSettled t _ => t
  | .repetitionCountFailure t _ => t
  | .adaptiveProportionFailure t _ => t
  | .entropyWindowEnd t _ _ => t
  | .drbgInstantiateDone t => t
  | .drbgReseed t => t
  | .generateRequest t => t
  | .entRetest t _ => t
  | .testPatternSelect t _ => t
  | .testPatternDeselect t _ => t
  | .entTestHiWrite t _ => t
  | .governorEstimate t _ => t
  | .controlPeriod t => t
  | .capTakesEffect t => t
  | .settlingIntervalEnd t => t
  | .iceModeTakesEffect t => t
  | .smuWindowRecord t _ => t
  | .smuAbsenceTimeout t => t
  | .distrustEnter t => t
  | .distrustExit t => t
  | .capOverrun t => t
  | .emergencyClear t => t
  | .sensorSample t _ => t
  | .snowpackEntryComplete t => t
  | .snowpackExitComplete t => t
  | .smuMetrologyInterval t _ => t
  | .smuFrame t _ => t
  | .attributionInterval t => t
  | .readSigned call _ _ => call.t
  | .readPubkey call => call.t
  | .readLog call _ => call.t
  | .smuSealNAssert t _ => t
  | .sealingImageLoad t _ => t
  | .smuSealNRelease t => t
  | .smuNvStore t => t
  | .vsmu33Loss t => t
  | .vsmu33PowerOn t => t
  | .smuReadReqGo t _ _ => t
  | .signedReadingWritten t => t
  | .logCopy t => t
  | .logHostSizeWrite t _ => t
  | .leaseWarning t => t
  | .leaseExpiry t => t
  | .takeoverLapse t => t
  | .challengeExpiry t => t
  | .unlockExpiry t => t
  | .correctedError t _ => t
  | .uncorrectableError t _ => t
  | .patrolScrub t _ _ => t
  | .fatalError t _ _ _ => t
  | .dumpWritten t => t
  | .dumpWriteTimeout t => t
  | .securityWatchdog t => t
  | .controlMessageTimeout t _ => t
  | .slotRetirement t _ => t
  | .spareSubstitution t _ _ => t
  | .networkRequestArrival t _ => t
  | .networkReplyArrival t _ => t
  | .epochNotice t _ _ _ => t
  | .trackingEntryGrant t _ => t
  | .dramRefresh t _ _ => t
  | .coldReset t => t
  | .hostReset t => t
  | .pfFunctionLevelReset t => t
  | .vfFunctionLevelReset t _ => t
  | .vfResetComplete t _ => t
  | .counterWrap t _ _ _ _ => t
  | .sampleRecordWrite t _ _ => t
  | .samplePop t _ _ => t
  | .cntSelWrite t _ _ _ _ => t
  | .cntHiWrite t _ _ _ _ => t
  | .counterFreezeAtS t => t
  | .snapshotWriteOut t => t
  | .bwWindowEnd t _ => t
  | .bwWindowWrite t _ _ => t
  | .pcieLinkRetrain t _ _ _ => t
  | .sholoTrainingComplete t _ _ _ => t
  | .identityFrame t _ _ => t
  | .flitCrcFail t _ _ => t
  | .replayLimitRetrain t _ => t
  | .signalLoss t _ => t
  | .retrainTimeout t _ => t
  | .portEnableWrite t _ _ => t
  | .xqControlEnable t _ _ => t
  | .xqTailDoorbell t _ _ _ => t
  | .transferWrite t _ => t
  | .transferRead t _ => t
  | .incomingTransfer t _ _ => t
  | .transferComplete t _ _ _ => t
  | .rxwEnableWrite t _ _ => t
  | .ethDatagram t _ _ => t
  | .ethResendTimeout t _ _ _ => t
  | .linkRefclkLoss t => t
  | .sysRefclkLoss t => t
  | .hostRefclkLoss t => t
  | .vin48Loss t => t
  | .vin48ExcursionBegin t _ => t
  | .vin48ExcursionEnd t _ => t
  | .vaux33Loss t => t
  | .hubPowerGood t => t
  | .bringupStageEnd t _ => t
  | .inputPowerTimeout t => t
  | .smuWaitTimeout t => t
  | .bringupTimeout t => t
  | .dramTrainingAttempt t _ _ => t
  | .slotSelfTest t _ _ => t
  | .vin48InRange t => t
  | .perstNRelease t => t
  | .lockoutEnd t => t
  | .jtagAccess t _ => t
  | .partnerLowPower t _ => t
  | .linkRefclkReturn t => t

/-- A well-formed command carries a time of at most 64 bits. -/
def Statement (i : Instr) : Prop := i.wf = true → timeOf i < 2 ^ 64

/-- The check of a time bounds it. -/
theorem of_time {t : Nat} (h : time t = true) : t < 2 ^ 64 := of_decide_eq_true h

/-- The first of checks made together. -/
theorem left {a b : Bool} (h : (a && b) = true) : a = true := (Bool.and_eq_true_iff.mp h).1

theorem nop (t : Nat) (ring : Nat) : Statement (.nop t ring) := fun h => of_time (left h)
theorem ctxCreate (t : Nat) (ring : Nat) : Statement (.ctxCreate t ring) := fun h => of_time (left h)
theorem ctxDestroy (t : Nat) (ring : Nat) : Statement (.ctxDestroy t ring) := fun h => of_time (left h)
theorem ctxSave (t : Nat) (ring : Nat) : Statement (.ctxSave t ring) := fun h => of_time (left h)
theorem ctxSaveDone (t : Nat) (ctx : Nat) : Statement (.ctxSaveDone t ctx) := fun h => of_time (left h)
theorem ctxRestore (t : Nat) (ring : Nat) : Statement (.ctxRestore t ring) := fun h => of_time (left h)
theorem ctxRestoreDone (t : Nat) (ctx : Nat) : Statement (.ctxRestoreDone t ctx) := fun h => of_time (left h)
theorem jobDefine (t : Nat) (ring : Nat) : Statement (.jobDefine t ring) := fun h => of_time (left h)
theorem jobPlace (t : Nat) (ring : Nat) : Statement (.jobPlace t ring) := fun h => of_time (left h)
theorem jobQueue (t : Nat) (ring : Nat) : Statement (.jobQueue t ring) := fun h => of_time (left h)
theorem jobAbort (t : Nat) (ring : Nat) : Statement (.jobAbort t ring) := fun h => of_time (left h)
theorem jobRelease (t : Nat) (ring : Nat) : Statement (.jobRelease t ring) := fun h => of_time (left h)
theorem seedRequest (t : Nat) (ring : Nat) : Statement (.seedRequest t ring) := fun h => of_time (left h)
theorem entropyRead (t : Nat) (ring : Nat) : Statement (.entropyRead t ring) := fun h => of_time (left h)
theorem setCap (t : Nat) (ring : Nat) : Statement (.setCap t ring) := fun h => of_time (left h)
theorem setPlatformLimit (t : Nat) (ring : Nat) : Statement (.setPlatformLimit t ring) := fun h => of_time (left h)
theorem setIceMode (t : Nat) (ring : Nat) : Statement (.setIceMode t ring) := fun h => of_time (left h)
theorem powerStateSnowpack (t : Nat) (ring : Nat) : Statement (.powerStateSnowpack t ring) := fun h => of_time (left h)
theorem powerStateFrost (t : Nat) (ring : Nat) : Statement (.powerStateFrost t ring) := fun h => of_time (left h)
theorem fwStage (t : Nat) (ring : Nat) : Statement (.fwStage t ring) := fun h => of_time (left h)
theorem fwStageComplete (t : Nat) (proc : Nat) (image : FwImage) : Statement (.fwStageComplete t proc image) := fun h => of_time (left (left h))
theorem fwActivate (t : Nat) (ring : Nat) : Statement (.fwActivate t ring) := fun h => of_time (left h)
theorem activationStart (t : Nat) (proc : Nat) : Statement (.activationStart t proc) := fun h => of_time (left h)
theorem activationSelfCheckPass (t : Nat) (proc : Nat) : Statement (.activationSelfCheckPass t proc) := fun h => of_time (left h)
theorem activationRestartTimeout (t : Nat) (proc : Nat) : Statement (.activationRestartTimeout t proc) := fun h => of_time (left h)
theorem activationAbandon (t : Nat) (proc : Nat) : Statement (.activationAbandon t proc) := fun h => of_time (left h)
theorem attach (t : Nat) (ring : Nat) : Statement (.attach t ring) := fun h => of_time (left h)
theorem leaseRenew (t : Nat) (ring : Nat) : Statement (.leaseRenew t ring) := fun h => of_time (left h)
theorem takeover (t : Nat) (ring : Nat) : Statement (.takeover t ring) := fun h => of_time (left h)
theorem orphanResolveResume (t : Nat) (ring : Nat) : Statement (.orphanResolveResume t ring) := fun h => of_time (left h)
theorem orphanResolveDiscard (t : Nat) (ring : Nat) : Statement (.orphanResolveDiscard t ring) := fun h => of_time (left h)
theorem detach (t : Nat) (ring : Nat) : Statement (.detach t ring) := fun h => of_time (left h)
theorem unitReset (t : Nat) (ring : Nat) : Statement (.unitReset t ring) := fun h => of_time (left h)
theorem unitResetComplete (t : Nat) (page : Nat) : Statement (.unitResetComplete t page) := fun h => of_time (left h)
theorem moduleReset (t : Nat) (ring : Nat) : Statement (.moduleReset t ring) := fun h => of_time (left h)
theorem keyManageInstall (t : Nat) (ring : Nat) : Statement (.keyManageInstall t ring) := fun h => of_time (left h)
theorem keyManageReplace (t : Nat) (ring : Nat) : Statement (.keyManageReplace t ring) := fun h => of_time (left h)
theorem keyManageRevoke (t : Nat) (ring : Nat) : Statement (.keyManageRevoke t ring) := fun h => of_time (left h)
theorem keyManageSetPassword (t : Nat) (ring : Nat) : Statement (.keyManageSetPassword t ring) := fun h => of_time (left h)
theorem keyManageClearPassword (t : Nat) (ring : Nat) : Statement (.keyManageClearPassword t ring) := fun h => of_time (left h)
theorem keyManageCommit (t : Nat) : Statement (.keyManageCommit t) := fun h => of_time h
theorem lifeState (t : Nat) (ring : Nat) : Statement (.lifeState t ring) := fun h => of_time (left h)
theorem lifeStateCommit (t : Nat) : Statement (.lifeStateCommit t) := fun h => of_time h
theorem debugUnlockOwner (t : Nat) (ring : Nat) : Statement (.debugUnlockOwner t ring) := fun h => of_time (left h)
theorem ownerVerifierDone (t : Nat) : Statement (.ownerVerifierDone t) := fun h => of_time h
theorem debugUnlockChallenge (t : Nat) (ring : Nat) : Statement (.debugUnlockChallenge t ring) := fun h => of_time (left h)
theorem debugUnlockResponse (t : Nat) (ring : Nat) : Statement (.debugUnlockResponse t ring) := fun h => of_time (left h)
theorem debugUnlockLock (t : Nat) (ring : Nat) : Statement (.debugUnlockLock t ring) := fun h => of_time (left h)
theorem smuAccountAssign (t : Nat) (ring : Nat) : Statement (.smuAccountAssign t ring) := fun h => of_time (left h)
theorem smuAccountLabel (t : Nat) (ring : Nat) : Statement (.smuAccountLabel t ring) := fun h => of_time (left h)
theorem counterFreezeFreeze (t : Nat) (ring : Nat) : Statement (.counterFreezeFreeze t ring) := fun h => of_time (left h)
theorem counterFreezeUnfreeze (t : Nat) (ring : Nat) : Statement (.counterFreezeUnfreeze t ring) := fun h => of_time (left h)
theorem counterFreezeSnapshot (t : Nat) (ring : Nat) : Statement (.counterFreezeSnapshot t ring) := fun h => of_time (left h)
theorem counterFreezeSampleDrain (t : Nat) (ring : Nat) : Statement (.counterFreezeSampleDrain t ring) := fun h => of_time (left h)
theorem dumpRead (t : Nat) (ring : Nat) : Statement (.dumpRead t ring) := fun h => of_time (left h)
theorem dumpReadDone (t : Nat) : Statement (.dumpReadDone t) := fun h => of_time h
theorem dumpRelease (t : Nat) (ring : Nat) : Statement (.dumpRelease t ring) := fun h => of_time (left h)
theorem ringEnable (t : Nat) (fn ring : Nat) : Statement (.ringEnable t fn ring) := fun h => of_time (left (left h))
theorem ringDisable (t : Nat) (fn ring : Nat) : Statement (.ringDisable t fn ring) := fun h => of_time (left (left h))
theorem sqTailDoorbell (t : Nat) (fn ring value : Nat) (host : List Host.Cell) : Statement (.sqTailDoorbell t fn ring value host) := fun h => of_time (left (left (left (left h))))
theorem cqHeadWrite (t : Nat) (fn ring value : Nat) : Statement (.cqHeadWrite t fn ring value) := fun h => of_time (left (left (left h)))
theorem ringWakeArm (t : Nat) (fn ring vector : Nat) : Statement (.ringWakeArm t fn ring vector) := fun h => of_time (left (left (left h)))
theorem completionWrite (t : Nat) (ring : Nat) : Statement (.completionWrite t ring) := fun h => of_time (left h)
theorem attnqPop (t : Nat) (fn queue : Nat) : Statement (.attnqPop t fn queue) := fun h => of_time (left (left h))
theorem registerWrite (t : Nat) (fn page off len data : Nat) : Statement (.registerWrite t fn page off len data) := fun h => of_time (left (left (left (left (left h)))))
theorem rcRead (t : Nat) (fn page : Nat) (span : Span) : Statement (.rcRead t fn page span) := fun h => of_time (left (left (left (left h))))
theorem latchingLoRead (t : Nat) (fn page : Nat) (span : Span) : Statement (.latchingLoRead t fn page span) := fun h => of_time (left (left (left (left h))))
theorem emulatedPageRead (t : Nat) (fn page : Nat) (span : Span) : Statement (.emulatedPageRead t fn page span) := fun h => of_time (left (left (left (left h))))
theorem emulatedPageWrite (t : Nat) (fn page off len data : Nat) : Statement (.emulatedPageWrite t fn page off len data) := fun h => of_time (left (left (left (left (left h)))))
theorem emulatedWriteApply (t : Nat) (page : Nat) : Statement (.emulatedWriteApply t page) := fun h => of_time (left h)
theorem emulatedReadTimeout (t : Nat) (fn page off : Nat) : Statement (.emulatedReadTimeout t fn page off) := fun h => of_time (left (left (left h)))
theorem bar2Read (t : Nat) (fn off len : Nat) : Statement (.bar2Read t fn off len) := fun h => of_time (left (left (left (left h))))
theorem bar2Write (t : Nat) (fn off : Nat) (bytes : List Byte) : Statement (.bar2Write t fn off bytes) := fun h => of_time (left (left (left h)))
theorem timeDomainLock (t : Nat) : Statement (.timeDomainLock t) := fun h => of_time h
theorem alignInterval (t : Nat) : Statement (.alignInterval t) := fun h => of_time h
theorem alignMessage (t : Nat) (port : Nat) (msg : AlignMsg) : Statement (.alignMessage t port msg) := fun h => of_time (left (left (left (left h))))
theorem alignHoldover (t : Nat) : Statement (.alignHoldover t) := fun h => of_time h
theorem launchReleaseSend (t : Nat) (job : Nat) : Statement (.launchReleaseSend t job) := fun h => of_time (left h)
theorem jobLaunch (t : Nat) (job : Nat) : Statement (.jobLaunch t job) := fun h => of_time (left h)
theorem jobDone (t : Nat) (job : Nat) : Statement (.jobDone t job) := fun h => of_time (left h)
theorem jobFaultFinal (t : Nat) (job : Nat) : Statement (.jobFaultFinal t job) := fun h => of_time (left h)
theorem syncConfigWrite (t : Nat) (obj data : Nat) : Statement (.syncConfigWrite t obj data) := fun h => of_time (left (left h))
theorem syncCountWrite (t : Nat) (obj data : Nat) : Statement (.syncCountWrite t obj data) := fun h => of_time (left (left h))
theorem syncExpectedWrite (t : Nat) (obj data : Nat) : Statement (.syncExpectedWrite t obj data) := fun h => of_time (left (left h))
theorem syncPost (t : Nat) (obj data : Nat) : Statement (.syncPost t obj data) := fun h => of_time (left (left h))
theorem syncClear (t : Nat) (obj data : Nat) : Statement (.syncClear t obj data) := fun h => of_time (left (left h))
theorem barrierFiring (t : Nat) (obj : Nat) : Statement (.barrierFiring t obj) := fun h => of_time (left h)
theorem tidyCoreInstruction (t : Nat) (tc : Nat) (effect : TidyEffect) : Statement (.tidyCoreInstruction t tc effect) := fun h => of_time (left (left h))
theorem xrCsrWrite (t : Nat) (tc : Nat) (swap : CsrSwap) (rs1 : Nat) : Statement (.xrCsrWrite t tc swap rs1) := fun h => of_time (left (left (left (left h))))
theorem xmIssue (t : Nat) (tc : Nat) (rd rs1 : Nat) : Statement (.xmIssue t tc rd rs1) := fun h => of_time (left (left (left h)))
theorem xmWait (t : Nat) (tc : Nat) (rd rs1 : Nat) : Statement (.xmWait t tc rd rs1) := fun h => of_time (left (left (left h)))
theorem xmDone (t : Nat) (tc : Nat) (rd rs1 : Nat) : Statement (.xmDone t tc rd rs1) := fun h => of_time (left (left (left h)))
theorem xsPost (t : Nat) (tc : Nat) (rd rs1 rs2 : Nat) : Statement (.xsPost t tc rd rs1 rs2) := fun h => of_time (left (left (left (left h))))
theorem xsClear (t : Nat) (tc : Nat) (rd rs1 : Nat) : Statement (.xsClear t tc rd rs1) := fun h => of_time (left (left (left h)))
theorem xcCvt (t : Nat) (tc : Nat) (vd vs2 fmt : Nat) (sat : Bool) : Statement (.xcCvt t tc vd vs2 fmt sat) := fun h => of_time (left (left (left (left h))))
theorem xcSrnd (t : Nat) (tc : Nat) (vd vs2 rs1 fmt : Nat) (sat : Bool) : Statement (.xcSrnd t tc vd vs2 rs1 fmt sat) := fun h => of_time (left (left (left (left (left h)))))
theorem xrDraw (t : Nat) (tc : Nat) (vd rs1 : Nat) : Statement (.xrDraw t tc vd rs1) := fun h => of_time (left (left (left h)))
theorem xrDmask (t : Nat) (tc : Nat) (vd rs1 rs2 : Nat) : Statement (.xrDmask t tc vd rs1 rs2) := fun h => of_time (left (left (left (left h))))
theorem xrSlate (t : Nat) (tc : Nat) (vd rs1 : Nat) : Statement (.xrSlate t tc vd rs1) := fun h => of_time (left (left (left h)))
theorem xtDraw (t : Nat) (tc : Nat) (rd rs1 : Nat) : Statement (.xtDraw t tc rd rs1) := fun h => of_time (left (left (left h)))
theorem xdMove (t : Nat) (tc : Nat) (rd rs1 : Nat) : Statement (.xdMove t tc rd rs1) := fun h => of_time (left (left (left h)))
theorem xdWait (t : Nat) (tc : Nat) (rd rs1 : Nat) : Statement (.xdWait t tc rd rs1) := fun h => of_time (left (left (left h)))
theorem matmul (t : Nat) (core : Nat) : Statement (.matmul t core) := fun h => of_time (left h)
theorem reduce (t : Nat) (core : Nat) : Statement (.reduce t core) := fun h => of_time (left h)
theorem tileClear (t : Nat) (core : Nat) : Statement (.tileClear t core) := fun h => of_time (left h)
theorem tileDrain (t : Nat) (core : Nat) : Statement (.tileDrain t core) := fun h => of_time (left h)
theorem tileLoad (t : Nat) (core : Nat) : Statement (.tileLoad t core) := fun h => of_time (left h)
theorem tileCopy (t : Nat) (core : Nat) : Statement (.tileCopy t core) := fun h => of_time (left h)
theorem chainAdd (t : Nat) (core : Nat) : Statement (.chainAdd t core) := fun h => of_time (left h)
theorem runningSumHandover (t : Nat) (core : Nat) : Statement (.runningSumHandover t core) := fun h => of_time (left h)
theorem writeOutEnd (t : Nat) (core buffer : Nat) : Statement (.writeOutEnd t core buffer) := fun h => of_time (left (left h))
theorem descriptorComplete (t : Nat) (core : Nat) (queue : DescQueue) : Statement (.descriptorComplete t core queue) := fun h => of_time (left h)
theorem suaFields (t : Nat) (core : Nat) : Statement (.suaFields t core) := fun h => of_time (left h)
theorem suaSweep (t : Nat) (core : Nat) (whole : Bool) : Statement (.suaSweep t core whole) := fun h => of_time (left h)
theorem chromaticBeat (t : Nat) (core : Nat) : Statement (.chromaticBeat t core) := fun h => of_time (left h)
theorem windowStep (t : Nat) (core : Nat) : Statement (.windowStep t core) := fun h => of_time (left h)
theorem synchronousBeat (t : Nat) (core : Nat) : Statement (.synchronousBeat t core) := fun h => of_time (left h)
theorem annealRun (t : Nat) (core : Nat) (whole : Bool) : Statement (.annealRun t core whole) := fun h => of_time (left h)
theorem annealStep (t : Nat) (core : Nat) : Statement (.annealStep t core) := fun h => of_time (left h)
theorem tokenDraw (t : Nat) (core : Nat) : Statement (.tokenDraw t core) := fun h => of_time (left h)
theorem copy (t : Nat) (core : Nat) : Statement (.copy t core) := fun h => of_time (left h)
theorem gather (t : Nat) (core : Nat) (arrivals : Arrivals) : Statement (.gather t core arrivals) := fun h => of_time (left (left h))
theorem netAdd (t : Nat) (core : Nat) (arrivals : Arrivals) : Statement (.netAdd t core arrivals) := fun h => of_time (left (left h))
theorem sourceSettled (t : Nat) (src : Nat) : Statement (.sourceSettled t src) := fun h => of_time (left h)
theorem repetitionCountFailure (t : Nat) (src : Nat) : Statement (.repetitionCountFailure t src) := fun h => of_time (left h)
theorem adaptiveProportionFailure (t : Nat) (src : Nat) : Statement (.adaptiveProportionFailure t src) := fun h => of_time (left h)
theorem entropyWindowEnd (t : Nat) (src : Nat) (raw : List Byte) : Statement (.entropyWindowEnd t src raw) := fun h => of_time (left (left h))
theorem drbgInstantiateDone (t : Nat) : Statement (.drbgInstantiateDone t) := fun h => of_time h
theorem drbgReseed (t : Nat) : Statement (.drbgReseed t) := fun h => of_time h
theorem generateRequest (t : Nat) : Statement (.generateRequest t) := fun h => of_time h
theorem entRetest (t : Nat) (data : Nat) : Statement (.entRetest t data) := fun h => of_time (left h)
theorem testPatternSelect (t : Nat) (data : Nat) : Statement (.testPatternSelect t data) := fun h => of_time (left h)
theorem testPatternDeselect (t : Nat) (data : Nat) : Statement (.testPatternDeselect t data) := fun h => of_time (left h)
theorem entTestHiWrite (t : Nat) (data : Nat) : Statement (.entTestHiWrite t data) := fun h => of_time (left h)
theorem governorEstimate (t : Nat) (load : LoadEstimate) : Statement (.governorEstimate t load) := fun h => of_time (left h)
theorem controlPeriod (t : Nat) : Statement (.controlPeriod t) := fun h => of_time h
theorem capTakesEffect (t : Nat) : Statement (.capTakesEffect t) := fun h => of_time h
theorem settlingIntervalEnd (t : Nat) : Statement (.settlingIntervalEnd t) := fun h => of_time h
theorem iceModeTakesEffect (t : Nat) : Statement (.iceModeTakesEffect t) := fun h => of_time h
theorem smuWindowRecord (t : Nat) (arrival : WindowArrival) : Statement (.smuWindowRecord t arrival) := fun h => of_time (left (left h))
theorem smuAbsenceTimeout (t : Nat) : Statement (.smuAbsenceTimeout t) := fun h => of_time h
theorem distrustEnter (t : Nat) : Statement (.distrustEnter t) := fun h => of_time h
theorem distrustExit (t : Nat) : Statement (.distrustExit t) := fun h => of_time h
theorem capOverrun (t : Nat) : Statement (.capOverrun t) := fun h => of_time h
theorem emergencyClear (t : Nat) : Statement (.emergencyClear t) := fun h => of_time h
theorem sensorSample (t : Nat) (temps : Temperatures) : Statement (.sensorSample t temps) := fun h => of_time (left h)
theorem snowpackEntryComplete (t : Nat) : Statement (.snowpackEntryComplete t) := fun h => of_time h
theorem snowpackExitComplete (t : Nat) : Statement (.snowpackExitComplete t) := fun h => of_time h
theorem smuMetrologyInterval (t : Nat) (sample : SmuSample) : Statement (.smuMetrologyInterval t sample) := fun h => of_time (left h)
theorem smuFrame (t : Nat) (frame : SmuFrameIn) : Statement (.smuFrame t frame) := fun h => of_time (left h)
theorem attributionInterval (t : Nat) : Statement (.attributionInterval t) := fun h => of_time h
theorem readSigned (call : SmuCall) (account nonce : Nat) : Statement (.readSigned call account nonce) := fun h => of_time (left (left (left h)))
theorem readPubkey (call : SmuCall) : Statement (.readPubkey call) := fun h => of_time (left h)
theorem readLog (call : SmuCall) (index : Nat) : Statement (.readLog call index) := fun h => of_time (left (left h))
theorem smuSealNAssert (t : Nat) (nonce : Nat) : Statement (.smuSealNAssert t nonce) := fun h => of_time (left h)
theorem sealingImageLoad (t : Nat) (image : SmuImage) : Statement (.sealingImageLoad t image) := fun h => of_time (left h)
theorem smuSealNRelease (t : Nat) : Statement (.smuSealNRelease t) := fun h => of_time h
theorem smuNvStore (t : Nat) : Statement (.smuNvStore t) := fun h => of_time h
theorem vsmu33Loss (t : Nat) : Statement (.vsmu33Loss t) := fun h => of_time h
theorem vsmu33PowerOn (t : Nat) : Statement (.vsmu33PowerOn t) := fun h => of_time h
theorem smuReadReqGo (t : Nat) (fn data : Nat) : Statement (.smuReadReqGo t fn data) := fun h => of_time (left (left h))
theorem signedReadingWritten (t : Nat) : Statement (.signedReadingWritten t) := fun h => of_time h
theorem logCopy (t : Nat) : Statement (.logCopy t) := fun h => of_time h
theorem logHostSizeWrite (t : Nat) (data : Nat) : Statement (.logHostSizeWrite t data) := fun h => of_time (left h)
theorem leaseWarning (t : Nat) : Statement (.leaseWarning t) := fun h => of_time h
theorem leaseExpiry (t : Nat) : Statement (.leaseExpiry t) := fun h => of_time h
theorem takeoverLapse (t : Nat) : Statement (.takeoverLapse t) := fun h => of_time h
theorem challengeExpiry (t : Nat) : Statement (.challengeExpiry t) := fun h => of_time h
theorem unlockExpiry (t : Nat) : Statement (.unlockExpiry t) := fun h => of_time h
theorem correctedError (t : Nat) (error : ErrorSite) : Statement (.correctedError t error) := fun h => of_time (left h)
theorem uncorrectableError (t : Nat) (error : ErrorSite) : Statement (.uncorrectableError t error) := fun h => of_time (left h)
theorem patrolScrub (t : Nat) (address : Nat) (corrected : Bool) : Statement (.patrolScrub t address corrected) := fun h => of_time (left h)
theorem fatalError (t : Nat) (cause page detail : Nat) : Statement (.fatalError t cause page detail) := fun h => of_time (left (left (left h)))
theorem dumpWritten (t : Nat) : Statement (.dumpWritten t) := fun h => of_time h
theorem dumpWriteTimeout (t : Nat) : Statement (.dumpWriteTimeout t) := fun h => of_time h
theorem securityWatchdog (t : Nat) : Statement (.securityWatchdog t) := fun h => of_time h
theorem controlMessageTimeout (t : Nat) (page : Nat) : Statement (.controlMessageTimeout t page) := fun h => of_time (left h)
theorem slotRetirement (t : Nat) (slot : Nat) : Statement (.slotRetirement t slot) := fun h => of_time (left h)
theorem spareSubstitution (t : Nat) (core : Nat) (selfTestPass : Bool) : Statement (.spareSubstitution t core selfTestPass) := fun h => of_time (left h)
theorem networkRequestArrival (t : Nat) (req : NetRequest) : Statement (.networkRequestArrival t req) := fun h => of_time (left h)
theorem networkReplyArrival (t : Nat) (id : Nat) : Statement (.networkReplyArrival t id) := fun h => of_time (left h)
theorem epochNotice (t : Nat) (port page epoch : Nat) : Statement (.epochNotice t port page epoch) := fun h => of_time (left (left (left h)))
theorem trackingEntryGrant (t : Nat) (stack : Nat) : Statement (.trackingEntryGrant t stack) := fun h => of_time (left h)
theorem dramRefresh (t : Nat) (stack waits : Nat) : Statement (.dramRefresh t stack waits) := fun h => of_time (left (left h))
theorem coldReset (t : Nat) : Statement (.coldReset t) := fun h => of_time h
theorem hostReset (t : Nat) : Statement (.hostReset t) := fun h => of_time h
theorem pfFunctionLevelReset (t : Nat) : Statement (.pfFunctionLevelReset t) := fun h => of_time h
theorem vfFunctionLevelReset (t : Nat) (fn : Nat) : Statement (.vfFunctionLevelReset t fn) := fun h => of_time (left h)
theorem vfResetComplete (t : Nat) (fn : Nat) : Statement (.vfResetComplete t fn) := fun h => of_time (left h)
theorem counterWrap (t : Nat) (page index occurrences : Nat) (item : SampleItem) : Statement (.counterWrap t page index occurrences item) := fun h => of_time (left (left (left (left h))))
theorem sampleRecordWrite (t : Nat) (page : Nat) (outcome : SampleOutcome) : Statement (.sampleRecordWrite t page outcome) := fun h => of_time (left (left h))
theorem samplePop (t : Nat) (fn data : Nat) : Statement (.samplePop t fn data) := fun h => of_time (left (left h))
theorem cntSelWrite (t : Nat) (fn page index data : Nat) : Statement (.cntSelWrite t fn page index data) := fun h => of_time (left (left (left (left h))))
theorem cntHiWrite (t : Nat) (fn page index data : Nat) : Statement (.cntHiWrite t fn page index data) := fun h => of_time (left (left (left (left h))))
theorem counterFreezeAtS (t : Nat) : Statement (.counterFreezeAtS t) := fun h => of_time h
theorem snapshotWriteOut (t : Nat) : Statement (.snapshotWriteOut t) := fun h => of_time h
theorem bwWindowEnd (t : Nat) (counts : List (Nat × Nat)) : Statement (.bwWindowEnd t counts) := fun h => of_time (left (left h))
theorem bwWindowWrite (t : Nat) (fn data : Nat) : Statement (.bwWindowWrite t fn data) := fun h => of_time (left (left h))
theorem pcieLinkRetrain (t : Nat) (gen width : Nat) (flit : Bool) : Statement (.pcieLinkRetrain t gen width flit) := fun h => of_time (left (left h))
theorem sholoTrainingComplete (t : Nat) (port gen : Nat) (half : Bool) : Statement (.sholoTrainingComplete t port gen half) := fun h => of_time (left (left h))
theorem identityFrame (t : Nat) (port : Nat) (ident : Identity) : Statement (.identityFrame t port ident) := fun h => of_time (left (left h))
theorem flitCrcFail (t : Nat) (port delay : Nat) : Statement (.flitCrcFail t port delay) := fun h => of_time (left (left h))
theorem replayLimitRetrain (t : Nat) (port : Nat) : Statement (.replayLimitRetrain t port) := fun h => of_time (left h)
theorem signalLoss (t : Nat) (port : Nat) : Statement (.signalLoss t port) := fun h => of_time (left h)
theorem retrainTimeout (t : Nat) (port : Nat) : Statement (.retrainTimeout t port) := fun h => of_time (left h)
theorem portEnableWrite (t : Nat) (port data : Nat) : Statement (.portEnableWrite t port data) := fun h => of_time (left (left h))
theorem xqControlEnable (t : Nat) (port data : Nat) : Statement (.xqControlEnable t port data) := fun h => of_time (left (left h))
theorem xqTailDoorbell (t : Nat) (port value : Nat) (host : List Host.Cell) : Statement (.xqTailDoorbell t port value host) := fun h => of_time (left (left (left h)))
theorem transferWrite (t : Nat) (port : Nat) : Statement (.transferWrite t port) := fun h => of_time (left h)
theorem transferRead (t : Nat) (port : Nat) : Statement (.transferRead t port) := fun h => of_time (left h)
theorem incomingTransfer (t : Nat) (port : Nat) (xfer : Incoming) : Statement (.incomingTransfer t port xfer) := fun h => of_time (left (left h))
theorem transferComplete (t : Nat) (port index : Nat) (result : TransferEnd) : Statement (.transferComplete t port index result) := fun h => of_time (left (left (left h)))
theorem rxwEnableWrite (t : Nat) (port data : Nat) : Statement (.rxwEnableWrite t port data) := fun h => of_time (left (left h))
theorem ethDatagram (t : Nat) (port : Nat) (datagram : Datagram) : Statement (.ethDatagram t port datagram) := fun h => of_time (left (left h))
theorem ethResendTimeout (t : Nat) (port peer : Nat) (resend : Resend) : Statement (.ethResendTimeout t port peer resend) := fun h => of_time (left (left (left (left h))))
theorem linkRefclkLoss (t : Nat) : Statement (.linkRefclkLoss t) := fun h => of_time h
theorem sysRefclkLoss (t : Nat) : Statement (.sysRefclkLoss t) := fun h => of_time h
theorem hostRefclkLoss (t : Nat) : Statement (.hostRefclkLoss t) := fun h => of_time h
theorem vin48Loss (t : Nat) : Statement (.vin48Loss t) := fun h => of_time h
theorem vin48ExcursionBegin (t : Nat) (group : Nat) : Statement (.vin48ExcursionBegin t group) := fun h => of_time (left h)
theorem vin48ExcursionEnd (t : Nat) (group : Nat) : Statement (.vin48ExcursionEnd t group) := fun h => of_time (left h)
theorem vaux33Loss (t : Nat) : Statement (.vaux33Loss t) := fun h => of_time h
theorem hubPowerGood (t : Nat) : Statement (.hubPowerGood t) := fun h => of_time h
theorem bringupStageEnd (t : Nat) (result : StageResult) : Statement (.bringupStageEnd t result) := fun h => of_time (left h)
theorem inputPowerTimeout (t : Nat) : Statement (.inputPowerTimeout t) := fun h => of_time h
theorem smuWaitTimeout (t : Nat) : Statement (.smuWaitTimeout t) := fun h => of_time h
theorem bringupTimeout (t : Nat) : Statement (.bringupTimeout t) := fun h => of_time h
theorem dramTrainingAttempt (t : Nat) (stack : Nat) (pass : Bool) : Statement (.dramTrainingAttempt t stack pass) := fun h => of_time (left h)
theorem slotSelfTest (t : Nat) (slot : Nat) (pass : Bool) : Statement (.slotSelfTest t slot pass) := fun h => of_time (left h)
theorem vin48InRange (t : Nat) : Statement (.vin48InRange t) := fun h => of_time h
theorem perstNRelease (t : Nat) : Statement (.perstNRelease t) := fun h => of_time h
theorem lockoutEnd (t : Nat) : Statement (.lockoutEnd t) := fun h => of_time h
theorem jtagAccess (t : Nat) (access : JtagAccess) : Statement (.jtagAccess t access) := fun h => of_time (left h)
theorem partnerLowPower (t : Nat) (port : Nat) : Statement (.partnerLowPower t port) := fun h => of_time (left h)
theorem linkRefclkReturn (t : Nat) : Statement (.linkRefclkReturn t) := fun h => of_time h

end Sys2Proof.Laws.TimeInRange
end

