-- ==== Sys2Proof/Laws/Rings.lean ====
section
/-! SUPPORT. Writing a completion into its ring: what it can do. -/

namespace Sys2Proof.Machine

theorem leBytes_length (n : Nat) : ∀ v, (leBytes n v).length = n := by
  induction n with
  | zero => intro v; rfl
  | succ n ih => intro v; simp [leBytes, ih]

@[simp] theorem completionBytes_length (d : Dev) (r : Nat) (g : Ring) (c : Completion) : (d.completionBytes r g c).length = 64 := leBytes_length _ _

/-- A completion written: 64 bytes of host memory, the ring with CQ_TAIL advanced and the completion gone, and perhaps a wake message. -/
theorem writeCompletion_form (d : Dev) (r : Nat) (c : Completion) (rest : List Completion) :
    ∃ g m, d.writeCompletion r c rest = { d with hostMem := memWriteN d.hostMem ((d.ring r).cqBase + 64 * (d.ring r).cqTail) (d.completionBytes r (d.ring r) c), rings := g, msix := m }
      ∧ (Tab.getD g r {}).cqTail = ((d.ring r).cqTail + 1) % 2 ^ (d.ring r).log2Cq ∧ (Tab.getD g r {}).held = rest := by
  unfold Dev.writeCompletion
  dsimp only
  generalize d.completionBytes r (d.ring r) c = bs
  have key : ∀ (x : Dev) (g : Tab Ring), x = { d with hostMem := memWriteN d.hostMem ((d.ring r).cqBase + 64 * (d.ring r).cqTail) bs, rings := g } →
      (Tab.getD g r {}).cqTail = ((d.ring r).cqTail + 1) % 2 ^ (d.ring r).log2Cq → (Tab.getD g r {}).held = rest →
      ∃ g m, (if ((d.ring r).armed && !x.hostStopped) = true then x.wake r else x)
          = { d with hostMem := memWriteN d.hostMem ((d.ring r).cqBase + 64 * (d.ring r).cqTail) bs, rings := g, msix := m }
        ∧ (Tab.getD g r {}).cqTail = ((d.ring r).cqTail + 1) % 2 ^ (d.ring r).log2Cq ∧ (Tab.getD g r {}).held = rest := by
    intro x g hx h1 h2
    subst hx
    split
    · exact ⟨Tab.put g r { Tab.getD g r {} with armed := false }, _, rfl, by simpa using h1, by simpa using h2⟩
    · exact ⟨g, d.msix, rfl, h1, h2⟩
  exact key _ _ rfl (by simp) (by simp)

end Sys2Proof.Machine
end

