-- ==== Sys2Proof/Laws/Smu.lean ====
section
/-! SUPPORT. The division of an interval's energy (R343): what the choice of the largest remainders takes. -/

namespace Sys2Proof.Machine

/-- The entry that a fold of largest remainders picks is one of the list. -/
theorem foldl_best_mem (rest : List (Nat × Nat)) : ∀ r, rest.foldl (fun b x => if b.2 < x.2 then x else b) r ∈ r :: rest := by
  induction rest with
  | nil => intro r; simp
  | cons y ys ih =>
    intro r
    simp only [List.foldl_cons]
    split
    · exact List.mem_cons_of_mem _ (ih y)
    · rcases List.mem_cons.1 (ih r) with h | h
      · rw [h]; simp
      · exact List.mem_cons_of_mem _ (List.mem_cons_of_mem _ h)

/-- Where keys differ, taking out an entry's key shortens the list by one. -/
theorem length_filter_ne (rs : List (Nat × Nat)) (h : (rs.map (·.1)).Nodup) (b : Nat × Nat) (hb : b ∈ rs) :
    (rs.filter (fun x => x.1 != b.1)).length + 1 = rs.length := by
  induction rs with
  | nil => simp at hb
  | cons y ys ih =>
    simp only [List.map_cons, List.nodup_cons] at h
    rcases List.mem_cons.1 hb with rfl | hb'
    · have : ys.filter (fun x => x.1 != b.1) = ys := by
        apply List.filter_eq_self.2
        intro x hx
        simp only [bne_iff_ne, ne_eq]
        intro e
        exact h.1 (e ▸ List.mem_map_of_mem (f := (·.1)) hx)
      simp [this]
    · have hne : y.1 ≠ b.1 := fun e => h.1 (e ▸ List.mem_map_of_mem (f := (·.1)) hb')
      simp [hne, ih h.2 hb']

/-- What `largestFirst` takes: no key twice, each a key of the list, and as many as asked for where there are enough. -/
theorem largestFirst_spec (n : Nat) : ∀ rs : List (Nat × Nat), (rs.map (·.1)).Nodup →
    (largestFirst n rs).Nodup ∧ (∀ k ∈ largestFirst n rs, k ∈ rs.map (·.1)) ∧ (n ≤ rs.length → (largestFirst n rs).length = n) := by
  induction n with
  | zero => intro rs _; simp [largestFirst]
  | succ n ih =>
    intro rs h
    cases rs with
    | nil => simp [largestFirst]
    | cons r rest =>
      have hb := foldl_best_mem rest r
      generalize hbest : rest.foldl (fun b x => if b.2 < x.2 then x else b) r = best at hb
      have hl := length_filter_ne _ h best hb
      have hs : ((r :: rest).filter (fun x => x.1 != best.1)).map (·.1) |>.Nodup :=
        h.sublist (List.Sublist.map _ List.filter_sublist)
      obtain ⟨h1, h2, h3⟩ := ih _ hs
      have e : largestFirst (n + 1) (r :: rest) = best.1 :: largestFirst n ((r :: rest).filter (fun x => x.1 != best.1)) := by
        rw [largestFirst, hbest]
      rw [e]
      refine ⟨?_, ?_, ?_⟩
      · rw [List.nodup_cons]
        refine ⟨fun hm => ?_, h1⟩
        have := h2 _ hm
        simp only [List.mem_map, List.mem_filter] at this
        obtain ⟨x, ⟨_, hx⟩, ex⟩ := this
        simp [ex] at hx
      · intro k hk
        rcases List.mem_cons.1 hk with rfl | hk
        · exact List.mem_map_of_mem (f := (·.1)) hb
        · obtain ⟨x, hx, ex⟩ := List.mem_map.1 (h2 k hk)
          rw [← ex]
          exact List.mem_map_of_mem (f := (·.1)) (List.mem_filter.1 hx).1
      · intro hn
        simp only [List.length_cons] at hn hl ⊢
        rw [h3 (by omega)]

end Sys2Proof.Machine
end

