-- ==== Sys2Proof/Laws/Steps.lean ====
section
/-! SUPPORT. What every command does: it answers a next state, with the queue as it was, at a time of its own. -/

namespace Sys2Proof.Machine

/-- Every command runs an effect at some device time, and only one that restarts the clock at an earlier one. -/
theorem exec_runs (i : Instr) (s : State) : ∃ n f, (i.restartsClock = false → s.dev.now ≤ n) ∧ exec i s = s.runAt n f := by
  cases i with
  | nop t ring => unfold exec execNop; exact ⟨_, _, fun _ => Nat.le_max_left _ _, rfl⟩
  | ctxCreate t ring => unfold exec execCtxCreate; exact ⟨_, _, fun _ => Nat.le_max_left _ _, rfl⟩
  | ctxDestroy t ring => unfold exec execCtxDestroy; exact ⟨_, _, fun _ => Nat.le_max_left _ _, rfl⟩
  | ctxSave t ring => unfold exec execCtxSave; exact ⟨_, _, fun _ => Nat.le_max_left _ _, rfl⟩
  | ctxSaveDone t ctx => unfold exec execCtxSaveDone; exact ⟨_, _, fun _ => Nat.le_max_left _ _, rfl⟩
  | ctxRestore t ring => unfold exec execCtxRestore; exact ⟨_, _, fun _ => Nat.le_max_left _ _, rfl⟩
  | ctxRestoreDone t ctx => unfold exec execCtxRestoreDone; exact ⟨_, _, fun _ => Nat.le_max_left _ _, rfl⟩
  | jobDefine t ring => unfold exec execJobDefine; exact ⟨_, _, fun _ => Nat.le_max_left _ _, rfl⟩
  | jobPlace t ring => unfold exec execJobPlace; exact ⟨_, _, fun _ => Nat.le_max_left _ _, rfl⟩
  | jobQueue t ring => unfold exec execJobQueue; exact ⟨_, _, fun _ => Nat.le_max_left _ _, rfl⟩
  | jobAbort t ring => unfold exec execJobAbort; exact ⟨_, _, fun _ => Nat.le_max_left _ _, rfl⟩
  | jobRelease t ring => unfold exec execJobRelease; exact ⟨_, _, fun _ => Nat.le_max_left _ _, rfl⟩
  | seedRequest t ring => unfold exec execSeedRequest; exact ⟨_, _, fun _ => Nat.le_max_left _ _, rfl⟩
  | entropyRead t ring => unfold exec execEntropyRead; exact ⟨_, _, fun _ => Nat.le_max_left _ _, rfl⟩
  | setCap t ring => unfold exec execSetCap; exact ⟨_, _, fun _ => Nat.le_max_left _ _, rfl⟩
  | setPlatformLimit t ring => unfold exec execSetPlatformLimit; exact ⟨_, _, fun _ => Nat.le_max_left _ _, rfl⟩
  | setIceMode t ring => unfold exec execSetIceMode; exact ⟨_, _, fun _ => Nat.le_max_left _ _, rfl⟩
  | powerStateSnowpack t ring => unfold exec execPowerStateSnowpack; exact ⟨_, _, fun _ => Nat.le_max_left _ _, rfl⟩
  | powerStateFrost t ring => unfold exec execPowerStateFrost; exact ⟨_, _, fun _ => Nat.le_max_left _ _, rfl⟩
  | fwStage t ring => unfold exec execFwStage; exact ⟨_, _, fun _ => Nat.le_max_left _ _, rfl⟩
  | fwStageComplete t proc image => unfold exec execFwStageComplete; exact ⟨_, _, fun _ => Nat.le_max_left _ _, rfl⟩
  | fwActivate t ring => unfold exec execFwActivate; exact ⟨_, _, fun _ => Nat.le_max_left _ _, rfl⟩
  | activationStart t proc => unfold exec execActivationStart; exact ⟨_, _, fun _ => Nat.le_max_left _ _, rfl⟩
  | activationSelfCheckPass t proc => unfold exec execActivationSelfCheckPass; exact ⟨_, _, fun _ => Nat.le_max_left _ _, rfl⟩
  | activationRestartTimeout t proc => unfold exec execActivationRestartTimeout; exact ⟨_, _, fun _ => Nat.le_max_left _ _, rfl⟩
  | activationAbandon t proc => unfold exec execActivationAbandon; exact ⟨_, _, fun _ => Nat.le_max_left _ _, rfl⟩
  | attach t ring => unfold exec execAttach; exact ⟨_, _, fun _ => Nat.le_max_left _ _, rfl⟩
  | leaseRenew t ring => unfold exec execLeaseRenew; exact ⟨_, _, fun _ => Nat.le_max_left _ _, rfl⟩
  | takeover t ring => unfold exec execTakeover; exact ⟨_, _, fun _ => Nat.le_max_left _ _, rfl⟩
  | orphanResolveResume t ring => unfold exec execOrphanResolveResume; exact ⟨_, _, fun _ => Nat.le_max_left _ _, rfl⟩
  | orphanResolveDiscard t ring => unfold exec execOrphanResolveDiscard; exact ⟨_, _, fun _ => Nat.le_max_left _ _, rfl⟩
  | detach t ring => unfold exec execDetach; exact ⟨_, _, fun _ => Nat.le_max_left _ _, rfl⟩
  | unitReset t ring => unfold exec execUnitReset; exact ⟨_, _, fun _ => Nat.le_max_left _ _, rfl⟩
  | unitResetComplete t page => unfold exec execUnitResetComplete; exact ⟨_, _, fun _ => Nat.le_max_left _ _, rfl⟩
  | moduleReset t ring => unfold exec execModuleReset; exact ⟨_, _, fun _ => Nat.le_max_left _ _, rfl⟩
  | keyManageInstall t ring => unfold exec execKeyManageInstall; exact ⟨_, _, fun _ => Nat.le_max_left _ _, rfl⟩
  | keyManageReplace t ring => unfold exec execKeyManageReplace; exact ⟨_, _, fun _ => Nat.le_max_left _ _, rfl⟩
  | keyManageRevoke t ring => unfold exec execKeyManageRevoke; exact ⟨_, _, fun _ => Nat.le_max_left _ _, rfl⟩
  | keyManageSetPassword t ring => unfold exec execKeyManageSetPassword; exact ⟨_, _, fun _ => Nat.le_max_left _ _, rfl⟩
  | keyManageClearPassword t ring => unfold exec execKeyManageClearPassword; exact ⟨_, _, fun _ => Nat.le_max_left _ _, rfl⟩
  | keyManageCommit t => unfold exec execKeyManageCommit; exact ⟨_, _, fun _ => Nat.le_max_left _ _, rfl⟩
  | lifeState t ring => unfold exec execLifeState; exact ⟨_, _, fun _ => Nat.le_max_left _ _, rfl⟩
  | lifeStateCommit t => unfold exec execLifeStateCommit; exact ⟨_, _, fun _ => Nat.le_max_left _ _, rfl⟩
  | debugUnlockOwner t ring => unfold exec execDebugUnlockOwner; exact ⟨_, _, fun _ => Nat.le_max_left _ _, rfl⟩
  | ownerVerifierDone t => unfold exec execOwnerVerifierDone; exact ⟨_, _, fun _ => Nat.le_max_left _ _, rfl⟩
  | debugUnlockChallenge t ring => unfold exec execDebugUnlockChallenge; exact ⟨_, _, fun _ => Nat.le_max_left _ _, rfl⟩
  | debugUnlockResponse t ring => unfold exec execDebugUnlockResponse; exact ⟨_, _, fun _ => Nat.le_max_left _ _, rfl⟩
  | debugUnlockLock t ring => unfold exec execDebugUnlockLock; exact ⟨_, _, fun _ => Nat.le_max_left _ _, rfl⟩
  | smuAccountAssign t ring => unfold exec execSmuAccountAssign; exact ⟨_, _, fun _ => Nat.le_max_left _ _, rfl⟩
  | smuAccountLabel t ring => unfold exec execSmuAccountLabel; exact ⟨_, _, fun _ => Nat.le_max_left _ _, rfl⟩
  | counterFreezeFreeze t ring => unfold exec execCounterFreezeFreeze; exact ⟨_, _, fun _ => Nat.le_max_left _ _, rfl⟩
  | counterFreezeUnfreeze t ring => unfold exec execCounterFreezeUnfreeze; exact ⟨_, _, fun _ => Nat.le_max_left _ _, rfl⟩
  | counterFreezeSnapshot t ring => unfold exec execCounterFreezeSnapshot; exact ⟨_, _, fun _ => Nat.le_max_left _ _, rfl⟩
  | counterFreezeSampleDrain t ring => unfold exec execCounterFreezeSampleDrain; exact ⟨_, _, fun _ => Nat.le_max_left _ _, rfl⟩
  | dumpRead t ring => unfold exec execDumpRead; exact ⟨_, _, fun _ => Nat.le_max_left _ _, rfl⟩
  | dumpReadDone t => unfold exec execDumpReadDone; exact ⟨_, _, fun _ => Nat.le_max_left _ _, rfl⟩
  | dumpRelease t ring => unfold exec execDumpRelease; exact ⟨_, _, fun _ => Nat.le_max_left _ _, rfl⟩
  | ringEnable t fn ring => unfold exec execRingEnable; exact ⟨_, _, fun _ => Nat.le_max_left _ _, rfl⟩
  | ringDisable t fn ring => unfold exec execRingDisable; exact ⟨_, _, fun _ => Nat.le_max_left _ _, rfl⟩
  | sqTailDoorbell t fn ring value host => unfold exec execSqTailDoorbell; exact ⟨_, _, fun _ => Nat.le_max_left _ _, rfl⟩
  | cqHeadWrite t fn ring value => unfold exec execCqHeadWrite; exact ⟨_, _, fun _ => Nat.le_max_left _ _, rfl⟩
  | ringWakeArm t fn ring vector => unfold exec execRingWakeArm; exact ⟨_, _, fun _ => Nat.le_max_left _ _, rfl⟩
  | completionWrite t ring => unfold exec execCompletionWrite; exact ⟨_, _, fun _ => Nat.le_max_left _ _, rfl⟩
  | attnqPop t fn queue => unfold exec execAttnqPop; exact ⟨_, _, fun _ => Nat.le_max_left _ _, rfl⟩
  | registerWrite t fn page off len data => unfold exec execRegisterWrite; exact ⟨_, _, fun _ => Nat.le_max_left _ _, rfl⟩
  | rcRead t fn page span => unfold exec execRcRead; exact ⟨_, _, fun _ => Nat.le_max_left _ _, rfl⟩
  | latchingLoRead t fn page span => unfold exec execLatchingLoRead; exact ⟨_, _, fun _ => Nat.le_max_left _ _, rfl⟩
  | emulatedPageRead t fn page span => unfold exec execEmulatedPageRead; exact ⟨_, _, fun _ => Nat.le_max_left _ _, rfl⟩
  | emulatedPageWrite t fn page off len data => unfold exec execEmulatedPageWrite; exact ⟨_, _, fun _ => Nat.le_max_left _ _, rfl⟩
  | emulatedWriteApply t page => unfold exec execEmulatedWriteApply; exact ⟨_, _, fun _ => Nat.le_max_left _ _, rfl⟩
  | emulatedReadTimeout t fn page off => unfold exec execEmulatedReadTimeout; exact ⟨_, _, fun _ => Nat.le_max_left _ _, rfl⟩
  | bar2Read t fn off len => unfold exec execBar2Read; exact ⟨_, _, fun _ => Nat.le_max_left _ _, rfl⟩
  | bar2Write t fn off bytes => unfold exec execBar2Write; exact ⟨_, _, fun _ => Nat.le_max_left _ _, rfl⟩
  | timeDomainLock t => unfold exec execTimeDomainLock; exact ⟨_, _, fun h => by simp [Instr.restartsClock] at h, rfl⟩
  | alignInterval t => unfold exec execAlignInterval; exact ⟨_, _, fun _ => Nat.le_max_left _ _, rfl⟩
  | alignMessage t port msg => unfold exec execAlignMessage; exact ⟨_, _, fun _ => by split <;> omega, rfl⟩
  | alignHoldover t => unfold exec execAlignHoldover; exact ⟨_, _, fun _ => Nat.le_max_left _ _, rfl⟩
  | launchReleaseSend t job => unfold exec execLaunchReleaseSend; exact ⟨_, _, fun _ => Nat.le_max_left _ _, rfl⟩
  | jobLaunch t job => unfold exec execJobLaunch; exact ⟨_, _, fun _ => Nat.le_max_left _ _, rfl⟩
  | jobDone t job => unfold exec execJobDone; exact ⟨_, _, fun _ => Nat.le_max_left _ _, rfl⟩
  | jobFaultFinal t job => unfold exec execJobFaultFinal; exact ⟨_, _, fun _ => Nat.le_max_left _ _, rfl⟩
  | syncConfigWrite t obj data => unfold exec execSyncConfigWrite; exact ⟨_, _, fun _ => Nat.le_max_left _ _, rfl⟩
  | syncCountWrite t obj data => unfold exec execSyncCountWrite; exact ⟨_, _, fun _ => Nat.le_max_left _ _, rfl⟩
  | syncExpectedWrite t obj data => unfold exec execSyncExpectedWrite; exact ⟨_, _, fun _ => Nat.le_max_left _ _, rfl⟩
  | syncPost t obj data => unfold exec execSyncPost; exact ⟨_, _, fun _ => Nat.le_max_left _ _, rfl⟩
  | syncClear t obj data => unfold exec execSyncClear; exact ⟨_, _, fun _ => Nat.le_max_left _ _, rfl⟩
  | barrierFiring t obj => unfold exec execBarrierFiring; exact ⟨_, _, fun _ => Nat.le_max_left _ _, rfl⟩
  | tidyCoreInstruction t tc effect => unfold exec execTidyCoreInstruction; exact ⟨_, _, fun _ => Nat.le_max_left _ _, rfl⟩
  | xrCsrWrite t tc swap rs1 => unfold exec execXrCsrWrite; exact ⟨_, _, fun _ => Nat.le_max_left _ _, rfl⟩
  | xmIssue t tc rd rs1 => unfold exec execXmIssue; exact ⟨_, _, fun _ => Nat.le_max_left _ _, rfl⟩
  | xmWait t tc rd rs1 => unfold exec execXmWait; exact ⟨_, _, fun _ => Nat.le_max_left _ _, rfl⟩
  | xmDone t tc rd rs1 => unfold exec execXmDone; exact ⟨_, _, fun _ => Nat.le_max_left _ _, rfl⟩
  | xsPost t tc rd rs1 rs2 => unfold exec execXsPost; exact ⟨_, _, fun _ => Nat.le_max_left _ _, rfl⟩
  | xsClear t tc rd rs1 => unfold exec execXsClear; exact ⟨_, _, fun _ => Nat.le_max_left _ _, rfl⟩
  | xcCvt t tc vd vs2 fmt sat => unfold exec execXcCvt; exact ⟨_, _, fun _ => Nat.le_max_left _ _, rfl⟩
  | xcSrnd t tc vd vs2 rs1 fmt sat => unfold exec execXcSrnd; exact ⟨_, _, fun _ => Nat.le_max_left _ _, rfl⟩
  | xrDraw t tc vd rs1 => unfold exec execXrDraw; exact ⟨_, _, fun _ => Nat.le_max_left _ _, rfl⟩
  | xrDmask t tc vd rs1 rs2 => unfold exec execXrDmask; exact ⟨_, _, fun _ => Nat.le_max_left _ _, rfl⟩
  | xrSlate t tc vd rs1 => unfold exec execXrSlate; exact ⟨_, _, fun _ => Nat.le_max_left _ _, rfl⟩
  | xtDraw t tc rd rs1 => unfold exec execXtDraw; exact ⟨_, _, fun _ => Nat.le_max_left _ _, rfl⟩
  | xdMove t tc rd rs1 => unfold exec execXdMove; exact ⟨_, _, fun _ => Nat.le_max_left _ _, rfl⟩
  | xdWait t tc rd rs1 => unfold exec execXdWait; exact ⟨_, _, fun _ => Nat.le_max_left _ _, rfl⟩
  | matmul t core => unfold exec execMatmul; exact ⟨_, _, fun _ => Nat.le_max_left _ _, rfl⟩
  | reduce t core => unfold exec execReduce; exact ⟨_, _, fun _ => Nat.le_max_left _ _, rfl⟩
  | tileClear t core => unfold exec execTileClear; exact ⟨_, _, fun _ => Nat.le_max_left _ _, rfl⟩
  | tileDrain t core => unfold exec execTileDrain; exact ⟨_, _, fun _ => Nat.le_max_left _ _, rfl⟩
  | tileLoad t core => unfold exec execTileLoad; exact ⟨_, _, fun _ => Nat.le_max_left _ _, rfl⟩
  | tileCopy t core => unfold exec execTileCopy; exact ⟨_, _, fun _ => Nat.le_max_left _ _, rfl⟩
  | chainAdd t core => unfold exec execChainAdd; exact ⟨_, _, fun _ => Nat.le_max_left _ _, rfl⟩
  | runningSumHandover t core => unfold exec execRunningSumHandover; exact ⟨_, _, fun _ => Nat.le_max_left _ _, rfl⟩
  | writeOutEnd t core buffer => unfold exec execWriteOutEnd; exact ⟨_, _, fun _ => Nat.le_max_left _ _, rfl⟩
  | descriptorComplete t core queue => unfold exec execDescriptorComplete; exact ⟨_, _, fun _ => Nat.le_max_left _ _, rfl⟩
  | suaFields t core => unfold exec execSuaFields; exact ⟨_, _, fun _ => Nat.le_max_left _ _, rfl⟩
  | suaSweep t core whole => unfold exec execSuaSweep; exact ⟨_, _, fun _ => Nat.le_max_left _ _, rfl⟩
  | chromaticBeat t core => unfold exec execChromaticBeat; exact ⟨_, _, fun _ => Nat.le_max_left _ _, rfl⟩
  | windowStep t core => unfold exec execWindowStep; exact ⟨_, _, fun _ => Nat.le_max_left _ _, rfl⟩
  | synchronousBeat t core => unfold exec execSynchronousBeat; exact ⟨_, _, fun _ => Nat.le_max_left _ _, rfl⟩
  | annealRun t core whole => unfold exec execAnnealRun; exact ⟨_, _, fun _ => Nat.le_max_left _ _, rfl⟩
  | annealStep t core => unfold exec execAnnealStep; exact ⟨_, _, fun _ => Nat.le_max_left _ _, rfl⟩
  | tokenDraw t core => unfold exec execTokenDraw; exact ⟨_, _, fun _ => Nat.le_max_left _ _, rfl⟩
  | copy t core => unfold exec execCopy; exact ⟨_, _, fun _ => Nat.le_max_left _ _, rfl⟩
  | gather t core arrivals => unfold exec execGather; exact ⟨_, _, fun _ => Nat.le_max_left _ _, rfl⟩
  | netAdd t core arrivals => unfold exec execNetAdd; exact ⟨_, _, fun _ => Nat.le_max_left _ _, rfl⟩
  | sourceSettled t src => unfold exec execSourceSettled; exact ⟨_, _, fun _ => Nat.le_max_left _ _, rfl⟩
  | repetitionCountFailure t src => unfold exec execRepetitionCountFailure; exact ⟨_, _, fun _ => Nat.le_max_left _ _, rfl⟩
  | adaptiveProportionFailure t src => unfold exec execAdaptiveProportionFailure; exact ⟨_, _, fun _ => Nat.le_max_left _ _, rfl⟩
  | entropyWindowEnd t src raw => unfold exec execEntropyWindowEnd; exact ⟨_, _, fun _ => Nat.le_max_left _ _, rfl⟩
  | drbgInstantiateDone t => unfold exec execDrbgInstantiateDone; exact ⟨_, _, fun _ => Nat.le_max_left _ _, rfl⟩
  | drbgReseed t => unfold exec execDrbgReseed; exact ⟨_, _, fun _ => Nat.le_max_left _ _, rfl⟩
  | generateRequest t => unfold exec execGenerateRequest; exact ⟨_, _, fun _ => Nat.le_max_left _ _, rfl⟩
  | entRetest t data => unfold exec execEntRetest; exact ⟨_, _, fun _ => Nat.le_max_left _ _, rfl⟩
  | testPatternSelect t data => unfold exec execTestPatternSelect; exact ⟨_, _, fun _ => Nat.le_max_left _ _, rfl⟩
  | testPatternDeselect t data => unfold exec execTestPatternDeselect; exact ⟨_, _, fun _ => Nat.le_max_left _ _, rfl⟩
  | entTestHiWrite t data => unfold exec execEntTestHiWrite; exact ⟨_, _, fun _ => Nat.le_max_left _ _, rfl⟩
  | governorEstimate t load => unfold exec execGovernorEstimate; exact ⟨_, _, fun _ => Nat.le_max_left _ _, rfl⟩
  | controlPeriod t => unfold exec execControlPeriod; exact ⟨_, _, fun _ => Nat.le_max_left _ _, rfl⟩
  | capTakesEffect t => unfold exec execCapTakesEffect; exact ⟨_, _, fun _ => Nat.le_max_left _ _, rfl⟩
  | settlingIntervalEnd t => unfold exec execSettlingIntervalEnd; exact ⟨_, _, fun _ => Nat.le_max_left _ _, rfl⟩
  | iceModeTakesEffect t => unfold exec execIceModeTakesEffect; exact ⟨_, _, fun _ => Nat.le_max_left _ _, rfl⟩
  | smuWindowRecord t arrival => unfold exec execSmuWindowRecord; exact ⟨_, _, fun _ => Nat.le_max_left _ _, rfl⟩
  | smuAbsenceTimeout t => unfold exec execSmuAbsenceTimeout; exact ⟨_, _, fun _ => Nat.le_max_left _ _, rfl⟩
  | distrustEnter t => unfold exec execDistrustEnter; exact ⟨_, _, fun _ => Nat.le_max_left _ _, rfl⟩
  | distrustExit t => unfold exec execDistrustExit; exact ⟨_, _, fun _ => Nat.le_max_left _ _, rfl⟩
  | capOverrun t => unfold exec execCapOverrun; exact ⟨_, _, fun _ => Nat.le_max_left _ _, rfl⟩
  | emergencyClear t => unfold exec execEmergencyClear; exact ⟨_, _, fun _ => Nat.le_max_left _ _, rfl⟩
  | sensorSample t temps => unfold exec execSensorSample; exact ⟨_, _, fun _ => Nat.le_max_left _ _, rfl⟩
  | snowpackEntryComplete t => unfold exec execSnowpackEntryComplete; exact ⟨_, _, fun _ => Nat.le_max_left _ _, rfl⟩
  | snowpackExitComplete t => unfold exec execSnowpackExitComplete; exact ⟨_, _, fun _ => Nat.le_max_left _ _, rfl⟩
  | smuMetrologyInterval t sample => unfold exec execSmuMetrologyInterval; exact ⟨_, _, fun _ => Nat.le_max_left _ _, rfl⟩
  | smuFrame t frame => unfold exec execSmuFrame; exact ⟨_, _, fun _ => Nat.le_max_left _ _, rfl⟩
  | attributionInterval t => unfold exec execAttributionInterval; exact ⟨_, _, fun _ => Nat.le_max_left _ _, rfl⟩
  | readSigned call account nonce => unfold exec execReadSigned; exact ⟨_, _, fun _ => Nat.le_max_left _ _, rfl⟩
  | readPubkey call => unfold exec execReadPubkey; exact ⟨_, _, fun _ => Nat.le_max_left _ _, rfl⟩
  | readLog call index => unfold exec execReadLog; exact ⟨_, _, fun _ => Nat.le_max_left _ _, rfl⟩
  | smuSealNAssert t nonce => unfold exec execSmuSealNAssert; exact ⟨_, _, fun _ => Nat.le_max_left _ _, rfl⟩
  | sealingImageLoad t image => unfold exec execSealingImageLoad; exact ⟨_, _, fun _ => Nat.le_max_left _ _, rfl⟩
  | smuSealNRelease t => unfold exec execSmuSealNRelease; exact ⟨_, _, fun _ => Nat.le_max_left _ _, rfl⟩
  | smuNvStore t => unfold exec execSmuNvStore; exact ⟨_, _, fun _ => Nat.le_max_left _ _, rfl⟩
  | vsmu33Loss t => unfold exec execVsmu33Loss; exact ⟨_, _, fun _ => Nat.le_max_left _ _, rfl⟩
  | vsmu33PowerOn t => unfold exec execVsmu33PowerOn; exact ⟨_, _, fun _ => Nat.le_max_left _ _, rfl⟩
  | smuReadReqGo t fn data => unfold exec execSmuReadReqGo; exact ⟨_, _, fun _ => Nat.le_max_left _ _, rfl⟩
  | signedReadingWritten t => unfold exec execSignedReadingWritten; exact ⟨_, _, fun _ => Nat.le_max_left _ _, rfl⟩
  | logCopy t => unfold exec execLogCopy; exact ⟨_, _, fun _ => Nat.le_max_left _ _, rfl⟩
  | logHostSizeWrite t data => unfold exec execLogHostSizeWrite; exact ⟨_, _, fun _ => Nat.le_max_left _ _, rfl⟩
  | leaseWarning t => unfold exec execLeaseWarning; exact ⟨_, _, fun _ => Nat.le_max_left _ _, rfl⟩
  | leaseExpiry t => unfold exec execLeaseExpiry; exact ⟨_, _, fun _ => Nat.le_max_left _ _, rfl⟩
  | takeoverLapse t => unfold exec execTakeoverLapse; exact ⟨_, _, fun _ => Nat.le_max_left _ _, rfl⟩
  | challengeExpiry t => unfold exec execChallengeExpiry; exact ⟨_, _, fun _ => Nat.le_max_left _ _, rfl⟩
  | unlockExpiry t => unfold exec execUnlockExpiry; exact ⟨_, _, fun _ => Nat.le_max_left _ _, rfl⟩
  | correctedError t error => unfold exec execCorrectedError; exact ⟨_, _, fun _ => Nat.le_max_left _ _, rfl⟩
  | uncorrectableError t error => unfold exec execUncorrectableError; exact ⟨_, _, fun _ => Nat.le_max_left _ _, rfl⟩
  | patrolScrub t address corrected => unfold exec execPatrolScrub; exact ⟨_, _, fun _ => Nat.le_max_left _ _, rfl⟩
  | fatalError t cause page detail => unfold exec execFatalError; exact ⟨_, _, fun _ => Nat.le_max_left _ _, rfl⟩
  | dumpWritten t => unfold exec execDumpWritten; exact ⟨_, _, fun _ => Nat.le_max_left _ _, rfl⟩
  | dumpWriteTimeout t => unfold exec execDumpWriteTimeout; exact ⟨_, _, fun _ => Nat.le_max_left _ _, rfl⟩
  | securityWatchdog t => unfold exec execSecurityWatchdog; exact ⟨_, _, fun _ => Nat.le_max_left _ _, rfl⟩
  | controlMessageTimeout t page => unfold exec execControlMessageTimeout; exact ⟨_, _, fun _ => Nat.le_max_left _ _, rfl⟩
  | slotRetirement t slot => unfold exec execSlotRetirement; exact ⟨_, _, fun _ => Nat.le_max_left _ _, rfl⟩
  | spareSubstitution t core selfTestPass => unfold exec execSpareSubstitution; exact ⟨_, _, fun _ => Nat.le_max_left _ _, rfl⟩
  | networkRequestArrival t req => unfold exec execNetworkRequestArrival; exact ⟨_, _, fun _ => Nat.le_max_left _ _, rfl⟩
  | networkReplyArrival t id => unfold exec execNetworkReplyArrival; exact ⟨_, _, fun _ => Nat.le_max_left _ _, rfl⟩
  | epochNotice t port page epoch => unfold exec execEpochNotice; exact ⟨_, _, fun _ => Nat.le_max_left _ _, rfl⟩
  | trackingEntryGrant t stack => unfold exec execTrackingEntryGrant; exact ⟨_, _, fun _ => Nat.le_max_left _ _, rfl⟩
  | dramRefresh t stack waits => unfold exec execDramRefresh; exact ⟨_, _, fun _ => Nat.le_max_left _ _, rfl⟩
  | coldReset t => unfold exec execColdReset; exact ⟨_, _, fun h => by simp [Instr.restartsClock] at h, rfl⟩
  | hostReset t => unfold exec execHostReset; exact ⟨_, _, fun _ => Nat.le_max_left _ _, rfl⟩
  | pfFunctionLevelReset t => unfold exec execPfFunctionLevelReset; exact ⟨_, _, fun _ => Nat.le_max_left _ _, rfl⟩
  | vfFunctionLevelReset t fn => unfold exec execVfFunctionLevelReset; exact ⟨_, _, fun _ => Nat.le_max_left _ _, rfl⟩
  | vfResetComplete t fn => unfold exec execVfResetComplete; exact ⟨_, _, fun _ => Nat.le_max_left _ _, rfl⟩
  | counterWrap t page index occurrences item => unfold exec execCounterWrap; exact ⟨_, _, fun _ => Nat.le_max_left _ _, rfl⟩
  | sampleRecordWrite t page outcome => unfold exec execSampleRecordWrite; exact ⟨_, _, fun _ => Nat.le_max_left _ _, rfl⟩
  | samplePop t fn data => unfold exec execSamplePop; exact ⟨_, _, fun _ => Nat.le_max_left _ _, rfl⟩
  | cntSelWrite t fn page index data => unfold exec execCntSelWrite; exact ⟨_, _, fun _ => Nat.le_max_left _ _, rfl⟩
  | cntHiWrite t fn page index data => unfold exec execCntHiWrite; exact ⟨_, _, fun _ => Nat.le_max_left _ _, rfl⟩
  | counterFreezeAtS t => unfold exec execCounterFreezeAtS; exact ⟨_, _, fun _ => Nat.le_max_left _ _, rfl⟩
  | snapshotWriteOut t => unfold exec execSnapshotWriteOut; exact ⟨_, _, fun _ => Nat.le_max_left _ _, rfl⟩
  | bwWindowEnd t counts => unfold exec execBwWindowEnd; exact ⟨_, _, fun _ => Nat.le_max_left _ _, rfl⟩
  | bwWindowWrite t fn data => unfold exec execBwWindowWrite; exact ⟨_, _, fun _ => Nat.le_max_left _ _, rfl⟩
  | pcieLinkRetrain t gen width flit => unfold exec execPcieLinkRetrain; exact ⟨_, _, fun _ => Nat.le_max_left _ _, rfl⟩
  | sholoTrainingComplete t port gen half => unfold exec execSholoTrainingComplete; exact ⟨_, _, fun _ => Nat.le_max_left _ _, rfl⟩
  | identityFrame t port ident => unfold exec execIdentityFrame; exact ⟨_, _, fun _ => Nat.le_max_left _ _, rfl⟩
  | flitCrcFail t port delay => unfold exec execFlitCrcFail; exact ⟨_, _, fun _ => Nat.le_max_left _ _, rfl⟩
  | replayLimitRetrain t port => unfold exec execReplayLimitRetrain; exact ⟨_, _, fun _ => Nat.le_max_left _ _, rfl⟩
  | signalLoss t port => unfold exec execSignalLoss; exact ⟨_, _, fun _ => Nat.le_max_left _ _, rfl⟩
  | retrainTimeout t port => unfold exec execRetrainTimeout; exact ⟨_, _, fun _ => Nat.le_max_left _ _, rfl⟩
  | portEnableWrite t port data => unfold exec execPortEnableWrite; exact ⟨_, _, fun _ => Nat.le_max_left _ _, rfl⟩
  | xqControlEnable t port data => unfold exec execXqControlEnable; exact ⟨_, _, fun _ => Nat.le_max_left _ _, rfl⟩
  | xqTailDoorbell t port value host => unfold exec execXqTailDoorbell; exact ⟨_, _, fun _ => Nat.le_max_left _ _, rfl⟩
  | transferWrite t port => unfold exec execTransferWrite; exact ⟨_, _, fun _ => Nat.le_max_left _ _, rfl⟩
  | transferRead t port => unfold exec execTransferRead; exact ⟨_, _, fun _ => Nat.le_max_left _ _, rfl⟩
  | incomingTransfer t port xfer => unfold exec execIncomingTransfer; exact ⟨_, _, fun _ => Nat.le_max_left _ _, rfl⟩
  | transferComplete t port index result => unfold exec execTransferComplete; exact ⟨_, _, fun _ => Nat.le_max_left _ _, rfl⟩
  | rxwEnableWrite t port data => unfold exec execRxwEnableWrite; exact ⟨_, _, fun _ => Nat.le_max_left _ _, rfl⟩
  | ethDatagram t port datagram => unfold exec execEthDatagram; exact ⟨_, _, fun _ => Nat.le_max_left _ _, rfl⟩
  | ethResendTimeout t port peer resend => unfold exec execEthResendTimeout; exact ⟨_, _, fun _ => Nat.le_max_left _ _, rfl⟩
  | linkRefclkLoss t => unfold exec execLinkRefclkLoss; exact ⟨_, _, fun _ => Nat.le_max_left _ _, rfl⟩
  | sysRefclkLoss t => unfold exec execSysRefclkLoss; exact ⟨_, _, fun _ => Nat.le_max_left _ _, rfl⟩
  | hostRefclkLoss t => unfold exec execHostRefclkLoss; exact ⟨_, _, fun _ => Nat.le_max_left _ _, rfl⟩
  | vin48Loss t => unfold exec execVin48Loss; exact ⟨_, _, fun h => by simp [Instr.restartsClock] at h, rfl⟩
  | vin48ExcursionBegin t group => unfold exec execVin48ExcursionBegin; exact ⟨_, _, fun _ => Nat.le_max_left _ _, rfl⟩
  | vin48ExcursionEnd t group => unfold exec execVin48ExcursionEnd; exact ⟨_, _, fun _ => Nat.le_max_left _ _, rfl⟩
  | vaux33Loss t => unfold exec execVaux33Loss; exact ⟨_, _, fun h => by simp [Instr.restartsClock] at h, rfl⟩
  | hubPowerGood t => unfold exec execHubPowerGood; exact ⟨_, _, fun h => by simp [Instr.restartsClock] at h, rfl⟩
  | bringupStageEnd t result => unfold exec execBringupStageEnd; exact ⟨_, _, fun _ => Nat.le_max_left _ _, rfl⟩
  | inputPowerTimeout t => unfold exec execInputPowerTimeout; exact ⟨_, _, fun _ => Nat.le_max_left _ _, rfl⟩
  | smuWaitTimeout t => unfold exec execSmuWaitTimeout; exact ⟨_, _, fun _ => Nat.le_max_left _ _, rfl⟩
  | bringupTimeout t => unfold exec execBringupTimeout; exact ⟨_, _, fun _ => Nat.le_max_left _ _, rfl⟩
  | dramTrainingAttempt t stack pass => unfold exec execDramTrainingAttempt; exact ⟨_, _, fun _ => Nat.le_max_left _ _, rfl⟩
  | slotSelfTest t slot pass => unfold exec execSlotSelfTest; exact ⟨_, _, fun _ => Nat.le_max_left _ _, rfl⟩
  | vin48InRange t => unfold exec execVin48InRange; exact ⟨_, _, fun _ => Nat.le_max_left _ _, rfl⟩
  | perstNRelease t => unfold exec execPerstNRelease; exact ⟨_, _, fun _ => Nat.le_max_left _ _, rfl⟩
  | lockoutEnd t => unfold exec execLockoutEnd; exact ⟨_, _, fun _ => Nat.le_max_left _ _, rfl⟩
  | jtagAccess t access => unfold exec execJtagAccess; exact ⟨_, _, fun _ => Nat.le_max_left _ _, rfl⟩
  | partnerLowPower t port => unfold exec execPartnerLowPower; exact ⟨_, _, fun _ => Nat.le_max_left _ _, rfl⟩
  | linkRefclkReturn t => unfold exec execLinkRefclkReturn; exact ⟨_, _, fun _ => Nat.le_max_left _ _, rfl⟩

end Sys2Proof.Machine
end

