-- ==== Sys2Proof/Laws/Sync.lean ====
section
/-! SUPPORT. Synchronisation objects: what evaluating one leaves of it. -/

namespace Sys2Proof.Machine

/-- With no entry waiting on it a semaphore serves none. -/
theorem serveSemaphore_idle (i now : Nat) (o : SyncObj) (es : List Launch) (h : ∀ e ∈ es, e.waiting = true → e.waitSync ≠ i) :
    serveSemaphore i now o es = (o, es) := by
  induction es with
  | nil => rfl
  | cons e es ih =>
    have he := h e (by simp)
    have : (e.waiting && e.waitSync == i) = false := by
      cases hw : e.waiting
      · rfl
      · simpa using he hw
    simp [serveSemaphore, this, ih (fun x hx => h x (by simp [hx]))]

/-- With no entry waiting on it an event serves none. -/
theorem serveEvent_idle (i now : Nat) (o : SyncObj) (es : List Launch) (h : ∀ e ∈ es, e.waiting = true → e.waitSync ≠ i) :
    serveEvent i now o es = (o, es) := by
  induction es with
  | nil => rfl
  | cons e es ih =>
    have he := h e (by simp)
    have : (e.waiting && e.waitSync == i && o.setFired) = false := by
      cases hw : e.waiting
      · rfl
      · have : (e.waitSync == i) = false := by simpa using he hw
        simp [this]
    simp [serveEvent, this, ih (fun x hx => h x (by simp [hx]))]

@[simp] theorem sync_updSync_self (d : Dev) (i : Nat) (f : SyncObj → SyncObj) : (d.updSync i f).sync i = f (d.sync i) := by simp [Dev.updSync, Dev.sync]

@[simp] theorem launches_updSync (d : Dev) (i : Nat) (f : SyncObj → SyncObj) : (d.updSync i f).launches = d.launches := rfl

@[simp] theorem now_updSync (d : Dev) (i : Nat) (f : SyncObj → SyncObj) : (d.updSync i f).now = d.now := rfl

/-- Evaluating an object that no entry waits on: a timed barrier may become due, any other stays. -/
theorem sync_evalSync {d : Dev} {i : Nat} (h : ∀ e ∈ d.launches, e.waiting = true → e.waitSync ≠ i) :
    (d.evalSync i).sync i = if (d.sync i).type = .timedBarrier then (d.sync i).reach d.now else d.sync i := by
  have he : ∀ x : Dev, x.evalLaunches.sync i = x.sync i := fun _ => rfl
  unfold Dev.evalSync
  dsimp only
  rw [he]
  cases ht : (d.sync i).type <;> simp only
  · rw [if_neg (by simp)]
  · rw [serveSemaphore_idle i d.now (d.sync i) d.launches h, if_neg (by simp)]
    simp [Dev.sync]
  · rw [serveEvent_idle i d.now (d.sync i) d.launches h, if_neg (by simp)]
    simp [Dev.sync]
  · rw [if_pos trivial]
    simp [Dev.sync]

theorem sync_endsWith (s : State) (t : Nat) (d : Dev) (i : Nat) : (s.endsWith t d).dev.sync i = d.sync i := by unfold Dev.sync; simp

end Sys2Proof.Machine
end

