-- ==== Sys2Proof/Laws/Tidy.lean ====
section
/-! SUPPORT. What a tidy core's instruction does, said once: running one, and applying its loads, stores and registers (R17, R117, R251, R400, R403). -/

namespace Sys2Proof.Machine

/-- The device as a tidy core that takes an instruction of job `id` sees it. -/
def Dev.taking (d : Dev) (id tc : Nat) : Dev := (d.jobIssues id).updTidy tc (fun x => { x with steps := x.steps - 1 })

/-- A tidy core that can take an instruction runs its body. -/
theorem tidyRun_eq {d : Dev} {tc id : Nat} {j : Job} (h : d.tidyJob tc = some (id, j)) (h2 : (d.tidy tc).halted = false) (body : Nat → Job → Tidy → Dev → Dev) :
    d.tidyRun tc body = body id j ((d.taking id tc).tidy tc) (d.taking id tc) := by
  unfold Dev.tidyRun
  rw [h]
  dsimp only
  rw [if_neg (by simp [h2])]
  rfl

/-- One that can take none stays. -/
theorem tidyRun_none {d : Dev} {tc : Nat} (h : d.tidyJob tc = none) (body : Nat → Job → Tidy → Dev → Dev) : d.tidyRun tc body = d := by
  unfold Dev.tidyRun; rw [h]

theorem noteAccess_form (d : Dev) (id tc : Nat) (a b : Bool) (rs : List (Nat × Nat)) : ∃ o, d.noteAccess id tc a b rs = { d with occ := o } := by
  unfold Dev.noteAccess
  cases rs with
  | nil => exact ⟨d.occ, rfl⟩
  | cons x rs =>
    dsimp only
    split
    · exact ⟨_, rfl⟩
    · split
      · exact ⟨_, rfl⟩
      · exact ⟨_, rfl⟩

theorem tidyTracks_form (d : Dev) (ctx : Nat) (rs : List (Nat × Nat)) (w : Bool) : ∃ k r o, d.tidyTracks ctx rs w = { d with tracks := k, reader := r, occ := o } := by
  unfold Dev.tidyTracks
  induction rs generalizing d with
  | nil => exact ⟨d.tracks, d.reader, d.occ, rfl⟩
  | cons x rs ih =>
    simp only [List.foldl_cons]
    obtain ⟨_, _, _, h⟩ := trackPass_form d (some ctx) x.1 x.2 w
    rw [h]
    obtain ⟨k, r, o, h2⟩ := ih { d with tracks := _, reader := _, occ := _ }
    exact ⟨k, r, o, h2⟩

section
variable (d : Dev) (id tc : Nat) (j : Job) (loads : List (Nat × Nat)) (stores : List Host.Cell) (f : Tidy → Tidy)

/-- Loads that are granted, reach their homes and meet no poison, and stores that are granted and reach theirs: the stores are made and the registers written. -/
theorem tidyApply_next (hl : ∀ r ∈ loads, d.granted j r.1 r.2 false = true) (hp : d.lostPath (tc / 8) (loads.map (fun r => (j.redirect r.1, r.2))) = none)
    (hq : loads.findSome? (fun r => d.jobPoisonLine j r.1 r.2) = none) (hs : ∀ c ∈ stores, d.granted j c.1 1 true = true) (hr : d.lostPath (tc / 8) (stores.map (fun c => (c.1, 1))) = none) :
    ∃ k r o, d.tidyApply id tc j loads stores f = (({ d with tracks := k, reader := r, occ := o } : Dev).tidyStores stores).updTidy tc (fun x => { f x with tstate := .running, wait := none }) := by
  have f1 : loads.find? (fun r => !d.granted j r.1 r.2 false) = none := by simp only [List.find?_eq_none, Bool.not_eq_true', Bool.not_eq_false]; exact hl
  have f2 : stores.find? (fun c => !d.granted j c.1 1 true) = none := by simp only [List.find?_eq_none, Bool.not_eq_true', Bool.not_eq_false]; exact hs
  unfold Dev.tidyApply
  dsimp only
  rw [f1, f2, hp, hq, hr]
  dsimp only
  obtain ⟨o1, e1⟩ := noteAccess_form d id tc false false loads
  rw [e1]
  obtain ⟨o2, e2⟩ := noteAccess_form { d with occ := o1 } id tc true false (stores.map (fun c => (c.1, 1)))
  rw [e2]
  obtain ⟨k3, r3, o3, e3⟩ := tidyTracks_form (({ d with occ := o2 } : Dev).note (tidyPage tc) 0x380 1 (({ d with occ := o2 } : Dev).instrItem id tc)) j.ctx (loads.map (fun r => (j.redirect r.1, r.2))) false
  obtain ⟨k, r, o, e4⟩ := tidyTracks_form { d with tracks := k3, reader := r3, occ := o3 } j.ctx (stores.map (fun c => (c.1, 1))) true
  refine ⟨k, r, o, ?_⟩
  have e3' : Dev.tidyTracks (({ d with occ := o2 } : Dev).note (tidyPage tc) 0x380 1 (d.instrItem id tc)) j.ctx (loads.map (fun r => (j.redirect r.1, r.2))) false = { d with tracks := k3, reader := r3, occ := o3 } := e3
  refine congrArg (fun y => (Dev.tidyStores y stores).updTidy tc (fun x => { f x with tstate := .running, wait := none })) ?_
  exact (congrArg (fun y => Dev.tidyTracks y j.ctx (stores.map (fun c => (c.1, 1))) true) e3').trans e4

/-- A load outside the grant raises the load access exception. -/
theorem tidyApply_load {r : Nat × Nat} (h : loads.find? (fun r => !d.granted j r.1 r.2 false) = some r) :
    ∃ o, d.tidyApply id tc j loads stores f = ({ d with occ := o } : Dev).tidyTrap id tc exLoadAccess r.1 := by
  unfold Dev.tidyApply
  dsimp only
  rw [h]
  obtain ⟨o, e⟩ := noteAccess_form d id tc false true loads
  exact ⟨o, by rw [← e]⟩

/-- A load whose home cannot be reached ends the job with KIND 0x0B. -/
theorem tidyApply_lost (hl : ∀ r ∈ loads, d.granted j r.1 r.2 false = true) {e : Nat × Nat} (hp : d.lostPath (tc / 8) (loads.map (fun r => (j.redirect r.1, r.2))) = some e) :
    d.tidyApply id tc j loads stores f = d.faultJob id 0x0B 0 e.1 (tidyPage tc) e.2 := by
  have f1 : loads.find? (fun r => !d.granted j r.1 r.2 false) = none := by simp only [List.find?_eq_none, Bool.not_eq_true', Bool.not_eq_false]; exact hl
  unfold Dev.tidyApply
  dsimp only
  rw [f1, hp]

/-- A load of a poisoned line ends the job with KIND 0x0A. -/
theorem tidyApply_poison (hl : ∀ r ∈ loads, d.granted j r.1 r.2 false = true) (hp : d.lostPath (tc / 8) (loads.map (fun r => (j.redirect r.1, r.2))) = none) {a : Nat}
    (hq : loads.findSome? (fun r => d.jobPoisonLine j r.1 r.2) = some a) : d.tidyApply id tc j loads stores f = d.faultJob id 0x0A 0 cJobFault (tidyPage tc) a := by
  have f1 : loads.find? (fun r => !d.granted j r.1 r.2 false) = none := by simp only [List.find?_eq_none, Bool.not_eq_true', Bool.not_eq_false]; exact hl
  unfold Dev.tidyApply
  dsimp only
  rw [f1, hp, hq]

/-- A store outside the grant raises the store access exception. -/
theorem tidyApply_store (hl : ∀ r ∈ loads, d.granted j r.1 r.2 false = true) (hp : d.lostPath (tc / 8) (loads.map (fun r => (j.redirect r.1, r.2))) = none)
    (hq : loads.findSome? (fun r => d.jobPoisonLine j r.1 r.2) = none) {c : Host.Cell} (hs : stores.find? (fun c => !d.granted j c.1 1 true) = some c) :
    ∃ o, d.tidyApply id tc j loads stores f = ({ d with occ := o } : Dev).tidyTrap id tc exStoreAccess c.1 := by
  have f1 : loads.find? (fun r => !d.granted j r.1 r.2 false) = none := by simp only [List.find?_eq_none, Bool.not_eq_true', Bool.not_eq_false]; exact hl
  unfold Dev.tidyApply
  dsimp only
  rw [f1, hs, hp, hq]
  obtain ⟨o, e⟩ := noteAccess_form d id tc true true (stores.map (fun c => (c.1, 1)))
  exact ⟨o, by rw [← e]⟩

end

/-! ### Fetching -/

/-- The fetch of an instruction of the base set that the job is granted, that reaches its home and meets no poison. -/
theorem tidyFetch_base {d : Dev} {tc id : Nat} {j : Job} (h : d.tidyJob tc = some (id, j)) (h2 : (d.tidy tc).halted = false)
    (hg : d.granted j (d.tidy tc).pc 2 false = true) (hp : d.jobPoison j (d.tidy tc).pc 2 = false) (hg4 : (d.taking id tc).granted j (d.tidy tc).pc (d.fetchLen j (d.tidy tc).pc) false = true)
    (hl : (d.taking id tc).lostPath (tc / 8) [(j.redirect (d.tidy tc).pc, d.fetchLen j (d.tidy tc).pc)] = none) (hq : (d.taking id tc).jobPoisonLine j (d.tidy tc).pc (d.fetchLen j (d.tidy tc).pc) = none)
    (hc : isCustom ((d.rvMem j).read (d.tidy tc).pc (d.fetchLen j (d.tidy tc).pc)) = false ∨ d.customOf tc ((d.rvMem j).read (d.tidy tc).pc (d.fetchLen j (d.tidy tc).pc)) = none) :
    d.tidyFetch tc = (d.taking id tc).tidyExec id tc j ((d.taking id tc).tidy tc) (d.fetchLen j (d.tidy tc).pc) ((d.rvMem j).read (d.tidy tc).pc (d.fetchLen j (d.tidy tc).pc)) := by
  unfold Dev.tidyFetch
  rw [h]
  dsimp only
  generalize hpc : (d.tidy tc).pc = pc at *
  generalize hlen : d.fetchLen j pc = len at *
  generalize hw : (d.rvMem j).read pc len = w at *
  have hh : (d.granted j pc 2 false && !d.jobPoison j pc 2) = true := by rw [hg, hp]; rfl
  rcases hc with hc | hc
  · rw [hc]
    simp only [Bool.and_false, Bool.false_eq_true, if_false]
    rw [tidyRun_eq h h2, hh]
    simp only [if_true]
    rw [hg4, hl, hq]
    rfl
  · rw [hc]
    split
    · rename_i e he
      split at he <;> simp at he
    · rw [tidyRun_eq h h2, hh]
      simp only [if_true]
      rw [hg4, hl, hq]
      rfl

/-- The fetch of a custom instruction runs it as its row does. -/
theorem tidyFetch_custom {d e : Dev} {tc id : Nat} {j : Job} (h : d.tidyJob tc = some (id, j))
    (hg : d.granted j (d.tidy tc).pc 2 false = true) (hg4 : d.granted j (d.tidy tc).pc 4 false = true) (hp : d.jobPoison j (d.tidy tc).pc 2 = false)
    (hp4 : d.jobPoison j (d.tidy tc).pc (d.fetchLen j (d.tidy tc).pc) = false)
    (hl : d.lostPath (tc / 8) [(j.redirect (d.tidy tc).pc, d.fetchLen j (d.tidy tc).pc)] = none)
    (hc : isCustom ((d.rvMem j).read (d.tidy tc).pc (d.fetchLen j (d.tidy tc).pc)) = true)
    (he : d.customOf tc ((d.rvMem j).read (d.tidy tc).pc (d.fetchLen j (d.tidy tc).pc)) = some e) : d.tidyFetch tc = e := by
  unfold Dev.tidyFetch
  rw [h]
  dsimp only
  rw [hg, hg4, hp, hp4, hl, hc, he]
  rfl

end Sys2Proof.Machine
end

