-- ==== Sys2Proof/Tests/Slice0.lean ====
section
/-! SUPPORT. Tests: well-formed commands and ill-formed ones, the worked examples of the spec and of the standards it names, and for every statement with hypotheses a state and operands that meet them. -/

set_option Elab.async false

namespace Sys2Proof

/-! ### Well-formedness: one ill-formed term for each check -/

/-- Well-formed data for operands of every kind. -/
def wfImage : FwImage := { malformed := false, proc := 1, version := 1, key := 0, revokes := 0, sigR := List.replicate 48 0, sigS := List.replicate 48 0 }
def wfSite : ErrorSite := { page := 0, kind := 1, address := 0, syndrome := 0, element := 0, path := none, lost := [] }
def wfReq : NetRequest := { id := 0, target := 0, requester := 0, address := 0, bytes := 64, job := none, write := false, control := false, age := 0, passed := [(3, 5)], combines := 0 }
def wfItem : SampleItem := { precise := true, kind := 0, tidy := 0, job := 0, tag := 0, ticket := 0, itemAddr := 0, itemWord := 0, dataAddr := 0, category := 0 }
def wfIdent : Identity := { deviceId := 1, fs8 := false, gens := 3, port := 0, position := 0, align := 0 }
def wfSmu : SmuImage := { version := 1, legal := [], rest := [], sigR := List.replicate 48 0, sigS := List.replicate 48 0 }

theorem test_wf_accepts :
    [Instr.nop 0 0, .ctxSaveDone (2 ^ 64 - 1) 63, .fwStageComplete 0 6 wfImage, .unitResetComplete 0 0x3FFF, .ringEnable 0 31 255, .sqTailDoorbell 0 0 0 0xFFFFFFFF [(2 ^ 64 - 1, 1)],
     .registerWrite 0 0 0 0xFFC 4 0, .registerWrite 0 0 0 4 8 0, .bar2Read 0 0 0 4096, .bar2Write 0 0 0 [], .alignMessage 0 19 ⟨8191, (-2 ^ 63)⟩, .rcRead 0 0 0 ⟨3, 1⟩, .latchingLoRead 0 0 0 ⟨0, 8⟩, .emulatedPageRead 0 0 0 ⟨2, 2⟩, .syncConfigWrite 0 16383 0,
     .tidyCoreInstruction 0 127 (.retire [.x 31 0, .f 0 0, .v 0 0, .fcsr 255, .vl 0, .vtype 0, .csr 4095 0, .reserve none] [0] [(0, 0)] 0 31), .xcCvt 0 0 31 31 15 true, .matmul 0 15, .writeOutEnd 0 0 3,
     .gather 0 0 [(0, 1, .node (.leaf 1) (.leaf 0))], .sourceSettled 0 1, .entropyWindowEnd 0 0 [], .governorEstimate 0 { e := 0, slopeDuty := 16, compute := 0, memory := 0, links := 0 },
     .smuWindowRecord 0 ⟨(2 ^ 160 - 1), 0⟩, .sensorSample 0 { clusters := [0, 0, 0, 0], hub := 0, stackTemps := List.replicate 32 0 }, .smuMetrologyInterval 0 { energyA := 0, energyB := 0, outOfLimits := none },
     .smuFrame 0 { power := 0, jobs := [(1, 0)], other := 0, errors := 0 }, .readSigned ⟨0, 1, true⟩ 255 0, .readPubkey ⟨0, 0, true⟩, .readLog ⟨0, 1, false⟩ 4095, .sealingImageLoad 0 wfSmu, .correctedError 0 wfSite, .slotRetirement 0 19, .networkRequestArrival 0 wfReq, .epochNotice 0 0 0 0,
     .counterWrap 0 0 7 0 wfItem, .sampleRecordWrite 0 0 .discarded, .bwWindowEnd 0 (List.replicate 128 (0, 0)), .identityFrame 0 0 wfIdent, .incomingTransfer 0 0 { write := true, off := 0, len := 0, post := none },
     .transferComplete 0 0 0 (.done []), .ethDatagram 0 0 { addr := 0, udp := 0, kind := .identity wfIdent }, .ethDatagram 0 0 { addr := 0, udp := 0, kind := .ack [1] }, .ethResendTimeout 0 18 255 ⟨0, 0⟩, .bringupStageEnd 0 { badRun := 127, badOther := 0, clusters := 15, chainFailed := 0 }, .jtagAccess 0 (.writeV 127 31 31 0)].all (·.wf) = true := by decide +kernel

theorem test_wf_refuses_operands :
    [Instr.nop (2 ^ 64) 0, .nop 0 256, .ctxSaveDone (2 ^ 64) 0, .ctxSaveDone 0 64, .fwStageComplete 0 7 wfImage, .unitResetComplete 0 0x4000, .ringEnable 0 32 0, .ringEnable 0 0 256, .sqTailDoorbell 0 0 0 (2 ^ 32) [],
     .sqTailDoorbell 0 0 0 0 [(2 ^ 64, 1)], .registerWrite 0 0 0x4001 0 4 0, .registerWrite 0 0 0 4096 4 0, .registerWrite 0 0 0 2 4 0, .registerWrite 0 0 0 0 3 0, .registerWrite 0 0 0 1 2 0, .registerWrite 0 0 0 2 8 0, .registerWrite 0 0 0 0xFFC 8 0,
     .registerWrite 0 0 0 0 4 (2 ^ 64), .bar2Read 0 0 (2 ^ 41) 1, .bar2Read 0 0 0 0, .bar2Read 0 0 0 4097, .bar2Write 0 0 0 (List.replicate 4097 0), .alignMessage 0 20 ⟨0, 0⟩, .alignMessage 0 0 ⟨8192, 0⟩, .alignMessage 0 0 ⟨0, (-2 ^ 63 - 1)⟩, .alignMessage 0 0 ⟨0, (2 ^ 63)⟩, .rcRead 0 0 0 ⟨0, 3⟩, .emulatedPageWrite 0 0 0 1 2 0,
     .syncConfigWrite 0 16384 0, .xcCvt 0 128 0 0 0 true, .xcCvt 0 0 32 0 0 true, .xcCvt 0 0 0 0 16 true, .matmul 0 16, .writeOutEnd 0 0 4, .gather 0 0 [(0, 0, .node (.leaf 1) (.leaf 1))], .netAdd 0 0 [(0, 0, .node (.leaf 2) (.leaf 0))],
     .sourceSettled 0 2, .entropyWindowEnd 0 0 (List.replicate 4097 0), .readSigned ⟨0, 0, true⟩ 0 (2 ^ 128), .readSigned ⟨0, 2, true⟩ 0 0, .readSigned ⟨0, 0, true⟩ 256 0, .readPubkey ⟨0, 2, true⟩, .readLog ⟨0, 2, true⟩ 0, .readLog ⟨0, 0, true⟩ 4096, .slotRetirement 0 20, .epochNotice 0 0 0 (2 ^ 16), .counterWrap 0 0 8 0 wfItem, .bwWindowEnd 0 [], .bwWindowEnd 0 (List.replicate 128 (2 ^ 64, 0)),
     .bwWindowEnd 0 (List.replicate 128 (0, 2 ^ 64)), .transferComplete 0 0 (2 ^ 16) (.done [])].all (fun i => !i.wf) = true := by decide +kernel

theorem test_wf_refuses_effects :
    [TidyEffect.retire [.x 0 0] [] [] 0 0, .retire [.x 32 0] [] [] 0 0, .retire [.x 1 (2 ^ 64)] [] [] 0 0, .retire [.f 32 0] [] [] 0 0, .retire [.f 0 (2 ^ 64)] [] [] 0 0, .retire [.v 32 0] [] [] 0 0, .retire [.v 0 (2 ^ 2048)] [] [] 0 0, .retire [.fcsr 256] [] [] 0 0,
     .retire [.vl (2 ^ 64)] [] [] 0 0, .retire [.vtype (2 ^ 64)] [] [] 0 0, .retire [.csr 4096 0] [] [] 0 0, .retire [.csr 0 (2 ^ 64)] [] [] 0 0, .retire [.reserve (some (2 ^ 64))] [] [] 0 0, .retire [] [2 ^ 64] [] 0 0, .retire [] [] [(2 ^ 64, 0)] 0 0,
     .retire [] [] [] (2 ^ 64) 0, .retire [] [] [] 0 32, .trap 256 0, .trap 0 (2 ^ 64)].all (fun x => !(Instr.tidyCoreInstruction 0 0 x).wf) = true := by decide +kernel

theorem test_wf_refuses_records :
    [Instr.fwStageComplete 0 0 { wfImage with proc := 8 }, .fwStageComplete 0 0 { wfImage with version := 2 ^ 32 }, .fwStageComplete 0 0 { wfImage with key := 4 }, .fwStageComplete 0 0 { wfImage with revokes := 16 }, .fwStageComplete 0 0 { wfImage with sigR := [] },
     .fwStageComplete 0 0 { wfImage with sigS := [] }, .governorEstimate 0 { e := 0, slopeDuty := 1, compute := 0, memory := 0, links := 0 }, .governorEstimate 0 { e := 0, slopeDuty := 17, compute := 0, memory := 0, links := 0 },
     .smuWindowRecord 0 ⟨(2 ^ 160), 0⟩, .smuWindowRecord 0 ⟨0, (2 ^ 64)⟩,
     .sensorSample 0 { clusters := [], hub := 0, stackTemps := List.replicate 32 0 }, .sensorSample 0 { clusters := [0, 0, 0, 0], hub := 0, stackTemps := [] }, .sensorSample 0 { clusters := [0, 0, 0, 0], hub := 256, stackTemps := List.replicate 32 0 },
     .smuMetrologyInterval 0 { energyA := 2 ^ 64, energyB := 0, outOfLimits := none }, .smuMetrologyInterval 0 { energyA := 0, energyB := 2 ^ 64, outOfLimits := none }, .smuFrame 0 { power := 0, jobs := [(2 ^ 32, 0)], other := 0, errors := 0 }, .smuFrame 0 { power := 65536, jobs := [], other := 0, errors := 0 }, .smuFrame 0 { power := 0, jobs := [], other := 0, errors := 2 ^ 560 },
     .sealingImageLoad 0 { wfSmu with version := 2 ^ 32 }, .sealingImageLoad 0 { wfSmu with sigR := [] }, .sealingImageLoad 0 { wfSmu with sigS := [] },
     .correctedError 0 { wfSite with page := 0x1120 }, .correctedError 0 { wfSite with kind := 0 }, .correctedError 0 { wfSite with kind := 12 }, .correctedError 0 { wfSite with address := 2 ^ 64 }, .correctedError 0 { wfSite with syndrome := 65536 }, .correctedError 0 { wfSite with path := some 64 }, .correctedError 0 { wfSite with element := 2 ^ 21 },
     .networkRequestArrival 0 { wfReq with target := 0x1120 }, .networkRequestArrival 0 { wfReq with requester := 0x1120 }, .networkRequestArrival 0 { wfReq with bytes := 0 }, .networkRequestArrival 0 { wfReq with bytes := 1025 }, .networkRequestArrival 0 { wfReq with passed := [(4, 0)] }, .networkRequestArrival 0 { wfReq with passed := [(0, 2 ^ 32)] }, .networkRequestArrival 0 { wfReq with address := 2 ^ 64 },
     .counterWrap 0 0 0 0 { wfItem with kind := 4 }, .counterWrap 0 0 0 0 { wfItem with tidy := 8 }, .counterWrap 0 0 0 0 { wfItem with job := 2 ^ 32 }, .counterWrap 0 0 0 0 { wfItem with tag := 65536 }, .counterWrap 0 0 0 0 { wfItem with ticket := 65536 },
     .counterWrap 0 0 0 0 { wfItem with itemAddr := 2 ^ 64 }, .counterWrap 0 0 0 0 { wfItem with itemWord := 2 ^ 32 }, .counterWrap 0 0 0 0 { wfItem with dataAddr := 2 ^ 64 }, .counterWrap 0 0 0 0 { wfItem with category := 4 }, .sampleRecordWrite 0 0 (.completed (2 ^ 32)),
     .identityFrame 0 0 { wfIdent with deviceId := 2 ^ 128 }, .identityFrame 0 0 { wfIdent with gens := 4 }, .identityFrame 0 0 { wfIdent with port := 32 }, .identityFrame 0 0 { wfIdent with position := 8192 }, .identityFrame 0 0 { wfIdent with align := 4 },
     .incomingTransfer 0 0 { write := true, off := 2 ^ 64, len := 0, post := none }, .incomingTransfer 0 0 { write := true, off := 0, len := 2 ^ 32, post := none }, .incomingTransfer 0 0 { write := true, off := 0, len := 0, post := some 16384 }, .transferComplete 0 0 0 (.refused 4096),
     .ethDatagram 0 0 { addr := 2 ^ 128, udp := 0, kind := .ack [] }, .ethDatagram 0 0 { addr := 0, udp := 0, kind := .ack [2 ^ 64] }, .ethDatagram 0 0 { addr := 0, udp := 0, kind := .ack (List.replicate 4097 0) }, .ethResendTimeout 0 0 256 ⟨0, 0⟩, .ethResendTimeout 0 0 0 ⟨(2 ^ 64), 0⟩, .ethResendTimeout 0 0 0 ⟨0, (2 ^ 32)⟩, .ethDatagram 0 0 { addr := 0, udp := 65536, kind := .data }, .ethDatagram 0 0 { addr := 0, udp := 0, kind := .identity { wfIdent with gens := 4 } },
     .bringupStageEnd 0 { badRun := 128, badOther := 0, clusters := 0, chainFailed := 0 }, .bringupStageEnd 0 { badRun := 0, badOther := 128, clusters := 0, chainFailed := 0 }, .bringupStageEnd 0 { badRun := 0, badOther := 0, clusters := 16, chainFailed := 0 }, .bringupStageEnd 0 { badRun := 0, badOther := 0, clusters := 0, chainFailed := 2 ^ 20 },
     .jtagAccess 0 (.stepTidy 128), .jtagAccess 0 (.stepProc 7), .jtagAccess 0 (.readF 0 32), .jtagAccess 0 (.writeF 0 0 (2 ^ 64)), .jtagAccess 0 (.readV 0 0 32), .jtagAccess 0 (.writeV 0 32 0 0), .jtagAccess 0 (.readCsr 0 4096), .jtagAccess 0 (.writeCsr 0 0 (2 ^ 64)), .jtagAccess 0 (.readProcReg 7 0), .jtagAccess 0 (.writeProcReg 0 65536 0), .jtagAccess 0 (.readProcMem 0 (2 ^ 64)), .jtagAccess 0 (.writeProcMem 0 0 (2 ^ 64)),
     .jtagAccess 0 (.haltTidy 128), .jtagAccess 0 (.haltProc 7), .jtagAccess 0 (.readReg 0 65536), .jtagAccess 0 (.writeReg 0 0 (2 ^ 64)), .jtagAccess 0 (.writePc 0 (2 ^ 64)), .jtagAccess 0 (.readMem (2 ^ 64)), .jtagAccess 0 (.writeMem (2 ^ 64) 0)].all (fun i => !i.wf) = true := by decide +kernel

/-- No row of the table gives bits, so no word spells a command. -/
theorem test_decode_none : decodeTableWord 16 0x1234 = none := rfl

end Sys2Proof

namespace Sys2Proof.Machine

/-! ### Worked examples of the spec -/

/-- Example 4-1: a scaled run of one non-zero product. -/
theorem test_example_4_1 :
    (dotTotal .n (nativeShape 0) 0 0 ⟨unpackElems 3 32 ((List.replicate 5 0) ++ [0xB5] ++ List.replicate 26 0), [0x7C]⟩ ⟨unpackElems 4 32 ((List.replicate 5 0) ++ [0x4B] ++ List.replicate 26 0), [0x81]⟩).1 = 0xC0B60000 := by decide +kernel

/-- Example 4-2: three lanes rounded to E4M3 stochastically, and to nearest. -/
theorem test_example_4_2 :
    (xcSrnd 3 true 0x3FA66666 0x5A3C9E).1 = 0x3B ∧ (xcSrnd 3 true 0x3FA66666 0x900122).1 = 0x3A ∧ (xcSrnd 3 true 0x3FA00000 0xFFFFFF).1 = 0x3A
    ∧ (xcSrnd 3 true 0x3FA66666 0x5A3C9E).2.1 = ffNX ∧ (xcSrnd 3 true 0x3FA00000 0).2.1 = 0 ∧ (xcCvt 3 true 0x3FA66666).1 = 0x3A := by decide +kernel

/-- Example 5-1: a truncated product decides a tie; without it the tie goes to even. -/
theorem test_example_5_1 :
    let row (c : Nat) : OperandRow := ⟨unpackElems 6 8 (leBytes 16 (0x3F80 + 2 ^ 16 * 0x3980 + 2 ^ 32 * c)), []⟩
    (dotTotal .h (nativeShape 0) 0 0 (row 0x3800) (row 0x3800)).1 = 0x3F800001 ∧ (dotTotal .h (nativeShape 0) 0 0 (row 0) (row 0)).1 = 0x3F800000 := by decide +kernel

/-- Example 5-2: the same operands total differently under shapes 0 and 2. -/
theorem test_example_5_2 :
    let row : OperandRow := ⟨unpackElems 3 64 (List.replicate 32 0 ++ [0x58, 0x01] ++ List.replicate 30 0), []⟩
    (dotTotal .n (nativeShape 0) 0 0x4F800000 row row).1 = 0x4F800001 ∧ (dotTotal .n (nativeShape 2) 0 0x4F800000 row row).1 = 0x4F800000 := by decide +kernel

/-- Example 6-1: the decision table at the fields -2, 0 and 2, whose indices are 3,584, 4,096 and 4,608. -/
theorem test_example_6_1 :
    (decisionIndex 0xC0000000).1 = 3584 ∧ (decisionIndex 0).1 = 4096 ∧ (decisionIndex 0x40000000).1 = 4608
    ∧ decisionEntry 3584 = 2003336 ∧ decisionEntry 4096 = 8396800 ∧ decisionEntry 4608 = 14780761 := by decide +kernel

/-- Example 8-1: G and the score of token 6 to four decimal places, and its rank above tokens 9 and 7. -/
theorem test_example_8_1 :
    let score (l w : Nat) : Nat := f32Add (f32Mul l 0x3FA00000) (gumbel w)
    let near (x : Nat) (v : Int) : Bool := decide ((dy32 (f32Mul x 0x461C4000)).floor = v ∨ (dy32 (f32Mul x 0x461C4000)).floor = v - 1)
    near (gumbel 0xF0000000) 27405 = true ∧ near (gumbel 0x80000000) 3665 = true ∧ near (gumbel 0x10000000) (-10198) = true ∧ near (score 0x40600000 0xF0000000) 71155 = true
    ∧ scoreRank (score 0x40300000 0xF8000000) < scoreRank (score 0x40600000 0xF0000000) ∧ scoreRank (score 0xFF800000 0x60000000) < scoreRank (score 0x3F800000 0x10000000) := by decide +kernel

/-- Example 8-2: the compatibility method draws token 3 from the same logits. -/
theorem test_example_8_2 :
    compatDraw [0x40800000, 0x40900000, 0x40400000, 0x40880000, 0x40000000, 0x3F800000, 0x40600000, 0xFF800000, 0x3F000000, 0x40300000] 0x3FA00000 4 0x3F59999A 0xB0000000 = (3, false) := by decide +kernel

/-- Example 9-1: the counter of a GUMBEL word. -/
theorem test_example_9_1 : indigoCounter .gumbel 0x000000002A000013 0x12345 = 0x0000135000001234 := by decide +kernel

/-- Example 14-1: the microjoule left over goes to the account with the largest remainder. -/
theorem test_example_14_1 : divideEnergy 1093417 [(0, 310000), (7, 512000), (12, 268000)] = [(0, 310972), (7, 513605), (12, 268840)] := by decide +kernel

/-- R136: sum(0, 3) and sum(0, 6). -/
theorem test_sum_tree :
    logicalTree 32 0 3 = .node (.node (.leaf 0) (.leaf 1)) (.leaf 2)
    ∧ logicalTree 32 0 6 = .node (.node (.node (.leaf 0) (.leaf 1)) (.node (.leaf 2) (.leaf 3))) (.node (.leaf 4) (.leaf 5)) := by decide +kernel

/-- RFC 3394, 4.6: unwrapping 256 bits of key data with a 256-bit key. -/
theorem test_rfc3394_4_6 :
    kwUnwrap ((List.range 32).map (BitVec.ofNat 8)) (leBytes 40 0x21DD027A9B8B98FB3BF4991AE7F0C7CB26D30ED8E286573F26F887FB5CB3CCCBF410B8C404F4C928)
      = some ((leBytes 32 0x0F0E0D0C0B0A09080706050403020100FFEEDDCCBBAA99887766554433221100)) := by decide +kernel

/-- RISC-V unprivileged specification: an instruction on a core that reads the byte 3a at address a. -/
def rvStep (x : Tidy) (w : Nat) : Tidy :=
  let m : RvMem := ⟨fun a _ => a * 3, fun _ _ => true⟩
  match (if w % 4 = 3 then rvBase m x 4 w else match expandC w with | some v => rvBase m x 2 v | none => .illegal) with
  | .next y _ _ => y
  | .trap c v => { x with trapCause := c, trapTval := v }
  | .illegal => { x with trapCause := 2 }

/-- li a0, 5; addi a0, a0, -7; c.li a1, 3; mul a2, a0, a1. -/
theorem test_rv_scalar :
    (let y := [0x00500513, 0xFF950513, 0x458D, 0x02B50633].foldl rvStep {}; (y.get 10, y.get 12, y.pc, y.trapCause)) = (2 ^ 64 - 2, 2 ^ 64 - 6, 14, 0) := by decide +kernel

/-- vsetvli x5, x0, e32, m1 gives 64 elements of the 2,048-bit registers; vid.v; vadd.vv; vredsum.vs: twice the sum of 0 to 63. -/
theorem test_rv_vector :
    (let y := [0x010072D7, 0x5208A0D7, 0x02108157, 0x022021D7, 0x42302557].foldl rvStep {}; (y.get 5, y.get 10, y.trapCause)) = (64, 4032, 0) := by decide +kernel

/-! ### Witnesses: states and operands that meet the hypotheses of the statements -/

/-- A module at a module state, otherwise as at reset. -/
def wAt (m : ModState) : State := { dev := { modState := m } }

/-- A READY module brought up, with every core and stack in service. -/
def wDev : Dev := { modState := .ready, boot := { stage := 8, clustersUp := 15, logicalCores := 16 }, time := { running := true }, now := 5000 }

/-- The same as a state. -/
def wUp : State := { dev := wDev }

/-- A state that agrees with its work and steps (EveryStepKeepsFrostAndActive). -/
theorem wit_frost_active : wUp.dev.coherent = true ∧ (wAt .frost).dev.coherent = true := by decide

/-- A command that keeps the clock rising (DeviceTimeNeverDecreases). -/
theorem wit_time : Instr.restartsClock (.lockoutEnd 7000) = false ∧ ∃ u, exec (.lockoutEnd 7000) wUp = .next u ∧ u.dev.now = 7000 := ⟨rfl, _, rfl, by decide⟩

/-- A module whose ring 3 is enabled, with a completion unconsumed or not. -/
def wRing (en : Bool) (cqTail cqHead : Nat) : State :=
  { dev := { wDev with rings := [(3, { enable := en, log2Sq := 6, log2Cq := 6, cqTail, cqHead })] } }

theorem wit_ring_enable : ((wRing false 0 0).dueAt 1).ringVisible 0 3 = true ∧ ((wRing false 0 0).dueAt 1).drained 3 = true := by decide
theorem wit_ring_tails : ((wRing true 0 0).dueAt 1).ringVisible 0 3 = true ∧ (((wRing true 0 0).dueAt 1).ring 3).enable = true ∧ 63 < 2 ^ (((wRing true 0 0).dueAt 1).ring 3).log2Sq
    ∧ 2 ^ (((wRing true 0 0).dueAt 1).ring 3).log2Sq ≤ 64 ∧ 63 < 2 ^ (((wRing true 0 0).dueAt 1).ring 3).log2Cq ∧ 2 ^ (((wRing true 0 0).dueAt 1).ring 3).log2Cq ≤ 64 := by decide
theorem wit_ring_wake : (((wRing true 0 0).dueAt 1).ring 3).owner = 0 ∧ (((wRing true 0 0).dueAt 1).ring 3).cqTail = (((wRing true 0 0).dueAt 1).ring 3).cqHead
    ∧ (((wRing true 1 0).dueAt 1).ring 3).cqTail ≠ (((wRing true 1 0).dueAt 1).ring 3).cqHead ∧ ((wRing true 1 0).dueAt 1).hostStopped = false := by decide

theorem wit_completion_write :
    let d : Dev := { wDev with rings := [(3, { enable := true, held := [{ code := 0, opcode := 1, tag := 7, final := true, sourcePage := 0, sourceEpoch := 1, result0 := 0, result1 := 0 }] })] }
    (d.ring 3).cqFull = false ∧ (d.ring 3).held ≠ [] ∧ d.hostStopped = false ∧ Memory.wf d.hostMem = true := by decide

theorem wit_host_stopped : ((wAt .orphaned).dueAt 0).hostStopped = true ∧ (wAt .orphaned).dev.lease.store.length < 65536 := by decide
theorem wit_store_full : ∃ d : Dev, d.hostStopped = true ∧ 65536 ≤ d.lease.store.length :=
  ⟨{ modState := .orphaned, lease := { store := List.replicate 65536 (0, { code := 0, opcode := 0, tag := 0, final := true, sourcePage := 0, sourceEpoch := 1, result0 := 0, result1 := 0 }) } }, by
    refine ⟨rfl, ?_⟩
    show 65536 ≤ (List.replicate 65536 _).length
    exact Nat.le_of_eq List.length_replicate.symm⟩

theorem wit_attn_pop : (31 : Nat) < 32 ∧ (wUp.dueAt 0).fnActs 0 = true ∧ ((({ wDev with hostIf := { vfEnabled := 31 } } : Dev)).fnActs 31 = true) ∧ (wUp.dueAt 0).hostOpen (.attnq 31) = true ∧ (wUp.dueAt 0).hostOpen (.attnq 5) = true ∧ ((3 : Nat) = 0 ∨ (3 : Nat) = 3) ∧ ((4 : Nat) ≠ 0 ∧ (4 : Nat) ≠ 5) := by decide

/-- Synchronisation objects of each type, on a module brought up. -/
def wSync : State := { dev := { wDev with syncs := [(1, { type := .semaphore, count := 5 }), (2, { type := .event }), (3, { type := .timedBarrier, expected := 2, count := 2, due := some 4000, fireTime := 4500 })] } }

theorem wit_sync : (wSync.dueAt 0).syncOpen 1 = true ∧ (wSync.dueAt 0).syncOpen 0x3FFF = true ∧ (wSync.dueAt 0).launches = [] ∧ (wSync.dueAt 0).syncBusy 1 = false
    ∧ ((wSync.dueAt 0).sync 1).type = .semaphore ∧ ((wSync.dueAt 0).sync 1).count + 1 < 2 ^ 32 ∧ 2 ^ 32 ≤ ((wSync.dueAt 0).sync 1).count + 0xFFFFFFFF
    ∧ ((wSync.dueAt 0).sync 2).type = .event ∧ ((wSync.dueAt 0).sync 4).type = .unused ∧ bits 0x7F01 14 8 = 0x7F ∧ bits 0x7F01 1 0 ≠ 3 := by decide

theorem wit_barrier : ((wSync.dueAt 0).sync 3).type = .timedBarrier ∧ ((wSync.dueAt 0).sync 3).due = some 4000 ∧ max ((wSync.dueAt 0).sync 3).fireTime 4000 ≤ (wSync.dueAt 0).now
    ∧ ((wSync.dueAt 0).sync 3).rearm = false ∧ ((State.dueAt { dev := { wDev with now := 4200, syncs := [(3, { type := .timedBarrier, due := some 4000, fireTime := 4500 })] } } 0).now < max 4500 4000)
    ∧ ((State.dueAt { dev := { wDev with syncs := [(3, { type := .timedBarrier, rearm := true, due := some 4000 })] } } 0).sync 3).rearm = true := by decide

/-- A module whose time base follows port 2. -/
def wAlign (a : AlignState) (step : Bool) : State :=
  { dev := { wDev with now := 50000000, time := { running := true, enable := true, allowStep := step, alignState := a }, ports := [(2, { pstate := .up })] } }

theorem wit_time_base : State.reset.dev.time.running = false ∧ State.reset.dev.modState ≠ .reset ∧ ((wAlign .aligned false).dueAt 0).someSholoUp = true ∧ ((wAlign .aligned false).dueAt 0).time.enable = true
    ∧ ((wAlign .aligned false).dueAt 0).alignTakes 2 1 = true ∧ ((wAlign .aligned false).dueAt 0).alignSteps 2 1 (-2000000) = false
    ∧ ((wAlign .aligned true).dueAt 0).alignSteps 2 1 (-2000000) = true ∧ ((wAlign .acquiring true).dueAt 0).time.source = false
    ∧ ((wAlign .acquiring true).dueAt 0).time.lastMessage + ((wAlign .acquiring true).dueAt 0).time.eightIntervals ≤ ((wAlign .acquiring true).dueAt 0).now := by decide

theorem wit_register_write : (0 : Nat) < 0x4000 ∧ (wUp.dueAt 0).modState ≠ .reset ∧ inSyncWindow 0 0 = false ∧ (wUp.dueAt 0).barUnit 0 0 = some .root ∧ (wUp.dueAt 0).unitActs .root = true ∧ (3 : Nat) < 4 := by decide

theorem wit_register_read : (wUp.dueAt 0).modState ≠ .reset ∧ (wUp.dueAt 0).unitActs .launch = true ∧ (wUp.dueAt 0).unitActs .timeBase = true := by decide

/-- A module brought up with writes waiting for a context page. -/
def wEmu (n : Nat) (failed : Nat) : State := { dev := { wDev with emu := [((UnitId.ctx 0).page, { writes := List.replicate n { fn := 0, off := 0x06C, data := 0 }, failed })], ctxs := [(0, { cstate := .idle })] } }

theorem wit_emulated : ((wEmu 1 0).dueAt 0).modState ≠ .reset ∧ inSyncWindow 0 (UnitId.ctx 0).page = false ∧ ((wEmu 1 0).dueAt 0).barUnit 0 (UnitId.ctx 0).page = some (.ctx 0)
    ∧ (UnitId.ctx 0).emulated = true ∧ ((wEmu 1 0).dueAt 0).notServing (.ctx 0) = false ∧ ((wEmu 1 0).dueAt 0).serverHalted (.ctx 0) = false ∧ (((wEmu 1 0).dueAt 0).emuPage (.ctx 0)).writes.length < 16
    ∧ 16 ≤ (((wEmu 16 0).dueAt 0).emuPage (.ctx 0)).writes.length ∧ (((wEmu 16 0).dueAt 0).emuPage (.ctx 0)).failed = cOk ∧ ((wEmu 0 0).dueAt 0).emuWaiting (.ctx 0) = [] ∧ ((wEmu 0 0).dueAt 0).notServing (.ctx 0) = false
    ∧ emuFirst (.ctx 0) (((wEmu 1 0).dueAt 0).emuWaiting (.ctx 0)) = .ctx 0 ∧ (((wEmu 1 0).dueAt 0).emuWaiting (.ctx 0)).filter (fun x => decide (x.2 ≤ 0)) = [(.ctx 0, 0)]
    ∧ (((wEmu 1 0).dueAt 0).emuPage (.ctx 0)).writes = [{ fn := 0, off := 0x06C, data := 0 }] := by decide

/-- A module brought up whose physical function reaches the share of L0. -/
def wBar2 : State := { dev := { wDev with views := [(0, { bar2Base := 0x100000000000 })] } }

theorem wit_bar2 : (wBar2.dueAt 0).inBar2 0 0x40 8 = true ∧ (wBar2.dueAt 0).bar2Code 0 (((wBar2.dueAt 0).view 0).bar2Base + 0x40) 8 true = none ∧ Memory.wf (wBar2.dueAt 0).devMem = true
    ∧ (wBar2.dueAt 0).jobs = [] ∧ (wBar2.dueAt 0).bar2Code 0 (((wBar2.dueAt 0).view 0).bar2Base + 0x40) 8 false = none ∧ (wBar2.dueAt 0).poisonedIn (((wBar2.dueAt 0).view 0).bar2Base + 0x40) 8 = []
    ∧ (wUp.dueAt 0).inBar2 0 0 8 = true ∧ (wUp.dueAt 0).bar2Code 0 (((wUp.dueAt 0).view 0).bar2Base + 0) 8 true = some cOutOfRange := by decide

/-- A module in a state whose ring 0 has one command record at its head, in host memory at 0x1000. -/
def wRec (m : ModState) (d : Dev) (w : Nat) : State :=
  { dev := { d with modState := m, hostMem := memWriteN [] 0x1000 (leBytes 128 w), rings := [(0, { enable := true, sqBase := 0x1000, sqTail := 1 })] } }

/-- The record that stands there. -/
def wCmd (w : Nat) : Cmd := { ring := 0, fn := 0, index := 0, word := w }

/-- A record's header: opcode, VERSION 1, TARGET_PAGE, CONTEXT and JOB_ID. -/
def wHead (op target ctx job : Nat) : Nat := op + 2 ^ 24 + 2 ^ 64 * target + 2 ^ 96 * ctx + 2 ^ 128 * job

/-- Whether the record at the head of ring 0 passes steps 1 to 7 under a row of Table 2-11 (the hypothesis that the statements of ring commands share). -/
def wPasses (s : State) (w : Nat) (sp : CmdSpec) (cond : Option Nat) : Bool :=
  s.dev.headCmd 0 == some (wCmd w) && (wCmd w).opcode == sp.opcode && (((s.dev.advanceHead 0).preCheck (wCmd w) sp cond).2).isNone
  && (match sp.proc with
      | none => true
      | some p => !s.dev.procBusy p)
  && (!sp.admin || ((((s.dev.advanceHead 0).preCheck (wCmd w) sp cond).1).keySlot (wCmd w).keySlot).admin)

/-- A record that passes is admitted: the shared hypothesis holds of it. -/
theorem wAdmits {s : State} {w : Nat} {sp : CmdSpec} {cond : Option Nat} (h : wPasses s w sp cond = true) (ht : s.dueAt 0 = s.dev) :
    (s.dueAt 0).admits 0 (wCmd w) sp cond := by
  rw [ht]
  simp only [wPasses, Bool.and_eq_true, beq_iff_eq, Bool.or_eq_true, Bool.not_eq_true'] at h
  obtain ⟨⟨⟨⟨h1, h2⟩, h3⟩, h4⟩, h5⟩ := h
  refine ⟨h1, h2, ?_, ?_, ?_⟩
  · have : ((s.dev.advanceHead 0).preCheck (wCmd w) sp cond).2 = none := by simpa using h3
    rw [← this]
  · intro p hp; rw [hp] at h4; simpa using h4
  · intro ha; rw [ha] at h5; simpa [Dev.taken] using h5

theorem wit_nop : wPasses (wRec .ready wDev (wHead 1 0 0x7F 0)) (wHead 1 0 0x7F 0) specNop none = true := by decide +kernel

/-- A signed record: AUTH, key slot 0 and counter 1, with the tag of the slot's key. -/
def wSign (d : Dev) (w : Nat) : Nat :=
  let w := w + 2 ^ 16 + 2 ^ (8 * 0x68)
  w + 2 ^ (8 * 0x70) * d.sec.macOf 0 (d.keySlot 0) (wCmd w)

theorem wit_attach : wPasses (wRec .ready wDev (wHead 0x60 0 0x7F 0)) (wHead 0x60 0 0x7F 0) specAttach none = true ∧ leaseMs (wCmd (wHead 0x60 0 0x7F 0)) = some 500 := by decide +kernel
theorem wit_attach_range : wPasses (wRec .ready wDev (wHead 0x60 0 0x7F 0 + 2 ^ 192 * 99)) (wHead 0x60 0 0x7F 0 + 2 ^ 192 * 99) specAttach none = true ∧ leaseMs (wCmd (wHead 0x60 0 0x7F 0 + 2 ^ 192 * 99)) = none
    ∧ leaseMs (wCmd (2 ^ 192 * 100)) = some 100 ∧ leaseMs (wCmd (2 ^ 192 * 10000)) = some 10000 ∧ leaseMs (wCmd (2 ^ 192 * 10001)) = none := by decide +kernel
theorem wit_lease_renew : wPasses (wRec .frost wDev (wHead 0x61 0 0x7F 0)) (wHead 0x61 0 0x7F 0) specLeaseRenew ((wRec .frost wDev (wHead 0x61 0 0x7F 0)).dev.renewCond (wCmd (wHead 0x61 0 0x7F 0))) = true
    ∧ (wRec .frost wDev (wHead 0x61 0 0x7F 0)).dev.hostStopped = false := by decide +kernel
theorem wit_detach : wPasses (wRec .frost wDev (wHead 0x64 0 0x7F 0)) (wHead 0x64 0 0x7F 0) specDetach none = true ∧ (wRec .frost wDev (wHead 0x64 0 0x7F 0)).dev.anyLive = false := by decide +kernel
theorem wit_takeover :
    let w := wSign wDev (wHead 0x62 0 0x7F 0)
    wPasses (wRec .orphaned wDev w) w specTakeover none = true ∧ leaseMs (wCmd w) = some 500 := by decide +kernel

theorem wit_orphan_resolve :
    let d : Dev := { wDev with lease := { status := .takenOver, takeRing := some 0 } }
    let w := wHead 0x63 0 0x7F 0
    wPasses (wRec .orphaned d w) w specOrphanResolve ((wRec .orphaned d w).dev.resolveCond (wCmd w)) = true ∧ (wCmd w).fld 0x18 0 0 = 0 ∧ (wCmd (w + 2 ^ 192)).fld 0x18 0 0 = 1
    ∧ wPasses (wRec .orphaned d (w + 2 ^ 192)) (w + 2 ^ 192) specOrphanResolve ((wRec .orphaned d (w + 2 ^ 192)).dev.resolveCond (wCmd (w + 2 ^ 192))) = true := by decide +kernel

/-- A module whose lease has a deadline and an interval of 1 ms, set at 0. -/
def wLease (m : ModState) (st : LeaseStatus) (deadline now : Nat) : State := { dev := { wDev with modState := m, now, lease := { status := st, deadline, interval := 1 } } }

theorem wit_lease_times : (wLease .frost .held 1000000 700000).dev.lease.setAt + 750000 * (wLease .frost .held 1000000 700000).dev.lease.interval ≤ max (wLease .frost .held 1000000 700000).dev.now 750000
    ∧ max (wLease .frost .held 1000000 700000).dev.now 750000 ≤ (wLease .frost .held 1000000 700000).dev.lease.deadline ∧ (wLease .frost .held 1000000 700000).dev.lease.warned = false ∧ (wLease .frost .held 1000000 700000).dev.sec.unlock = .none
    ∧ (wLease .frost .held 1000000 700000).dev.lease.deadline < max (wLease .frost .held 1000000 700000).dev.now 1000001 ∧ (wLease .orphaned .takenOver 1000000 700000).dev.lease.deadline < 1000001
    ∧ max (wLease .frost .held 1000000 700000).dev.now 749999 < 0 + 750000 * 1 := by decide

/-- A module with one POWER_STATE waiting, checked at 1,000. -/
def wPowerOp (m : ModState) (down : Bool) (now : Nat) : State := { dev := { wDev with modState := m, now, pwr := { powerOps := [{ cmd := wCmd 0, toSnowpack := down, check := 1000 }] } } }

theorem wit_power_state :
    let w := wHead 0x43 0 0x7F 0
    wPasses (wRec .snowpack wDev w) w specPowerState ((wRec .snowpack wDev w).dev.powerStateCond (wCmd w)) = true ∧ (wCmd w).fld 0x18 0 0 = 0
    ∧ wPasses (wRec .frost wDev (w + 2 ^ 192)) (w + 2 ^ 192) specPowerState ((wRec .frost wDev (w + 2 ^ 192)).dev.powerStateCond (wCmd (w + 2 ^ 192))) = true ∧ (wCmd (w + 2 ^ 192)).fld 0x18 0 0 = 1 := by decide +kernel
theorem wit_snowpack : ((wPowerOp .frost true 2000).dueAt 0).powerCore = true ∧ ((wPowerOp .frost true 2000).dueAt 0).modState = .frost ∧ ((wPowerOp .snowpack false 120001000).dueAt 0).powerCore = true ∧ ((wPowerOp .frost true 2000).dueAt 0).pwr.powerOps = [{ cmd := wCmd 0, toSnowpack := true, check := 1000 }]
    ∧ ((wPowerOp .snowpack false 120001000).dueAt 0).modState = .snowpack ∧ 1000 + 120000000 ≤ ((wPowerOp .snowpack false 120001000).dueAt 0).now
    ∧ ((wPowerOp .snowpack false 120000999).dueAt 0).now < 1000 + 120000000 := by decide

/-- A plan of 192 bytes on L0: one SRAM tensor of 64 bytes and one step of one tidy core. -/
def wPlan : List Byte :=
  leBytes 0x28 (1 + 2 ^ 32 + 2 ^ 64 + 2 ^ 80 + 2 ^ (8 * 0x10) * 0x80 + 2 ^ (8 * 0x18) * 0xA0 + 2 ^ (8 * 0x20) * 0x40)
    ++ leBytes 0x58 0 ++ leBytes 0x20 (64 * 2 ^ 64) ++ leBytes 0x20 0x100

/-- A FROST module with context 0 and a plan at host address 0x4000. -/
def wJobs (js : Tab Job) (w : Nat) : State :=
  let s := wRec .frost { wDev with ctxs := [(0, { cstate := .idle })], jobs := js } w
  { s with dev := { s.dev with hostMem := memWriteN s.dev.hostMem 0x4000 (wPlan) } }

/-- A job of context 0 in a state. -/
def wJob (js : JobState) : Job := { ctx := 0, jstate := js, plan := wPlan, cores := 1 }

theorem wit_job_define :
    let w := wHead 0x20 0 0 0 + 2 ^ 192 * 0x4000 + 2 ^ 256 * 192
    wPasses (wJobs [] w) w specJobDefine ((wJobs [] w).dev.ctxCond (wCmd w)) = true ∧ (wCmd w).qw 0x18 % 64 = 0 ∧ 128 ≤ (wCmd w).dw 0x20
    ∧ planOk (memReadN (wJobs [] w).dev.hostMem ((wCmd w).qw 0x18) ((wCmd w).dw 0x20)) = true ∧ planCores (wPlan) < 2 ^ (wJobs [] w).dev.nCores
    ∧ planUnits (wPlan) ≤ (wJobs [] w).dev.planFree := by decide +kernel
theorem wit_job_place :
    let w := wHead 0x21 0 0 1 + 2 ^ 192 * 0x8000
    wPasses (wJobs [(1, wJob .defined)] w) w specJobPlace ((wJobs [(1, wJob .defined)] w).dev.jobCond (wCmd w) (fun js => js == .defined)) = true
    ∧ ((wJobs [(1, wJob .defined)] w).dev.placeJob 1 (wJob .defined)).toOption.isSome = true ∧ (wCmd w).qw 0x18 % 64 = 0
    ∧ ((wJobs [(1, wJob .defined)] w).dev.placeJob 1 { wJob .defined with plan := [] }).toOption.isNone = true := by decide +kernel
theorem wit_job_abort :
    let w := wHead 0x23 0 0 1
    wPasses (wJobs [(1, wJob .placed)] w) w specJobAbort ((wJobs [(1, wJob .placed)] w).dev.jobCond (wCmd w) (fun js => !js.over?)) = true := by decide +kernel
theorem wit_job_release :
    let w := wHead 0x24 0 0 1
    wPasses (wJobs [(1, wJob .done)] w) w specJobRelease ((wJobs [(1, wJob .done)] w).dev.jobCond (wCmd w) JobState.over?) = true := by decide +kernel

theorem wit_job_queue :
    let w := wHead 0x22 0 0 1
    let s := wJobs [(1, wJob .placed)] w
    wPasses s w specJobQueue (s.dev.jobQueueCond (wCmd w)) = true ∧ s.dev.jobs.get? 1 = some (wJob .placed) ∧ s.dev.queueCheck (wCmd w) = none ∧ (s.dev.queueEntry (wCmd w)).waiting = false
    ∧ s.dev.queueCheck (wCmd (w + 2 ^ 256)) = some cBadFormat := by decide +kernel

/-- A FROST module with job 1 in a state and its launch entry, S determined at 10,000. -/
def wLaunch (js : JobState) (now : Nat) (sent : Bool) : State :=
  { dev := { wDev with modState := .frost, now, jobs := [(1, { wJob js with faultCode := some 0x50 })], launches := [{ job := 1, cond := .atTime, waitSync := 0, waitCount := 0, launchTime := 10000, checkTime := 0, firing := 0, waiting := false, condTime := none, fireTime := 0, freeAt := some 0, c := some 0, sent }] } }

theorem wit_launch : (((wLaunch .queued 8000 false).dueAt 0).entryOf 1).isSome = true ∧ (((wLaunch .queued 8000 false).dueAt 0).entryOf 1).bind ((wLaunch .queued 8000 false).dueAt 0).entryS = some 10000
    ∧ ((wLaunch .queued 8000 false).dueAt 0).releases = true ∧ 10000 ≤ ((wLaunch .queued 8000 false).dueAt 0).now + 2000 ∧ ((wLaunch .queued 7999 false).dueAt 0).now + 2000 < 10000
    ∧ (((wLaunch .queued 10000 true).dueAt 0).entryOf 1).map Launch.sent = some true ∧ ((wLaunch .queued 10000 true).dueAt 0).jobsRun = true ∧ ((wLaunch .queued 9999 true).dueAt 0).now < 10000 := by decide
theorem wit_job_done : ((wLaunch .draining 20000 true).dueAt 0).jobs.get? 1 = some { wJob .draining with faultCode := some 0x50 } ∧ ((wLaunch .draining 20000 true).dueAt 0).jobsRun = true
    ∧ ((wLaunch .draining 20000 true).dueAt 0).coresDrained (wJob .draining).cores = true ∧ (wJob .draining).slateBind = [] ∧ (wJob .draining).doneSync = none := by decide +kernel

theorem wit_ctx_create : wPasses (wRec .frost wDev (wHead 0x10 0 0x7F 0)) (wHead 0x10 0 0x7F 0) specCtxCreate none = true ∧ (upFrom 0 64).find? (fun n => (wDev.ctx n).cstate == .free) = some 0
    ∧ (upFrom 0 64).find? (fun n => (({ wDev with ctxs := (upFrom 0 64).map (fun n => (n, { cstate := .idle })) } : Dev).ctx n).cstate == .free) = none := by decide +kernel
theorem wit_ctx_destroy : wPasses (wJobs [] (wHead 0x11 0 0 0)) (wHead 0x11 0 0 0) specCtxDestroy ((wJobs [] (wHead 0x11 0 0 0)).dev.ctxJobsCond (wCmd (wHead 0x11 0 0 0)) JobState.live?) = true
    ∧ (wJobs [] (wHead 0x11 0 0 0)).dev.destroyWaits 0 = false := by decide +kernel

theorem wit_ctx_save :
    let w := wHead 0x12 0 0 0 + 2 ^ 192 * 0x10000 + 2 ^ 256 * 0x2000000 + 2 ^ 256 * 2 ^ 32
    let s := wJobs [] w
    wPasses s w specCtxSave (s.dev.ctxJobsCond (wCmd w) JobState.running?) = true ∧ saveAddr (wCmd w) % 4096 = 0 ∧ (maskCores (saveCores (wCmd w))) = [0] ∧ saveShare (wCmd w) = 0
    ∧ s.dev.offline (.core 0) = false ∧ imageSize (s.dev.saveLengths (wCmd w)) ≤ saveLimit (wCmd w) := by decide +kernel
/-- An image without sections, at host address 0x10000. -/
def wImage : List Host.Cell := [(0x10000, 1), (0x10004, 16), (0x10006, 8), (0x1000C, 136), (0x10014, 1), (0x10038, 48), (0x10039, 3), (0x10040, 1), (0x10048, 64), (0x10049, 16)] ++ memWriteN [] 0x11000 (leBytes 48 0x119c1e96cfb82c669b640c3fcd009064ae1c4cadd075645b0ba45e5a1df176197d8cf9da6ad71646f4b1d434a5c6ae1e)

/-- A module whose CTX_RESTORE of an image without sections, at host address 0x10000, is at its head. -/
def wRestore : State :=
  let s := wJobs [] (wHead 0x13 0 0 0 + 2 ^ 192 * 0x10000 + 2 ^ 256 * 4160)
  { s with dev := { s.dev with hostMem := s.dev.hostMem.filter (fun e => decide (e.1 < 0x2000)) ++ wImage } }
theorem wit_ctx_restore :
    let w := wHead 0x13 0 0 0 + 2 ^ 192 * 0x10000 + 2 ^ 256 * 4160
    wPasses wRestore w specCtxRestore (wRestore.dev.ctxJobsCond (wCmd w) (fun js => !js.over?)) = true
    ∧ (wRestore.dev.mapGroups 0 (regionGroups ((wRestore.dev.imgRegions (wCmd w)).map (fun x => wRestore.dev.img (wCmd w) x.offset 32)))).isSome = true := by decide +kernel
set_option maxRecDepth 100000 in
theorem wit_ctx_restore_check : wRestore.dev.restoreCheck (wCmd (wHead 0x13 0 0 0 + 2 ^ 192 * 0x10000 + 2 ^ 256 * 4160)) = none := by decide +kernel
theorem wit_ctx_done :
    let o : CtxOp := { ctx := 0, cmd := wCmd (2 ^ 256 * 0x2000000), cores := 1, restore := false }
    let d : Dev := { wDev with modState := .active, ctxs := [(0, { cstate := .saving })], ctxOps := [o, { o with ctx := 1, restore := true }] }
    d.ctxOpOf 0 false = some o ∧ d.ctxOpReady o = true ∧ imageSize (d.saveLengths o.cmd) ≤ saveLimit o.cmd ∧ (d.ctxOpOf 1 true).map (fun o => d.ctxOpReady o) = some true := by decide +kernel

/-- A module with the entropy service in a state. -/
def wEnt (sv : EntService) : Dev := { wDev with ent := { service := sv, gen := some {}, src0 := { sstate := .active, settled := true, poolLen := 640 }, src1 := { sstate := .standby, settled := true, poolLen := 640 } } }

theorem wit_seed_request :
    let w := wHead 0x30 0 0x7F 0 + 2 ^ 192 * 0x2000
    let s := wRec .frost (wEnt .ready) w
    wPasses s w specSeedRequest none = true ∧ (wCmd w).qw 0x18 % 32 = 0 ∧ s.dev.ent.queue = [] ∧ s.dev.entPrepare = s.dev ∧ (wEnt .fault).ent.serviceCode = some cEntFault := by decide +kernel
theorem wit_entropy_read :
    let w := wHead 0x31 0 0x7F 0 + 2 ^ 192 * 64 + 2 ^ 256 * 0x2000
    wPasses (wRec .frost (wEnt .ready) w) w specEntropyRead none = true ∧ wPasses (wRec .frost (wEnt .test) w) w specEntropyRead none = true
    ∧ (wCmd w).fld 0x18 6 0 = 64 ∧ (wCmd w).fld 0x18 9 8 = 0 ∧ (wCmd w).fld 0x18 7 7 = 0 ∧ (wCmd w).qw 0x20 = 0x2000 ∧ (wEnt .notReady).ent.serviceCode = some cEntNotReady := by decide +kernel

theorem wit_generator :
    let d : Dev := { wEnt .notReady with ent := { (wEnt .notReady).ent with src0 := { sstate := .standby, poolLen := 512 } } }
    let q : EntReq := { kind := .read, cmd := wCmd 0, len := 8, wait := false, dest := 0x2000 }
    let e : Dev := { wEnt .ready with ent := { (wEnt .ready).ent with queue := [q], genCount := 65535 } }
    d.ent.service = .notReady ∧ d.ent.src0.sstate = .standby ∧ 512 ≤ d.ent.src0.poolLen ∧ e.entPrepare = e ∧ e.ent.queue = [q] ∧ 384 ≤ (e.ent.src e.ent.activeSrc).poolLen
    ∧ ({ e.ent with genCount := 65536 } : Entropy).genCount = 65536 ∧ e.ent.gen.isSome = true ∧ e.ent.renew = false := by decide +kernel

theorem wit_sources :
    (wDev.ent.src 1).sstate = .startup ∧ (wDev.ent.src 1).settled = false ∧ (rctRun none 0 (samplesOf (List.replicate 128 0x55))).2.2 = false ∧ aptFails (samplesOf (List.replicate 128 0x55)) = false
    ∧ ((wEnt .ready).ent.src 0).settled = true ∧ ((wEnt .ready).ent.src 0).sstate = .active ∧ ((wEnt .ready).ent.src 0).windowFailed = false ∧ ((wEnt .ready).ent.src 1).sstate = .standby ∧ ((wEnt .ready).ent.src 1).settled = true
    ∧ (List.replicate 128 (0x55 : Byte)).length = 128 ∧ ({ sstate := .failed, settled := true, windowFailed := true } : NoiseSrc).windowFailed = true := by decide +kernel

theorem wit_entropy_page : (wUp.dueAt 0).hostOpen .entropy = true ∧ bit 1 0 = true ∧ (wUp.dueAt 0).ent.retestFrom ≤ (wUp.dueAt 0).sincePower ∧ (wUp.dueAt 0).sec.life = 0 ∧ ({ (wUp.dueAt 0).sec with lifeFuses := 7 } : Security).life ≠ 0
    ∧ ({ wEnt .ready with ent := { retestFrom := 10000000000 } } : Dev).sincePower < 10000000000 ∧ (wEnt .test).ent.service = .test := by decide +kernel

theorem wit_set_cap :
    let w := wSign wDev (wHead 0x40 0 0x7F 0 + 2 ^ 192 * (500 + 2 ^ 16 * 0x24))
    wPasses (wRec .frost wDev w) w specSetCap none = true ∧ prioOk ((wCmd w).fld 0x18 21 16) = true ∧ (wCmd w).fld 0x18 10 0 = 500 ∧ wDev.pwr.capOps = [] ∧ 500 ≤ wDev.pwr.platform := by decide +kernel
theorem wit_set_platform_limit :
    let w := wSign wDev (wHead 0x41 0 0x7F 0 + 2 ^ 192 * 380)
    wPasses (wRec .frost wDev w) w specSetPlatformLimit none = true ∧ (wCmd w).fld 0x18 10 0 = 380 ∧ (wCmd w).fld 0x18 21 16 = 0 ∧ (wCmd w).qw 0x20 = 0 := by decide +kernel
theorem wit_set_ice_mode :
    let w := wHead 0x42 0 0x7F 0 + 2 ^ 192 * (1 + 2 ^ 8 * 15)
    wPasses (wRec .frost wDev w) w specSetIceMode none = true ∧ (wCmd w).fld 0x18 12 8 ≤ wDev.pwr.high ∧ (wCmd w).fld 0x18 0 0 = 1 := by decide +kernel
/-- A module with a cap change whose S is 7,000, and an Ice-mode change. -/
def wCap (now : Nat) (started enable : Bool) : Dev :=
  { wDev with modState := .active, now, pwr := { capOps := [{ cmd := wCmd 0, platform := false, watts := 400, prio := 0x24, ownS := some 7000, started }], iceOps := [{ cmd := wCmd 0, enable, point := 3, s := 7000 }] } }
theorem wit_cap_effect : ((wCap 7000 false true).pwr.capOps.head?.bind CapOp.s) = some 7000 ∧ (wCap 7000 false true).powerCore = true ∧ 7000 ≤ (wCap 7000 false true).now ∧ (wCap 6999 false false).now < 7000
    ∧ 7000 + 10000000 ≤ (wCap 10007000 true true).now ∧ (wCap 10006999 true true).now < 7000 + 10000000 ∧ (wCap 7000 false false).modState = .active ∧ nextIce (wCap 7000 false true).pwr.iceOps = some { cmd := wCmd 0, enable := true, point := 3, s := 7000 } ∧ ({ (wCap 7000 false false) with pwr := { (wCap 7000 false false).pwr with ice := true } } : Dev).pwr.ice = true := by decide

theorem wit_power :
    let p : Power := { samples := [{ time := 0, e := 0, p := 0, compute := 0, memory := 0, links := 0 }], smuAbsent := true, disagree := 500, agree := 10000, overSince := some 0, emergencySince := some 0, clearSince := some 5 }
    let y : Dev := { wDev with smu := { wDev.smu with powered := true, record := withCrc 144 (2 ^ 32 + 2 ^ 16 * 3000) } }
    let w := windowOf (y.smu.record ^^^ 0) 0
    let x : Temperatures := { clusters := [40, 40, 40, 40], hub := 40, stackTemps := List.replicate 32 40 }
    p.samples.length = 1 ∧ wDev.powerCore = true ∧ y.smu.powered = true ∧ w.crcOk = true ∧ w.valid = true ∧ p.smuSeq = none ∧ p.overrun = false ∧ p.distrust = false ∧ tripSource x = none ∧ ({ wDev with pwr := p } : Dev).powerCore = true
    ∧ ((wDev.keepTemps x).trackHold).powerCore = true ∧ (0 : Nat) + 100000 ≤ 100000 ∧ wDev.pwr.high = 15 := by decide +kernel

theorem wit_metering :
    let u : Smu := { frames := 10, weights := [(0, 5), (3, 7)] }
    wDev.smu.powered = true ∧ wDev.smu.regs.sealCount ≠ 0 ∧ wDev.smu.changes = [] ∧ u.missed = false ∧ 10 ≤ u.frames ∧ 0 < (u.weights.map (fun e => e.2)).sum ∧ (u.weights.map (fun e => e.1)).Nodup
    ∧ ({ u with missed := true } : Smu).missed = true ∧ wDev.smu.served = none ∧ wDev.smu.asks = [] ∧ divideEnergy 100 u.weights = [(0, 42), (3, 58)] := by decide +kernel
theorem wit_smu_account :
    let s := wJobs [] 0
    let a := wSign s.dev (wHead 0x90 0 0 0 + 2 ^ 192 * (3 * 256))
    wPasses (wJobs [] a) a specSmuAccount none = true ∧ (wJobs [] a).dev.smuUp = true ∧ (wCmd a).fld 0x18 1 0 = 0 ∧ (wCmd a).qw 0x20 = 0 ∧ ((wJobs [] a).dev.ctx (wCmd a).ctx).cstate = .idle := by decide +kernel
theorem wit_smu_label :
    let a := wSign wDev (wHead 0x90 0 0x7F 0 + 2 ^ 192 * (1 + 3 * 256))
    wPasses (wRec .frost wDev a) a specSmuAccount none = true ∧ (wCmd a).fld 0x18 1 0 = 1 ∧ ({ wDev with smu := { powered := false } } : Dev).smuUp = false := by decide +kernel

/-- A module whose SMU has a reading of its page in progress, or an address for one. -/
def wReading (r : Option (Nat × Nat)) (powered : Bool) : Dev := { wDev with smu := { readAddr := 0x2000, reading := r, powered } }

theorem wit_smu_channel : (wReading none true).smu.powered = true ∧ (wReading none true).smu.changes = [] ∧ (wReading none true).pins.sealN = false ∧ (wReading none true).notServing .smu = false
    ∧ (wReading none true).serverHalted .smu = false ∧ (wReading none true).emuWaiting .smu = [] ∧ (wReading none true).smuUp = true ∧ (wReading none true).smu.served = none ∧ (wReading none true).smu.asks = []
    ∧ ({ ask := { chan := 1, ask := .pubkey }, reply := .pubkey 0, left := 1 } : SmuServed).ask.page = false ∧ ({ (wReading (some (3, 7)) true).smu with fetched := some [] } : Smu).fetched = some [] ∧ bit 0x103 8 = true ∧ (wReading none true).smu.readAddr ≠ 0
    ∧ (wReading (some (3, 7)) true).smuUp = true ∧ (wReading (some (3, 7)) true).hostStopped = false ∧ (wReading (some (3, 7)) false).smuUp = false ∧ (wReading none false).smu.nv.log.length < 3839
    ∧ ({ sealN := true } : Pins).sealN = true ∧ (1 : Nat) ≤ (wReading none true).smu.regs.version := by decide +kernel

/-- A module with an activation of processor 2 in a phase. -/
def wFw (ph : FwPhase) (now : Nat) : Dev := { wDev with now, procs := [(2, { other := some { version := 9, key := 0 }, staged := some 9, op := some { cmd := wCmd 0, phase := ph, s := 7000, since := 100 } })] }

theorem wit_fw_stage :
    let w := wHead 0x50 0 0x7F 0 + 2 ^ 192 * (2 + 2 ^ 32 * 4096) + 2 ^ 256 * 0x20000
    wPasses (wRec .frost wDev w) w specFwStage none = true ∧ wDev.fwIdle (wCmd w) = true ∧ fwProc (wCmd w) = 2 ∧ (wCmd w).dw 0x1C = 4096 ∧ (wCmd w).qw 0x20 % 4096 = 0 := by decide +kernel
theorem wit_fw_activate :
    let d : Dev := { wDev with procs := [(2, { staged := some 9 })] }
    let w := wSign d (wHead 0x51 0 0x7F 0 + 2 ^ 192 * 2)
    wPasses (wRec .frost d w) w specFwActivate (if fwProc (wCmd w) == 7 || (d.fwIdle (wCmd w) && (d.proc (fwProc (wCmd w))).staged.isSome) then none else some cIllegal) = true ∧ (wCmd w).dw 0x1C = 0 ∧ (wCmd w).qw 0x20 = 0 := by decide +kernel
theorem wit_fw_phases : ((wFw .staging 5000).proc 2).op = some { cmd := wCmd 0, phase := .staging, s := 7000, since := 100 } ∧ ((wFw .staging 5000).proc 0).restarting = false
    ∧ (wFw .waiting 7000).activationBlocked 2 7000 = false ∧ (wFw .waiting 7000).pwr.emergency = false ∧ ({ wFw .waiting 7000 with pwr := { emergencySince := some 0 } } : Dev).pwr.emergency = true
    ∧ (wFw .restarting 5000).bootable 2 { version := 9, key := 0 } = true ∧ (wFw .restarting 5000).now ≤ 100 + restartTime 2 ∧ 100 + restartTime 2 < (wFw .restarting 200000000).now ∧ 100 + 60000000000 ≤ (wFw .deferred 60000000100).now := by decide +kernel

/-- A module with the host log on and one record to copy, and with a poisoned line. -/
def wLog : Dev := { wDev with log := { hostLog2 := 8, hostBase := 0x8000, records := [{ seq := 1, time := 0, proc := 0, level := 0, point := 0, code := 0, data := 0 }] }, poison := [5] }

theorem wit_log : wLog.flushCe = wLog ∧ wLog.log.hostLog2 ≠ 0 ∧ wLog.hostStopped = false ∧ (wLog.log.records.find? (fun r => decide (wLog.log.nextCopy ≤ r.seq))).isSome = true ∧ wLog.notServing .sched = false
    ∧ wLog.serverHalted .sched = false ∧ wLog.emuWaiting .sched = [] ∧ wLog.detects (UnitId.core 0).page = true ∧ corrects 1 = true ∧ wLog.flt.ce = [] ∧ wLog.detects UnitId.hostIf.page = true
    ∧ wLog.detects (wLog.homePage 320) = true ∧ wLog.linePoisoned (lineOf 320) = true ∧ wLog.linePoisoned (lineOf 0) = false ∧ (UnitId.core 0).page ≠ UnitId.hostIf.page := by decide +kernel

/-- A dump, and a module that holds it or a fatal error. -/
def wDump : Dump := { cause := 2, prev := 3, time := 0, minimal := true, mirrored := false, unpowered := false, laterFatals := 0, deviceId := 0, valid := 1, versions := [], sections := [], openKey := 0 }
def wFatal (m : ModState) (now : Nat) : Dev := { wDev with modState := m, now, flt := { fatal := some { cause := 2, time := 0, prev := 3, later := false, record := 0 } } }
def wHeld (w : Nat) : State := wRec .faulted { wDev with flt := { dump := some wDump } } w

theorem wit_fatal : wDev.modState ≠ .reset ∧ wDev.flt.fatal = none ∧ wDev.flt.dump = none ∧ ((wFatal .dumping 5).flt.fatal.map (·.later)) = some false ∧ ((wFatal .dumping 5).proc 0).halted = false
    ∧ 0 + 2000000000 ≤ (wFatal .dumping 2000000000).deviceTime := by decide +kernel
theorem wit_dump_read :
    let w := wHead 0xC0 0 0x7F 0 + 2 ^ 192 * (2 ^ 32 * 4096) + 2 ^ 256 * 0x20000
    wPasses (wHeld w) w specDumpRead (wHeld w).dev.dumpCond = true ∧ drOffset (wCmd w) = 0 ∧ drBytes (wCmd w) = 4096 ∧ drDest (wCmd w) % 4096 = 0 ∧ 0 < wDump.size ∧ (wHeld w).dev.hostStopped = false := by decide +kernel
theorem wit_dump_release : wPasses (wHeld (wHead 0xC1 0 0x7F 0)) (wHead 0xC1 0 0x7F 0) specDumpRelease (wHeld (wHead 0xC1 0 0x7F 0)).dev.dumpCond = true := by decide +kernel

theorem wit_slots :
    let g : Geometry := { wDev.geom with retired := 1 }
    let busy : Dev := { wDev with cores := [(0, { job := some 1 })], jobs := [(1, wJob .running)] }
    bit wDev.geom.retired 0 = false ∧ 8 ≤ wDev.boot.stage ∧ wDev.mayRetire 0 = true ∧ wDev.coreInSlot 0 = some 0 ∧ wDev.coreHolder 0 = none ∧ busy.coreHolder 0 = some 0 ∧ busy.coreInSlot 0 = some 0
    ∧ bit wDev.geom.pendingRetire 0 = false ∧ 0 < wDev.nCores ∧ bit g.retired (g.slots.getD 0 20) = true ∧ g.spareFree (g.slots.getD 0 20 / 5) = true ∧ 0 < g.slots.length := by decide +kernel
/-- A request of core 0 for a unit of page `target`, 5 ns old, and one that waits for stack 0. -/
def wReq (target : Nat) : NetRequest := { id := 1, target, requester := (UnitId.core 0).page, address := 0, bytes := 64, write := false, job := none, age := 5, passed := [], control := false, combines := 0 }
def wWaiter : NetReq := { id := 7, target := (UnitId.dram 0).page, targetEpoch := 1, requester := (UnitId.core 0).page, requesterEpoch := 1, address := 0, job := none, wants := [0] }
theorem wit_requests :
    let r := wReq (UnitId.router 0).page
    let w : Dev := { wDev with netReqs := [wWaiter], tracks := [(0, { waiting := [7] })], drams := [(0, { hstate := .active })] }
    let old : Dev := { wDev with now := 4, units := [((UnitId.router 0).page, { epoch := 2, prev := 1, changedAt := 3 })] }
    (wDev.viewPage 0 r.target).bind unitOf = some (.router 0) ∧ wDev.turnedAway (.router 0) r.requester (wDev.carried r).targetEpoch = none ∧ unitOf (wReq (UnitId.core 1).page).target = some (.core 1)
    ∧ wDev.turnedAway (.core 1) r.requester (wDev.carried (wReq (UnitId.core 1).page)).targetEpoch = none
    ∧ wDev.turnedAway (.dram 0) r.requester (wDev.carried (wReq (UnitId.dram 0).page)).targetEpoch = none
    ∧ (unitOf r.requester).any old.routerDown = false ∧ old.reachCode (.router 0) = none ∧ (old.carried r).targetEpoch ≠ old.epoch (UnitId.router 0).page
    ∧ (w.track 0).waiting = [7] ∧ w.canTrack (w.track 0) (trackSource wWaiter.requester) = true ∧ (w.drams.getD 0 {}).hstate = .active := by decide +kernel
theorem wit_replies :
    let x : NetReq := { wWaiter with wants := [], entries := [0], job := some 1, reply := some (cUnitReset, 1) }
    let d : Dev := { wDev with netReqs := [x], jobs := [(1, wJob .running)] }
    d.jobs.get? 1 = some (wJob .running) ∧ (wJob .running).jstate.running? = true ∧ x.requesterEpoch = d.epoch x.requester := by decide +kernel

/-- The store of a module with ADMIN keys in slots 0 and 1, in a life state's fuses. -/
def wSec (fuses : Nat) : Dev := { wDev with sec := { lifeFuses := fuses, slots := [(0, { sstate := .inUse, admin := true }), (1, { sstate := .inUse, admin := true })] } }

/-- A signed KEY_MANAGE with its operation, slot and wrapped block, at the head of ring 0. -/
def wKm (fuses op slot wrapped : Nat) : Nat := wSign (wSec fuses) (wHead 0x80 0 0x7F 0 + 2 ^ 192 * (op + 16 * slot) + 2 ^ 256 * wrapped)

/-- A key and a password block, wrapped under the first command's KEK of a zero key (SP 800-38F). -/
def wWrappedKey : Nat := 0x4c82ec6ebeb6d4a7e8287fd45d1424b53e20b05cd66d6460c2b404cb1ce4a7739736b59a03d9b6cf
def wWrappedPw : Nat := 0xf0a25af928e5b748156cef01627187541a75279862786bb686db7f3fc4b4f0f451d7b6fe802c3865

theorem wit_km_revoke : wPasses (wRec .frost (wSec 0) (wKm 0 2 1 0)) (wKm 0 2 1 0) specKeyManage none = true ∧ (wSec 0).kmBlock (wCmd (wKm 0 2 1 0)) = some [] ∧ (wSec 0).kmIllegal (wCmd (wKm 0 2 1 0)) = false ∧ kmOp (wCmd (wKm 0 2 1 0)) = 2 := by decide +kernel
theorem wit_km_clear : wPasses (wRec .frost (wSec 3) (wKm 3 4 0 0)) (wKm 3 4 0 0) specKeyManage none = true ∧ (wSec 3).kmBlock (wCmd (wKm 3 4 0 0)) = some [] ∧ (wSec 3).kmIllegal (wCmd (wKm 3 4 0 0)) = false ∧ kmOp (wCmd (wKm 3 4 0 0)) = 4 := by decide +kernel
set_option maxRecDepth 100000 in
theorem wit_km_install : wPasses (wRec .frost (wSec 0) (wKm 0 0 2 wWrappedKey)) (wKm 0 0 2 wWrappedKey) specKeyManage none = true ∧ (wSec 0).kmIllegal (wCmd (wKm 0 0 2 wWrappedKey)) = false ∧ kmOp (wCmd (wKm 0 0 2 wWrappedKey)) = 0
    ∧ ((wSec 0).kmBlock (wCmd (wKm 0 0 2 wWrappedKey))).isSome = true := by decide +kernel
set_option maxRecDepth 100000 in
theorem wit_km_replace : wPasses (wRec .frost (wSec 0) (wKm 0 1 1 wWrappedKey)) (wKm 0 1 1 wWrappedKey) specKeyManage none = true ∧ (wSec 0).kmIllegal (wCmd (wKm 0 1 1 wWrappedKey)) = false ∧ kmOp (wCmd (wKm 0 1 1 wWrappedKey)) = 1
    ∧ ((wSec 0).kmBlock (wCmd (wKm 0 1 1 wWrappedKey))).isSome = true := by decide +kernel
set_option maxRecDepth 100000 in
theorem wit_km_password : wPasses (wRec .frost (wSec 3) (wKm 3 3 0 wWrappedPw)) (wKm 3 3 0 wWrappedPw) specKeyManage none = true ∧ (wSec 3).kmIllegal (wCmd (wKm 3 3 0 wWrappedPw)) = false ∧ kmOp (wCmd (wKm 3 3 0 wWrappedPw)) = 3
    ∧ ((wSec 3).kmBlock (wCmd (wKm 3 3 0 wWrappedPw))).isSome = true := by decide +kernel
theorem wit_km_bad : (wSec 0).kmBlock (wCmd (wKm 0 2 1 5)) = none ∧ wPasses (wRec .frost (wSec 0) (wKm 0 2 1 5)) (wKm 0 2 1 5) specKeyManage none = true ∧ (wSec 0).kmIllegal (wCmd (wKm 0 2 7 0)) = true ∧ (wSec 0).sec.keyChanges = [] := by decide +kernel

/-- A signed DEBUG_UNLOCK of an operation, with its fields, in FIELD with a verifier set. -/
def wField : Dev := { wSec 15 with sec := { (wSec 15).sec with verifier := some 1, chalValid := true, chalTime := 7, unlock := .none } }
def wDu (op minutes wrapped addr : Nat) : Nat := wSign wField (wHead 0x82 0 0x7F 0 + 2 ^ 192 * (op + 2 ^ 16 * minutes) + 2 ^ 256 * wrapped + 2 ^ (8 * 0x48) * addr)

theorem wit_life : wPasses (wRec .frost (wSec 0) (wSign (wSec 0) (wHead 0x81 0 0x7F 0 + 2 ^ 192))) (wSign (wSec 0) (wHead 0x81 0 0x7F 0 + 2 ^ 192)) specLifeState none = true ∧ (wSec 0).sec.life < 1
    ∧ ({ (wSec 0).sec with lifeChanges := [(wCmd 0, 1)] } : Security).lifeChanges = [(wCmd 0, 1)] ∧ ((wSec 0).proc 0).restarting = false := by decide +kernel
set_option maxRecDepth 100000 in
theorem wit_unlock_owner : wPasses (wRec .frost wField (wDu 0 1440 wWrappedPw 0)) (wDu 0 1440 wWrappedPw 0) specDebugUnlock none = true ∧ duOp (wCmd (wDu 0 1440 wWrappedPw 0)) = 0 ∧ duMinutes (wCmd (wDu 0 1440 wWrappedPw 0)) = 1440
    ∧ duAddr (wCmd (wDu 0 1440 wWrappedPw 0)) = 0 ∧ ((wField.unwrap (wCmd (wDu 0 1440 wWrappedPw 0))).bind passwordOf).isSome = true ∧ wField.sec.life = 2 ∧ wField.sec.verifier.isSome = true ∧ wField.sec.unlock ≠ .vendor := by decide +kernel
theorem wit_unlock_challenge :
    let d : Dev := { wField with ent := (wEnt .ready).ent }
    wPasses (wRec .frost d (wDu 1 0 0 0)) (wDu 1 0 0 0) specDebugUnlock none = true ∧ duOp (wCmd (wDu 1 0 0 0)) = 1 ∧ duMinutes (wCmd (wDu 1 0 0 0)) = 0 ∧ (wCmd (wDu 1 0 0 0)).wrapped = 0 ∧ d.ent.service = .ready := by decide +kernel
theorem wit_unlock_response :
    let s := wRec .frost wField (wDu 2 0 0 0x8000)
    let s : State := { s with dev := { s.dev with hostMem := memWriteN s.dev.hostMem 0x8000 (leBytes 128 5) } }
    wPasses s (wDu 2 0 0 0x8000) specDebugUnlock none = true ∧ duOp (wCmd (wDu 2 0 0 0x8000)) = 2 ∧ duAddr (wCmd (wDu 2 0 0 0x8000)) % 64 = 0 ∧ s.dev.sec.chalValid = true ∧ s.dev.sec.chalVoided = false ∧ s.dev.deviceTime < s.dev.sec.chalTime + 600000000000 ∧ responseOk (memReadN s.dev.hostMem (duAddr (wCmd (wDu 2 0 0 0x8000))) 128) = true := by decide +kernel
theorem wit_unlock_lock : wPasses (wRec .frost wField (wDu 3 0 0 0)) (wDu 3 0 0 0) specDebugUnlock none = true ∧ duOp (wCmd (wDu 3 0 0 0)) = 3 := by decide +kernel
theorem wit_unlock_times :
    let d : Dev := { wField with now := 600000000007, sec := { wField.sec with unlock := .vendor, unlockEnd := 600000000007, ownerUnlocks := [(wCmd 0, [1], 5)] } }
    d.sec.chalValid = true ∧ d.sec.chalTime + 600000000000 ≤ d.deviceTime ∧ d.sec.unlock ≠ .none ∧ d.sec.unlockEnd ≤ max d.now 0 ∧ d.sec.debugOpen = true ∧ d.sec.scanOpen = true
    ∧ wField.sec.debugOpen = false ∧ wField.sec.scanOpen = false ∧ max wField.now 0 < d.sec.unlockEnd ∧ d.sec.ownerUnlocks = [(wCmd 0, [1], 5)] ∧ wUp.dev.sec.debugOpen = true := by decide +kernel

theorem wit_module_reset : wPasses (wRec .frost (wSec 0) (wSign (wSec 0) (wHead 0x71 0 0x7F 0))) (wSign (wSec 0) (wHead 0x71 0 0x7F 0)) specModuleReset none = true ∧ wDev.modState ≠ .reset ∧ (wAt .reset).dev.modState = .reset := by decide +kernel
/-- A module in RESET without hub power, and its pins at other times (ResetsOfTheModule). -/
theorem wit_supplies :
    let off : State := { dev := { wDev with modState := .reset, pins := { hubPower := false, vin48 := false, excursion := 2, perst := true } } }
    off.dev.modState = .reset ∧ off.dev.pins.hubPower = false ∧ off.dev.pins.vin48 = false ∧ off.dev.pins.perst = true ∧ bit off.dev.pins.excursion 1 = true ∧ wDev.pins.vin48 = true ∧ wDev.pins.hubPower = true ∧ wDev.pins.sysRef = true
    ∧ wDev.flt.fatal = none ∧ bit wDev.pins.excursion 1 = false := by decide

/-- A module with a unit reset and a function reset under way (UnitAndFunctionResets). -/
def wUnitReset : Dev := { wSec 0 with flt := { unitResets := [{ page := (UnitId.sholo 0).page, oldEpoch := 1, pend := { ring := 0, opcode := 0x70, tag := 0, page := 0 } }], vfResets := [3] } }
def wUr (u : UnitId) : Nat := wSign (wSec 0) (wHead 0x70 u.page 0x7F 0)
theorem wit_unit_reset : let s := wRec .frost (wSec 0) (wUr (.sholo 0))
    wPasses s (wUr (.sholo 0)) (s.dev.specUnitReset (wCmd (wUr (.sholo 0)))) (s.dev.unitResetCond (wCmd (wUr (.sholo 0)))) = true ∧ (s.dev.viewPage 0 (wCmd (wUr (.sholo 0))).target).bind unitOf = some (.sholo 0) ∧ s.dev.resetBarred (.sholo 0) = false := by decide +kernel
theorem wit_unit_reset_barred : let s := wRec .frost (wSec 0) (wUr .hostIf)
    wPasses s (wUr .hostIf) (s.dev.specUnitReset (wCmd (wUr .hostIf))) (s.dev.unitResetCond (wCmd (wUr .hostIf))) = true ∧ s.dev.resetBarred .hostIf = true := by decide +kernel
theorem wit_unit_reset_done : (wUnitReset.flt.unitResets.find? (fun o => o.page == (UnitId.sholo 0).page)).isSome = true ∧ unitOf (UnitId.sholo 0).page = some (.sholo 0) ∧ (UnitId.sholo 0).children wUnitReset.geo = []
    ∧ ({ wDev with hostIf := { vfEnabled := 31 } } : Dev).fnActs 31 = true ∧ wDev.fnActs 1 = false ∧ 3 ∈ wUnitReset.flt.vfResets ∧ 4 ∉ wUnitReset.flt.vfResets ∧ wUnitReset.modState ≠ .reset ∧ wDev.flt.unitResets.find? (fun o => o.page == 0) = none := by decide +kernel

/-- A module in a stage of a bring-up (BringUpStages). -/
def wStage (n : Nat) (f : Boot → Boot) : Dev := { modState := .boot, now := 5000, boot := f { stage := n, clustersUp := 15 } }
theorem wit_stages : (wStage 0 id).inStage 0 = true ∧ (wStage 1 id).inStage 1 = true ∧ (wStage 2 id).inStage 2 = true ∧ (wStage 2 id).boot.warm = false ∧ (wStage 2 (fun b => { b with warm := true })).inStage 2 = true ∧ ((upFrom 0 3).all (fun p => (wStage 2 id).bootable p ((wStage 2 id).proc p).image)) = true ∧ ((wStage 1 id).proc 0).other = none ∧ (wStage 4 id).inStage 4 = true
    ∧ bit (15 &&& ((wStage 4 id).boot.images >>> 3) &&& 15) 0 = true ∧ bit (14 &&& ((wStage 4 id).boot.images >>> 3) &&& 15) 0 = false ∧ wDev.modState ≠ .boot := by decide
theorem wit_stage_power : (wStage 3 id).inStage 3 = true ∧ ((wStage 3 id).boot.hold || ((wStage 3 id).boot.enables && (wStage 3 id).pwr.smuSeq.isNone && !(wStage 3 id).pwr.smuAbsent)) = true
    ∧ (let d : Dev := { wStage 3 id with pwr := { smuAbsent := true } }; (d.boot.hold || (d.boot.enables && d.pwr.smuSeq.isNone && !d.pwr.smuAbsent)) = false) ∧ (wStage 3 id).boot.enables = true ∧ (wStage 3 id).pwr.junctions = [] ∧ (wStage 3 id).pwr.hubTemp < 85 := by decide
theorem wit_stage_stacks : (wStage 5 id).inStage 5 = true ∧ ((wStage 5 id).drams.getD 31 {}).hstate = .training ∧ (wStage 5 id).stacksDone = false
    ∧ (let d : Dev := { wStage 5 id with drams := (upFrom 0 32).map (fun h => (h, { hstate := .active })) }; d.stacksDone = true) ∧ bit (wStage 5 id).boot.stacksFailed 0 = false ∧ bit (wStage 5 (fun b => { b with stacksFailed := 1 })).boot.stacksFailed 0 = true := by decide +kernel
theorem wit_stage_slots : (wStage 6 id).inStage 6 = true ∧ (wStage 6 id).slotsDone = false ∧ (wStage 6 (fun b => { b with tested := 0xFFFFF })).slotsDone = true ∧ (wStage 7 id).inStage 7 = true ∧ (wStage 7 id).finalSlots ≠ []
    ∧ (wStage 7 (fun b => { b with clustersUp := 0 })).finalSlots = [] := by decide +kernel
theorem wit_stage_times : let d : Dev := { wStage 3 (fun b => { b with hold := true, smuWait := true }) with now := 12000000001, pins := { vin48 := false } }
    (d.inStage 3 && d.boot.hold && !d.pins.vin48 && decide (d.boot.holdSince + 10000000000 < d.sincePower)) = true
    ∧ (d.inStage 3 && d.boot.smuWait && d.pwr.smuSeq.isNone && !d.pwr.smuAbsent && decide (d.boot.smuWaitSince + 100000000 ≤ d.sincePower)) = true
    ∧ (if (wStage 3 id).boot.warm then 5000000000 else 12000000000) < ({ wStage 3 id with now := 12000000001 } : Dev).bootCounted := by decide +kernel

/-- A module with one port in a state (LinksTrainAndPartnersAttach, TransfersStartAndEnd). -/
def wPort (p : Nat) (g : Port) : Dev := { wDev with ports := [(p, g)], ctxs := [(0, { cstate := .idle })], now := 20000000 }
def wIdent (n : Nat) : Identity := { deviceId := n, gens := 3, port := 0, position := 0, align := 0, fs8 := false }
theorem wit_links : wDev.modState ≠ .reset ∧ 5 < wDev.hostIf.gen ∧ wDev.hostIf.width = 16
    ∧ (let d := wPort 3 { pstate := .training }; (d.portLive 3 && d.mayTrain && (d.port 3).enable && d.modState != .snowpack) = true ∧ (d.port 3).pstate = .training ∧ isEth 3 = false ∧ (d.port 3).gen2En = true ∧ (d.port 3).gen2Fails < 3)
    ∧ (let d := wPort 18 { pstate := .training }; (d.portLive 18 && d.mayTrain && (d.port 18).enable && d.modState != .snowpack) = true ∧ isEth 18 = true)
    ∧ (let d := wPort 3 { pstate := .training, enable := false, gen2Fails := 3 }; (d.portLive 3 && d.mayTrain && (d.port 3).enable && d.modState != .snowpack) = false ∧ 3 ≤ (d.port 3).gen2Fails)
    ∧ (let d := wPort 3 { pstate := .discovery }; d.portLive 3 = true ∧ (d.port 3).pstate = .discovery ∧ (wIdent 9).deviceId ≠ d.sec.deviceId ∧ (wIdent 0).deviceId = d.sec.deviceId) := by decide +kernel
theorem wit_links_up : (let d := wPort 3 { pstate := .up, replayTimes := List.replicate 65 20000000 }; (d.port 3).pstate = .up ∧ 64 < ((d.port 3).replayTimes.filter (fun k => decide (d.now < k + 1000000))).length ∧ d.hostOpen (portUnit 3) = true ∧ d.modState ≠ .dumping)
    ∧ (let d := wPort 3 { pstate := .training, retrainAt := some 10000000 }; (d.port 3).retrainAt = some 10000000 ∧ 10000000 + 10000000 ≤ d.now) ∧ (let d := wPort 3 { retrainAt := some 10000001 }; d.now < 10000001 + 10000000)
    ∧ (wAt .reset).dev.hostOpen (portUnit 3) = false := by decide +kernel

/-- A port with a transfer ring whose next descriptor is a word (TransfersStartAndEnd). -/
def wXq (word : Nat) : Dev := { wPort 3 { pstate := .up, partner := some (wIdent 9), xferCtx := 0, xq := { enable := true, sqTail := 1 } } with hostMem := memWriteN [] 0 (leBytes 64 word) }
def wXferWord : Nat := 1 + 2 ^ 192 * 64
theorem wit_transfer_fetch :
    (let d := wXq wXferWord; d.portLive 3 = true ∧ (d.port 3).xq.enable = true ∧ (d.port 3).xq.cqFull = false ∧ d.hostStopped = false ∧ (d.port 3).xq.active.length < 4 ∧ (d.port 3).xq.doomed.get? 0 = none
      ∧ (d.xferAt 3 0).xop = 1 ∧ (d.xferAt 3 0).len = 64 ∧ d.xferCheck 3 (d.xferAt 3 0) = some cOutOfRange)
    ∧ (let d := { wXq wXferWord with regions := [(0, { owner := 0, mode := 1 })] }; d.xferCheck 3 (d.xferAt 3 0) = none)
    ∧ (let d := wXq (wXferWord + 1); (d.xferAt 3 0).xop = 2 ∧ d.hostOpen (portUnit 3) = true ∧ (d.port 3).xq.drained = false ∧ (wPort 3 {}).hostOpen (portUnit 3) = true ∧ ((wPort 3 {}).port 3).xq.drained = true ∧ ((wPort 3 {}).port 3).xq.enable = false)
    ∧ ((wXq (wXferWord + 2)).xferAt 3 0).xop = 3 := by decide +kernel
theorem wit_transfer_ends :
    (let d := { wPort 3 { pstate := .up, rxwEnable := true, rxwCtx := 0, rxwFirst := 5, rxwCount := 1, inbound := [{ id := 0, write := true, off := 64, len := 2, post := none }] } with regions := [(5, { owner := 0, mode := 1 })] };
      d.inWindow (d.port 3) true 64 2 none = true ∧ d.inWindow (d.port 3) true (2 ^ 30 - 1) 2 none = false ∧ (d.port 3).inbound.find? (fun y => y.id == 0) = some { id := 0, write := true, off := 64, len := 2, post := none } ∧ (d.port 3).inbound ≠ [])
    ∧ (let d := wPort 3 { pstate := .up, partner := some (wIdent 9), xq := { xfers := [{ index := 0, word := wXferWord }, { index := 1, word := wXferWord + 1 + 2 ^ 9 }, { index := 2, word := wXferWord + 2 ^ 8 }] } };
      ((d.port 3).xq.active.find? (fun y => y.index == 1)).map (fun z => (z.xop, z.localPost, z.len)) = some (2, true, 64) ∧ ((d.port 3).xq.active.find? (fun y => y.index == 0)).map (fun z => (z.xop, z.localPost)) = some (1, false)
      ∧ ((d.port 3).xq.active.find? (fun y => y.index == 2)).map (fun z => z.remotePost) = some true ∧ (d.port 3).partner.map (·.fs8) = some false)
    ∧ ((wPort 3 { pstate := .loopback }).port 3).pstate = .loopback ∧ ((wPort 3 { pstate := .up }).port 3).rxwEnable = false ∧ wDev.portLive 20 = false
    ∧ ((wPort 3 { partner := some { wIdent 9 with fs8 := true } }).port 3).partner.map (·.fs8) = some true := by decide +kernel

/-- An Ethernet port with one peer (EthernetPeersAndResends). -/
def wEth (resends : Nat) (verified : Bool) : Dev := wPort 18 { pstate := .up, peers := [(7, { addr := 5, valid := true, verified, resends := [(4, resends)] })] }
theorem wit_ethernet : isEth 18 = true ∧ (wEth 8 true).portLive 18 = true ∧ ((wEth 8 true).port 18).pstate = .up ∧ (((wEth 8 true).port 18).peers.find? (fun (e : Nat × Peer) => e.2.valid && e.2.addr == 5)).isSome = true
    ∧ (((wEth 8 true).port 18).peers.find? (fun (e : Nat × Peer) => e.2.valid && e.2.addr == 6)) = none ∧ (((wEth 8 true).port 18).peers.getD 7 {}).verified = true ∧ 8 ≤ (((wEth 8 true).port 18).peers.getD 7 {}).resends.getD 4 0
    ∧ (((wEth 7 true).port 18).peers.getD 7 {}).resends.getD 4 0 < 8 ∧ (((wEth 7 false).port 18).peers.getD 7 {}).verified = false ∧ isEth 17 = false := by decide +kernel

/-- A module with counters of core 0's SUA page (CountersCountAndSample). -/
def wCnt (cs : Tab Counter) (sample : Option Nat) : Dev := { wDev with cnts := [((UnitId.sua 0).page, { counters := cs, sample })] }
def wCounts (d : Dev) (n : Nat) : Bool :=
  let c := (d.cnt (UnitId.sua 0).page).counter n
  d.windowUnit (UnitId.sua 0).page == some (.sua 0) && decide (n < 8) && c.enabled && (decide (n % 2 = 0) || !c.chain) && timedEvents.contains c.event && c.passes none && !d.reader.frozen && (d.hdr (UnitId.sua 0).page).countersRun
    && decide (c.value + 1 < 2 ^ 48 + eventMax 0x0011 c.event)
theorem wit_counting :
    (let d := wCnt [(0, { sel := 0x7F010306, value := 2 ^ 48 - 1 })] none; wCounts d 0 = true ∧ wCounts (wCnt [(0, { sel := 0x7F010306, value := 5 })] none) 0 = true ∧ 2 ^ 48 ≤ ((d.cnt (UnitId.sua 0).page).counter 0).value + 1 ∧ ((d.cnt (UnitId.sua 0).page).counter 1).chain = false
      ∧ ((d.cnt (UnitId.sua 0).page).counter 0).sampling = false ∧ wCounts d 1 = false)
    ∧ (let d := wCnt [(0, { sel := 0x7F010306, value := 2 ^ 48 - 1 }), (1, { sel := 0x7F030000, value := 2 ^ 48 - 1 }), (3, { sel := 0x7F030000, value := 5 })] none; wCounts d 0 = true ∧ ((d.cnt (UnitId.sua 0).page).counter 1).chain = true ∧ ((d.cnt (UnitId.sua 0).page).counter 1).enabled = true
      ∧ ((d.cnt (UnitId.sua 0).page).counter 1).value + 1 = 2 ^ 48 ∧ ((d.cnt (UnitId.sua 0).page).counter 3).value + 1 < 2 ^ 48)
    ∧ (let d := wCnt [(0, { sel := 0x7F010306, value := 2 ^ 48 - 1 }), (1, { sel := 0x7F020000 })] none; wCounts d 0 = true ∧ ((d.cnt (UnitId.sua 0).page).counter 1).chain = true ∧ ((d.cnt (UnitId.sua 0).page).counter 1).enabled = false ∧ wCounts d 1 = false)
    ∧ (let d := wCnt [(0, { sel := 0x7F050306, value := 2 ^ 48 - 1 })] none; wCounts d 0 = true ∧ ((d.cnt (UnitId.sua 0).page).counter 0).sampling = true ∧ (d.cnt (UnitId.sua 0).page).sample = none)
    ∧ (let d := wCnt [(0, { sel := 0x7F050306, value := 2 ^ 48 - 1 })] (some 7); wCounts d 0 = true ∧ (d.cnt (UnitId.sua 0).page).sample = some 7 ∧ d.sampleWaits (UnitId.sua 0).page 7 = false) := by decide +kernel
theorem wit_selects : wDev.windowUnit (UnitId.sua 0).page = some (.sua 0) ∧ wDev.modState ≠ .reset ∧ 0x300 ∈ eventsOf (UnitId.sua 0).type ∧ 0x200 ∉ eventsOf (UnitId.sua 0).type ∧ canSample (UnitId.sua 0).type = true ∧ wDev.sec.traceOpen = true
    ∧ wDev.windowUnit (UnitId.tidy 0 0).page = some (.tidy 0 0) ∧ 0x8380 ∈ eventsOf (UnitId.tidy 0 0).type ∧ wField.sec.traceOpen = false ∧ wDev.hostOpen .counter = true ∧ wDev.reader.drain = none
    ∧ ({ wDev with reader := { drain := some (wCmd 0) } } : Dev).hostOpen .counter = true := by decide +kernel

/-- A COUNTER_FREEZE of an operation, a time, an address and bytes (FreezesSnapshotsAndWindows). -/
def wCf (op time addr bytes : Nat) : Nat := wHead 0xA0 0 0x7F 0 + 2 ^ 192 * op + 2 ^ 256 * time + 2 ^ 320 * addr + 2 ^ 384 * bytes
theorem wit_freeze :
    wPasses (wRec .frost wDev (wCf 0 9000 0 0)) (wCf 0 9000 0 0) specCounterFreeze none = true ∧ cfOp (wCmd (wCf 0 9000 0 0)) = 0 ∧ wDev.cfCheck (wCmd (wCf 0 9000 0 0)) = none ∧ cfOp (wCmd (wCf 1 0 0 0)) = 1 ∧ wDev.cfCheck (wCmd (wCf 2 0 0x8000 192)) = none
    ∧ wPasses (wRec .frost wDev (wCf 3 0 0x8000 128)) (wCf 3 0 0x8000 128) specCounterFreeze none = true ∧ cfOp (wCmd (wCf 3 0 0x8000 128)) = 3 ∧ wDev.cfCheck (wCmd (wCf 3 0 0x8000 128)) = none
    ∧ wDev.cfCheck (wCmd (wCf 2 0 0x8001 192)) = some cBadFormat ∧ wDev.cfCheck (wCmd (wCf 2 0 0x8000 63)) = some cOutOfRange
    ∧ ({ wDev with reader := { captured := some ({ cmd := wCmd 0, op := 2, s := 5 }, []) } } : Dev).cfCheck (wCmd (wCf 2 0 0x8000 192)) = some cNoResource := by decide +kernel
theorem wit_freeze_at :
    let o (op time : Nat) : FreezeOp := { cmd := wCmd 0, op, s := time }
    let z (x : FreezeOp) : State := { pending := [], dev := { wDev with reader := { ops := [x] } } }
    (wDev.now < 6000 ∧ (z (o 0 6000)).dev.reader.ops = [o 0 6000] ∧ max wDev.now 5500 < 6000 ∧ (o 1 6000).op ≠ 2 ∧ (o 2 6000).op = 2 ∧ ((z (o 0 6000)).dueAt 6000).reader.applied = [o 0 6000] ∧ ((z (o 2 6000)).dueAt 6000).reader.captured.isSome = true)
    ∧ wDev.hostStopped = false ∧ wDev.modState ≠ .dumping ∧ wDev.reader.drain = none ∧ wDev.reader.captured = none ∧ wDev.readerUp = true ∧ wDev.reader.bwEnd = none
    ∧ (let e : Dev := { wDev with reader := { drain := some (wCmd (wCf 3 0 0x8000 128)) } }; e.hostStopped = false ∧ e.modState ≠ .dumping
        ∧ (({ e.writeHost 0x8000 [] with reader := { e.reader with drain := none, samples := [] } } : Dev).answer (wCmd (wCf 3 0 0x8000 128)) cOk 0 0).reader.captured = none)
    ∧ wDev.deviceTime / wDev.reader.bwWindow * wDev.reader.bwWindow < wDev.reader.bwFrom + wDev.reader.bwWindow
    ∧ (let e : Dev := { wDev with now := 1000000 }; e.reader.bwFrom + e.reader.bwWindow ≤ e.deviceTime / e.reader.bwWindow * e.reader.bwWindow) ∧ wDev.hostOpen .counter = true := by decide +kernel

/-- A module whose core 0 runs a job, with a tidy core as given (the statements about tidy cores). -/
def wTidy (x : Tidy) (mem : List Host.Cell) : Dev :=
  { wDev with modState := .active, ctxs := [(0, { cstate := .idle, throughput := true, slate := [(9, { pos := 4 })] })], jobs := [(1, { wJob .running with slateBind := [(7, 0)] })], cores := [(0, { job := some 1 })]
              tidies := [(0, { x with tstate := .running })], devMem := mem, syncs := [(1, { type := .semaphore, count := 5, owner := 0 })] }
theorem wit_tidy :
    let d := wTidy { x := [(5, 1)] } []
    let e := (d.jobIssues 1).updTidy 0 (fun x => { x with steps := x.steps - 1 })
    (d.tidyJob 0).map (·.1) = some 1 ∧ (d.tidy 0).halted = false ∧ (∀ j, d.jobs.get? 1 = some j → e.granted j (shareBase 0) 1 true = true ∧ e.granted j (shareBase 1) 1 true = false ∧ e.granted j (shareBase 1) 1 false = false ∧ e.jobPoison j (shareBase 0) 1 = false)
    ∧ (e.core 0).waiting false ((e.tidy 0).get 5 % 65536) = false ∧ (e.sync 1).type ≠ .unused ∧ (e.sync 1).owner = 0 ∧ (e.sync 2).type = .unused ∧ wDev.tidyJob 0 = none := by decide +kernel
theorem wit_tidy_waits : let d : Dev := { wTidy { x := [(5, 1)] } [] with cores := [(0, { job := some 1, matrixQ := [{ ticket := 1, tidy := 0, word := 0, ordinal := 0 }], moveQ := [{ ticket := 1, tidy := 0, word := 0, ordinal := 0 }] })] }
    (d.core 0).waiting false 1 = true ∧ (d.core 0).waiting true 1 = true ∧ (d.tidyJob 0).map (·.1) = some 1 := by decide +kernel
/-- What a tidy core fetches from a word at the start of its share: 1 a next state, 2 an exception, 3 an illegal instruction, 4 a custom one; 0 where it cannot fetch. -/
def wFetch (word : Nat) : Nat :=
  let d := wTidy { x := [(5, shareBase 0 + 8)], pc := shareBase 0 } (memWriteN [] (shareBase 0) (leBytes 4 word))
  let e := (d.jobIssues 1).updTidy 0 (fun x => { x with steps := x.steps - 1 })
  match d.tidyJob 0 with
  | some (1, j) =>
    let pc := (d.tidy 0).pc
    let len := d.fetchLen j pc
    let w := (d.rvMem j).read pc len
    if d.granted j pc 2 false && d.granted j pc 4 false && !d.jobPoison j pc 2 && !d.jobPoison j pc len && e.granted j pc len false && (e.lostPath 0 [(j.redirect pc, len)]).isNone && (d.lostPath 0 [(j.redirect pc, len)]).isNone && (e.jobPoisonLine j pc len).isNone then
      if isCustom w && (d.customOf 0 w).isSome then 4
      else match (if len = 4 then rvBase (e.rvMem j) (e.tidy 0) 4 w else match expandC w with | some v => rvBase (e.rvMem j) (e.tidy 0) 2 v | none => .illegal) with
        | .next _ _ _ => 1
        | .trap _ _ => 2
        | .illegal => 3
    else 0
  | _ => 0
theorem wit_tidy_fetch : wFetch 0x00628233 = 1 ∧ wFetch 0x0002B203 = 1 ∧ wFetch 0x00100073 = 2 ∧ wFetch 0 = 3 ∧ wFetch 0x0002A20B = 4 := by decide +kernel
theorem wit_tidy_access :
    let d := wTidy { x := [(5, 1)] } []
    let e := (d.jobIssues 1).updTidy 0 (fun x => { x with steps := x.steps - 1 })
    let f : Dev := { e with poison := [shareBase 0 / 64] }
    ∀ j, d.jobs.get? 1 = some j → e.granted j (shareBase 0) 1 false = true ∧ e.lostPath 0 [(j.redirect (shareBase 0), 1)] = none ∧ [(shareBase 0, 1)].findSome? (fun r => e.jobPoisonLine j r.1 r.2) = none
      ∧ f.granted j (shareBase 0) 1 false = true ∧ f.lostPath 0 [(j.redirect (shareBase 0), 1)] = none ∧ [(shareBase 0, 1)].findSome? (fun r => f.jobPoisonLine j r.1 r.2) = some (shareBase 0) := by decide +kernel

/-- A tidy core that presents a request at the start of its core's share (TidyCoresIssueDescriptors). -/
def wIssue (word : Nat) (k : Core) : Dev := { wTidy { x := [(5, shareBase 0)] } (memWriteN [] (shareBase 0) (leBytes 64 word)) with cores := [(0, { k with job := some 1 })] }
def wIssueOk (d : Dev) (f : Dev → Job → Nat → Bool) : Bool :=
  let e := (d.jobIssues 1).updTidy 0 (fun x => { x with steps := x.steps - 1 })
  match d.tidyJob 0 with
  | some (1, j) => (e.tidy 0).get 5 % 64 == 0 && inShare 0 ((e.tidy 0).get 5) 64 && !e.poisoned ((e.tidy 0).get 5) 64 && f e j (memNat e.devMem ((e.tidy 0).get 5) 64)
  | _ => false
theorem wit_issue_engine : wIssueOk (wIssue 3 {}) (fun e j w => (e.engineCheck j 0 0 w).isNone && opQueue (descOp w) == some .matrix && decide ((e.core 0).matrixQ.length < 16)) = true
    ∧ wIssueOk (wIssue 0 {}) (fun e j w => e.engineCheck j 0 0 w == some cBadFormat && e.tokenCheck j 0 0 w == some cBadFormat && e.moveCheck j 0 0 w == some cBadFormat) = true
    ∧ wIssueOk (wIssue 3 { matrixQ := List.replicate 16 { ticket := 1, tidy := 0, word := 3, ordinal := 0 } }) (fun e j w => (e.engineCheck j 0 0 w).isNone && decide (16 ≤ (e.core 0).matrixQ.length)) = true := by decide +kernel
theorem wit_issue_draw :
    let w := 2 ^ 32 * 1 + 2 ^ 64 * 1 + 2 ^ 96 + 2 ^ 160 * 1 + 2 ^ 256 * 64
    wIssueOk (wIssue w {}) (fun e j w => (e.tokenCheck j 0 0 w).isNone && decide ((e.core 0).suaQ.length < 16)) = true
    ∧ wIssueOk (wIssue w { suaQ := List.replicate 16 { ticket := 1, tidy := 0, word := 3, ordinal := 0 } }) (fun e j w => (e.tokenCheck j 0 0 w).isNone && decide (16 ≤ (e.core 0).suaQ.length)) = true := by decide +kernel
theorem wit_issue_move :
    let w := 1 + 2 ^ 64 * 64 + 2 ^ 128 * shareBase 0 + 2 ^ 192 * (shareBase 0 + 64)
    wIssueOk (wIssue w {}) (fun e j w => (e.moveCheck j 0 0 w).isNone && decide ((e.core 0).moveQ.length < 32)) = true
    ∧ wIssueOk (wIssue w { moveQ := List.replicate 32 { ticket := 1, tidy := 0, word := 1, ordinal := 0 } }) (fun e j w => (e.moveCheck j 0 0 w).isNone && decide (32 ≤ (e.core 0).moveQ.length)) = true := by decide +kernel
theorem wit_issue_traps :
    (let d := wTidy { x := [(5, shareBase 0 + 1)] } []; (d.tidy 0).get 5 % 64 ≠ 0) ∧ inShare 0 (shareBase 1) 64 = false ∧ inShare 0 (shareBase 0) 64 = true
    ∧ ({ wTidy {} [] with poison := [shareBase 0 / 64] } : Dev).poisoned (shareBase 0) 64 = true := by decide +kernel

theorem wit_vectors :
    let e := wTidy { vtype := 16, vl := 3, x := [(5, 7), (6, 9), (4, 8)] } []
    (e.tidy 0).sew32 = true ∧ (e.tidy 0).groupOk 2 = true ∧ (e.tidy 0).groupOk 32 = false ∧ (wTidy {} []).tidyJob 0 ≠ none ∧ ((wTidy {} []).tidy 0).sew32 = false ∧ (e.tidy 0).get 5 % 4096 = 7 ∧ (e.tidy 0).get 6 % 4096 = 9
    ∧ (e.jobs.get? 1).map (fun j => (j.slateBind.get? 7, j.slateBind.get? 9, e.slateBoundElsewhere 1 j 9)) = some (some 0, none, false) ∧ (e.ctx 0).throughput = true ∧ ((e.ctx 0).slate.getD 9 {}).pos + (e.tidy 0).vl ≤ 2 ^ 44
    ∧ (let f := wTidy { vtype := 16, vl := 3, x := [(5, 7)], slate := [(7, 2 ^ 44 - 2)] } []; 2 ^ 44 < (f.tidy 0).slate.getD 7 0 + (f.tidy 0).vl)
    ∧ ({ e with jobs := [(1, { wJob .running with slateBind := [(7, 1)] })] } : Dev).jobs.get? 1 ≠ none ∧ ({ e with ctxs := [(0, { cstate := .idle })] } : Dev).ctx 0 = { cstate := .idle } := by decide +kernel

/-- A running job of context 0 on core 0, with one descriptor in its matrix queue. -/
def wMatrix (word : Nat) (k : Core) : Dev :=
  { wDev with modState := .active, ctxs := [(0, { cstate := .idle, shapes := [(7, { realise := 1, shape := 7, geom := { mt := 4, nt := 4, q := 16 } })], log2Rows := 2, log2Cols := 2 })], jobs := [(1, wJob .running)],
              cores := [(0, { k with job := some 1, matrixQ := [{ ticket := 1, tidy := 0, word }] })] }
def wMatrixNext (d : Dev) (op : Nat) : Bool := match d.matrixNext 0 op with
  | some (id, _, x) => id == 1 && x.ticket == 1
  | none => false
theorem wit_matmul :
    let w := 1 + 2 ^ 21 * 7 + 2 ^ 64 * 32 + 2 ^ 128 * shareBase 0 + 2 ^ 192 * (shareBase 0 + 4096)
    let d := wMatrix w {}
    wMatrixNext d 1 = true ∧ ((d.ctx 0).shapeOf (dsShape w)).map (fun e => (d.firstPoison (matmulReads e w), decide ((dsRowBlk w + 1) * e.geom.mt ≤ 256), decide ((dsColBlk w + 1) * e.geom.nt ≤ 256))) = some (none, true, true)
    ∧ (({ d with poison := [shareBase 0 / 64] } : Dev).firstPoison [(shareBase 0, 64)]) = some (shareBase 0) := by decide +kernel
theorem wit_tile_operations :
    (wMatrixNext (wMatrix 3 {}) 3) = true
    ∧ (let w := 5 + 2 ^ 128 * shareBase 0; let d := wMatrix w {}; wMatrixNext d 5 = true ∧ d.firstPoison ((d.ctx 0).accRegion w) = none ∧ (d.ctx 0).tileRows ≤ 256 ∧ (d.ctx 0).tileCols ≤ 256)
    ∧ (let d := wMatrix 7 {}; wMatrixNext d 7 = true ∧ (d.core 0).freeShadow = some 0)
    ∧ (let sh : Shadow := { use := .drain, ticket := 9, word := 4, isInt := false, rows := 1, cols := 1, words := [] }
       let d := wMatrix 7 { shadow := [(0, sh), (1, sh), (2, sh), (3, sh)] }; wMatrixNext d 7 = true ∧ (d.core 0).freeShadow = none) := by decide +kernel

theorem wit_captures :
    (let d := wMatrix 2 {}; wMatrixNext d 2 = true ∧ (d.core 0).freeShadow = some 0)
    ∧ (let d := wMatrix 4 {}; wMatrixNext d 4 = true ∧ (d.core 0).freeShadow = some 0 ∧ (d.ctx 0).tileRows ≤ 256 ∧ (d.ctx 0).tileCols ≤ 256) ∧ wMatrixNext (wMatrix 6 {}) 6 = true
    ∧ (let sh : Shadow := { use := .drain, ticket := 9, word := 4, isInt := false, rows := 1, cols := 1, words := [] }
       ∀ op ∈ [2, 4, 6], let d := wMatrix op { shadow := [(0, sh), (1, sh), (2, sh), (3, sh)] }; wMatrixNext d op = true ∧ (d.core 0).freeShadow = none ∧ (d.core 0).shadow.get? 0 = some sh ∧ d.coreJob 0 ≠ none) := by decide +kernel
/-- A link of a chain on core 0 that names core 1, and one that waits there, in a job of both. -/
def wChain (a b : Shadow) : Dev := { wMatrix 6 { shadow := [(2, a)] } with
  cores := [(0, { job := some 1, shadow := [(2, a)] }), (1, { job := some 1, shadow := [(0, b)], matrixQ := [{ ticket := 1, tidy := 8, word := 6, landed := true }] })] }
def wChainFind (d : Dev) : List Nat := (((d.core 0).shadow.findSome? (fun e => if e.2.use = .chainSend then (d.chainReceiver 1 0 e.2).map (fun q => (e.1, e.2, q)) else none)).map (fun q => [q.1, b2n q.2.1.isInt, q.2.2.1, q.2.2.2.1, dsRole q.2.2.2.2.word])).getD []
/-- NEXT_CORE 1 in a CHAIN_ADD descriptor, and ROLE LAST. -/
def wNext1 : Nat := ((upFrom 0 512).filter (fun i => dsNext (2 ^ i) == 1)).foldl (fun n i => n + 2 ^ i) 0
def wRoleLast : Nat := ((upFrom 0 512).filter (fun i => dsRole (2 ^ i) == 2)).foldl (fun n i => n + 2 ^ i) 0
def wSend (i : Bool) : Shadow := { use := .chainSend, ticket := 3, word := wNext1, isInt := i, rows := 1, cols := 1, words := [(0, 5)] }
def wWait (w : Nat) : Shadow := { use := .chainWait, ticket := 1, word := w, isInt := true, rows := 1, cols := 1, words := [(0, 7)] }
theorem wit_chain :
    dsRole wRoleLast = 2 ∧ wChainFind (wChain (wSend true) (wWait wRoleLast)) = [2, 1, 1, 0, 2] ∧ wChainFind (wChain (wSend true) (wWait 0)) = [2, 1, 1, 0, 0]
    ∧ wChainFind (wChain (wSend false) (wWait wRoleLast)) = [2, 0, 1, 0, 2] := by decide +kernel
theorem wit_chain_waits : wChainFind (wMatrix 6 {}) = [] ∧ (wChain (wSend true) (wWait 0)).coreJob 0 ≠ none := by decide +kernel
theorem wit_completions :
    (wChain (wSend true) (wWait 0)).coreJob 1 ≠ none ∧ (wMatrix 6 {}).coreJob 0 ≠ none ∧ (((wMatrix 6 {}).core 0).matrixQ.map (·.landed)) = [false]
    ∧ (let d := wMatrix 6 { suaQ := [{ ticket := 1, tidy := 0, word := 6, landed := true }], moveQ := [{ ticket := 1, tidy := 0, word := 6, landed := true }] }; (d.core 0).suaQ.map (·.landed) = [true] ∧ (d.core 0).moveQ.map (·.landed) = [true] ∧ d.coreJob 0 ≠ none) := by decide +kernel

/-- A problem of 64 slots at the start of a share. -/
def wProblem (coup : Nat) : Nat := 64 + 2 ^ 32 * 0x3F800000 + 2 ^ 64 * coup + 2 ^ 128 * 0x2000 + 2 ^ 192 * 0x3000 + 2 ^ 256 * 0x4000 + 2 ^ 320 * 0x5000 + 2 ^ 384 * 0x6000
/-- A running job on cores 0 and 1 with a descriptor at the head of core 0's SUA queue, a problem record, and more bytes of core 0's share. -/
def wSua (word rec : Nat) (more : List (Nat × Nat)) : Dev :=
  { wDev with modState := .active, ctxs := [(0, { cstate := .idle })], jobs := [(1, { wJob .running with cores := 3 })],
              cores := [(0, { job := some 1, suaQ := [{ ticket := 1, tidy := 0, word }] }), (1, { job := some 1 })],
              devMem := more.foldl (fun m e => memWriteN m (shareBase 0 + e.1) (leBytes 1 e.2)) (memWriteN [] (shareBase 0) (leBytes 64 rec)) }
def wSweep (mode : Nat) : Nat := 0x11 + 2 ^ 32 * mode + 2 ^ 64 + 2 ^ 96 + 2 ^ 320 * 2
/-- Whether SUA_SWEEP or SUA_FIELDS starts there, and what its checks give. -/
def wStart (d : Dev) (kind : GroupKind) : List Bool :=
  match d.groupReady 0 kind with
  | none => []
  | some ms =>
    let p := d.problem (ms.map (·.1)) (ms.headD (0, { ticket := 0, tidy := 0, word := 0 })).2.word
    [groupMatches ms, (d.firstPoison [(shareBase 0 + descProblem (ms.headD (0, { ticket := 0, tidy := 0, word := 0 })).2.word, 64)]).isNone, p.recordOk, p.fits, (d.firstPoison p.formReads).isNone, match d.suaUnitsOk p (ms.headD (0, { ticket := 0, tidy := 0, word := 0 })).2.word with | .ok _ => true | .error _ => false]
theorem wit_sua_starts :
    wStart (wSua (wSweep 0) (wProblem 0x1000) []) .sweep = [true, true, true, true, true, true] ∧ wStart (wSua (0x10 + 2 ^ 96) (wProblem 0x1000) []) .fields = [true, true, true, true, true, true]
    ∧ (wSua (wSweep 0) (wProblem 0x1000) []).groupReady 0 .fields = none ∧ (wSua (0x10 + 2 ^ 96) (wProblem 0x1000) []).groupReady 0 .sweep = none ∧ (wSua (wSweep 0) 0 []).coreJob 0 ≠ none := by decide +kernel
theorem wit_sua_faults :
    (wStart (wSua (wSweep 0) 0 []) .sweep).take 3 = [true, true, false] ∧ (wStart (wSua (wSweep 0) (wProblem 0x18000000) []) .sweep).take 4 = [true, true, true, false]
    ∧ (wStart (wSua (wSweep 0) (wProblem 0x1000) [(0x5000, 3)]) .sweep) = [true, true, true, true, true, false]
    ∧ (wStart { wSua (wSweep 0) (wProblem 0x1000) [] with poison := [shareBase 0 / 64] } .sweep).take 2 = [true, false]
    ∧ (wStart { wSua (wSweep 0) (wProblem 0x1000) [] with poison := [(shareBase 0 + 0x2000) / 64] } .sweep) = [true, true, true, true, false, true]
    ∧ (wStart { wSua (wSweep 0) (wProblem 0x1000) [] with poison := [(shareBase 0 + 0x5000) / 64] } .sweep) = [true, true, true, true, true, false]
    ∧ (wStart { wSua (wSweep 1) (wProblem 0x1000) [] with poison := [(shareBase 0 + 0x2000) / 64] } .sweep) = [true, true, true, true, false, true] := by decide +kernel
theorem wit_sua_mismatch :
    let d : Dev := { wSua (wSweep 0 + 2 ^ 97) (wProblem 0x1000) [] with cores := [(0, { job := some 1, suaQ := [{ ticket := 1, tidy := 0, word := wSweep 0 + 2 ^ 97 }] }), (1, { job := some 1, suaQ := [{ ticket := 1, tidy := 0, word := wSweep 1 + 2 ^ 97 }] })] }
    (wStart d .sweep).take 1 = [false] := by decide +kernel
/-- The group of such a descriptor at a class or position, and what its next beat works from. -/
def wGroup (d : Dev) (word beat : Nat) : Dev := { d with groups := [(0, { members := [0], word, token := false, beat })] }
def wBeat (d : Dev) : Bool := match d.coreJob 0, d.groupOn 0 with
  | some (_, j), some (key, g) => key == 0 && (d.groups.get? 0).isSome && groupKind g.token g.word == .sweep && (match d.suaRunOf j g with | some r => (d.firstPoison (r.beatReads g.word g.beat)).isNone | none => false)
  | _, _ => false
def wConflict (d : Dev) (c : Nat) : Option (Nat × Nat) := match d.coreJob 0, d.groupOn 0 with
  | some (_, j), some (_, g) => (d.suaRunOf j g).bind (fun r => d.firstConflict r.p (r.us.filter (fun u => !u.frozen && u.colour == c)))
  | _, _ => none
theorem wit_sua_beats :
    let m := [(0x1001, 3), (0x6002, 1)]
    (∀ mode ∈ [0, 1, 2, 8], wBeat (wGroup (wSua (wSweep mode) (wProblem 0x1000) m) (wSweep mode) 1) = true)
    ∧ wConflict (wGroup (wSua (wSweep 0) (wProblem 0x1000) m) (wSweep 0) 1) 1 = none ∧ wConflict (wGroup (wSua (wSweep 0) (wProblem 0x1000) m) (wSweep 0) 0) 0 = some (0, 1)
    ∧ suaMode (wSweep 8) = 0 ∧ suaDemote (wSweep 8) = true ∧ suaDemote (wSweep 0) = false ∧ suaMode (wSweep 1) = 1 ∧ suaMode (wSweep 2) = 2 := by decide +kernel

theorem wit_window :
    wBeat (wGroup (wSua (wSweep 1) (wProblem 0x1000) [(0x1001, 3)]) (wSweep 1) 3) = true ∧ suaMode (wSweep 1) = 1 ∧ (((wSua (wSweep 1) (wProblem 0x1000) []).suaUnits (Problem.mk [0] (wProblem 0x1000))).map (·.length)) = some 64
    ∧ suaWindow (wSweep 1) = 256 ∧ suaSweeps (wSweep 1) = 1 := by decide +kernel

theorem wit_walls :
    let w := 2 ^ (0x24 * 8) * 65535 + 2 ^ (0x28 * 8) * 65535
    anA0 w = 65535 ∧ anDt w = 65535 ∧ anCMul w = 0
    ∧ 16384 < (0 : Int) + rshiftRne (clampInt (-2 ^ 31) (2 ^ 31 - 1) (2 ^ 30 + rshiftRne 0 21) * 65535 * 65535) 41 ∧ (annealVar w 65535 0 0 (2 ^ 30)).1 = 16384 ∧ (annealVar w 65535 0 0 (-2 ^ 30)).1 = -16384
    ∧ (annealVar w 65535 0 16384 5).1 = 16384 ∧ (annealVar w 65535 0 16384 5).2.1 = 5 ∧ (annealVar w 65535 0 (-16384) 5).1 = -16384 := by decide +kernel
def wAnneal : Nat := 0x20 + 2 ^ 64 * 2 + 2 ^ 96
def wAnRec : Nat := 64 + 2 ^ 32 + 2 ^ 64 * 0x1000 + 2 ^ 128 * 0x2000 + 2 ^ 192 * 0x3000 + 2 ^ 256 * 0x4000 + 2 ^ 320 * 0x5000 + 2 ^ 384 * 0x6000 + 2 ^ 448 * 0x7000
/-- Which checks of an ANNEAL_RUN pass. -/
def wAnStart (d : Dev) : List Bool :=
  match d.groupReady 0 .anneal, d.coreJob 0 with
  | some ms, some (_, j) =>
    let w := (ms.headD (0, { ticket := 0, tidy := 0, word := 0 })).2.word
    let q := d.annealRec (ms.map (·.1)) w
    [groupMatches ms, (d.firstPoison [(shareBase 0 + descProblem w, 64)]).isNone, q.check.isNone, (d.firstPoison q.entries).isNone, (d.streamedCheck j q).isNone, decide (d.annealVars q w = none), decide (d.annealVars q w = some .format)]
  | _, _ => []
theorem wit_anneal_starts :
    wAnStart (wSua wAnneal wAnRec []) = [true, true, true, true, true, true, false] ∧ (wAnStart (wSua wAnneal 0 [])).take 3 = [true, true, false] ∧ wAnStart (wSua wAnneal wAnRec [(0x5000, 1)]) = [true, true, true, true, true, false, true]
    ∧ wAnStart { wSua wAnneal wAnRec [] with poison := [(shareBase 0 + 0x5000) / 64] } = [true, true, true, true, true, false, false] ∧ (wAnStart { wSua wAnneal wAnRec [] with poison := [shareBase 0 / 64] }).take 2 = [true, false]
    ∧ wAnStart (wSua wAnneal (wAnRec + 2 ^ 21) []) = [true, true, true, true, false, true, false] ∧ (wAnStart { wSua wAnneal (wAnRec + 2 ^ 21) [] with poison := [(shareBase 0 + 0x1000) / 64] }).take 4 = [true, true, true, false]
    ∧ (wSua (wSweep 0) 0 []).groupReady 0 .anneal = none := by decide +kernel
theorem wit_anneal_mismatch :
    let d : Dev := { wSua wAnneal wAnRec [] with cores := [(0, { job := some 1, suaQ := [{ ticket := 1, tidy := 0, word := wAnneal + 2 ^ 97 }] }), (1, { job := some 1, suaQ := [{ ticket := 1, tidy := 0, word := wAnneal + 2 ^ 97 + 2 ^ 64 }] })] }
    (wAnStart d).take 1 = [false] := by decide +kernel
def wAnBeat (d : Dev) : List Bool := match d.coreJob 0, d.groupOn 0 with
  | some _, some (key, g) => [key == 0, (d.groups.get? 0).isSome, groupKind g.token g.word == .anneal, (d.firstPoison (d.annealReads (d.annealRec g.members g.word))).isNone, d.anFrozen (d.annealRec g.members g.word) 3]
  | _, _ => []
theorem wit_anneal_steps :
    wAnBeat (wGroup (wSua wAnneal wAnRec [(0x5003, 4)]) wAnneal 0) = [true, true, true, true, true] ∧ wAnBeat (wGroup { wSua wAnneal wAnRec [] with poison := [(shareBase 0 + 0x2000) / 64] } wAnneal 0) = [true, true, true, false, false] := by decide +kernel

def wTokWord (count : Nat) : Nat := 2 ^ 32 * 2 + 2 ^ 64 + 2 ^ 96 + 2 ^ (0x14 * 8) * count + 2 ^ (0x18 * 8) * 0x1000 + 2 ^ (0x20 * 8) * 64 + 2 ^ (0x28 * 8) * 0x2000 + 2 ^ (0x30 * 8) * 0x3000
/-- A token-draw request at the head of core 0's SUA queue, over two tokens, with a temperature. -/
def wTok (word temp : Nat) : Dev := { wSua 0 0 [(0x2013, temp / 2 ^ 24), (0x2012, temp / 2 ^ 16 % 256), (0x1003, 0x40)] with
  cores := [(0, { job := some 1, suaQ := [{ ticket := 1, tidy := 0, word, token := true }] }), (1, { job := some 1, suaQ := [{ ticket := 1, tidy := 8, word := word + 1, token := true }] })] }
/-- Which checks of a token draw pass. -/
def wTokStart (d : Dev) : List Bool :=
  match d.groupReady 0 .token, d.coreJob 0 with
  | some ((k, x) :: rest), some _ =>
    let ws := ((k, x) :: rest).map (fun (m : Nat × Desc) => (m.1, m.2.word))
    [groupMatches ((k, x) :: rest), shardsCover (ws.map (·.2)) (tkVocab x.word), (d.firstPoison [tokenTable k ws]).isNone, (upFrom 0 (tkSeqs x.word)).all (fun q => tokenParamOk (d.tokenParam k x.word q)), (d.firstPoison (tokenLogits ws)).isNone]
  | _, _ => []
theorem wit_token :
    wTokStart (wTok (wTokWord 2) 0x3F800000) = [true, true, true, true, true] ∧ wTokStart (wTok (wTokWord 2) 0) = [true, true, true, false, true] ∧ (wTokStart (wTok (wTokWord 1) 0x3F800000)).take 2 = [true, false]
    ∧ (wTokStart (wTok (wTokWord 2 + 2 ^ 97) 0x3F800000)).take 1 = [false] ∧ wTokStart { wTok (wTokWord 2) 0x3F800000 with poison := [(shareBase 0 + 0x1000) / 64] } = [true, true, true, true, false] ∧ (wTokStart { wTok (wTokWord 2) 0x3F800000 with poison := [(shareBase 0 + 0x2000) / 64] }).take 3 = [true, true, false]
    ∧ (wTok (wTokWord 2) 0).groupReady 0 .sweep = none ∧ (wSua (wSweep 0) 0 []).groupReady 0 .token = none
    ∧ (wTok (wTokWord 2) 0x3F800000).tokenWinner 0 0 [(0, wTokWord 2)] 0 = some (0, 0x40000000) := by decide +kernel

/-- A move request at the front of core 0's mover, over a running job on cores 0 and 1. -/
def wMove (word : Nat) (more : List (Nat × Nat)) : Dev := { wSua 0 0 more with cores := [(0, { job := some 1, moveQ := [{ ticket := 1, tidy := 0, word }] }), (1, { job := some 1 })] }
def wMoveAt (op count src dst : Nat) : Nat := op + 2 ^ 64 * count + 2 ^ 128 * src + 2 ^ 192 * dst
/-- A GATHER of 1 row of 64 bytes, pooled or not. -/
def wGather (pool src : Nat) : Nat := wMoveAt 2 1 src (shareBase 0 + 0x4000) + 2 ^ 34 * pool + 2 ^ 48 * 64 + 2 ^ 256 * 0x1000 + (if pool = 0 then 0 else 2 ^ 320 * 0x1040 + 2 ^ 448)
/-- What a GATHER there meets: a bad list, bad ends, a row outside, a poisoned row. -/
def wGatherSees (d : Dev) : List Bool :=
  match d.coreJob 0, (d.core 0).nextMoveReq with
  | some (_, j), some x =>
    let w := x.word
    let idx := d.gatherIndices 0 w
    [mvOp w == 2, (d.firstPoison (gatherLists 0 w)).isSome,
     (if mvPool w = 0 then none else badEnd (mvCount w) 0 0 (d.gatherEnds 0 w)).isSome, ((upFrom 0 idx.length).find? (fun k => !d.granted j (mvSrc w + idx.getD k 0 * mvRowBytes w) (mvRowBytes w) false)).isSome,
     mvPool w != 0, (idx.findSome? (fun r => d.jobPoisonLine j (mvSrc w + r * mvRowBytes w) (mvRowBytes w))).isSome]
  | _, _ => []
theorem wit_move :
    let d := wMove (wMoveAt 1 64 (shareBase 0) (shareBase 0 + 64)) []
    (d.coreJob 0).isSome = true ∧ ((d.core 0).nextMoveReq.map (fun x => (mvOp x.word, decide (mvSrc x.word + mvCount x.word ≤ mvDst x.word)))) = some (1, true) ∧ (wSua 0 0 []).coreJob 0 ≠ none ∧ (((wSua 0 0 []).core 0).nextMoveReq).isNone = true := by decide +kernel
theorem wit_gather :
    wGatherSees (wMove (wGather 0 (shareBase 0)) []) = [true, false, false, false, false, false] ∧ wGatherSees (wMove (wGather 1 (shareBase 0)) [(0x1040, 1)]) = [true, false, false, false, true, false]
    ∧ (wGatherSees (wMove (wGather 1 (shareBase 0)) [])).take 3 = [true, false, true] ∧ (wGatherSees (wMove (wGather 0 (shareBase 2)) [])).take 4 = [true, false, false, true]
    ∧ (wGatherSees { wMove (wGather 0 (shareBase 0)) [] with poison := [(shareBase 0 + 0x1000) / 64] }).take 2 = [true, true] := by decide +kernel
def wNetSees (d : Dev) : List Bool :=
  match d.coreJob 0, (d.core 0).nextMoveReq with
  | some _, some x => match d.netMembers x with
    | some ((k, y) :: rest) => [mvOp x.word == 3, (((k, y) :: rest).findSome? (fun e => (d.firstPoison [(mvSrc e.2.word, 4 * mvCount y.word)]).map (fun a => (e.1, a)))).isNone]
    | _ => [mvOp x.word == 3]
  | _, _ => []
theorem wit_net_add :
    wNetSees (wMove (wMoveAt 3 16 (shareBase 0) 0x100 + 2 ^ 96) []) = [true, true] ∧ wNetSees { wMove (wMoveAt 3 16 (shareBase 0) 0x100 + 2 ^ 96) [] with poison := [shareBase 0 / 64] } = [true, false]
    ∧ wNetSees (wMove (wMoveAt 3 16 (shareBase 0) 0x100 + 2 ^ 96 * 3) []) = [true] := by decide +kernel
/-- Whether every request of the next move reaches its unit. -/
def wReaches (d : Dev) : Bool :=
  match d.coreJob 0, (d.core 0).nextMoveReq with
  | some (id, jb), some x =>
    let w := x.word
    (match mvOp w with
      | 1 => d.moveFault id 0 [(jb.redirect (mvSrc w), mvCount w), (mvDst w, mvCount w)]
      | 2 => d.moveFault id 0 ((d.gatherIndices 0 w).map (fun r => (jb.redirect (mvSrc w + r * mvRowBytes w), mvRowBytes w)) ++ [(mvDst w, if mvCount w = 0 then 0 else mvRowBytes w)])
      | _ => d.moveFault id 0 [(shareBase 1 + mvDst w, 4 * mvCount w)]).isNone
  | _, _ => false
theorem wit_reaches :
    wReaches (wMove (wMoveAt 1 64 (shareBase 0) (shareBase 0 + 64)) []) = true ∧ wReaches (wMove (wGather 1 (shareBase 0)) [(0x1040, 1)]) = true ∧ wReaches (wMove (wGather 0 (shareBase 0)) []) = true
    ∧ wReaches (wMove (wMoveAt 3 16 (shareBase 0) 0x100 + 2 ^ 96) []) = true := by decide +kernel

theorem wit_pending :
    let d : Dev := ({} : Dev).raise 5 0x010 0 0 0
    (d.attnq 0).pendingMask ≠ 0 ∧ (d.attnq 0).pendingMask.testBit 5 = true ∧ (({} : Dev).attnq 0).records = [] ∧ (({} : Dev).attnq 0).lostClasses = 0 ∧ d.attnq 1 = ({} : Dev).attnq 1 ∧ cIllegal < 4096 := by decide +kernel

end Sys2Proof.Machine
end

section
/-! PROOFS. Accesses of hardware pages through the physical function's BAR0: where they go, what a write and a read of 1, 2, 4 or 8 bytes does, and what a read latches and clears (R5, R6, R39, R42, R70). -/

namespace Sys2Proof.Machine

/-! ### The three commands -/

theorem exec_registerWrite (s : State) (t fn page off len v : Nat) : exec (.registerWrite t fn page off len v) s = execRegisterWrite t fn page off len v s := rfl

/-- An RC_READ is a read through BAR0. -/
theorem exec_rcRead (s : State) (t fn page : Nat) (x : Span) : exec (.rcRead t fn page x) s = .next (s.endsWith t ((s.dueAt t).barRead fn page x.off x.len)) := rfl

/-- So is a LATCHING_LO_READ. -/
theorem exec_latchingLoRead (s : State) (t fn page : Nat) (x : Span) :
    exec (.latchingLoRead t fn page x) s = .next (s.endsWith t ((s.dueAt t).barRead fn page x.off x.len)) := rfl

/-- A REGISTER_WRITE to a page of BAR0 is a write through BAR0. -/
theorem exec_registerWrite_bar (s : State) (t fn : Nat) {page : Nat} (off len v : Nat) (hp : page < 0x4000) :
    exec (.registerWrite t fn page off len v) s = .next (s.endsWith t ((s.dueAt t).barWrite fn page off len v)) := by
  have hc : page ≠ configPage := by unfold configPage; omega
  rw [exec_registerWrite]
  unfold execRegisterWrite
  rw [run_eq, if_neg hc]

/-! ### Where an access goes -/

/-- The physical function always exists. -/
@[simp] theorem fnActs_zero (d : Dev) : d.fnActs 0 = true := rfl

/-- The physical function reaches the page of every unit that belongs to no large core. -/
theorem barUnit_page (d : Dev) {u : UnitId} (hu : unitOf u.page = some u) (hc : u.coreOf = none) : d.barUnit 0 u.page = some u := by
  simp [Dev.barUnit, Dev.viewPage, Dev.present, hu, hc]

/-! ### Writes -/

/-- A narrow write is refused with BAD_FORMAT. -/
theorem barWrite_narrow {d : Dev} {page len : Nat} {u : UnitId} (off v : Nat) (hm : d.modState ≠ .reset) (hl : len < 4)
    (hs : inSyncWindow 0 page = false) (hu : d.barUnit 0 page = some u) :
    d.barWrite 0 page off len v = d.refuse 0 u.page (off % 4096) len v cBadFormat := by
  simp [Dev.barWrite, Dev.narrowWrite, hm, hl, hs, hu]

/-- A write of 8 bytes is two of 4, the lower address first. -/
theorem barWrite_qword {d : Dev} (page off v : Nat) (hm : d.modState ≠ .reset) :
    d.barWrite 0 page off 8 v =
      (d.barWrite32 0 page (off % 4096 / 4 * 4) (v % 2 ^ 32)).barWrite32 0 page (off % 4096 / 4 * 4 + 4) (v / 2 ^ 32 % 2 ^ 32) := by
  simp [Dev.barWrite, hm]

/-- A write of 4 bytes is one of its dword. -/
theorem barWrite_dword {d : Dev} (page off v : Nat) (hm : d.modState ≠ .reset) :
    d.barWrite 0 page off 4 v = d.barWrite32 0 page (off % 4096 / 4 * 4) (v % 2 ^ 32) := by
  simp [Dev.barWrite, hm]

/-- A 32-bit write of a hardware page is the page's own. -/
theorem barWrite32_hardware {d : Dev} {page : Nat} {u : UnitId} (off v : Nat) (hs : inSyncWindow 0 page = false)
    (hu : d.barUnit 0 page = some u) (he : u.emulated = false) : d.barWrite32 0 page off v = d.hwWrite 0 u off v := by
  simp [Dev.barWrite32, hs, hu, he]

/-- A write of BAR2_BASE low is one of the function's base. -/
theorem hwWrite_bar2BaseLow {d : Dev} (fn v : Nat) (ha : d.unitActs .root = true) : d.hwWrite fn .root 0x050 v = d.bar2Write32 fn 0 v := by
  simp [Dev.hwWrite, Dev.unitWrite, ha]

/-- Settles O14: each write goes through BAR0, and its length says how. -/
theorem registerWriteEffects : Obligations.RegisterWriteEffects := by
  intro s t page off v u hm
  refine ⟨fun len hl hp hs hu => ?narrow, fun hp => ?qword, fun ha => ?bar2Base⟩
  case narrow => rw [exec_registerWrite_bar _ _ _ _ _ _ hp, barWrite_narrow off v hm hl hs hu]; rfl
  case qword => rw [exec_registerWrite_bar _ _ _ _ _ _ hp, barWrite_qword _ _ _ hm]
  case bar2Base =>
    have hu : (s.dueAt t).barUnit 0 0 = some .root := barUnit_page _ (u := .root) rfl rfl
    rw [exec_registerWrite_bar _ _ _ _ _ _ (by decide), barWrite_dword _ _ _ hm, barWrite32_hardware _ _ rfl hu rfl, hwWrite_bar2BaseLow _ _ ha]
    rfl

/-! ### Reads -/

/-- The answer to a 32-bit read by the physical function. -/
def dwordReply (page off data : Nat) : Reply := { fn := 0, page, off, data := data % 2 ^ 32, status := 0 }

/-- A read of 4 bytes is one of its dword. -/
theorem barRead_dword {d : Dev} {off : Nat} (page : Nat) (hm : d.modState ≠ .reset) (ho : off < 4096) : d.barRead 0 page off 4 = d.barRead32 0 page off 4 := by
  simp [Dev.barRead, hm, Nat.mod_eq_of_lt ho]

/-- A read of 8 bytes of a hardware page is two of 4, the lower address first. -/
theorem barRead_qword {d : Dev} {page off : Nat} {u : UnitId} (hm : d.modState ≠ .reset) (ho : off < 4096) (hu : d.barUnit 0 page = some u) (he : u.emulated = false) :
    d.barRead 0 page off 8 = ((d.barRead32 0 page off 4).barRead32 0 page (off + 4) 4).joinReads (d.barRead32 0 page off 4).reply := by
  simp [Dev.barRead, Dev.firmwareServed, hm, hu, he, Nat.mod_eq_of_lt ho]

/-- A 4-byte read of a hardware page answers the register, and latches and clears what the register's read does. -/
theorem barRead32_hardware {d : Dev} {page off : Nat} {u : UnitId} (hs : inSyncWindow 0 page = false) (hu : d.barUnit 0 page = some u)
    (he : u.emulated = false) (ho : off % 4 = 0) :
    d.barRead32 0 page off 4 = { d.readEffect 0 u off with reply := some (dwordReply page off (d.regValue 0 u off)) } := by
  have h4 : off / 4 * 4 = off := by omega
  simp [Dev.barRead32, Dev.answerRead, lanes, dwordReply, hs, hu, he, h4]

/-! ### LATE_LAUNCHES -/

theorem regValue_lateLaunches {d : Dev} (ha : d.unitActs .launch = true) : d.regValue 0 .launch 0x048 = d.lateLaunches := by
  have hl : d.readsLatched .launch 0x048 = false := rfl
  simp [Dev.regValue, Dev.liveReg, Dev.unitReg, Dev.launchReg, ha, hl]

/-- Reading it latches nothing and clears it. -/
theorem readEffect_lateLaunches {d : Dev} (ha : d.unitActs .launch = true) : d.readEffect 0 .launch 0x048 = { d with lateLaunches := 0 } := by
  have hl : d.latchedBy .launch 0x048 = [] := rfl
  simp [Dev.readEffect, Dev.rcClear, ha, hl]

/-! ### DEVICE_TIME -/

/-- The key under which the high half of device time is latched for the physical function. -/
def timeHiKey : Nat := latchKey 0 UnitId.timeBase.page 0x044

/-- The device once a read of the low half of device time has latched the high half. -/
def Dev.latchTime (d : Dev) : Dev := { d with hiLatch := d.hiLatch.put timeHiKey (d.deviceTime / 2 ^ 32 % 2 ^ 32) }

theorem latchTime_hiLatch (d : Dev) : d.latchTime.hiLatch.getD timeHiKey 0 = d.deviceTime / 2 ^ 32 % 2 ^ 32 := getD_put_self ..

/-- DEVICE_TIME low reads the clock. -/
theorem regValue_timeLo {d : Dev} (ha : d.unitActs .timeBase = true) : d.regValue 0 .timeBase 0x040 = d.deviceTime % 2 ^ 32 := by
  have hl : d.readsLatched .timeBase 0x040 = false := rfl
  simp [Dev.regValue, Dev.liveReg, Dev.unitReg, Dev.timeReg, word32, ha, hl]

/-- DEVICE_TIME high reads its latch, not the clock. -/
theorem regValue_timeHi {d : Dev} (ha : d.unitActs .timeBase = true) : d.regValue 0 .timeBase 0x044 = d.hiLatch.getD timeHiKey 0 := by
  have hl : d.readsLatched .timeBase 0x044 = true := rfl
  simp [Dev.regValue, Dev.latchReset, timeHiKey, ha, hl]

theorem readEffect_timeLo {d : Dev} (ha : d.unitActs .timeBase = true) : d.readEffect 0 .timeBase 0x040 = d.latchTime := by
  have hl : d.latchedBy .timeBase 0x040 = [0x044] := rfl
  simp [Dev.readEffect, Dev.rcClear, Dev.latchTime, timeHiKey, Dev.liveReg, Dev.unitReg, Dev.timeReg, word32, ha, hl]

theorem readEffect_timeHi (d : Dev) : d.readEffect 0 .timeBase 0x044 = d := by
  have hl : d.latchedBy .timeBase 0x044 = [] := rfl
  simp [Dev.readEffect, Dev.rcClear, hl]

theorem barUnit_timeBase (d : Dev) : d.barUnit 0 UnitId.timeBase.page = some .timeBase := barUnit_page d rfl rfl

/-- A 4-byte read of DEVICE_TIME low answers the low word and latches the high one. -/
theorem barRead32_timeLo {d : Dev} (ha : d.unitActs .timeBase = true) :
    d.barRead32 0 UnitId.timeBase.page 0x040 4 = { d.latchTime with reply := some (dwordReply UnitId.timeBase.page 0x040 d.deviceTime) } := by
  rw [barRead32_hardware rfl (barUnit_timeBase d) rfl rfl, readEffect_timeLo ha, regValue_timeLo ha]
  simp only [dwordReply, Nat.mod_mod]

/-- A 4-byte read of DEVICE_TIME high answers what was latched, and does nothing else. -/
theorem barRead32_timeHi {d : Dev} (ha : d.unitActs .timeBase = true) :
    d.barRead32 0 UnitId.timeBase.page 0x044 4 = { d with reply := some (dwordReply UnitId.timeBase.page 0x044 (d.hiLatch.getD timeHiKey 0)) } := by
  rw [barRead32_hardware rfl (barUnit_timeBase d) rfl rfl, readEffect_timeHi, regValue_timeHi ha]

/-- An 8-byte read of DEVICE_TIME answers both words of one moment. -/
theorem barRead_time_qword {d : Dev} (hm : d.modState ≠ .reset) (ha : d.unitActs .timeBase = true) :
    (d.barRead 0 UnitId.timeBase.page 0x040 8).reply =
      some { fn := 0, page := UnitId.timeBase.page, off := 0x040, data := d.deviceTime % 2 ^ 32 + 2 ^ 32 * (d.deviceTime / 2 ^ 32 % 2 ^ 32), status := 0 } := by
  have hf := barRead32_timeLo ha
  generalize hd : d.barRead32 0 UnitId.timeBase.page 0x040 4 = e at hf
  have he : e.unitActs .timeBase = true := by rw [hf]; exact ha
  have hl : e.hiLatch.getD timeHiKey 0 = d.deviceTime / 2 ^ 32 % 2 ^ 32 := by rw [hf]; exact latchTime_hiLatch d
  have hr : e.reply = some (dwordReply UnitId.timeBase.page 0x040 d.deviceTime) := by rw [hf]
  rw [barRead_qword hm (by decide) (barUnit_timeBase d) rfl, hd, barRead32_timeHi he, hl, hr]
  simp [Dev.joinReads, dwordReply]

/-- Settles O15: LATE_LAUNCHES clears on read, and the high half of device time is read from its latch alone. -/
theorem registerReadEffects : Obligations.RegisterReadEffects := by
  intro s t hm
  refine ⟨fun ha => ?lateLaunches, fun ha => ⟨_, exec_latchingLoRead .., ?answer, fun n hn => ?latched⟩, fun ha => ⟨_, exec_latchingLoRead .., ?both⟩⟩
  case lateLaunches =>
    have hu : (s.dueAt t).barUnit 0 UnitId.launch.page = some .launch := barUnit_page _ rfl rfl
    rw [exec_rcRead, barRead_dword _ hm (by decide), barRead32_hardware rfl hu rfl rfl, readEffect_lateLaunches ha, regValue_lateLaunches ha]
    rfl
  case answer =>
    rw [State.endsWith_reply, barRead_dword _ hm (by decide), barRead32_timeLo ha]
    rfl
  case latched =>
    rw [regValue_timeHi hn]
    dsimp only
    rw [State.endsWith_hiLatch, barRead_dword _ hm (by decide), barRead32_timeLo ha]
    exact latchTime_hiLatch _
  case both => rw [State.endsWith_reply, barRead_time_qword hm ha]

end Sys2Proof.Machine
end

section
/-! PROOFS. A tidy core's own instructions: base instructions given or fetched, writes of its two CSRs, waits for tickets, and operations on synchronisation objects (R17, R82, R86, R110, R114, R117, R211, R251, R269, R400, R403). -/

namespace Sys2Proof.Machine

/-! ### The commands -/

theorem exec_tidyCoreInstruction_fetch (s : State) (t tc : Nat) :
    exec (.tidyCoreInstruction t tc .fetch) s = .next (s.endsWith t ((s.dueAt t).tidyFetch tc)) := rfl

theorem exec_tidyCoreInstruction_given (s : State) (t tc : Nat) {eff : TidyEffect} (h : eff ≠ .fetch) :
    exec (.tidyCoreInstruction t tc eff) s = .next (s.endsWith t ((s.dueAt t).tidyBase tc eff)) := by
  show execTidyCoreInstruction .. = _
  unfold execTidyCoreInstruction
  rw [run_eq, if_neg h]

theorem exec_xrCsrWrite (s : State) (t tc rs1 : Nat) {w : CsrSwap} (h : w.csr = 0x800 ∨ w.csr = 0x801) :
    exec (.xrCsrWrite t tc w rs1) s = .next (s.endsWith t ((s.dueAt t).tidyRun tc
      (fun _ _ x d => (d.updTidy tc (fun y => y.csrSet w.csr (x.get rs1))).retire tc w.rd (x.csrGet w.csr)))) := by
  show execXrCsrWrite .. = _
  unfold execXrCsrWrite
  rw [run_eq, if_pos h]

/-- A write of any other CSR is not an XR_CSR_WRITE, and changes nothing. -/
theorem exec_xrCsrWrite_other (s : State) (t tc rs1 : Nat) {w : CsrSwap} (h : ¬(w.csr = 0x800 ∨ w.csr = 0x801)) :
    exec (.xrCsrWrite t tc w rs1) s = .next (s.endsWith t (s.dueAt t)) := by
  show execXrCsrWrite .. = _
  unfold execXrCsrWrite
  rw [run_eq, if_neg h]

theorem exec_xmWait (s : State) (t tc rd rs1 : Nat) : exec (.xmWait t tc rd rs1) s = .next (s.endsWith t ((s.dueAt t).ticketWait tc rd rs1 false)) := rfl

theorem exec_xdWait (s : State) (t tc rd rs1 : Nat) : exec (.xdWait t tc rd rs1) s = .next (s.endsWith t ((s.dueAt t).ticketWait tc rd rs1 true)) := rfl

theorem exec_xmDone (s : State) (t tc rd rs1 : Nat) : exec (.xmDone t tc rd rs1) s = .next (s.endsWith t ((s.dueAt t).xmDone tc rd rs1)) := rfl

theorem exec_xsPost (s : State) (t tc rd rs1 rs2 : Nat) : exec (.xsPost t tc rd rs1 rs2) s = .next (s.endsWith t ((s.dueAt t).xsPost tc rd rs1 rs2)) := rfl

theorem exec_xsClear (s : State) (t tc rd rs1 : Nat) : exec (.xsClear t tc rd rs1) s = .next (s.endsWith t ((s.dueAt t).xsClear tc rd rs1)) := rfl

/-! ### Registers of a core -/

/-- A register read after a write of one: x0 reads zero whatever was written. -/
theorem Tidy.get_set (x : Tidy) (r v k : Nat) : (x.set r v).get k = if k % 32 = r % 32 ∧ k % 32 ≠ 0 then v % 2 ^ 64 else x.get k := by
  unfold Tidy.set Tidy.get w64
  by_cases hr : r % 32 = 0
  · have hk : ¬(k % 32 = r % 32 ∧ k % 32 ≠ 0) := fun ⟨h1, h2⟩ => h2 (h1.trans hr)
    rw [if_pos hr, if_neg hk]
  · by_cases hk : k % 32 = r % 32
    · simp [hk, hr]
    · simp [hr, hk, getD_put_ne _ _ _ (Ne.symm hk)]

@[simp] theorem Tidy.set_pc (x : Tidy) (r v : Nat) : (x.set r v).pc = x.pc := by unfold Tidy.set; split <;> rfl
@[simp] theorem Tidy.set_v (x : Tidy) (r v : Nat) : (x.set r v).v = x.v := by unfold Tidy.set; split <;> rfl
@[simp] theorem Tidy.set_fcsr (x : Tidy) (r v : Nat) : (x.set r v).fcsr = x.fcsr := by unfold Tidy.set; split <;> rfl

@[simp] theorem tidy_updTidy_self (d : Dev) (k : Nat) (f : Tidy → Tidy) : (d.updTidy k f).tidy k = f (d.tidy k) := by simp [Dev.updTidy, Dev.tidy]

theorem tidy_updTidy_ne (d : Dev) {k q : Nat} (f : Tidy → Tidy) (h : k ≠ q) : (d.updTidy k f).tidy q = d.tidy q := by
  simp [Dev.updTidy, Dev.tidy, getD_put_ne _ _ _ h]

/-! ### Retiring -/

/-- The registers of a core after it retires an instruction. -/
theorem tidy_retire_self (d : Dev) (tc rd v : Nat) :
    (d.retire tc rd v).tidy tc = { (d.tidy tc).set rd v with pc := w64 ((d.tidy tc).pc + 4), tstate := .running, wait := none } := by
  simp [Dev.retire]

theorem tidy_retire_ne (d : Dev) {tc q : Nat} (rd v : Nat) (h : tc ≠ q) : (d.retire tc rd v).tidy q = d.tidy q := by
  unfold Dev.retire
  rw [tidy_updTidy_ne _ _ h, note_tidy]

@[simp] theorem retire_devMem (d : Dev) (tc rd v : Nat) : (d.retire tc rd v).devMem = d.devMem := rfl

theorem get_retire (d : Dev) (tc rd v k : Nat) :
    ((d.retire tc rd v).tidy tc).get k = if k % 32 = rd % 32 ∧ k % 32 ≠ 0 then v % 2 ^ 64 else (d.tidy tc).get k := by
  rw [tidy_retire_self, ← Tidy.get_set]
  rfl

/-! ### Base instructions -/

/-- The registers of a core after a given base instruction. -/
def Tidy.given (writes : List RegWrite) (nextPc flags : Nat) (x : Tidy) : Tidy :=
  { (writes.foldl Tidy.write x).accrue (flags % 32) with pc := w64 nextPc }

section
variable {d : Dev} {tc id : Nat} {j : Job} (hj : d.tidyJob tc = some (id, j)) (hh : (d.tidy tc).halted = false)
include hj hh

theorem tidyBase_retire (writes : List RegWrite) (addrs : List Nat) (stores : List Host.Cell) (nextPc flags : Nat) :
    d.tidyBase tc (.retire writes addrs stores nextPc flags) = (d.taking id tc).tidyApply id tc j (addrs.map (fun a => (a, 1))) stores
      (Tidy.given writes nextPc flags) := tidyRun_eq hj hh _

theorem tidyBase_trap (cause tval : Nat) : d.tidyBase tc (.trap cause tval) = (d.taking id tc).tidyTrap id tc cause tval := tidyRun_eq hj hh _

theorem tidyBase_stepEnd : d.tidyBase tc .stepEnd = (d.taking id tc).endStep id (tc / 8) (tc % 8) := tidyRun_eq hj hh _

end

/-! ### What an encoding computes -/

/-- What a word of 4 bytes, or of 2 by the instruction it stands for, computes. -/
def rvOut (m : RvMem) (x : Tidy) (len w : Nat) : RvOut :=
  if len = 4 then rvBase m x 4 w else (expandC w).elim .illegal (rvBase m x 2)

/-- What becomes of the outcome of an instruction word. -/
def Dev.applyOut (d : Dev) (id tc : Nat) (j : Job) (w : Nat) : RvOut → Dev
  | .next y loads stores => d.tidyApply id tc j loads stores (fun _ => y)
  | .trap cause tval => d.tidyTrap id tc cause tval
  | .illegal => d.tidyTrap id tc exIllegal w

theorem tidyExec_eq (d : Dev) (id tc : Nat) (j : Job) (x : Tidy) (len w : Nat) :
    d.tidyExec id tc j x len w = d.applyOut id tc j w (rvOut (d.rvMem j) x len w) := by
  unfold Dev.tidyExec rvOut
  cases expandC w <;> rfl

/-! ### The two CSRs -/

theorem csrSet_xrStream (x : Tidy) (v : Nat) : x.csrSet 0x800 v = { x with xrStream := w64 v } := rfl
theorem csrSet_xrStep (x : Tidy) (v : Nat) : x.csrSet 0x801 v = { x with xrStep := w64 v } := rfl
theorem csrGet_xrStream (x : Tidy) : x.csrGet 0x800 = x.xrStream := rfl
theorem csrGet_xrStep (x : Tidy) : x.csrGet 0x801 = x.xrStep := rfl

/-! ### Waits, `xm.done`, and synchronisation -/

section
variable {d : Dev} {tc id : Nat} {j : Job} (hj : d.tidyJob tc = some (id, j)) (hh : (d.tidy tc).halted = false)
include hj hh

/-- A wait for a ticket whose request is queued stalls the core. -/
theorem ticketWait_queued (rd rs1 : Nat) {move : Bool}
    (hw : ((d.taking id tc).core (tc / 8)).waiting move (((d.taking id tc).tidy tc).get rs1 % 65536) = true) :
    d.ticketWait tc rd rs1 move = (d.taking id tc).updTidy tc (fun x =>
      { x with tstate := .waitEngine, wait := some { move, ticket := ((d.taking id tc).tidy tc).get rs1 % 65536, rd } }) :=
  (tidyRun_eq hj hh _).trans (if_pos hw)

/-- A wait for any other ticket retires at once. -/
theorem ticketWait_completed (rd rs1 : Nat) {move : Bool}
    (hw : ((d.taking id tc).core (tc / 8)).waiting move (((d.taking id tc).tidy tc).get rs1 % 65536) = false) :
    d.ticketWait tc rd rs1 move = (d.taking id tc).retire tc rd 0 :=
  (tidyRun_eq hj hh _).trans (if_neg (by rw [hw]; decide))

/-- An operation on an object of the job's context is applied. -/
theorem tidySync_own (rd : Nat) {obj : Nat} (op : Dev → Dev) (ht : ((d.taking id tc).sync obj).type ≠ .unused)
    (ho : ((d.taking id tc).sync obj).owner = j.ctx) : d.tidySync tc rd obj op = (op (d.taking id tc)).retire tc rd 0 :=
  (tidyRun_eq hj hh _).trans (if_neg (not_or.mpr ⟨ht, not_not.mpr ho⟩))

/-- An operation on any other object ends the job with KIND 0x0D. -/
theorem tidySync_other (rd : Nat) {obj : Nat} (op : Dev → Dev)
    (h : ((d.taking id tc).sync obj).type = .unused ∨ ((d.taking id tc).sync obj).owner ≠ j.ctx) :
    d.tidySync tc rd obj op = (d.taking id tc).faultJob id 0x0D 0 cJobFault (tidyPage tc) obj :=
  (tidyRun_eq hj hh _).trans (if_pos h)

end

/-! ### A core that can take no instruction -/

theorem tidyFetch_none {d : Dev} {tc : Nat} (h : d.tidyJob tc = none) : d.tidyFetch tc = d := by unfold Dev.tidyFetch; rw [h]

/-- A core that can take none stays, whatever its instruction. -/
theorem exec_tidyCoreInstruction_none {s : State} {t tc : Nat} (h : (s.dueAt t).tidyJob tc = none) (eff : TidyEffect) :
    exec (.tidyCoreInstruction t tc eff) s = .next (s.endsWith t (s.dueAt t)) := by
  by_cases he : eff = .fetch
  · rw [he, exec_tidyCoreInstruction_fetch, tidyFetch_none h]
  · rw [exec_tidyCoreInstruction_given s t tc he, Dev.tidyBase, tidyRun_none h]

theorem exec_xrCsrWrite_none {s : State} {t tc : Nat} (h : (s.dueAt t).tidyJob tc = none) (w : CsrSwap) (rs1 : Nat) :
    exec (.xrCsrWrite t tc w rs1) s = .next (s.endsWith t (s.dueAt t)) := by
  by_cases hc : w.csr = 0x800 ∨ w.csr = 0x801
  · rw [exec_xrCsrWrite s t tc rs1 hc, tidyRun_none h]
  · rw [exec_xrCsrWrite_other s t tc rs1 hc]

/-! ### A core that takes its instruction -/

section
variable {s : State} {t tc id : Nat} {j : Job} (hj : (s.dueAt t).tidyJob tc = some (id, j)) (hh : ((s.dueAt t).tidy tc).halted = false)
include hj hh

/-- A given base instruction does what its loads, stores and registers do. -/
theorem exec_retire {y : Dev} {writes : List RegWrite} {addrs : List Nat} {stores : List Host.Cell} {nextPc flags : Nat}
    (h : ((s.dueAt t).taking id tc).tidyApply id tc j (addrs.map (fun a => (a, 1))) stores
      (Tidy.given writes nextPc flags) = y) :
    exec (.tidyCoreInstruction t tc (.retire writes addrs stores nextPc flags)) s = .next (s.endsWith t y) := by
  rw [exec_tidyCoreInstruction_given s t tc (by simp), tidyBase_retire hj hh, h]

theorem exec_trap (cause tval : Nat) :
    exec (.tidyCoreInstruction t tc (.trap cause tval)) s = .next (s.endsWith t (((s.dueAt t).taking id tc).tidyTrap id tc cause tval)) := by
  rw [exec_tidyCoreInstruction_given s t tc (by simp), tidyBase_trap hj hh]

theorem exec_stepEnd :
    exec (.tidyCoreInstruction t tc .stepEnd) s = .next (s.endsWith t (((s.dueAt t).taking id tc).endStep id (tc / 8) (tc % 8))) := by
  rw [exec_tidyCoreInstruction_given s t tc (by simp), tidyBase_stepEnd hj hh]

/-- XR_STREAM takes rs1, rd its old value. -/
theorem exec_xrCsrWrite_stream (rd rs1 : Nat) :
    exec (.xrCsrWrite t tc ⟨rd, 0x800⟩ rs1) s = .next (s.endsWith t ((((s.dueAt t).taking id tc).updTidy tc
      (fun y => { y with xrStream := w64 ((((s.dueAt t).taking id tc).tidy tc).get rs1) })).retire tc rd (((s.dueAt t).taking id tc).tidy tc).xrStream)) := by
  rw [exec_xrCsrWrite s t tc rs1 (.inl rfl), tidyRun_eq hj hh]
  simp only [csrSet_xrStream, csrGet_xrStream]

/-- XR_STEP takes rs1, rd its old value. -/
theorem exec_xrCsrWrite_step (rd rs1 : Nat) :
    exec (.xrCsrWrite t tc ⟨rd, 0x801⟩ rs1) s = .next (s.endsWith t ((((s.dueAt t).taking id tc).updTidy tc
      (fun y => { y with xrStep := w64 ((((s.dueAt t).taking id tc).tidy tc).get rs1) })).retire tc rd (((s.dueAt t).taking id tc).tidy tc).xrStep)) := by
  rw [exec_xrCsrWrite s t tc rs1 (.inr rfl), tidyRun_eq hj hh]
  simp only [csrSet_xrStep, csrGet_xrStep]

/-- A fetched instruction of the base set does what its encoding computes. -/
theorem exec_fetch_base {len w : Nat} {o : RvOut} {y : Dev} (hlen : (s.dueAt t).fetchLen j ((s.dueAt t).tidy tc).pc = len)
    (hw : ((s.dueAt t).rvMem j).read ((s.dueAt t).tidy tc).pc len = w)
    (hg : (s.dueAt t).granted j ((s.dueAt t).tidy tc).pc 2 false = true) (hp : (s.dueAt t).jobPoison j ((s.dueAt t).tidy tc).pc 2 = false)
    (hgl : ((s.dueAt t).taking id tc).granted j ((s.dueAt t).tidy tc).pc len false = true)
    (hl : ((s.dueAt t).taking id tc).lostPath (tc / 8) [(j.redirect ((s.dueAt t).tidy tc).pc, len)] = none)
    (hq : ((s.dueAt t).taking id tc).jobPoisonLine j ((s.dueAt t).tidy tc).pc len = none) (hc : isCustom w = false ∨ (s.dueAt t).customOf tc w = none)
    (ho : rvOut (((s.dueAt t).taking id tc).rvMem j) (((s.dueAt t).taking id tc).tidy tc) len w = o)
    (hy : ((s.dueAt t).taking id tc).applyOut id tc j w o = y) :
    exec (.tidyCoreInstruction t tc .fetch) s = .next (s.endsWith t y) := by
  subst hlen hw
  rw [exec_tidyCoreInstruction_fetch, tidyFetch_base hj hh hg hp hgl hl hq hc, tidyExec_eq, ho, hy]

end

/-- Settles O50: each instruction runs its body on the device as the core takes it, and a body is one of the cases above. -/
theorem tidyCoresRetireTrapWaitAndPost : Obligations.TidyCoresRetireTrapWaitAndPost := by
  intro s t tc rd rs1 rs2 csr id cause tval nextPc flags j writes addrs ls stores eff z y d e x c from' fine into loads base trapped pc len w out
  refine ⟨fun hj hh => ?takes, fun z k v => ?frame, fun hn => ?stays⟩
  case takes =>
    refine ⟨fun ⟨hg, hp, hq⟩ ⟨hs, hr⟩ => ?retires, fun r hr => ?load, fun b hg hb => ?lost, fun a hg hp ha => ?poison, fun b ⟨hg, hp, hq⟩ hb => ?store,
      exec_trap hj hh cause tval, exec_stepEnd hj hh, fun hg hp hgl hl hq hc => ?base, fun hg hg4 hp hp4 hl hc hz => ?custom,
      exec_xrCsrWrite_stream hj hh rd rs1, exec_xrCsrWrite_step hj hh rd rs1,
      fun hw => ?xmStall, fun hw => ?xmGo, fun hw => ?xdStall, fun hw => ?xdGo, ?xmDone, fun ht ho => ?own, fun ho => ?other⟩
    case retires =>
      obtain ⟨k, r, o, h⟩ := tidyApply_next e id tc j loads stores (Tidy.given writes nextPc flags) hg hp hq hs hr
      exact ⟨k, r, o, exec_retire hj hh h⟩
    case load =>
      obtain ⟨o, h⟩ := tidyApply_load e id tc j loads stores (Tidy.given writes nextPc flags) hr
      exact ⟨o, exec_retire hj hh h⟩
    case lost => exact exec_retire hj hh (tidyApply_lost e id tc j loads stores _ hg hb)
    case poison => exact exec_retire hj hh (tidyApply_poison e id tc j loads stores _ hg hp ha)
    case store =>
      obtain ⟨o, h⟩ := tidyApply_store e id tc j loads stores (Tidy.given writes nextPc flags) hg hp hq hb
      exact ⟨o, exec_retire hj hh h⟩
    case base =>
      have hout : rvOut (e.rvMem j) x len w = out := by
        unfold rvOut
        dsimp only [out]
        cases expandC w <;> rfl
      have hfetch {o : RvOut} {y : Dev} : out = o → e.applyOut id tc j w o = y → exec (.tidyCoreInstruction t tc .fetch) s = .next (s.endsWith t y) :=
        fun ho => exec_fetch_base hj hh rfl rfl hg hp hgl hl hq hc (hout.trans ho)
      refine ⟨fun ho ⟨hg, hp, hq⟩ ⟨hs, hr⟩ => ?retires, fun r ho hr => ?load, fun b ho ⟨hg, hp, hq⟩ hb => ?store, fun ho => hfetch ho rfl, fun ho => hfetch ho rfl⟩
      case retires =>
        obtain ⟨k, r, o, h⟩ := tidyApply_next e id tc j ls stores (fun _ => y) hg hp hq hs hr
        exact ⟨k, r, o, hfetch ho h⟩
      case load =>
        obtain ⟨o, h⟩ := tidyApply_load e id tc j ls stores (fun _ => y) hr
        exact ⟨o, hfetch ho h⟩
      case store =>
        obtain ⟨o, h⟩ := tidyApply_store e id tc j ls stores (fun _ => y) hg hp hq hb
        exact ⟨o, hfetch ho h⟩
    case custom => rw [exec_tidyCoreInstruction_fetch, tidyFetch_custom hj hg hg4 hp hp4 hl hc hz]
    case xmStall => rw [exec_xmWait, ticketWait_queued hj hh rd rs1 hw]; rfl
    case xmGo => rw [exec_xmWait, ticketWait_completed hj hh rd rs1 hw]; rfl
    case xdStall => rw [exec_xdWait, ticketWait_queued hj hh rd rs1 hw]; rfl
    case xdGo => rw [exec_xdWait, ticketWait_completed hj hh rd rs1 hw]; rfl
    case xmDone => rw [exec_xmDone, Dev.xmDone, tidyRun_eq hj hh]; rfl
    case own =>
      rw [exec_xsPost, exec_xsClear, Dev.xsPost, Dev.xsClear, tidySync_own hj hh rd _ ht ho, tidySync_own hj hh rd _ ht ho, ← ho]
      exact ⟨rfl, rfl⟩
    case other =>
      rw [exec_xsPost, exec_xsClear, Dev.xsPost, Dev.xsClear, tidySync_other hj hh rd _ ho, tidySync_other hj hh rd _ ho]
      exact ⟨rfl, rfl⟩
  case frame =>
    refine ⟨get_retire z tc rd v k, ?_, ?_, ?_, retire_devMem z tc rd v, fun q hq => tidy_retire_ne z rd v hq⟩
    · rw [tidy_retire_self]; rfl
    · rw [tidy_retire_self, Tidy.set_v]
    · rw [tidy_retire_self, Tidy.set_fcsr]
  case stays =>
    refine ⟨exec_tidyCoreInstruction_none hn eff, ?_, ?_, ?_, ?_, ?_, exec_xrCsrWrite_none hn _ rs1⟩
    · rw [exec_xmWait, Dev.ticketWait, tidyRun_none hn]
    · rw [exec_xdWait, Dev.ticketWait, tidyRun_none hn]
    · rw [exec_xmDone, Dev.xmDone, tidyRun_none hn]
    · rw [exec_xsPost, Dev.xsPost, Dev.tidySync, tidyRun_none hn]
    · rw [exec_xsClear, Dev.xsClear, Dev.tidySync, tidyRun_none hn]

end Sys2Proof.Machine
end

section
/-! PROOFS. Slots and spares, and requests of the network from their arrival to their reply (R20, R21, R275, R276, R283, R416, R417). -/

namespace Sys2Proof.Machine

/-! ### The commands -/

theorem exec_slotRetirement (s : State) (t slot : Nat) : exec (.slotRetirement t slot) s = .next (s.endsWith t ((s.dueAt t).retireSlot slot)) := rfl

theorem exec_spareSubstitution (s : State) (t n : Nat) (pass : Bool) :
    exec (.spareSubstitution t n pass) s = .next (s.endsWith t ((s.dueAt t).substitute n pass)) := rfl

/-- Outside RESET a request reaches its target. -/
theorem exec_networkRequestArrival {s : State} {t : Nat} (hm : (s.dueAt t).modState ≠ .reset) (q : NetRequest) :
    exec (.networkRequestArrival t q) s = .next (s.endsWith t ((s.dueAt t).requestArrives q)) := by
  show execNetworkRequestArrival .. = _
  unfold execNetworkRequestArrival
  rw [run_eq, if_neg hm]

theorem exec_networkReplyArrival (s : State) (t id : Nat) : exec (.networkReplyArrival t id) s = .next (s.endsWith t ((s.dueAt t).replyArrives id)) := rfl

/-- A notice of a unit's present epoch is learned. -/
theorem exec_epochNotice (s : State) (t port page : Nat) :
    exec (.epochNotice t port page ((s.dueAt t).epoch page)) s =
      .next (s.endsWith t { s.dueAt t with learned := (s.dueAt t).learned.put (65536 * port + page) (s.dueAt t).now }) := by
  show execEpochNotice .. = _
  unfold execEpochNotice
  rw [run_eq, if_pos rfl]

theorem exec_trackingEntryGrant {h : Nat} (hh : h < 32) (s : State) (t : Nat) :
    exec (.trackingEntryGrant t h) s = .next (s.endsWith t ((s.dueAt t).trackGrant h)) := by
  show execTrackingEntryGrant .. = _
  unfold execTrackingEntryGrant
  rw [run_eq, if_pos hh]

/-- A refresh of an ACTIVE stack counts itself and the requests that it delays. -/
theorem exec_dramRefresh {s : State} {t h : Nat} (hh : h < 32) (ha : ((s.dueAt t).drams.getD h {}).hstate = .active) (waits : Nat) :
    exec (.dramRefresh t h waits) s = .next (s.endsWith t (({ s.dueAt t with drams := (s.dueAt t).drams.put h { (s.dueAt t).drams.getD h {} with
      refreshes := satAdd 0xFFFFFFFF ((s.dueAt t).drams.getD h {}).refreshes 1
      refreshWaits := satAdd 0xFFFFFFFF ((s.dueAt t).drams.getD h {}).refreshWaits waits } } : Dev).noteFor none (UnitId.dram h).page 0x482 waits)) := by
  show execDramRefresh .. = _
  unfold execDramRefresh
  rw [run_eq]
  dsimp only
  rw [if_pos (by rw [ha]; simpa using hh)]

/-! ### Retirement of a slot (R20) -/

section
variable {d : Dev} {slot : Nat} (hs : slot < 20) (hr : bit d.geom.retired slot = false) (hb : 8 ≤ d.boot.stage) (hm : d.mayRetire slot = true)
include hs hr hb hm

/-- What stops a retirement does not hold of a slot in service whose firmware runs. -/
theorem retireSlot_open : ¬(20 ≤ slot ∨ bit d.geom.retired slot = true ∨ d.boot.stage < 8 ∨ (!d.mayRetire slot) = true) := by
  rw [hr, hm]
  simp only [Bool.false_eq_true, Bool.not_true, or_false, false_or]
  omega

/-- A slot whose core no context holds is burned at once. -/
theorem retireSlot_unheld (hn : ∀ k, d.coreInSlot slot = some k → d.coreHolder k = none) : d.retireSlot slot = (d.burnSlot slot).evalLaunches := by
  unfold Dev.retireSlot
  dsimp only
  rw [if_neg (retireSlot_open hs hr hb hm)]
  cases hk : d.coreInSlot slot with
  | none => rfl
  | some k =>
    exact if_neg (by simp [hn k hk])

/-- While a context holds the core of its slot, the retirement is pending. -/
theorem retireSlot_held {k j : Nat} (hk : d.coreInSlot slot = some k) (hj : d.coreHolder k = some j) (hp : bit d.geom.pendingRetire slot = false) :
    d.retireSlot slot = { d with geom := { d.geom with pendingRetire := d.geom.pendingRetire ||| 2 ^ slot, generation := (d.geom.generation + 1) % 65536 } } := by
  unfold Dev.retireSlot
  dsimp only
  rw [if_neg (retireSlot_open hs hr hb hm), hk]
  exact (if_pos (by simp [hj])).trans (if_neg (by rw [hp]; decide))

end

theorem burnSlot_retired (d : Dev) (slot : Nat) : (d.burnSlot slot).geom.retired = d.geom.retired ||| 2 ^ slot := rfl

/-! ### Substitution (R19, R21) -/

@[simp] theorem class6_geom (d : Dev) (page low cause : Nat) : (d.class6 page low cause).geom = d.geom := by
  obtain ⟨_, h⟩ := raiseFor_form d 0 6 cUnitReset page (low + 65536 * cause) d.deviceTime
  unfold Dev.class6 Dev.raise
  rw [h]

@[simp] theorem treeChanged_geom (d : Dev) : d.treeChanged.geom = d.geom := rfl
@[simp] theorem evalLaunches_geom (d : Dev) : d.evalLaunches.geom = d.geom := rfl

/-- A spare that passes its self-test becomes the slot of the core, whose SRAM contents are then due. -/
theorem substitute_passed {d : Dev} {n : Nat} (hn : n < d.nCores) (hr : bit d.geom.retired (d.geom.slots.getD n 20) = true)
    (hf : d.geom.spareFree (d.geom.slots.getD n 20 / 5) = true) (hb : 8 ≤ d.boot.stage) (hm : d.mayRetire (d.geom.slots.getD n 20) = true)
    (hh : d.coreHolder n = none) :
    (d.substitute n true).geom.slots = d.geom.slots.set n (spareSlot (d.geom.slots.getD n 20 / 5))
      ∧ (d.substitute n true).geom.restoreDue = setBit d.geom.restoreDue n := by
  have hopen : ¬(d.nCores ≤ n ∨ bit d.geom.retired (d.geom.slots.getD n 20) = false ∨ d.geom.spareFree (d.geom.slots.getD n 20 / 5) = false
      ∨ d.boot.stage < 8 ∨ (!d.mayRetire (d.geom.slots.getD n 20)) = true ∨ (d.coreHolder n).isSome = true) := by
    rw [hr, hf, hm, hh]
    simp only [Bool.true_eq_false, Bool.false_eq_true, Bool.not_true, Option.isSome_none, or_false, false_or]
    omega
  unfold Dev.substitute
  dsimp only
  rw [if_neg hopen, if_neg (by decide)]
  rw [evalLaunches_geom, class6_geom, treeChanged_geom]
  exact ⟨rfl, rfl⟩

/-! ### Tracking entries (R275, R276) -/

/-- What a request does at one stack keeps the requests of the network. -/
theorem trackRequest_netReqs (d : Dev) (s : Nat) (r : NetReq) (h : Nat) : (d.trackRequest s r h).1.netReqs = d.netReqs := by
  unfold Dev.trackRequest; split <;> rfl

theorem trackRequest_reply (d : Dev) (s : Nat) (r : NetReq) (h : Nat) : (d.trackRequest s r h).2.reply = r.reply := by
  unfold Dev.trackRequest; split <;> rfl

/-- A request holds or awaits an entry of a stack. -/
def NetReq.tracked (r : NetReq) (h : Nat) : Prop := h ∈ r.entries ∨ h ∈ r.wants

theorem trackRequest_tracked (d : Dev) (s : Nat) (r : NetReq) (h : Nat) : (d.trackRequest s r h).2.tracked h := by
  unfold Dev.trackRequest NetReq.tracked; split <;> simp

theorem trackRequest_keeps_tracked (d : Dev) (s : Nat) {r : NetReq} {k : Nat} (h : Nat) (hk : r.tracked k) : (d.trackRequest s r h).2.tracked k := by
  unfold NetReq.tracked at *
  unfold Dev.trackRequest
  split
  · exact hk.imp_left (List.mem_append_left _)
  · exact hk.imp_right (List.mem_append_left _)

/-- A request takes or awaits its entries of several stacks, in order. -/
def Dev.trackRequests (d : Dev) (s : Nat) (r : NetReq) (hs : List Nat) : Dev × NetReq :=
  hs.foldl (fun (p : Dev × NetReq) k => p.1.trackRequest s p.2 k) (d, r)

theorem trackRequests_cons (d : Dev) (s : Nat) (r : NetReq) (h : Nat) (hs : List Nat) :
    d.trackRequests s r (h :: hs) = (d.trackRequest s r h).1.trackRequests s (d.trackRequest s r h).2 hs := rfl

theorem trackRequests_netReqs (s : Nat) (hs : List Nat) : ∀ (d : Dev) (r : NetReq), (d.trackRequests s r hs).1.netReqs = d.netReqs := by
  induction hs with
  | nil => exact fun _ _ => rfl
  | cons h hs ih => exact fun d r => by rw [trackRequests_cons, ih, trackRequest_netReqs]

theorem trackRequests_keeps_tracked (s : Nat) {k : Nat} (hs : List Nat) : ∀ (d : Dev) (r : NetReq), r.tracked k → (d.trackRequests s r hs).2.tracked k := by
  induction hs with
  | nil => exact fun _ _ hk => hk
  | cons h hs ih => exact fun d r hk => by rw [trackRequests_cons]; exact ih _ _ (trackRequest_keeps_tracked d s h hk)

/-! ### Arrival of a request (R285, R417) -/

/-- A router that sees a request measures it, and does nothing else. -/
theorem routerSees_form (d : Dev) (q : NetRequest) : ∃ rt, d.routerSees q = { d with routers := rt } := by
  have hpass : ∀ (ps : List (Nat × Nat)) (e : Dev), ∃ rt, ps.foldl (fun d p => d.updRouter p.1 (fun r => { r with maxAge := max r.maxAge (min p.2 0xFFFFFFFF) })) e = { e with routers := rt } := by
    intro ps
    induction ps with
    | nil => exact fun e => ⟨e.routers, rfl⟩
    | cons p ps ih => exact fun e => by obtain ⟨rt, h⟩ := ih (e.updRouter p.1 _); exact ⟨rt, h⟩
  unfold Dev.routerSees
  dsimp only
  obtain ⟨rt, h⟩ := hpass q.passed d
  rw [h]
  split
  · exact ⟨rt, rfl⟩
  · exact ⟨_, rfl⟩

@[simp] theorem routerSees_netReqs (d : Dev) (q : NetRequest) : (d.routerSees q).netReqs = d.netReqs := by
  obtain ⟨rt, h⟩ := routerSees_form d q
  rw [h]

@[simp] theorem routerSees_epoch (d : Dev) (q : NetRequest) (page : Nat) : (d.routerSees q).epoch page = d.epoch page := by
  obtain ⟨rt, h⟩ := routerSees_form d q
  rw [h]
  rfl

@[simp] theorem routerSees_turnedAway (d : Dev) (q : NetRequest) (u : UnitId) (requester epoch : Nat) :
    (d.routerSees q).turnedAway u requester epoch = d.turnedAway u requester epoch := by
  obtain ⟨rt, h⟩ := routerSees_form d q
  rw [h]
  rfl

/-- A unit that can be reached turns away a request that carries another epoch than its own. -/
theorem turnedAway_otherEpoch {d : Dev} {u : UnitId} {requester epoch : Nat} (hr : (unitOf requester).any d.routerDown = false) (hc : d.reachCode u = none)
    (he : epoch ≠ d.epoch u.page) : d.turnedAway u requester epoch = some cUnitReset := by
  unfold Dev.turnedAway
  rw [if_neg (by rw [hr]; decide), hc]
  exact if_neg he

section
variable {d : Dev} {q : NetRequest} {u : UnitId} (hu : (d.viewPage 0 q.target).bind unitOf = some u) (hn : d.netReqs = [])
include hu hn

/-- A request that its target's port lets through is served. -/
theorem requestArrives_served (ht : d.turnedAway u q.requester (d.carried q).targetEpoch = none) :
    d.requestArrives q = (d.routerSees q).serveRequest u q (d.carried q) := by
  unfold Dev.requestArrives
  rw [hu]
  dsimp only
  rw [if_neg (by simp [hn]), routerSees_turnedAway, ht]

/-- A request that it turns away is answered with the code. -/
theorem requestArrives_turnedAway {code : Nat} (ht : d.turnedAway u q.requester (d.carried q).targetEpoch = some code) :
    d.requestArrives q = { d.routerSees q with netReqs := [{ d.carried q with reply := some (code, (d.carried q).targetEpoch) }] } := by
  unfold Dev.requestArrives
  rw [hu]
  dsimp only
  rw [if_neg (by simp [hn]), routerSees_turnedAway, ht]
  dsimp only
  rw [routerSees_netReqs, hn]
  rfl

end

/-! ### Service of a request -/

@[simp] theorem mergeRead_netReqs (d : Dev) (n line : Nat) (write : Bool) : (d.mergeRead n line write).netReqs = d.netReqs := by
  unfold Dev.mergeRead
  dsimp only
  split
  · rfl
  · split <;> rfl

/-- A unit that is neither a core nor a stack serves a request at once. -/
theorem serveRequest_other (d : Dev) {u : UnitId} (q : NetRequest) (r : NetReq) (hd : ∀ m, u ≠ .dram m) (hc : ∀ m, u ≠ .core m) :
    d.serveRequest u q r = { d with netReqs := d.netReqs ++ [{ r with reply := some (cOk, d.epoch u.page) }] } := by
  unfold Dev.serveRequest
  split
  · exact absurd rfl (hd _)
  · exact absurd rfl (hc _)
  · rfl

/-- A core serves one at once, through its port's merge window. -/
theorem serveRequest_core (d : Dev) (m : Nat) (q : NetRequest) (r : NetReq) :
    d.serveRequest (.core m) q r = { d.mergeRead m (lineOf q.address) q.write with netReqs := d.netReqs ++ [{ r with reply := some (cOk, d.epoch (UnitId.core m).page) }] } := by
  unfold Dev.serveRequest
  dsimp only
  rw [mergeRead_netReqs]

/-- A stack serves one that holds its entries; the request holds or awaits the stack's own. -/
theorem serveRequest_dram (d : Dev) (m : Nat) (q : NetRequest) (r : NetReq) :
    ∃ y, (d.serveRequest (.dram m) q r).netReqs = d.netReqs ++ [y] ∧ y.tracked m
      ∧ y.reply = if y.wants.isEmpty then some (cOk, d.epoch (UnitId.dram m).page) else none := by
  obtain ⟨rd, oc, h⟩ := stackTraffic_form d ((q.job.bind (fun id => d.jobs.get? id)).map (·.ctx)) q.address q.bytes q.write
  have hserve : d.serveRequest (.dram m) q r =
      (let p := ({ d with reader := rd, occ := oc } : Dev).trackRequests (trackSource q.requester) r (({ d with reader := rd, occ := oc } : Dev).requestStacks m q.address q.bytes)
       { p.1 with netReqs := p.1.netReqs ++ [{ p.2 with reply := if p.2.wants.isEmpty then some (cOk, d.epoch (UnitId.dram m).page) else none }] }) := by
    rw [← h]
    rfl
  rw [hserve]
  refine ⟨_, congrArg (· ++ _) (trackRequests_netReqs _ _ _ _), ?_, rfl⟩
  unfold Dev.requestStacks
  rw [trackRequests_cons]
  exact trackRequests_keeps_tracked _ _ _ _ (trackRequest_tracked _ _ r m)

/-! ### Replies, and entries granted (R276, R403, R417) -/

/-- Ending a request's tracking changes the tracking tables only. -/
theorem endTracking_form (d : Dev) (q : NetReq) : ∃ k, d.endTracking q = { d with tracks := k } := by
  have hfold : ∀ (f : Track → Track) (hs : List Nat) (e : Dev), ∃ k, hs.foldl (fun d h => d.updTrack h f) e = { e with tracks := k } := by
    intro f hs
    induction hs with
    | nil => exact fun e => ⟨e.tracks, rfl⟩
    | cons h hs ih => exact fun e => by obtain ⟨k, hk⟩ := ih (e.updTrack h f); exact ⟨k, hk⟩
  unfold Dev.endTracking
  dsimp only
  obtain ⟨k, hk⟩ := hfold (fun x => x.free (trackSource q.requester)) q.entries d
  rw [hk]
  exact hfold (fun x => { x with waiting := x.waiting.erase q.id }) q.wants { d with tracks := k }

/-- A requester of the same epoch receives any code but OK as it was sent. -/
theorem replyCode_of_ne_ok {d : Dev} {q : NetReq} {code : Nat} (epoch : Nat) (he : q.requesterEpoch = d.epoch q.requester) (hc : code ≠ cOk) :
    d.replyCode q code epoch = some code := by
  unfold Dev.replyCode
  rw [if_neg (not_not.mpr he), if_neg (fun h => hc h.1)]

theorem find_id_only (x : NetReq) : [x].find? (fun q => q.id == x.id) = some x := by simp

theorem filter_id_only (x : NetReq) : [x].filter (fun q => q.id != x.id) = [] := by simp

section
variable {d : Dev} {x : NetReq} {code epoch : Nat} (hn : d.netReqs = [x]) (hr : x.reply = some (code, epoch))
include hn hr

/-- A reply to a request of no job ends it. -/
theorem replyArrives_noJob (hj : x.job = none) : d.replyArrives x.id = ({ d with netReqs := [] } : Dev).endTracking x := by
  unfold Dev.replyArrives
  rw [hn, find_id_only]
  dsimp only
  rw [hr, hj, filter_id_only]
  dsimp only
  split
  · rename_i h; cases h
  · rfl

/-- One with any code but OK faults the running job that asked, with KIND 0x0B. -/
theorem replyArrives_faults {j : Nat} {k : Job} (hj : x.job = some j) (hk : d.jobs.get? j = some k) (hrun : k.jstate.running? = true)
    (he : x.requesterEpoch = d.epoch x.requester) (hc : code ≠ cOk) :
    d.replyArrives x.id = (({ d with netReqs := [] } : Dev).endTracking x).faultJob j 0x0B 0 code x.requester x.address := by
  obtain ⟨tr, htr⟩ := endTracking_form ({ d with netReqs := [] } : Dev) x
  have hcode : (({ d with netReqs := [] } : Dev).endTracking x).replyCode x code epoch = some code := by
    rw [htr]
    exact replyCode_of_ne_ok epoch he hc
  have hjobs : (({ d with netReqs := [] } : Dev).endTracking x).jobs.get? j = some k := by
    rw [htr]
    exact hk
  unfold Dev.replyArrives
  rw [hn, find_id_only]
  dsimp only
  rw [hr, hj, filter_id_only]
  dsimp only
  rw [hcode]
  exact if_pos (by simp [hc, hjobs, hrun])

end

/-- The one request that waits at a stack gets its entry, when its source can take one. -/
theorem trackGrant_only {d : Dev} {h : Nat} {x : NetReq} (hn : d.netReqs = [x]) (hw : (d.track h).waiting = [x.id]) (hc : d.canTrack (d.track h) (trackSource x.requester) = true) :
    d.trackGrant h = { d.updTrack h (fun y => { y.take (trackSource x.requester) with waiting := [] }) with netReqs := [x.granted h (d.epoch x.target)] } := by
  have hsrc : d.sourceOfReq x.id = trackSource x.requester := by simp [Dev.sourceOfReq, hn]
  have hfind : (d.track h).waiting.find? (fun id => d.canTrack (d.track h) (d.sourceOfReq id)) = some x.id := by simp [hw, hsrc, hc]
  unfold Dev.trackGrant
  dsimp only
  rw [hfind]
  dsimp only
  rw [hsrc]
  simp only [Dev.updTrack, hw, hn, List.erase_cons_head, List.map_cons, List.map_nil, if_pos]

/-- Settles O39: each row by what its operation does to a slot, to a request, or to a stack's entries. -/
theorem slotsSparesAndRequests : Obligations.SlotsSparesAndRequests := by
  intro s t slot n h q x d r e
  refine ⟨fun hs hr hb hm hn => ⟨?retired, burnSlot_retired d slot⟩, fun k j hs hr hb hm hk hj hp => ?pending, fun hn hr hf hb hm hh hl => ?substituted,
    fun hm hn u hu => ⟨fun ht => ⟨fun hd hc => ?other, fun m hc => ?core, fun m hd => ?stack⟩, fun code ht => ?turnedAway, turnedAway_otherEpoch⟩,
    fun code epoch hn hr => ⟨fun hj => ?noJob, fun j k hj hk hrun he hc => ?faults⟩, fun hh hn hw hc => ?granted, exec_epochNotice s t h n, fun hh ha => exec_dramRefresh hh ha n⟩
  case retired => rw [exec_slotRetirement, retireSlot_unheld hs hr hb hm hn]
  case pending => rw [exec_slotRetirement, retireSlot_held hs hr hb hm hk hj hp]
  case substituted =>
    obtain ⟨hslots, hdue⟩ := substitute_passed hn hr hf hb hm hh
    refine ⟨_, exec_spareSubstitution s t n true, ?_, ?_⟩
    · rw [State.endsWith_geom, hslots]
      simp [hl]
    · rw [State.endsWith_geom, hdue, bit_setBit]
      simp
  case other =>
    rw [exec_networkRequestArrival hm, requestArrives_served hu hn ht, serveRequest_other _ q _ hd hc, routerSees_netReqs, hn, routerSees_epoch]
    rfl
  case core =>
    subst hc
    rw [exec_networkRequestArrival hm, requestArrives_served hu hn ht, serveRequest_core, routerSees_netReqs, hn, routerSees_epoch]
    rfl
  case stack =>
    subst hd
    obtain ⟨y, hy, htr, hreply⟩ := serveRequest_dram (d.routerSees q) m q (d.carried q)
    refine ⟨_, y, exec_networkRequestArrival hm q, ?_, htr, ?_⟩
    · rw [State.endsWith_netReqs, requestArrives_served hu hn ht, hy, routerSees_netReqs, hn]
      rfl
    · rw [hreply, routerSees_epoch]
  case turnedAway => rw [exec_networkRequestArrival hm, requestArrives_turnedAway hu hn ht]
  case noJob => rw [exec_networkReplyArrival, replyArrives_noJob hn hr hj]
  case faults =>
    have hne : code ≠ cOk := by rcases hc with rfl | rfl <;> decide
    rw [exec_networkReplyArrival, replyArrives_faults hn hr hj hk hrun he hne]
  case granted => rw [exec_trackingEntryGrant hh, trackGrant_only hn hw hc]

end Sys2Proof.Machine
end

section
/-! PROOFS. Every command's next state and the state after reset; rings with their completions and the completion store; attention queues with their pops, pending classes and summary (R7, R46 to R51, R54, R55, R58, R65, R371). -/

namespace Sys2Proof.Machine

/-! ### Every command, and reset -/

/-- Settles O4: every command runs an effect, and running one answers a next state with the queue that waited. -/
theorem everyCommandCompletes : Obligations.EveryCommandCompletes := by
  intro i s
  obtain ⟨n, f, _, h⟩ := exec_runs i s
  exact ⟨_, h, rfl⟩

/-- Settles O2: the tables of the reset state are empty, and its registers hold their defaults. -/
theorem resetState : Obligations.ResetState :=
  ⟨rfl, rfl, rfl, rfl, rfl, rfl, fun _ => rfl, fun _ => rfl, rfl, rfl, rfl, rfl, fun _ => rfl⟩

/-! ### The ring page -/

/-- The device once the host has stored bytes in its own memory. -/
def Dev.hostStored (d : Dev) (host : List Host.Cell) : Dev := { d with hostMem := memWriteCells d.hostMem host }

@[simp] theorem hostStored_ring (d : Dev) (host : List Host.Cell) (r : Nat) : (d.hostStored host).ring r = d.ring r := rfl

theorem hostStored_updRing (d : Dev) (host : List Host.Cell) (r : Nat) (f : Ring → Ring) :
    (d.hostStored host).updRing r f = { d with hostMem := memWriteCells d.hostMem host, rings := d.rings.put r (f (d.ring r)) } := rfl

section
variable {s : State} {t fn r : Nat} {d : Dev} (hd : s.dueAt t = d) (h : d.ringVisible fn r = true)
include hd h

theorem exec_ringEnable : exec (.ringEnable t fn r) s = .next (s.endsWith t (d.ringEnable fn r 1)) := by
  subst hd
  show execRingEnable t fn r s = _
  rw [execRingEnable, run_eq, if_pos h]

theorem exec_ringDisable : exec (.ringDisable t fn r) s = .next (s.endsWith t (d.ringDisable r)) := by
  subst hd
  show execRingDisable t fn r s = _
  rw [execRingDisable, run_eq, if_pos h]

/-- The bytes that the host stored before its doorbell are in its memory when the doorbell takes effect. -/
theorem exec_sqTailDoorbell (v : Nat) (host : List Host.Cell) :
    exec (.sqTailDoorbell t fn r v host) s = .next (s.endsWith t ((d.hostStored host).sqTail fn r v)) := by
  show execSqTailDoorbell t fn r v host s = _
  rw [execSqTailDoorbell, run_eq, hd]
  exact congrArg (fun e => Host.Outcome.next (s.endsWith t e)) (if_pos h)

theorem exec_cqHeadWrite {v : Nat} (hv : v < 65536) : exec (.cqHeadWrite t fn r v) s = .next (s.endsWith t (d.cqHead r v)) := by
  subst hd
  show execCqHeadWrite t fn r v s = _
  rw [execCqHeadWrite, run_eq, if_pos h, Nat.mod_eq_of_lt hv]

theorem exec_ringWakeArm {v : Nat} (hv : v < 2048) : exec (.ringWakeArm t fn r v) s = .next (s.endsWith t (d.ringWake fn r (v + 2 ^ 16))) := by
  subst hd
  show execRingWakeArm t fn r v s = _
  rw [execRingWakeArm, run_eq, if_pos h, Nat.mod_eq_of_lt hv]

end

/-- Enabling a DRAINED ring starts it at its beginning. -/
theorem ringEnable_drained {d : Dev} {r : Nat} (fn data : Nat) (h : d.drained r = true) :
    d.ringEnable fn r data = d.updRing r (fun g => { g with enable := true, sqTail := 0, sqHead := 0, cqTail := 0, cqHead := 0, phase := true }) := if_pos h

theorem ringEnable_undrained {d : Dev} {r : Nat} (fn data : Nat) (h : d.drained r = false) :
    d.ringEnable fn r data = d.refuse fn (0x1000 + r) 0x040 4 data cIllegal := if_neg (by simp [h])

theorem sqTail_inRange {d : Dev} {r v : Nat} (fn : Nat) (he : (d.ring r).enable = true) (hv : v < 65536) (hr : v < 2 ^ (d.ring r).log2Sq) :
    d.sqTail fn r v = (d.updRing r (fun g => { g with sqTail := v })).fetchUnknown 65536 r := by
  simp [Dev.sqTail, he, Nat.mod_eq_of_lt hv, Nat.not_le.mpr hr]

theorem sqTail_outOfRange {d : Dev} {r v : Nat} (fn : Nat) (he : (d.ring r).enable = true) (hv : v < 65536) (hr : 2 ^ (d.ring r).log2Sq ≤ v) :
    d.sqTail fn r v = d.updRing r (fun g => g.halt cOutOfRange v) := by
  simp [Dev.sqTail, he, Nat.mod_eq_of_lt hv, hr]

theorem cqHead_inRange {d : Dev} {r v : Nat} (hr : v < 2 ^ (d.ring r).log2Cq) :
    d.cqHead r v = (d.updRing r (fun g => { g with cqHead := v })).fetchUnknown 65536 r := if_neg (Nat.not_le.mpr hr)

theorem cqHead_outOfRange {d : Dev} {r v : Nat} (hr : 2 ^ (d.ring r).log2Cq ≤ v) :
    d.cqHead r v = d.updRing r (fun g => g.halt cOutOfRange v) := if_pos hr

/-- A write of RING_WAKE with ARMED and a vector that the owner may use stores them; the message goes at once where completions wait unconsumed and host writes go on. -/
theorem ringWake_armed {d : Dev} {r v : Nat} (fn : Nat) (hv : v < 2048) (ho : (d.ring r).owner = 0 ∨ v < 64) :
    d.ringWake fn r (v + 2 ^ 16) =
      if ((d.ring r).cqTail != (d.ring r).cqHead && !d.hostStopped) = true then (d.updRing r (fun g => { g with vector := v, armed := true })).wake r
      else d.updRing r (fun g => { g with vector := v, armed := true }) := by
  have hvec : bits (v + 2 ^ 16) 10 0 = v := by simp only [bits]; omega
  have harm : bit (v + 2 ^ 16) 16 = true := by
    have : (v + 2 ^ 16) / 2 ^ 16 % 2 = 1 := by omega
    rw [bit, Nat.testBit_eq_decide_div_mod_eq, this]
    rfl
  have hown : ¬((d.ring r).owner ≠ 0 ∧ 63 < v) := by omega
  have hstop : ∀ f, (d.updRing r f).hostStopped = d.hostStopped := fun _ => rfl
  unfold Dev.ringWake
  simp only [hvec, harm, if_true, if_neg hown, ring_updRing_self, hstop]

/-- The wake message goes to the ring's owner with the ring's vector. -/
theorem wake_msix (d : Dev) (r : Nat) : (d.wake r).msix = d.msix ++ [{ fn := (d.ring r).owner, vector := (d.ring r).vector }] := rfl

theorem wake_ring (d : Dev) (r : Nat) : (d.wake r).ring r = { d.ring r with armed := false } := ring_updRing_self d r (fun g => { g with armed := false })

/-- Settles O6: each write takes effect on the ring that its function sees. -/
theorem ringPageWrites : Obligations.RingPageWrites := by
  intro s t fn r v host hvis
  generalize hd : s.dueAt t = d at hvis ⊢
  refine ⟨fun hdrained => ?enable, fun hbusy => ?notDrained, exec_ringDisable hd hvis, fun he hr hv => ?tail, fun he hr hv => ?tailOut,
    fun hr hv => ?head, fun hr hv => ?headOut, fun hv ho hidle => ?arm, fun hv ho hwait hgo => ?wake⟩
  case enable => rw [exec_ringEnable hd hvis, ringEnable_drained _ _ hdrained]; rfl
  case notDrained => rw [exec_ringEnable hd hvis, ringEnable_undrained _ _ hbusy]
  case tail => rw [exec_sqTailDoorbell hd hvis, sqTail_inRange (d := d.hostStored host) fn he hv hr, hostStored_updRing]; rfl
  case tailOut => rw [exec_sqTailDoorbell hd hvis, sqTail_outOfRange (d := d.hostStored host) fn he hv hr, hostStored_updRing]; rfl
  case head => rw [exec_cqHeadWrite hd hvis hv, cqHead_inRange hr]; rfl
  case headOut => rw [exec_cqHeadWrite hd hvis hv, cqHead_outOfRange hr]; rfl
  case arm =>
    have hno : ¬(((d.ring r).cqTail != (d.ring r).cqHead && !d.hostStopped) = true) := by simp [hidle]
    rw [exec_ringWakeArm hd hvis hv, ringWake_armed fn hv ho, if_neg hno]
    rfl
  case wake =>
    have hyes : ((d.ring r).cqTail != (d.ring r).cqHead && !d.hostStopped) = true := by simp [hwait, hgo]
    refine ⟨_, exec_ringWakeArm hd hvis hv, ?_, ?_⟩
    · rw [ringWake_armed fn hv ho, if_pos hyes, State.endsWith_msix, wake_msix, ring_updRing_self]
      rfl
    · rw [ringWake_armed fn hv ho, if_pos hyes, ring_endsWith, wake_ring, ring_updRing_self]

/-! ### Completions -/

theorem exec_completionWrite (s : State) (t r : Nat) : exec (.completionWrite t r) s = .next (s.endsWith t ((s.dueAt t).completionWrite r)) := rfl

/-- Where no element satisfies the predicate, none is taken. -/
theorem takeFirst_none {α : Type} {p : α → Bool} {l : List α} (h : ∀ x ∈ l, p x = false) : takeFirst p l = none := by
  induction l with
  | nil => rfl
  | cons x l ih => simp [takeFirst, h x (by simp), ih (fun y hy => h y (by simp [hy]))]

theorem takeFirst_head {α : Type} {p : α → Bool} {x : α} (l : List α) (h : p x = true) : takeFirst p (x :: l) = some (x, l) := if_pos h

/-- The first held completion is written where a slot is free and the record may go to host memory. -/
theorem completionWrite_head {d : Dev} {r : Nat} {c : Completion} {rest : List Completion} (hfree : (d.ring r).cqFull = false)
    (hheld : (d.ring r).held = c :: rest) (hgo : (c.direct || !d.hostStopped) = true) :
    d.completionWrite r = (d.writeCompletion r c rest).fetchUnknown 65536 r := by
  unfold Dev.completionWrite
  simp only [hfree, Bool.false_eq_true, if_false, hheld, takeFirst_head (p := fun c => c.direct || !d.hostStopped) rest hgo]

/-- With no held completion that may go to host memory, nothing is written. -/
theorem completionWrite_none {d : Dev} {r : Nat} (h : ∀ c ∈ (d.ring r).held, (c.direct || !d.hostStopped) = false) : d.completionWrite r = d := by
  unfold Dev.completionWrite
  dsimp only
  rw [takeFirst_none h]
  exact ite_self d

section
variable (d : Dev) (r : Nat) (c : Completion) (rest : List Completion)

theorem writeCompletion_hostMem :
    (d.writeCompletion r c rest).hostMem = memWriteN d.hostMem ((d.ring r).cqBase + 64 * (d.ring r).cqTail) (d.completionBytes r (d.ring r) c) := by
  obtain ⟨rs, m, hform, _, _⟩ := writeCompletion_form d r c rest
  rw [hform]

theorem writeCompletion_cqTail : ((d.writeCompletion r c rest).ring r).cqTail = ((d.ring r).cqTail + 1) % 2 ^ (d.ring r).log2Cq := by
  obtain ⟨rs, m, hform, htail, _⟩ := writeCompletion_form d r c rest
  rw [hform]
  exact htail

theorem writeCompletion_held : ((d.writeCompletion r c rest).ring r).held = rest := by
  obtain ⟨rs, m, hform, _, hrest⟩ := writeCompletion_form d r c rest
  rw [hform]
  exact hrest

/-- Writing a completion touches neither device memory nor the work. -/
theorem writeCompletion_frame :
    (d.writeCompletion r c rest).devMem = d.devMem ∧ (d.writeCompletion r c rest).jobs = d.jobs ∧ (d.writeCompletion r c rest).ctxs = d.ctxs := by
  obtain ⟨rs, m, hform, _, _⟩ := writeCompletion_form d r c rest
  rw [hform]
  exact ⟨rfl, rfl, rfl⟩

end

/-- The 64 bytes at an address to which a completion was written are the record. -/
theorem memReadN_completion {m : List Host.Cell} (a : Nat) (d : Dev) (r : Nat) (g : Ring) (c : Completion) (h : Memory.wf m = true) :
    memReadN (memWriteN m a (d.completionBytes r g c)) a 64 = d.completionBytes r g c := by
  have hread := memReadN_memWriteN (d.completionBytes r g c) m a h
  rwa [completionBytes_length] at hread

/-- Settles O7: the record goes to the slot at CQ_TAIL, and the unknown opcodes that may be fetched after it touch no memory. -/
theorem completionIsWrittenInOrder : Obligations.CompletionIsWrittenInOrder := by
  intro s t r c rest
  dsimp only [exec_completionWrite]
  generalize s.dueAt t = d
  intro hfree hheld hgo hwf
  obtain ⟨hdev, hjobs, hctxs⟩ := writeCompletion_frame d r c rest
  rw [completionWrite_head hfree hheld hgo]
  refine ⟨_, rfl, ?record, fun a ha => ?others, ?canonical, ?tail, ?held, ?devMem, ?jobs, ?ctxs⟩
  case record =>
    rw [State.endsWith_hostMem, fetchUnknown_hostMem, writeCompletion_hostMem]
    exact memReadN_completion _ d r _ c hwf
  case others =>
    rw [State.endsWith_hostMem, fetchUnknown_hostMem, writeCompletion_hostMem]
    exact memRead_memWriteN_out _ _ _ _ (by rwa [completionBytes_length])
  case canonical =>
    rw [State.endsWith_hostMem, fetchUnknown_hostMem, writeCompletion_hostMem]
    exact memWriteN_wf _ _ hwf
  case tail => rw [ring_endsWith, fetchUnknown_cqTail, writeCompletion_cqTail]
  case held =>
    have hprefix := fetchUnknown_held_prefix 65536 r r (d.writeCompletion r c rest)
    rwa [writeCompletion_held, ← ring_endsWith s t] at hprefix
  case devMem => rw [State.endsWith_devMem, fetchUnknown_devMem, hdev]
  case jobs => rw [State.endsWith_jobs, fetchUnknown_jobs, hjobs]
  case ctxs => rw [State.endsWith_ctxs, fetchUnknown_ctxs, hctxs]

/-- While host writes are stopped, an ordinary completion goes to the store as long as it has room. -/
theorem complete_stored {d : Dev} {c : Completion} (r : Nat) (hs : d.hostStopped = true) (hc : c.direct = false) (hroom : d.lease.store.length < storeCapacity) :
    d.complete r c = { d with lease := { d.lease with store := d.lease.store ++ [(r, c)] } } := if_pos (by simp [hs, hc, hroom])

/-- With the store full a completion waits at its ring. -/
theorem complete_storeFull {d : Dev} (r : Nat) (c : Completion) (hfull : storeCapacity ≤ d.lease.store.length) :
    d.complete r c = d.updRing r (fun g => { g with held := g.held ++ [c] }) := if_neg (by simp [Nat.not_lt.mpr hfull])

/-- Settles O8: the store takes a completion while it has room, and COMPLETION_WRITE finds none that it may write. -/
theorem heldRecordsWaitWhileHostWritesStop : Obligations.HeldRecordsWaitWhileHostWritesStop := by
  refine ⟨fun d r c hs hc hroom => complete_stored r hs hc hroom, fun d r c _ _ hfull => complete_storeFull r c hfull, fun s t r hs hordinary => ?_⟩
  rw [exec_completionWrite, completionWrite_none (fun c hc => by simp [hs, hordinary c hc])]

/-! ### Attention queues -/

theorem exec_attnqPop (s : State) (t fn f : Nat) : exec (.attnqPop t fn f) s = execAttnqPop t fn f s := rfl

/-- Settles O9: the pop takes place for the queue's own function and the physical function, and for no other. -/
theorem attentionPopTakesTheHead : Obligations.AttentionPopTakesTheHead := by
  intro s t fn f hf hopen hacts
  refine ⟨fun hown => ?own, fun h0 hne => ?other⟩
  case own =>
    rw [exec_attnqPop, execAttnqPop, run_eq, if_pos (by simp [hf, hopen, hacts, hown])]
    rfl
  case other => rw [exec_attnqPop, execAttnqPop, run_eq, if_neg (by simp [h0, hne])]

/-- The classes of records joined to a mask: a bit is set where a record has its class, or where it was set before. -/
theorem testBit_classes (k : Nat) (l : List AttnRec) (m : Nat) :
    (l.foldl (fun m r => m ||| 2 ^ r.cls) m).testBit k = true ↔ (∃ r ∈ l, r.cls = k) ∨ m.testBit k = true := by
  induction l generalizing m with
  | nil => simp
  | cons x l ih =>
    rw [List.foldl_cons, ih, Nat.testBit_or, Bool.or_eq_true, Nat.testBit_two_pow, decide_eq_true_eq, List.exists_mem_cons_iff,
      or_comm (a := x.cls = k), or_assoc, or_comm (a := x.cls = k)]

/-- No bit of a mask stands above its highest class. -/
theorem le_highestClass {m k : Nat} (h : m.testBit k = true) : k ≤ highestClass m := by
  have hm : m ≠ 0 := by rintro rfl; simp at h
  rw [highestClass, if_neg hm]
  exact (Nat.le_log2 hm).mpr (Nat.ge_two_pow_of_testBit h)

/-- The highest class of a mask is one of its bits. -/
theorem testBit_highestClass {m : Nat} (h : m ≠ 0) : m.testBit (highestClass m) = true := by
  rw [highestClass, if_neg h]
  exact Nat.testBit_log2 h

/-- Settles O60: the summary is the highest bit of the function's own mask, and the status word adds the code below it. -/
theorem pendingClassesAndSummary : Obligations.PendingClassesAndSummary := by
  intro d e fn k
  refine ⟨testBit_classes k _ _, le_highestClass, testBit_highestClass, fun hrec hlost => ?none, fun hq => ?same, fun code hcode => ?word⟩
  case none => simp [Dev.attnSummary, AttnQ.pendingMask, highestClass, hrec, hlost]
  case same => rw [Dev.attnSummary, Dev.attnSummary, hq]
  case word =>
    unfold Dev.statusWord
    omega

end Sys2Proof.Machine
end

section
/-! PROOFS. Firmware-served pages: writes that join a page's queue or are dropped, reads that are answered or time out, and a write applied by its processor (R43, R44, R45, R358). -/

namespace Sys2Proof.Machine

/-! ### The commands -/

theorem exec_emulatedPageWrite (s : State) (t fn page off len v : Nat) :
    exec (.emulatedPageWrite t fn page off len v) s = .next (s.endsWith t ((s.dueAt t).barWrite fn page off len v)) := rfl

theorem exec_emulatedPageRead (s : State) (t fn page : Nat) (x : Span) :
    exec (.emulatedPageRead t fn page x) s = .next (s.endsWith t ((s.dueAt t).barRead fn page x.off x.len)) := rfl

/-- A read of a firmware-served register that times out is answered without it. -/
theorem exec_emulatedReadTimeout {s : State} {t page off : Nat} {u : UnitId} (hm : (s.dueAt t).modState ≠ .reset) (hu : (s.dueAt t).barUnit 0 page = some u)
    (he : u.emulated = true) (hlo : 0x040 ≤ off) (hhi : off < 4096) (h4 : off % 4 = 0) :
    exec (.emulatedReadTimeout t 0 page off) s = .next (s.endsWith t ((s.dueAt t).emuNoAnswer 0 page off 8 u)) := by
  have hmod : off % 4096 = off := Nat.mod_eq_of_lt hhi
  have hdiv : off / 4 * 4 = off := by omega
  show execEmulatedReadTimeout t 0 page off s = _
  unfold execEmulatedReadTimeout
  rw [run_eq]
  simp [hu, he, hm, hmod, hdiv, hlo]

theorem exec_emulatedWriteApply {s : State} {t page : Nat} {u : UnitId} (hu : unitOf page = some u) :
    exec (.emulatedWriteApply t page) s = .next (s.endsWith t ((s.dueAt t).emuApply u)) := by
  show execEmulatedWriteApply t page s = _
  unfold execEmulatedWriteApply
  rw [run_eq, hu]

/-! ### Writes -/

/-- A 32-bit write outside the header of a firmware-served page arrives at the page's queue. -/
theorem barWrite_firmware {d : Dev} {page off : Nat} {u : UnitId} (v : Nat) (hm : d.modState ≠ .reset) (hs : inSyncWindow 0 page = false)
    (hu : d.barUnit 0 page = some u) (he : u.emulated = true) (hlo : 0x040 ≤ off) (hhi : off < 4096) (h4 : off % 4 = 0) :
    d.barWrite 0 page off 4 v = d.emuPut 0 u off (v % 2 ^ 32) := by
  have ho : off % 4096 / 4 * 4 = off := by omega
  rw [barWrite_dword _ _ _ hm, ho]
  simp [Dev.barWrite32, hs, hu, he, hlo]

/-- A write that finds a place joins the queue at its end, with the next number of arrival. -/
theorem emuPut_room {d : Dev} {u : UnitId} (fn off data : Nat) (hserve : d.notServing u = false) (hroom : (d.emuPage u).writes.length < 16) :
    d.emuPut fn u off data =
      { d with emu := d.emu.put u.page { d.emuPage u with writes := (d.emuPage u).writes ++ [{ fn, off, data := data % 2 ^ 32, seq := d.emuSeq }] }, emuSeq := d.emuSeq + 1 } := by
  unfold Dev.emuPut
  rw [if_neg (by simp [hserve]), if_neg (Nat.not_le.mpr hroom)]
  rfl

/-- With the queue full a write is dropped, and recorded where no failure is recorded yet. -/
theorem emuPut_full {d : Dev} {u : UnitId} (fn off data : Nat) (hserve : d.notServing u = false) (hfull : 16 ≤ (d.emuPage u).writes.length)
    (hfirst : (d.emuPage u).failed = cOk) :
    d.emuPut fn u off data = { d with emu := d.emu.put u.page { d.emuPage u with failed := cNoResource } } := by
  have hcode : ¬((decide (cNoResource = cOk) || (d.emuPage u).failed != cOk) = true) := by simp [hfirst, cNoResource, cOk]
  unfold Dev.emuPut
  rw [if_neg (by simp [hserve]), if_pos hfull]
  simp only [Dev.emuFail, Dev.updEmu, if_neg hcode]

/-! ### Reads -/

/-- A read of a firmware-served register outside the header goes to its processor. -/
theorem barRead_firmware {d : Dev} {page off : Nat} {u : UnitId} (len : Nat) (hm : d.modState ≠ .reset) (hs : inSyncWindow 0 page = false)
    (hu : d.barUnit 0 page = some u) (he : u.emulated = true) (hlo : 0x040 ≤ off) (hhi : off < 4096) (h4 : off % 4 = 0) :
    d.barRead 0 page off len = d.emuRead 0 page off len u := by
  have hdiv : off / 4 * 4 = off := by omega
  simp [Dev.barRead, Dev.firmwareServed, Dev.barRead32, hm, hs, hu, he, hlo, hdiv, Nat.mod_eq_of_lt hhi]

/-- What a read of at least 4 bytes is answered with, where the processor serves and no write waits there. -/
theorem emuRead_reply {d : Dev} {off len : Nat} {u : UnitId} (fn page : Nat) (hlen : 4 ≤ len) (h4 : off % 4 = 0) (hserve : d.notServing u = false)
    (hrun : d.serverHalted u = false) (hidle : d.emuWaiting u = []) :
    (d.emuRead fn page off len u).reply =
      some { fn, page, off, data := d.regValue fn u off % 2 ^ 32
             status := if len = 8 then ((d.readEffect fn u off).updEmu u (fun e => { e with failed := cOk })).statusWord fn ((d.emuPage u).code cOk) else 0 } := by
  have hdiv : off / 4 * 4 = off := by omega
  simp [Dev.emuRead, Dev.answerRead, Dev.emuServe, lanes, hserve, hrun, hidle, hdiv, hlen]

/-- A 64-bit read without an answer returns data 0 and the code of the first failed write, or UNIT_OFFLINE; the record of the failure clears. -/
theorem emuNoAnswer_qword {d : Dev} {off : Nat} {u : UnitId} (fn page : Nat) (h4 : off % 4 = 0) :
    d.emuNoAnswer fn page off 8 u =
      { d with reply := some { fn, page, off, data := 0, status := d.statusWord fn ((d.emuPage u).code cUnitOffline) }
               emu := d.emu.put u.page { d.emuPage u with failed := cOk } } := by
  have hdiv : off / 4 * 4 = off := by omega
  have hzero : lanes off 8 0 = 0 := rfl
  unfold Dev.emuNoAnswer Dev.answerRead
  rw [hdiv, hzero]
  rfl

/-! ### A write applied -/

/-- The processor applies a page's oldest write alone where that write reached it before every other that waits. -/
theorem emuApply_first {d : Dev} {u : UnitId} {w : EmuWrite} {rest : List EmuWrite} (hw : (d.emuPage u).writes = w :: rest)
    (hfirst : emuFirst u (d.emuWaiting u) = u) (honly : (d.emuWaiting u).filter (fun x => decide (x.2 ≤ w.seq)) = [(u, w.seq)]) :
    d.emuApply u = d.emuTake u := by
  unfold Dev.emuApply
  simp only [hw, honly, List.length_singleton, Dev.emuServe, hfirst]

/-- CTX_JOB_SELECT takes the word written, and the write never fails. -/
theorem emuTake_jobSelect {d : Dev} {n : Nat} {w : EmuWrite} {rest : List EmuWrite} (hserve : d.notServing (.ctx n) = false) (hrun : d.serverHalted (.ctx n) = false)
    (hw : (d.emuPage (.ctx n)).writes = w :: rest) (hoff : w.off = 0x06C) :
    d.emuTake (.ctx n) =
      { d with emu := d.emu.put (UnitId.ctx n).page { d.emuPage (.ctx n) with writes := rest }, ctxs := d.ctxs.put n { d.ctx n with jobSelect := w.data % 2 ^ 32 } } := by
  unfold Dev.emuTake
  rw [if_neg (by simp [hserve, hrun])]
  simp only [hw, Dev.emuEffect, hoff, if_true]
  simp [Dev.emuFail, Dev.updEmu, Dev.updCtx, Dev.emuPage, Dev.ctx]

theorem unitOf_ctx_page {n : Nat} (hn : n < 64) : unitOf (UnitId.ctx n).page = some (.ctx n) := by
  have : ∀ n < 64, unitOf (UnitId.ctx n).page = some (.ctx n) := by decide
  exact this n hn

/-- Settles O16: a firmware-served page queues, drops, answers and applies. -/
theorem emulatedPageQueue : Obligations.EmulatedPageQueue := by
  intro s t page off v u hm hs hu he hlo hhi h4 d
  refine ⟨fun hserve hroom => ?room, fun hserve hfull hfirst => ?full, fun hserve hrun hidle hok => ?qword, fun hserve hrun hidle => ?dword, ?timeout,
    fun n w rest hn hserve hrun hw hoff hfirst honly => ?apply⟩
  case room => rw [exec_emulatedPageWrite, barWrite_firmware v hm hs hu he hlo hhi h4, emuPut_room _ _ _ hserve hroom, Nat.mod_mod]
  case full => rw [exec_emulatedPageWrite, barWrite_firmware v hm hs hu he hlo hhi h4, emuPut_full _ _ _ hserve hfull hfirst]
  case qword =>
    have hcode : (d.emuPage u).code cOk = cOk := if_pos hok
    have hreply := emuRead_reply (d := d) (len := 8) 0 page (by decide) h4 hserve hrun hidle
    rw [hcode, if_pos rfl] at hreply
    refine ⟨_, exec_emulatedPageRead .., _, Eq.trans ?_ hreply, Nat.mul_add_mod' _ 4096 cOk⟩
    rw [State.endsWith_reply, barRead_firmware 8 hm hs hu he hlo hhi h4]
  case dword =>
    refine ⟨_, exec_emulatedPageRead .., ?_⟩
    rw [State.endsWith_reply, barRead_firmware 4 hm hs hu he hlo hhi h4, emuRead_reply 0 page (by decide) h4 hserve hrun hidle, if_neg (by decide)]
  case timeout => rw [exec_emulatedReadTimeout hm hu he hlo hhi h4, emuNoAnswer_qword 0 page h4]; rfl
  case apply => rw [exec_emulatedWriteApply (unitOf_ctx_page hn), emuApply_first hw hfirst honly, emuTake_jobSelect hserve hrun hw hoff]

end Sys2Proof.Machine
end

section
/-! PROOFS. Device time and its alignment, synchronisation objects, launch entries and the ends of a job (R60, R66, R71, R75, R76, R79, R83 to R85, R87, R88, R404). -/

namespace Sys2Proof.Machine

/-! ### Device time -/

/-- The clock after a command is the time its effect ran at. -/
theorem runAt_now {s u : State} {n : Nat} {f : Dev → Dev} (h : s.runAt n f = .next u) : u.dev.now = n :=
  (Host.Outcome.next.inj h) ▸ rfl

/-- Settles O5: a command's effect runs at a device time of its own, an earlier one only where the command restarts the clock. -/
theorem deviceTimeNeverDecreases : Obligations.DeviceTimeNeverDecreases := by
  intro i s u hi hu
  obtain ⟨n, f, hn, hrun⟩ := exec_runs i s
  rw [runAt_now (hrun.symm.trans hu)]
  exact hn hi

/-! ### Serving a semaphore -/

theorem serveSemaphore_length (i now : Nat) (o : SyncObj) (es : List Launch) : (serveSemaphore i now o es).2.length = es.length := by
  fun_induction serveSemaphore i now o es with
  | case1 => rfl
  | case2 o e es hwait hcount r ih => simpa using ih
  | case3 => rfl
  | case4 o e es hwait r ih => simpa using ih

/-- No entry of a list is served by keeping the list. -/
theorem served_self (es : List Launch) : (es.zip es).filter (fun p => p.1.waiting && !p.2.waiting) = [] := by
  rw [List.zip_eq_zipWith, List.zipWith_self]
  simp

/-- What the served entries took and what is left make up the count. -/
theorem serveSemaphore_count (i now : Nat) (o : SyncObj) (es : List Launch) :
    (serveSemaphore i now o es).1.count
      + (((es.zip (serveSemaphore i now o es).2).filter (fun p => p.1.waiting && !p.2.waiting)).map (fun p => p.1.waitCount)).sum = o.count := by
  fun_induction serveSemaphore i now o es with
  | case1 => simp
  | case2 o e es hwait hcount r ih =>
    have hw : e.waiting = true := (Bool.and_eq_true_iff.mp hwait).1
    have hleft : r.1.count + (((es.zip r.2).filter (fun p => p.1.waiting && !p.2.waiting)).map (fun p => p.1.waitCount)).sum = o.count - e.waitCount := ih
    simp only [List.zip_cons_cons, List.filter_cons, hw, Bool.not_false, Bool.and_self, if_true, List.map_cons, List.sum_cons]
    omega
  | case3 o e es hwait hcount => simp [served_self]
  | case4 o e es hwait r ih => simpa using ih

/-- An entry is as it was, or waited on the semaphore and waits no more. -/
theorem serveSemaphore_entry (i now : Nat) (o : SyncObj) (es : List Launch) :
    ∀ p ∈ es.zip (serveSemaphore i now o es).2, p.1 = p.2 ∨ (p.1.waiting = true ∧ p.1.waitSync = i ∧ p.2 = { p.1 with waiting := false, condTime := some now }) := by
  fun_induction serveSemaphore i now o es with
  | case1 => simp
  | case2 o e es hwait hcount r ih =>
    have hserved : e.waiting = true ∧ e.waitSync = i := by simpa using hwait
    rw [List.zip_cons_cons, List.forall_mem_cons]
    exact ⟨.inr ⟨hserved.1, hserved.2, rfl⟩, ih⟩
  | case3 o e es hwait hcount =>
    intro p hp
    rw [List.zip_eq_zipWith, List.zipWith_self, List.mem_map] at hp
    obtain ⟨x, -, rfl⟩ := hp
    exact .inl rfl
  | case4 o e es hwait r ih =>
    rw [List.zip_cons_cons, List.forall_mem_cons]
    exact ⟨.inl rfl, ih⟩

/-- Settles O11: by induction on the entries, oldest first. -/
theorem semaphoreServesWhatItHolds : Obligations.SemaphoreServesWhatItHolds :=
  fun i now o es => ⟨serveSemaphore_length i now o es, serveSemaphore_count i now o es, serveSemaphore_entry i now o es⟩

/-! ### Writes of the synchronisation window -/

section
variable {s : State} {t i : Nat} (h : (s.dueAt t).syncOpen i = true)
include h

theorem exec_syncConfigWrite (v : Nat) : exec (.syncConfigWrite t i v) s = .next (s.endsWith t ((s.dueAt t).syncConfig 0 i (v % 2 ^ 32))) := by
  show execSyncConfigWrite t i v s = _
  rw [execSyncConfigWrite, run_eq, if_pos h]
  simp [Dev.syncWrite]

theorem exec_syncCountWrite (v : Nat) : exec (.syncCountWrite t i v) s = .next (s.endsWith t ((s.dueAt t).syncCount i (v % 2 ^ 32))) := by
  show execSyncCountWrite t i v s = _
  rw [execSyncCountWrite, run_eq, if_pos h]
  simp [Dev.syncWrite]

theorem exec_syncExpectedWrite (v : Nat) : exec (.syncExpectedWrite t i v) s = .next (s.endsWith t ((s.dueAt t).syncExpected 0 i (v % 2 ^ 32))) := by
  show execSyncExpectedWrite t i v s = _
  rw [execSyncExpectedWrite, run_eq, if_pos h]
  simp [Dev.syncWrite]

theorem exec_syncPost (v : Nat) : exec (.syncPost t i v) s = .next (s.endsWith t ((s.dueAt t).syncPostWrite 0 i (v % 2 ^ 32))) := by
  show execSyncPost t i v s = _
  rw [execSyncPost, run_eq, if_pos h]
  simp [Dev.syncWrite]

theorem exec_syncClear : exec (.syncClear t i 1) s = .next (s.endsWith t ((s.dueAt t).syncClearWrite 0 i 1)) := by
  show execSyncClear t i 1 s = _
  rw [execSyncClear, run_eq, if_pos h]
  simp [Dev.syncWrite]

end

/-- Reaching EXPECTED can make a barrier due, and does nothing else. -/
theorem reach_form (o : SyncObj) (a : Nat) : ∃ x, o.reach a = { o with due := x } := by
  unfold SyncObj.reach
  split
  · exact ⟨some a, rfl⟩
  · exact ⟨o.due, rfl⟩

@[simp] theorem reach_lastFire (o : SyncObj) (a : Nat) : (o.reach a).lastFire = o.lastFire := by obtain ⟨x, h⟩ := reach_form o a; rw [h]
@[simp] theorem reach_generation (o : SyncObj) (a : Nat) : (o.reach a).generation = o.generation := by obtain ⟨x, h⟩ := reach_form o a; rw [h]
@[simp] theorem reach_count (o : SyncObj) (a : Nat) : (o.reach a).count = o.count := by obtain ⟨x, h⟩ := reach_form o a; rw [h]
@[simp] theorem reach_setFired (o : SyncObj) (a : Nat) : (o.reach a).setFired = o.setFired := by obtain ⟨x, h⟩ := reach_form o a; rw [h]

/-- The object as a write of SYNC_CONFIG stores it (R85). -/
def SyncObj.configured (o : SyncObj) (data : Nat) : SyncObj :=
  let ty := syncTypeOf (bits data 1 0)
  let o := if o.type = ty then o else { o with count := 0, setFired := false, overflow := false, late := false, overrun := false, generation := 0, due := none }
  { o with type := ty, autoClear := bit data 2, rearm := bit data 3, owner := bits data 14 8 }

/-- What SYNC_CONFIG stores, whatever firing is due: its fields, and an object that starts again where TYPE changes. -/
theorem configured_due (o : SyncObj) (data : Nat) (x : Option Nat) :
    let c : SyncObj := { o.configured data with due := x }
    c.type = syncTypeOf (bits data 1 0) ∧ c.owner = bits data 14 8 ∧ c.autoClear = bit data 2 ∧ c.rearm = bit data 3
      ∧ (o.type ≠ syncTypeOf (bits data 1 0) → c.count = 0 ∧ c.generation = 0 ∧ c.setFired = false) := by
  refine ⟨rfl, rfl, rfl, rfl, fun hnew => ?_⟩
  simp only [SyncObj.configured, if_neg hnew, and_self]

section
variable {d : Dev} {i : Nat} (fn : Nat)

theorem syncConfig_stores {data : Nat} (hb : d.syncBusy i = false) (ho : bits data 14 8 < 64 ∨ bits data 14 8 = 0x7F) :
    d.syncConfig fn i data = (d.updSync i (fun o => o.configured data)).evalSync i := by
  have howner : ¬(64 ≤ bits data 14 8 ∧ bits data 14 8 ≠ 0x7F) := by omega
  unfold Dev.syncConfig
  rw [if_neg (by simp [hb])]
  exact if_neg howner

theorem syncExpected_stores {data : Nat} (hb : d.syncBusy i = false) (h0 : 0 < data) (h1 : data < 65536) :
    d.syncExpected fn i data = (d.updSync i (fun o => { o with expected := data })).evalSync i := by
  have hmod : data % 65536 = data := Nat.mod_eq_of_lt h1
  unfold Dev.syncExpected
  rw [if_neg (by simp [hb]), hmod, if_neg (by omega)]

theorem syncPostWrite_posts {data : Nat} (h0 : 0 < data) (h1 : data < 2 ^ 32) (ht : (d.sync i).type ≠ .unused) :
    d.syncPostWrite fn i data = d.syncPost i data := by
  have hmod : data % 2 ^ 32 = data := Nat.mod_eq_of_lt h1
  unfold Dev.syncPostWrite
  rw [hmod, if_neg (by omega), if_neg ht]

theorem syncClearWrite_clears (ht : (d.sync i).type ≠ .unused) :
    d.syncClearWrite fn i 1 = (d.syncClear i).updSync i (fun o => { o with overflow := false, late := false, overrun := false }) := by
  unfold Dev.syncClearWrite
  rw [if_neg (by decide), if_neg ht]

theorem refuseSync_sync (k off data code : Nat) : (d.refuseSync fn k off data code).sync i = d.sync i := by
  obtain ⟨q, h⟩ := raiseFor_form d (if fn = 0 then d.pageOwner UnitId.sync.page else fn) 1 code UnitId.sync.page (accessFields fn off 4 true) (data + 2 ^ 32 * k)
  rw [Dev.refuseSync, Dev.refuse, h]
  rfl

/-- CLEAR of an UNUSED object is refused, and the object stays. -/
theorem syncClearWrite_unused (ht : (d.sync i).type = .unused) : (d.syncClearWrite fn i 1).sync i = d.sync i := by
  unfold Dev.syncClearWrite
  rw [if_neg (by decide), if_pos ht, refuseSync_sync]

end

@[simp] theorem post_type (o : SyncObj) (n : Nat) : (o.post n).type = o.type := by
  unfold SyncObj.post
  split <;> (try split) <;> rfl

@[simp] theorem clear_type (o : SyncObj) : (o.clear).type = o.type := by
  unfold SyncObj.clear
  split <;> rfl

section
variable {d : Dev} {i : Nat} (h : ∀ e ∈ d.launches, e.waiting = true → e.waitSync ≠ i)
include h

/-- An update of an object that no entry waits on: the object evaluated is the updated one, a timed barrier through its reach. -/
theorem sync_updSync_evalSync (f : SyncObj → SyncObj) :
    ((d.updSync i f).evalSync i).sync i = if (f (d.sync i)).type = .timedBarrier then (f (d.sync i)).reach d.now else f (d.sync i) := by
  rw [sync_evalSync (by simpa using h), sync_updSync_self, now_updSync]

theorem sync_updSync_evalSync_form (f : SyncObj → SyncObj) : ∃ x, ((d.updSync i f).evalSync i).sync i = { f (d.sync i) with due := x } := by
  rw [sync_updSync_evalSync h]
  split
  · exact reach_form _ _
  · exact ⟨(f (d.sync i)).due, rfl⟩

/-- A write of SYNC_CONFIG stores its fields, and starts the object again where TYPE changes (R85). -/
theorem syncConfig_sync {data : Nat} (fn : Nat) (hb : d.syncBusy i = false) (ho : bits data 14 8 < 64 ∨ bits data 14 8 = 0x7F) :
    ∃ x, (d.syncConfig fn i data).sync i = { (d.sync i).configured data with due := x } := by
  rw [syncConfig_stores fn hb ho]
  exact sync_updSync_evalSync_form h (fun o => o.configured data)

/-- A write of SYNC_POST to a semaphore or event posts the number written. -/
theorem syncPostWrite_sync {n : Nat} (fn : Nat) (ht : (d.sync i).type = .semaphore ∨ (d.sync i).type = .event) (h0 : 0 < n) (h1 : n < 2 ^ 32) :
    (d.syncPostWrite fn i n).sync i = (d.sync i).post n := by
  have hu : (d.sync i).type ≠ .unused := by rcases ht with ht | ht <;> simp [ht]
  have hb : ((d.sync i).post n).type ≠ .timedBarrier := by rcases ht with ht | ht <;> simp [ht]
  rw [syncPostWrite_posts fn h0 h1 hu, Dev.syncPost, noteFor_sync, noteFor_sync, sync_updSync_evalSync h, if_neg hb]

/-- A write of SYNC_CLEAR to a semaphore or event clears it and its flags. -/
theorem syncClearWrite_sync (fn : Nat) (ht : (d.sync i).type = .semaphore ∨ (d.sync i).type = .event) :
    (d.syncClearWrite fn i 1).sync i = { (d.sync i).clear with overflow := false, late := false, overrun := false } := by
  have hu : (d.sync i).type ≠ .unused := by rcases ht with ht | ht <;> simp [ht]
  have hb : (d.sync i).clear.type ≠ .timedBarrier := by rcases ht with ht | ht <;> simp [ht]
  rw [syncClearWrite_clears fn hu, sync_updSync_self, Dev.syncClear, noteFor_sync, sync_updSync_evalSync h, if_neg hb]

end

/-! ### POST and CLEAR by type (Table 3-7) -/

theorem post_semaphore {o : SyncObj} {n : Nat} (ht : o.type = .semaphore) (hn : o.count + n < 2 ^ 32) : o.post n = { o with count := o.count + n } := by
  have hroom : ¬0xFFFFFFFF < o.count + n := by omega
  simp [SyncObj.post, ht, satAdd, hroom]

theorem post_semaphore_saturates {o : SyncObj} {n : Nat} (ht : o.type = .semaphore) (hn : 2 ^ 32 ≤ o.count + n) :
    (o.post n).count = 0xFFFFFFFF ∧ (o.post n).overflow = true := by
  have hfull : 0xFFFFFFFF < o.count + n := by omega
  simp [SyncObj.post, ht, satAdd, hfull]

theorem post_event {o : SyncObj} (n : Nat) (ht : o.type = .event) : o.post n = { o with setFired := true } := by
  simp [SyncObj.post, ht]

theorem clear_semaphore {o : SyncObj} (ht : o.type = .semaphore) : o.clear = { o with count := 0 } := by
  simp [SyncObj.clear, ht]

theorem clear_event {o : SyncObj} (ht : o.type = .event) : o.clear = { o with setFired := false } := by
  simp [SyncObj.clear, ht]

/-- Settles O10: each write updates its object, and evaluating it then serves nobody, since no entry waits on it. -/
theorem syncObjectWrites : Obligations.SyncObjectWrites := by
  intro s t i v hopen hidle d o stored
  refine ⟨fun hb hv ho _ => ?config, fun hv => ?count, fun hb h0 hv => ?expected, fun ht h0 hv => ?postRoom, fun ht hv hfull h0 => ?postFull,
    fun ht h0 hv => ?postEvent, fun ht => ?clearSemaphore, fun ht => ?clearEvent, fun ht => ?clearUnused⟩
  case config =>
    obtain ⟨x, hx⟩ := syncConfig_sync hidle 0 hb ho
    refine ⟨_, exec_syncConfigWrite hopen v, ?_⟩
    rw [sync_endsWith, Nat.mod_eq_of_lt hv, hx]
    exact configured_due o v x
  case count =>
    refine ⟨_, exec_syncCountWrite hopen v, ?_⟩
    rw [sync_endsWith, Dev.syncCount, Nat.mod_mod, Nat.mod_eq_of_lt hv]
    exact sync_updSync_evalSync hidle (fun o => { o with count := v })
  case expected =>
    refine ⟨_, exec_syncExpectedWrite hopen v, ?_⟩
    rw [sync_endsWith, Nat.mod_eq_of_lt (by omega), syncExpected_stores 0 hb h0 hv]
    exact sync_updSync_evalSync hidle (fun o => { o with expected := v })
  case postRoom =>
    have hv32 : v < 2 ^ 32 := by omega
    refine ⟨_, exec_syncPost hopen v, ?_⟩
    rw [sync_endsWith, Nat.mod_eq_of_lt hv32, syncPostWrite_sync hidle 0 (.inl ht) h0 hv32]
    exact post_semaphore ht hv
  case postFull =>
    refine ⟨_, exec_syncPost hopen v, ?_⟩
    rw [sync_endsWith, Nat.mod_eq_of_lt hv, syncPostWrite_sync hidle 0 (.inl ht) h0 hv]
    exact post_semaphore_saturates ht hfull
  case postEvent =>
    refine ⟨_, exec_syncPost hopen v, ?_⟩
    rw [sync_endsWith, Nat.mod_eq_of_lt hv, syncPostWrite_sync hidle 0 (.inr ht) h0 hv]
    exact post_event v ht
  case clearSemaphore =>
    refine ⟨_, exec_syncClear hopen, ?_⟩
    rw [sync_endsWith, syncClearWrite_sync hidle 0 (.inl ht), clear_semaphore ht]
    exact ⟨rfl, rfl⟩
  case clearEvent =>
    refine ⟨_, exec_syncClear hopen, ?_⟩
    rw [sync_endsWith, syncClearWrite_sync hidle 0 (.inr ht), clear_event ht]
    exact ⟨rfl, rfl⟩
  case clearUnused =>
    refine ⟨_, exec_syncClear hopen, ?_⟩
    rw [sync_endsWith, syncClearWrite_unused 0 ht]

/-! ### Timed barriers -/

/-- A barrier that fires without REARM reads FIRED and is due no more (R84). -/
theorem fire_once {o : SyncObj} (a : Nat) (hr : o.rearm = false) :
    o.fire a = { o with lastFire := max o.fireTime a, generation := (o.generation + 1) % 2 ^ 32, due := none, setFired := true,
                        late := o.late || (o.fireTime != 0 && decide (o.fireTime < a + 2000)) } := by
  unfold SyncObj.fire
  dsimp only
  rw [if_neg (by simp [hr])]
  rfl

/-- A barrier that fires with REARM gives up EXPECTED arrivals and keeps FIRED as it was (R84). -/
theorem fire_rearm {o : SyncObj} (a : Nat) (hr : o.rearm = true) :
    (o.fire a).lastFire = max o.fireTime a ∧ (o.fire a).generation = (o.generation + 1) % 2 ^ 32
      ∧ (o.fire a).count = o.count - o.expected ∧ (o.fire a).setFired = o.setFired := by
  simp [SyncObj.fire, hr]

theorem exec_barrierFiring (s : State) (t i : Nat) : exec (.barrierFiring t i) s = .next (s.endsWith t ((s.dueAt t).barrierFire i)) := rfl

section
variable {d : Dev} {i a : Nat} (ht : (d.sync i).type = .timedBarrier) (hdue : (d.sync i).due = some a)
include ht hdue

theorem barrierFire_early (hF : d.now < max (d.sync i).fireTime a) : d.barrierFire i = d := by
  unfold Dev.barrierFire
  simp only [ht, hdue, if_pos hF]

theorem barrierFire_sync (hF : max (d.sync i).fireTime a ≤ d.now) : (d.barrierFire i).sync i = (d.sync i).fire a := by
  unfold Dev.barrierFire
  simp only [ht, hdue, if_neg (Nat.not_lt.mpr hF), noteFor_sync]
  exact sync_updSync_self d i (fun o => o.fire a)

end

/-- Settles O12: the firing at F is that of the due barrier, and before F nothing happens. -/
theorem timedBarrierFires : Obligations.TimedBarrierFires := by
  intro s t i a ht hdue d o
  refine ⟨fun hF hr => ?once, fun hF hr => ?rearm, fun hF => ?early⟩
  case once =>
    refine ⟨_, exec_barrierFiring s t i, ?_⟩
    rw [sync_endsWith, barrierFire_sync ht hdue hF, fire_once a hr]
  case rearm =>
    refine ⟨_, exec_barrierFiring s t i, ?_⟩
    rw [sync_endsWith, barrierFire_sync ht hdue hF]
    exact fire_rearm a hr
  case early => rw [exec_barrierFiring, barrierFire_early ht hdue hF]

/-! ### The time base -/

/-- What a change of ALIGN_STATE writes: the state, and an attention record where ALIGNED is left (R88). -/
theorem setAlign_form (d : Dev) (x : AlignState) : ∃ q, d.setAlign x = { d with time := { d.time with alignState := x }, attnqs := q } := by
  unfold Dev.setAlign
  dsimp only
  split
  · exact raiseFor_form ..
  · exact ⟨d.attnqs, rfl⟩

theorem setAlign_time (d : Dev) (x : AlignState) : (d.setAlign x).time = { d.time with alignState := x } := by
  obtain ⟨q, h⟩ := setAlign_form d x
  rw [h]

/-- Whichever state a message leads to, it changes ALIGN_STATE alone. -/
theorem setAlign_choice_time (d : Dev) (a b : Prop) [Decidable a] [Decidable b] (x y : AlignState) :
    ∃ z, (if a then d.setAlign x else if b then d else d.setAlign y).time = { d.time with alignState := z } := by
  split
  · exact ⟨x, setAlign_time d x⟩
  · split
    · exact ⟨d.time.alignState, rfl⟩
    · exact ⟨y, setAlign_time d y⟩

/-- Only leaving ALIGNED is logged. -/
theorem setAlign_quiet {d : Dev} (x : AlignState) (h : d.time.alignState ≠ .aligned) : d.setAlign x = { d with time := { d.time with alignState := x } } := by
  simp [Dev.setAlign, h]

theorem clampInt_bounds {lo hi : Int} (h : lo ≤ hi) (x : Int) : lo ≤ clampInt lo hi x ∧ clampInt lo hi x ≤ hi := by
  unfold clampInt
  split
  · omega
  · split <;> omega

/-- The slew rate toward the source that a message leaves, of at most 500 ppm (R88; notes/assumptions/11.md). -/
def TimeBase.slew (tb : TimeBase) (off : Int) : Int :=
  clampInt (-500) 500 (-(clampInt (-(2 ^ 31 - 1)) (2 ^ 31 - 1) off * 1000) / ((2 ^ tb.log2Interval : Nat) : Int))

theorem slew_bounds (tb : TimeBase) (off : Int) : -500 ≤ tb.slew off ∧ tb.slew off ≤ 500 := clampInt_bounds (by decide) _

/-- What a message that the module takes leaves of the time base, but for ALIGN_STATE, its count of small offsets and the time of the message (R87, R88). -/
theorem alignMessage_time {d : Dev} {p k : Nat} (off : Int) (h : d.alignTakes p k = true) : ∃ n l x, (d.alignMessage p k off).time =
    { d.time with
      sourcePort := p, sourceHops := k, offset := clampInt (-(2 ^ 31 - 1)) (2 ^ 31 - 1) off, rate := if d.alignSteps p k off then 0 else d.time.slew off
      steps := if d.alignSteps p k off then satAdd 0xFFFF d.time.steps 1 else d.time.steps, smallRun := n, lastMessage := l, alignState := x } := by
  unfold Dev.alignMessage
  simp only [h, Bool.not_true, Bool.false_eq_true, if_false]
  exact ⟨_, _, setAlign_choice_time _ _ _ _ _⟩

theorem alignTakes_of_steps {d : Dev} {p k : Nat} {off : Int} (h : d.alignSteps p k off = true) : d.alignTakes p k = true := by
  simp only [Dev.alignSteps, Bool.and_eq_true] at h
  obtain ⟨⟨⟨htake, -⟩, -⟩, -⟩ := h
  exact htake

/-- A message without a step leaves its source, its offset and a slew, and no step is counted. -/
theorem alignMessage_slews {d : Dev} {p k : Nat} {off : Int} (htake : d.alignTakes p k = true) (hstep : d.alignSteps p k off = false) :
    let tb := (d.alignMessage p k off).time
    tb.sourcePort = p ∧ tb.sourceHops = k ∧ tb.offset = clampInt (-(2 ^ 31 - 1)) (2 ^ 31 - 1) off ∧ -500 ≤ tb.rate ∧ tb.rate ≤ 500 ∧ tb.steps = d.time.steps := by
  obtain ⟨n, l, x, h⟩ := alignMessage_time off htake
  simp only [h, hstep, Bool.false_eq_true, if_false]
  exact ⟨trivial, trivial, trivial, (slew_bounds ..).1, (slew_bounds ..).2, trivial⟩

theorem alignMessage_counts_step {d : Dev} {p k : Nat} {off : Int} (hstep : d.alignSteps p k off = true) :
    (d.alignMessage p k off).time.steps = satAdd 0xFFFF d.time.steps 1 := by
  obtain ⟨n, l, x, h⟩ := alignMessage_time off (alignTakes_of_steps hstep)
  simp only [h, hstep, if_true]

/-- ALIGN_MESSAGE answers the message's effect, at a clock that has moved on by the offset's size where the module steps (R88). -/
theorem exec_alignMessage (s : State) (t p k : Nat) (off : Int) :
    ∃ u, exec (.alignMessage t p ⟨k, off⟩) s = .next u ∧ u.dev.now = (if (s.dueAt t).alignSteps p k off then (s.dueAt t).now + off.natAbs else (s.dueAt t).now)
      ∧ u.dev.time = ((s.dueAt t).alignMessage p k off).time := by
  refine ⟨_, rfl, ?_, settle_time _⟩
  rw [State.dueAt_now]
  rfl

theorem exec_alignInterval (s : State) (t : Nat) : exec (.alignInterval t) s = .next (s.endsWith t
    (if (s.dueAt t).time.running && (s.dueAt t).time.enable && (s.dueAt t).someSholoUp then { s.dueAt t with time := { (s.dueAt t).time with lastExchange := (s.dueAt t).now } } else s.dueAt t)) := rfl

theorem exec_alignHoldover (s : State) (t : Nat) : exec (.alignHoldover t) s = .next (s.endsWith t (s.dueAt t).alignHoldover) := rfl

/-- Eight intervals without a message end ALIGNED and ACQUIRING (R88). -/
theorem alignHoldover_due {d : Dev} (he : d.time.enable = true) (hs : d.time.source = false) (ha : d.time.alignState = .aligned ∨ d.time.alignState = .acquiring)
    (hl : d.time.lastMessage + d.time.eightIntervals ≤ d.now) :
    d.alignHoldover = ({ d with time := { d.time with smallRun := 0 } } : Dev).setAlign .holdover := by
  have hstate : (d.time.alignState == .aligned || d.time.alignState == .acquiring) = true := by simpa using ha
  simp [Dev.alignHoldover, he, hs, hstate, hl]

/-- The time domain locks: device time starts at 0, and the clock so far goes on as the time since power-good (R66). -/
theorem exec_timeDomainLock {s : State} (t : Nat) (hr : s.dev.time.running = false) (hm : s.dev.modState ≠ .reset) :
    ∃ u, exec (.timeDomainLock t) s = .next u ∧ u.dev.now = 0 ∧ u.dev.time = { (s.dueAt t).time with running := true, lockOffset := (s.dueAt t).now } := by
  have hlocks : (!s.dev.time.running && s.dev.modState != .reset) = true := by simp [hr, hm]
  show ∃ u, execTimeDomainLock t s = .next u ∧ _
  unfold execTimeDomainLock
  simp only [hlocks, if_true]
  exact ⟨_, rfl, rfl, settle_time _⟩

/-- Settles O13: the lock starts the clock anew, a step moves it forward, and every other alignment command leaves it and updates the time base. -/
theorem timeBaseCommands : Obligations.TimeBaseCommands := by
  intro s t p k off d
  refine ⟨fun hr hm => ?lock, fun hr he hup => ?interval, fun htake hstep => ?message, fun hstep => ?step, fun he hs ha hl => ?acquiring, fun he hs ha hl => ?aligned⟩
  case lock =>
    obtain ⟨u, hu, hnow, htime⟩ := exec_timeDomainLock t hr hm
    have hrun : u.dev.time.running = true := by rw [htime]
    refine ⟨u, hu, hrun, ?_, ?_⟩
    · rw [Dev.deviceTime, if_pos hrun, hnow]
    · rw [Dev.sincePower, if_pos hrun, hnow, htime, Nat.zero_add]
  case interval =>
    have hon : (d.time.running && d.time.enable && d.someSholoUp) = true := by rw [hr, he, hup]; rfl
    rw [exec_alignInterval, if_pos hon]
  case message =>
    obtain ⟨u, hu, hnow, htime⟩ := exec_alignMessage s t p k off
    rw [if_neg (Bool.eq_false_iff.mp hstep)] at hnow
    refine ⟨u, hu, hnow, ?_⟩
    rw [htime]
    exact alignMessage_slews htake hstep
  case step =>
    obtain ⟨u, hu, hnow, htime⟩ := exec_alignMessage s t p k off
    rw [if_pos hstep] at hnow
    refine ⟨u, hu, hnow, ?_⟩
    rw [htime]
    exact alignMessage_counts_step hstep
  case acquiring =>
    rw [exec_alignHoldover, alignHoldover_due he hs (.inr ha) hl, setAlign_quiet .holdover (by show d.time.alignState ≠ .aligned; simp [ha])]
  case aligned =>
    refine ⟨_, exec_alignHoldover s t, ?_⟩
    rw [State.endsWith_time, alignHoldover_due he hs (.inl ha) hl, setAlign_time]
    exact ⟨rfl, rfl⟩

/-! ### Releases, starts and the ends of a job -/

section
variable {d : Dev} {id S : Nat} {e : Launch} {j : Job} (he : d.entryOf id = some e) (hS : d.entryS e = some S)
include he hS

theorem sendRelease_due (hr : d.releases = true) (hdue : S ≤ d.now + 2000) :
    d.sendRelease id = { d with launches := d.launches.map (fun x => if x.job = id then { x with sent := true } else x) } := by
  have hlead : decide (S ≤ d.now + launchLead) = true := decide_eq_true hdue
  simp [Dev.sendRelease, he, hS, hr, hlead]

theorem sendRelease_early (hearly : d.now + 2000 < S) : d.sendRelease id = d := by
  have hlate : decide (S ≤ d.now + launchLead) = false := decide_eq_false (Nat.not_le.mpr hearly)
  simp [Dev.sendRelease, he, hS, hlate]

theorem jobLaunch_due (hj : d.jobs.get? id = some j) (hsent : e.sent = true) (hrun : d.jobsRun = true) (hdue : S ≤ d.now) : d.jobLaunch id = d.launchJob e j S := by
  simp [Dev.jobLaunch, he, hj, hS, hsent, hrun, hdue]

theorem jobLaunch_early (hj : d.jobs.get? id = some j) (hearly : d.now < S) : d.jobLaunch id = d := by
  simp [Dev.jobLaunch, he, hj, hS, hearly]

end

/-- A drained job without slate streams or a DONE_SYNC ends DONE: its tidy cores idle, its cores are free, and its final completion is OK (R60). -/
theorem jobDone_drained {d : Dev} {id : Nat} {j : Job} (hj : d.jobs.get? id = some j) (hrun : d.jobsRun = true) (hstate : j.jstate = .draining)
    (hdrained : d.coresDrained j.cores = true) (hslate : j.slateBind = []) (hsync : j.doneSync = none) :
    d.jobDone id = ((((((maskCores j.cores).foldl (fun d n => (upFrom 0 8).foldl (fun d m => d.updTidy (8 * n + m) (fun x => { x with slate := [], tstate := .idle })) d) d).updJob id
      (fun j => { j with jstate := .done })).freeCores id j.cores).jobFinal id cOk).flushDeferred).evalLaunches := by
  have hends : (d.jobsRun && j.jstate == .draining && d.coresDrained j.cores) = true := by simp [hrun, hstate, hdrained]
  unfold Dev.jobDone
  simp only [hj, hends, if_true, hslate, hsync, List.foldl_nil]

theorem jobFaultFinal_stopped {d : Dev} {id code : Nat} {j : Job} (hj : d.jobs.get? id = some j) (hf : j.faultCode = some code) :
    d.jobFaultFinal id = (((d.jobFinal id code).updJob id (fun j => { j with faultCode := none })).freeCores id j.cores).evalLaunches := by
  simp only [Dev.jobFaultFinal, hj, hf]

theorem exec_launchReleaseSend (s : State) (t id : Nat) : exec (.launchReleaseSend t id) s = .next (s.endsWith t ((s.dueAt t).sendRelease id)) := rfl

theorem exec_jobLaunch (s : State) (t id : Nat) : exec (.jobLaunch t id) s = .next (s.endsWith t ((s.dueAt t).jobLaunch id)) := rfl

theorem exec_jobDone (s : State) (t id : Nat) : exec (.jobDone t id) s = .next (s.endsWith t ((s.dueAt t).jobDone id)) := rfl

theorem exec_jobFaultFinal {s : State} {t : Nat} (h : (s.dueAt t).jobsRun = true) (id : Nat) :
    exec (.jobFaultFinal t id) s = .next (s.endsWith t ((s.dueAt t).jobFaultFinal id)) := by
  show execJobFaultFinal t id s = _
  rw [execJobFaultFinal, run_eq, if_pos h]

/-- Settles O25: each command does its part where its condition holds, and a release and a start wait for theirs. -/
theorem launchSchedulerAndJobEnds : Obligations.LaunchSchedulerAndJobEnds := by
  intro s t id e j S d
  refine ⟨fun he hS hr hdue => ?send, fun he hS hearly => ?sendEarly, fun he hj hS hsent hrun hdue => ?launch, fun he hj hS hearly => ?launchEarly,
    fun hj hrun hstate hdrained hslate hsync => ?done, fun code hj hrun hf => ?fault⟩
  case send => rw [exec_launchReleaseSend, sendRelease_due he hS hr hdue]
  case sendEarly => rw [exec_launchReleaseSend, sendRelease_early he hS hearly]
  case launch => rw [exec_jobLaunch, jobLaunch_due he hS hj hsent hrun hdue]
  case launchEarly => rw [exec_jobLaunch, jobLaunch_early he hS hj hearly]
  case done => exact ⟨_, rfl, by rw [exec_jobDone, jobDone_drained hj hrun hstate hdrained hslate hsync]⟩
  case fault => rw [exec_jobFaultFinal hrun, jobFaultFinal_stopped hj hf]

end Sys2Proof.Machine
end

section
/-! PROOFS. The matrix engine: the words, tags, flags and counts that a MATMUL and the tile operations leave in their own core (R99, R100, R126, R128, R130, R131, R139, R303, R400). -/

namespace Sys2Proof.Machine

/-! ### The commands -/

section
variable {s : State} {t n id : Nat} {j : Job} {x : Desc} {d y : Dev} (hd : s.dueAt t = d)
include hd

theorem exec_matmul (h : d.matrixNext n 1 = some (id, j, x)) (hy : d.matmul id n j x = y) : exec (.matmul t n) s = .next (s.endsWith t y) := by
  show execMatmul t n s = _
  simp only [execMatmul, run_eq, hd, h, hy]

theorem exec_tileClear (h : d.matrixNext n 3 = some (id, j, x)) (hy : d.tileClear n j x = y) : exec (.tileClear t n) s = .next (s.endsWith t y) := by
  show execTileClear t n s = _
  simp only [execTileClear, run_eq, hd, h, hy]

theorem exec_tileLoad (h : d.matrixNext n 5 = some (id, j, x)) (hy : d.tileLoad id n j x = y) : exec (.tileLoad t n) s = .next (s.endsWith t y) := by
  show execTileLoad t n s = _
  simp only [execTileLoad, run_eq, hd, h, hy]

theorem exec_tileCopy (h : d.matrixNext n 7 = some (id, j, x)) (hy : d.tileCopy n j x = y) : exec (.tileCopy t n) s = .next (s.endsWith t y) := by
  show execTileCopy t n s = _
  simp only [execTileCopy, run_eq, hd, h, hy]

end

/-! ### Updates of a core -/

/-- An update of a core is the core it leaves. -/
theorem updCore_const (d : Dev) (n : Nat) (f : Core → Core) : d.updCore n f = d.updCore n (fun _ => f (d.core n)) := rfl

/-- A core after arithmetic conditions accrue in it, flag by flag. -/
def Core.raised (c : Core) (tiles tag : Nat) (f : AccFlags) : Core :=
  { c with
    accOf := c.accOf || f.ofl, accNv := c.accNv || f.nv, accNanIn := c.accNanIn || f.nanIn, accTrunc := c.accTrunc || f.runTrunc, accIov := c.accIov || f.iov
    truncRuns := satAdd 0xFFFFFFFF c.truncRuns f.truncRuns
    flagTiles := if f.any then c.flagTiles ||| tiles else c.flagTiles
    flagTag := if f.any && !c.flagTagValid then tag else c.flagTag
    flagTagValid := c.flagTagValid || f.any }

theorem raiseAcc_eq (d : Dev) (n tiles tag : Nat) (f : AccFlags) : d.raiseAcc n tiles tag f = d.updCore n (fun c => c.raised tiles tag f) := by
  refine congrArg (d.updCore n) (funext fun c => ?_)
  cases hf : f.any
  case false =>
    simp only [AccFlags.any, Bool.or_eq_false_iff] at hf
    obtain ⟨⟨⟨⟨hofl, hnv⟩, hnan⟩, htrunc⟩, hiov⟩ := hf
    simp [Core.raised, AccFlags.any, hofl, hnv, hnan, htrunc, hiov]
  case true => cases hv : c.flagTagValid <;> simp [Core.raised, hf, hv]

/-! ### Words of a tile set by place -/

/-- A core with words of a tile set by place. -/
def Core.setWords (k : Core) (t : Nat) (ws : List (Nat × Nat)) : Core := ws.foldl (fun k e => k.setWord t (e.1 / 256) (e.1 % 256) e.2) k

/-- Setting words changes nothing but the tiles. -/
theorem setWords_eq (t : Nat) (ws : List (Nat × Nat)) : ∀ k : Core, k.setWords t ws = { k with tiles := (k.setWords t ws).tiles } := by
  induction ws with
  | nil => exact fun _ => rfl
  | cons e ws ih =>
    intro k
    have h := ih (k.setWord t (e.1 / 256) (e.1 % 256) e.2)
    rw [show k.setWords t (e :: ws) = (k.setWord t (e.1 / 256) (e.1 % 256) e.2).setWords t ws from rfl, h]
    rfl

theorem putTile_eq (k : Core) (t rows cols : Nat) (ws : List (Nat × Nat)) : k.putTile t rows cols ws = { k with tiles := (k.putTile t rows cols ws).tiles } := by
  obtain ⟨tl, h⟩ := putTile_rest k t rows cols ws
  rw [h]

/-- Words by place for a block of rows and columns whose first element is at (r0, c0). -/
def blockWords (r0 c0 rows cols : Nat) (f : Nat → Nat → Nat) : List (Nat × Nat) :=
  (upFrom 0 rows).flatMap (fun i => (upFrom 0 cols).map (fun k => ((r0 + i) * 256 + (c0 + k), f i k)))

theorem mem_blockWords {r0 c0 rows cols : Nat} {f : Nat → Nat → Nat} {e : Nat × Nat} :
    e ∈ blockWords r0 c0 rows cols f ↔ ∃ i < rows, ∃ k < cols, e = ((r0 + i) * 256 + (c0 + k), f i k) := by
  simp only [blockWords, List.mem_flatMap, List.mem_map, mem_upFrom, Nat.zero_le, true_and, Nat.zero_add, eq_comm (a := e)]

/-- A tile after the words of a block are set: the block reads its words, every other element what it read before. -/
theorem tileWord_setBlock {r0 c0 rows cols : Nat} (hrows : r0 + rows ≤ 256) (hcols : c0 + cols ≤ 256) (f : Nat → Nat → Nat) (c : Core) (t t' : Nat) {r k : Nat} (hr : r < 256) (hk : k < 256) :
    (c.setWords t (blockWords r0 c0 rows cols f)).tileWord t' r k =
      if t' = t ∧ (r0 ≤ r ∧ r < r0 + rows) ∧ c0 ≤ k ∧ k < c0 + cols then f (r - r0) (k - c0) else c.tileWord t' r k := by
  have hplace : ∀ e ∈ blockWords r0 c0 rows cols f, e.1 < 65536 := fun e he => by
    obtain ⟨i, hi, l, hl, rfl⟩ := mem_blockWords.mp he
    dsimp only
    omega
  by_cases ht : t' = t
  case neg => rw [if_neg (fun h => ht h.1), Core.setWords, tileWord_setWords t t' r k hr hk _ c hplace, if_neg ht]
  subst ht
  by_cases hin : (r0 ≤ r ∧ r < r0 + rows) ∧ c0 ≤ k ∧ k < c0 + cols
  case pos =>
    rw [if_pos ⟨rfl, hin⟩]
    obtain ⟨⟨hr0, hr1⟩, hc0, hc1⟩ := hin
    refine tileWord_setWords_mem t' r k _ hr hk _ c hplace (mem_blockWords.mpr ⟨r - r0, by omega, k - c0, by omega, ?_⟩) fun e he hplace => ?_
    · rw [Nat.add_sub_cancel' hr0, Nat.add_sub_cancel' hc0]
    · obtain ⟨i, hi, l, hl, rfl⟩ := mem_blockWords.mp he
      dsimp only at hplace ⊢
      rw [show r - r0 = i by omega, show k - c0 = l by omega]
  case neg =>
    rw [if_neg (fun h => hin h.2)]
    refine tileWord_setWords_out t' r k hr hk _ c hplace fun e he hplace => hin ?_
    obtain ⟨i, hi, l, hl, rfl⟩ := mem_blockWords.mp he
    dsimp only at hplace
    omega

/-! ### The totals of a MATMUL -/

theorem zipIdx_map_upFrom {α : Type} (f : Nat → α) : ∀ n b, ((upFrom b n).map f).zipIdx b = (upFrom b n).map (fun i => (f i, i))
  | 0, _ => rfl
  | n + 1, b => by simp only [upFrom, List.map_cons, List.zipIdx_cons, zipIdx_map_upFrom f n (b + 1)]

/-- The total of row i of A and column k of B, started from the element when CONTINUE is 1 and from 0 when not. -/
def Dev.matmulTotal (d : Dev) (c : Core) (e : ShapeEntry) (w i k : Nat) : Nat × AccFlags :=
  dotTotal (fmtClass (dsAFmt w)) e.geom c.spill (if dsContinue w then c.tileWord (dsTile w) (dsRowBlk w * e.geom.mt + i) (dsColBlk w * e.geom.nt + k) else 0)
    (d.operandRow (dsAFmt w) (dsK w) (dsAAddr w + i * dsAStride w) (if dsAScaled w then some (dsAScale w + i * (dsK w / 32)) else none))
    (d.operandRow (dsBFmt w) (dsK w) (dsBAddr w + k * dsBStride w) (if dsBScaled w then some (dsBScale w + k * (dsK w / 32)) else none))

/-- The totals by place are the words of the MATMUL's block. -/
theorem matmulTotals_words (d : Dev) (c : Core) (e : ShapeEntry) (w : Nat) :
    (d.matmulTotals c e w).map (·.1) = blockWords (dsRowBlk w * e.geom.mt) (dsColBlk w * e.geom.nt) e.geom.mt e.geom.nt (fun i k => (d.matmulTotal c e w i k).1) := by
  simp only [Dev.matmulTotals, Dev.operand, zipIdx_map_upFrom, List.flatMap_map, List.map_flatMap, List.map_map]
  rfl

/-- The conditions that a MATMUL meets. -/
def Dev.matmulFlags (d : Dev) (c : Core) (e : ShapeEntry) (w : Nat) : AccFlags := (d.matmulTotals c e w).foldl (fun f y => f.or y.2) {}

/-- A core after its MATMUL, whose totals are `ts` and meet the conditions `fl`. -/
def Core.multiplied (c : Core) (ctx : Ctx) (e : ShapeEntry) (x : Desc) (ts : List (Nat × Nat)) (fl : AccFlags) : Core :=
  { c.raised (2 ^ dsTile x.word) (descTag x.word) fl with
    tiles := (c.setWords (dsTile x.word) ts).tiles
    tileInt := ctx.tagsAfter c.tileInt x.word
    spills := satAdd 0xFFFFFFFF c.spills (spillPoints c.spill (matmulRuns e x.word))
    matrixQ := landIn c.matrixQ x.ticket
    lastArray := some (dsShape x.word, dsTile x.word) }

/-- A device in which a MATMUL's totals, flags and counts have landed. -/
def Dev.landMatmul (d : Dev) (n : Nat) (ctx : Ctx) (e : ShapeEntry) (x : Desc) (ts : List (Nat × Nat)) (fl : AccFlags) : Dev :=
  ((d.updCore n (fun c => { c.setWords (dsTile x.word) ts with
      tileInt := ctx.tagsAfter (d.core n).tileInt x.word
      spills := satAdd 0xFFFFFFFF (c.setWords (dsTile x.word) ts).spills (spillPoints (c.setWords (dsTile x.word) ts).spill (matmulRuns e x.word)) })).raiseAcc n
    (2 ^ dsTile x.word) (descTag x.word) fl).landMatrix n x.ticket

theorem landMatmul_onArray (d : Dev) (n : Nat) (ctx : Ctx) (e : ShapeEntry) (x : Desc) (ts : List (Nat × Nat)) (fl : AccFlags) :
    (d.landMatmul n ctx e x ts fl).updCore n (fun c => { c with lastArray := some (dsShape x.word, dsTile x.word) }) = d.updCore n (fun _ => (d.core n).multiplied ctx e x ts fl) := by
  obtain ⟨tl, htl⟩ : ∃ tl, (d.core n).setWords (dsTile x.word) ts = { d.core n with tiles := tl } := ⟨_, setWords_eq _ _ _⟩
  rw [Dev.landMatmul, raiseAcc_eq, Dev.landMatrix, updCore_updCore, updCore_updCore, updCore_updCore, updCore_const]
  refine congrArg (fun c => d.updCore n (fun _ => c)) ?_
  rw [Core.multiplied, htl]
  rfl

section
variable {d : Dev} {c : Core} {ctx : Ctx} {e : ShapeEntry} {x : Desc} (fl : AccFlags)
  (hrows : (dsRowBlk x.word + 1) * e.geom.mt ≤ 256) (hcols : (dsColBlk x.word + 1) * e.geom.nt ≤ 256)
include hrows hcols

/-- The words of a core after its MATMUL: the totals in the block, every other word as before. -/
theorem multiplied_word (t' : Nat) {r k : Nat} (hr : r < 256) (hk : k < 256) :
    (c.multiplied ctx e x ((d.matmulTotals c e x.word).map (·.1)) fl).tileWord t' r k =
      if t' = dsTile x.word ∧ (dsRowBlk x.word * e.geom.mt ≤ r ∧ r < dsRowBlk x.word * e.geom.mt + e.geom.mt) ∧ dsColBlk x.word * e.geom.nt ≤ k ∧ k < dsColBlk x.word * e.geom.nt + e.geom.nt
      then (d.matmulTotal c e x.word (r - dsRowBlk x.word * e.geom.mt) (k - dsColBlk x.word * e.geom.nt)).1 else c.tileWord t' r k := by
  rw [Nat.add_one_mul] at hrows hcols
  rw [matmulTotals_words]
  exact tileWord_setBlock hrows hcols _ c (dsTile x.word) t' hr hk

theorem multiplied_word_in {i k : Nat} (hi : i < e.geom.mt) (hk : k < e.geom.nt) :
    (c.multiplied ctx e x ((d.matmulTotals c e x.word).map (·.1)) fl).tileWord (dsTile x.word) (dsRowBlk x.word * e.geom.mt + i) (dsColBlk x.word * e.geom.nt + k) =
      (d.matmulTotal c e x.word i k).1 := by
  have hword := multiplied_word (d := d) (c := c) (ctx := ctx) fl hrows hcols (dsTile x.word) (r := dsRowBlk x.word * e.geom.mt + i) (k := dsColBlk x.word * e.geom.nt + k)
  rw [Nat.add_one_mul] at hrows hcols
  rw [hword (by omega) (by omega), if_pos ⟨rfl, by omega, by omega⟩, Nat.add_sub_cancel_left, Nat.add_sub_cancel_left]

theorem multiplied_word_out {t' r k : Nat} (hr : r < 256) (hk : k < 256) (hout : ¬(t' = dsTile x.word ∧ r / e.geom.mt = dsRowBlk x.word ∧ k / e.geom.nt = dsColBlk x.word)) :
    (c.multiplied ctx e x ((d.matmulTotals c e x.word).map (·.1)) fl).tileWord t' r k = c.tileWord t' r k := by
  refine (multiplied_word fl hrows hcols t' hr hk).trans (if_neg fun ⟨ht, ⟨hr0, hr1⟩, hk0, hk1⟩ => hout ⟨ht, ?_, ?_⟩)
  · exact Nat.div_eq_of_lt_le hr0 (by rwa [Nat.add_one_mul])
  · exact Nat.div_eq_of_lt_le hk0 (by rwa [Nat.add_one_mul])

end

section
variable {d : Dev} {id n : Nat} {j : Job} {x : Desc} {e : ShapeEntry} (hshape : (d.ctx j.ctx).shapeOf (dsShape x.word) = some e)
include hshape

/-- A poisoned operand line faults the job (R400). -/
theorem matmul_poisoned {a : Nat} (hp : d.firstPoison (matmulReads e x.word) = some a) : d.matmul id n j x = d.faultJob id 0x0A 0 cJobFault (UnitId.me n).page a := by
  simp only [Dev.matmul, hshape, hp]

/-- Without one, the core takes the totals, and notes for the counters are left. -/
theorem matmul_clean (hp : d.firstPoison (matmulReads e x.word) = none) :
    ∃ o, d.matmul id n j x = ({ d with occ := o } : Dev).updCore n (fun _ =>
      (d.core n).multiplied (d.ctx j.ctx) e x ((d.matmulTotals (d.core n) e x.word).map (·.1)) (d.matmulFlags (d.core n) e x.word)) := by
  obtain ⟨o, ho⟩ := arrayNotes_form (d.landMatmul n (d.ctx j.ctx) e x ((d.matmulTotals (d.core n) e x.word).map (·.1)) (d.matmulFlags (d.core n) e x.word)) n
    (dsShape x.word) (dsTile x.word) (x.item id 1 (dsAAddr x.word)) (UnitId.me n).page 0x201 (e.geom.mt * e.geom.nt * dsK x.word)
    (UnitId.me n).page 0x204 ((matmulReads e x.word).foldl (fun s r => s + r.2) 0) (UnitId.acc n).page 0x281 (spillPoints (d.core n).spill (matmulRuns e x.word))
  refine ⟨o, Eq.trans ?_ (ho.trans (congrArg (fun y : Dev => ({ y with occ := o } : Dev)) (landMatmul_onArray d n (d.ctx j.ctx) e x _ _)))⟩
  simp only [Dev.matmul, hshape, hp, Dev.landMatmul, Core.setWords, List.foldl_map]
  rfl

end

/-! ### TILE_CLEAR, TILE_LOAD and TILE_COPY -/

/-- A core after an operation that leaves words and a tag in a tile, and has landed. -/
def Core.retiled (c : Core) (tiles : Tab Nat) (tags ticket : Nat) (lastArray : Option (Nat × Nat)) : Core := { c with tiles, tileInt := tags, matrixQ := landIn c.matrixQ ticket, lastArray }

/-- The words of memory that TILE_LOAD takes. -/
def Dev.loadWords (d : Dev) (ctx : Ctx) (w : Nat) : List (Nat × Nat) :=
  (upFrom 0 ctx.tileRows).flatMap (fun r => (upFrom 0 ctx.tileCols).map (fun k => (r * 256 + k, memNat d.devMem (dsAddr w + r * dsStride w + 4 * k) 4)))

section
variable {d : Dev} {id n : Nat} {j : Job} {x : Desc}

theorem tileClear_eq : d.tileClear n j x = d.updCore n (fun _ => (d.core n).retiled ((d.core n).clearTile (dsTile x.word) (d.ctx j.ctx).tileRows (d.ctx j.ctx).tileCols).tiles
    (setTag (d.core n).tileInt (dsTile x.word) (dsClass x.word)) x.ticket (d.core n).lastArray) := by
  rw [Dev.tileClear, Dev.landMatrix, updCore_updCore]
  rfl

theorem tileLoad_poisoned {a : Nat} (hp : d.firstPoison ((d.ctx j.ctx).accRegion x.word) = some a) :
    d.tileLoad id n j x = d.faultJob id 0x0A 0 cJobFault (UnitId.me n).page a := by
  simp only [Dev.tileLoad, hp]

theorem tileLoad_clean (hp : d.firstPoison ((d.ctx j.ctx).accRegion x.word) = none) :
    ∃ o, d.tileLoad id n j x = ({ d with occ := o } : Dev).updCore n (fun _ =>
      (d.core n).retiled ((d.core n).putTile (dsTile x.word) (d.ctx j.ctx).tileRows (d.ctx j.ctx).tileCols (d.loadWords (d.ctx j.ctx) x.word)).tiles
          (setTag (d.core n).tileInt (dsTile x.word) (dsClass x.word)) x.ticket (some (0, dsTile x.word))) := by
  obtain ⟨tl, htl⟩ := putTile_rest (d.core n) (dsTile x.word) (d.ctx j.ctx).tileRows (d.ctx j.ctx).tileCols (d.loadWords (d.ctx j.ctx) x.word)
  simp only [Dev.tileLoad, hp, Dev.landMatrix, updCore_updCore]
  obtain ⟨o, ho⟩ := onArray_form (d.updCore n (fun k => { k.putTile (dsTile x.word) (d.ctx j.ctx).tileRows (d.ctx j.ctx).tileCols (d.loadWords (d.ctx j.ctx) x.word) with
    tileInt := setTag k.tileInt (dsTile x.word) (dsClass x.word)
    matrixQ := landIn (k.putTile (dsTile x.word) (d.ctx j.ctx).tileRows (d.ctx j.ctx).tileCols (d.loadWords (d.ctx j.ctx) x.word)).matrixQ x.ticket })) n 0 (dsTile x.word) (x.item id 1 (dsAddr x.word))
  refine ⟨o, ho.trans ?_⟩
  rw [updCore_withOcc, updCore_updCore, updCore_const]
  refine congrArg (fun c => ({ d with occ := o } : Dev).updCore n (fun _ => c)) ?_
  rw [show ({ d with occ := o } : Dev).core n = d.core n from rfl, htl]
  rfl

theorem tileCopy_full (hs : (d.core n).freeShadow = none) : d.tileCopy n j x = d := by
  simp only [Dev.tileCopy, hs]

theorem tileCopy_free (hs : (d.core n).freeShadow ≠ none) :
    d.tileCopy n j x = d.updCore n (fun _ => (d.core n).retiled
      ((d.core n).putTile (dsDst x.word) (d.ctx j.ctx).tileRows (d.ctx j.ctx).tileCols ((d.core n).grabTile (dsTile x.word) (d.ctx j.ctx).tileRows (d.ctx j.ctx).tileCols)).tiles
      (setTag (d.core n).tileInt (dsDst x.word) ((d.core n).isInt (dsTile x.word))) x.ticket (d.core n).lastArray) := by
  obtain ⟨b, hb⟩ := Option.ne_none_iff_exists'.mp hs
  obtain ⟨tl, htl⟩ := putTile_rest (d.core n) (dsDst x.word) (d.ctx j.ctx).tileRows (d.ctx j.ctx).tileCols ((d.core n).grabTile (dsTile x.word) (d.ctx j.ctx).tileRows (d.ctx j.ctx).tileCols)
  simp only [Dev.tileCopy, hb, Dev.landMatrix, updCore_updCore]
  rw [updCore_const]
  refine congrArg (fun c => d.updCore n (fun _ => c)) ?_
  rw [htl]
  rfl

end

/-! ### What a landed operation leaves of its core -/

/-- A core in which one request has landed and nothing changed of the other queues, the shadow set, the SUA page, the spill setting, the job and the tickets. -/
def Core.landedIn (c c' : Core) (ticket : Nat) : Prop :=
  c'.matrixQ = landIn c.matrixQ ticket ∧ c'.suaQ = c.suaQ ∧ c'.moveQ = c.moveQ ∧ c'.shadow = c.shadow ∧ c'.sua = c.sua ∧ c'.spill = c.spill ∧ c'.job = c.job ∧ c'.nextTicket = c.nextTicket

section
variable {c : Core} {ctx : Ctx} {e : ShapeEntry} {x : Desc} {ts : List (Nat × Nat)} {fl : AccFlags} {tiles : Tab Nat} {tags ticket : Nat} {last : Option (Nat × Nat)}

theorem multiplied_landed : c.landedIn (c.multiplied ctx e x ts fl) x.ticket := ⟨rfl, rfl, rfl, rfl, rfl, rfl, rfl, rfl⟩

theorem retiled_landed : c.landedIn (c.retiled tiles tags ticket last) ticket := ⟨rfl, rfl, rfl, rfl, rfl, rfl, rfl, rfl⟩

theorem retiled_flags : let c' := c.retiled tiles tags ticket last
    c'.accFlags = c.accFlags ∧ c'.flagTiles = c.flagTiles ∧ c'.spills = c.spills ∧ c'.truncRuns = c.truncRuns := ⟨rfl, rfl, rfl, rfl⟩

/-- The conditions of a MATMUL accrue (R139). -/
theorem multiplied_flags : let c' := c.multiplied ctx e x ts fl
    c'.accOf = (c.accOf || fl.ofl) ∧ c'.accNv = (c.accNv || fl.nv) ∧ c'.accNanIn = (c.accNanIn || fl.nanIn) ∧ c'.accTrunc = (c.accTrunc || fl.runTrunc) ∧ c'.accIov = (c.accIov || fl.iov)
      ∧ c'.truncRuns = satAdd 0xFFFFFFFF c.truncRuns fl.truncRuns
      ∧ (fl.any = true → c'.flagTiles = c.flagTiles ||| 2 ^ dsTile x.word ∧ c'.flagTag = (if c.flagTagValid then c.flagTag else descTag x.word) ∧ c'.flagTagValid = true)
      ∧ (fl.any = false → c'.flagTiles = c.flagTiles ∧ c'.flagTag = c.flagTag ∧ c'.flagTagValid = c.flagTagValid) := by
  refine ⟨rfl, rfl, rfl, rfl, rfl, rfl, fun hfl => ?any, fun hfl => ?none⟩
  case any => cases hv : c.flagTagValid <;> simp [Core.multiplied, Core.raised, hfl, hv]
  case none => simp [Core.multiplied, Core.raised, hfl]

end

/-- Settles O53: a MATMUL's totals fill its block of the tile, each tile operation its context's rows and columns, and the core that takes them is known field by field. -/
theorem matmulAndTileOperationsWriteTheirTiles : Obligations.MatmulAndTileOperationsWriteTheirTiles := by
  intro s t n id j x
  generalize hd : s.dueAt t = d
  intro d w ctx c frame quiet
  refine ⟨fun hm e hshape => ⟨fun a hp => ?poisoned, fun hp hrows hcols => ?matmul⟩, fun hm => ?clear, fun hm => ⟨fun a hp => ?loadPoisoned, fun hp hrows hcols => ?load⟩,
    fun hm => ⟨fun hs => ?copyWaits, fun hs hrows hcols => ?copy⟩⟩
  case poisoned => exact exec_matmul hd hm (matmul_poisoned hshape hp)
  case matmul =>
    obtain ⟨o, ho⟩ := matmul_clean (id := id) (n := n) hshape hp
    refine ⟨o, _, exec_matmul hd hm ho, ?_⟩
    exact ⟨multiplied_landed, rfl, fun i k hi hk => multiplied_word_in _ hrows hcols hi hk, fun t' r k hr hk hout => multiplied_word_out _ hrows hcols hr hk hout,
      rfl, rfl, multiplied_flags⟩
  case clear =>
    refine ⟨_, exec_tileClear hd hm tileClear_eq, ?_⟩
    exact ⟨⟨retiled_landed, retiled_flags⟩, rfl, rfl, fun t' r k hr hk => tileWord_clearTile c (dsTile w) ctx.tileRows ctx.tileCols t' r k hr hk⟩
  case loadPoisoned => exact exec_tileLoad hd hm (tileLoad_poisoned hp)
  case load =>
    obtain ⟨o, ho⟩ := tileLoad_clean (id := id) (n := n) hp
    refine ⟨o, _, exec_tileLoad hd hm ho, ?_⟩
    exact ⟨⟨retiled_landed, retiled_flags⟩, rfl, rfl, fun t' r k hr hk => tileWord_region (dsTile w) ctx.tileRows ctx.tileCols _ c hrows hcols t' r k hr hk⟩
  case copyWaits => exact exec_tileCopy hd hm (tileCopy_full hs)
  case copy =>
    refine ⟨_, exec_tileCopy hd hm (tileCopy_free hs), ?_⟩
    exact ⟨⟨retiled_landed, retiled_flags⟩, rfl, rfl, fun t' r k hr hk => tileWord_region (dsDst w) ctx.tileRows ctx.tileCols _ c hrows hcols t' r k hr hk⟩

end Sys2Proof.Machine
end

section
/-! PROOFS. Captures into the shadow set, write-outs, the running-sum chain and the completion of descriptors (R102, R110, R128, R130, R131, R132, R135, R137, R138, R269). -/

namespace Sys2Proof.Machine

/-! ### The commands -/

section
variable {s : State} {t n id : Nat} {j : Job} {x : Desc} {d y : Dev} (hd : s.dueAt t = d)
include hd

theorem exec_reduce (h : d.matrixNext n 2 = some (id, j, x)) (hy : d.tileReduce n j x = y) : exec (.reduce t n) s = .next (s.endsWith t y) := by
  show execReduce t n s = _
  simp only [execReduce, run_eq, hd, h, hy]

theorem exec_tileDrain (h : d.matrixNext n 4 = some (id, j, x)) (hy : d.tileDrain n j x = y) : exec (.tileDrain t n) s = .next (s.endsWith t y) := by
  show execTileDrain t n s = _
  simp only [execTileDrain, run_eq, hd, h, hy]

theorem exec_chainAdd (h : d.matrixNext n 6 = some (id, j, x)) (hy : d.chainTake n j x = y) : exec (.chainAdd t n) s = .next (s.endsWith t y) := by
  show execChainAdd t n s = _
  simp only [execChainAdd, run_eq, hd, h, hy]

end

theorem exec_writeOutEnd (s : State) (t n b : Nat) : exec (.writeOutEnd t n b) s = .next (s.endsWith t ((s.dueAt t).writeOutEnd n b)) := rfl

theorem exec_runningSumHandover (s : State) (t n : Nat) : exec (.runningSumHandover t n) s = .next (s.endsWith t ((s.dueAt t).runningSum n)) := rfl

theorem exec_descriptorComplete (s : State) (t n : Nat) (q : DescQueue) : exec (.descriptorComplete t n q) s = .next (s.endsWith t ((s.dueAt t).descComplete n q)) := rfl

/-! ### Tables of the words that differ from +0 -/

/-- A list whose entries at a key all hold one value reads that value at the key. -/
theorem getD_of_unique {k v w₀ : Nat} : ∀ {ws : Tab Nat}, (∀ e ∈ ws, e.1 = k → e.2 = v) → ((k, v) ∈ ws ∨ v = w₀) → ws.getD k w₀ = v
  | [], _, h => by
    rcases h with h | h
    · cases h
    · exact h.symm
  | (l, w) :: ws, hu, h => by
    by_cases hl : l = k
    · simpa [Tab.getD, Tab.get?, hl] using hu (l, w) List.mem_cons_self hl
    · have ih := getD_of_unique (ws := ws) (w₀ := w₀) (fun e he => hu e (List.mem_cons_of_mem _ he)) (h.imp_left fun h => (List.mem_cons.mp h).resolve_left fun h => hl (congrArg Prod.fst h).symm)
      simpa [Tab.getD, Tab.get?, hl] using ih

/-- The words of a list that differ from +0. -/
def nonzeroWords (ws : List (Nat × Nat)) : Tab Nat := ws.filter (fun e => e.2 != 0)

theorem mem_nonzeroWords {ws : List (Nat × Nat)} {e : Nat × Nat} : e ∈ nonzeroWords ws ↔ e ∈ ws ∧ e.2 ≠ 0 := by
  simp [nonzeroWords]

/-- Leaving the words that are +0 out does not change what a place reads. -/
theorem getD_nonzeroWords {ws : List (Nat × Nat)} {k v : Nat} (hm : (k, v) ∈ ws) (hu : ∀ e ∈ ws, e.1 = k → e.2 = v) : (nonzeroWords ws).getD k 0 = v := by
  refine getD_of_unique (fun e he => hu e (mem_nonzeroWords.mp he).1) ?_
  by_cases hv : v = 0
  · exact .inr hv
  · exact .inl (mem_nonzeroWords.mpr ⟨hm, hv⟩)

/-- Places of a region of at most 256 columns are distinct. -/
theorem blockWords_unique {rows cols : Nat} {f : Nat → Nat → Nat} (hcols : cols ≤ 256) {r k : Nat} (hk : k < 256) {e : Nat × Nat} (he : e ∈ blockWords 0 0 rows cols f)
    (hplace : e.1 = r * 256 + k) : r < rows ∧ k < cols ∧ e.2 = f r k := by
  obtain ⟨i, hi, l, hl, rfl⟩ := mem_blockWords.mp he
  dsimp only at hplace ⊢
  obtain ⟨rfl, rfl⟩ : i = r ∧ l = k := by omega
  exact ⟨hi, hl, rfl⟩

theorem place_mem_blockWords {rows cols : Nat} {f : Nat → Nat → Nat} {r k : Nat} (hr : r < rows) (hk : k < cols) : (r * 256 + k, f r k) ∈ blockWords 0 0 rows cols f :=
  mem_blockWords.mpr ⟨r, hr, k, hk, by rw [Nat.zero_add, Nat.zero_add]⟩

theorem getD_nonzero_blockWords {rows cols : Nat} (f : Nat → Nat → Nat) (hcols : cols ≤ 256) {r k : Nat} (hr : r < rows) (hk : k < cols) :
    (nonzeroWords (blockWords 0 0 rows cols f)).getD (r * 256 + k) 0 = f r k :=
  getD_nonzeroWords (place_mem_blockWords hr hk) fun _ he hplace => (blockWords_unique hcols (hk.trans_le hcols) he hplace).2.2

/-- A tile's region after its words that differ from +0 are put. -/
theorem tileWord_putNonzero {rows cols : Nat} (hrows : rows ≤ 256) (hcols : cols ≤ 256) (f : Nat → Nat → Nat) (c : Core) (t t' : Nat) {r k : Nat} (hr : r < 256) (hk : k < 256) :
    (c.putTile t rows cols (nonzeroWords (blockWords 0 0 rows cols f))).tileWord t' r k = if t' = t ∧ r < rows ∧ k < cols then f r k else c.tileWord t' r k := by
  have hplaces : ∀ e ∈ nonzeroWords (blockWords 0 0 rows cols f), e.1 < 65536 := fun e he => by
    obtain ⟨i, hi, l, hl, rfl⟩ := mem_blockWords.mp (mem_nonzeroWords.mp he).1
    dsimp only
    omega
  have hcleared := tileWord_clearTile c t rows cols t' r k hr hk
  by_cases ht : t' = t
  case neg => rw [Core.putTile, tileWord_setWords t t' r k hr hk _ _ hplaces, if_neg ht, hcleared, if_neg (fun h => ht h.1), if_neg (fun h => ht h.1)]
  subst ht
  by_cases hword : (r < rows ∧ k < cols) ∧ f r k ≠ 0
  case pos =>
    rw [if_pos ⟨rfl, hword.1⟩]
    exact tileWord_setWords_mem t' r k _ hr hk _ _ hplaces (mem_nonzeroWords.mpr ⟨place_mem_blockWords hword.1.1 hword.1.2, hword.2⟩)
      fun e he hplace => (blockWords_unique hcols hk (mem_nonzeroWords.mp he).1 hplace).2.2
  case neg =>
    rw [Core.putTile, tileWord_setWords_out t' r k hr hk _ _ hplaces, hcleared]
    · by_cases hin : r < rows ∧ k < cols
      · rw [if_pos ⟨rfl, hin⟩, if_pos ⟨rfl, hin⟩]
        exact (not_not.mp fun h => hword ⟨hin, h⟩).symm
      · rw [if_neg (fun h => hin h.2), if_neg (fun h => hin h.2)]
    · intro e he hplace
      obtain ⟨he, hne⟩ := mem_nonzeroWords.mp he
      obtain ⟨hr, hk, hval⟩ := blockWords_unique hcols hk he hplace
      exact hword ⟨⟨hr, hk⟩, hval ▸ hne⟩

theorem grabTile_eq (c : Core) (t rows cols : Nat) : c.grabTile t rows cols = blockWords 0 0 rows cols (c.tileWord t) := by
  simp only [Core.grabTile, blockWords, Nat.zero_add]

/-! ### Captures -/

/-- What a descriptor captures in a shadow buffer. -/
def Core.capture (c : Core) (x : Desc) (use : ShadowUse) (rows cols : Nat) (ws : List (Nat × Nat)) : Shadow :=
  { use, ticket := x.ticket, word := x.word, isInt := c.isInt (dsTile x.word), rows, cols, words := nonzeroWords ws }

/-- A core whose descriptor holds a shadow buffer. -/
def Core.holdShadow (c : Core) (b : Nat) (x : Desc) (sh : Shadow) : Core :=
  { c with shadow := c.shadow.put b sh, matrixQ := c.matrixQ.map (fun y => if y.ticket = x.ticket then { y with started := true } else y) }

section
variable {d : Dev} {n : Nat} (x : Desc) (use : ShadowUse) (rows cols : Nat) (ws : List (Nat × Nat))

theorem takeShadow_full (h : (d.core n).freeShadow = none) : d.takeShadow n x use rows cols ws = d := by
  simp only [Dev.takeShadow, h]

theorem takeShadow_free {b : Nat} (h : (d.core n).freeShadow = some b) :
    d.takeShadow n x use rows cols ws = d.updCore n (fun c => c.holdShadow b x ((d.core n).capture x use rows cols ws)) := by
  simp only [Dev.takeShadow, h, Dev.startMatrix, updCore_updCore]
  rfl

end

/-- Word m of a REDUCE is the function over row or column m. -/
theorem getD_reduceResults (c : Core) (rows cols w : Nat) {m : Nat} (hm : m < 256) :
    (nonzeroWords (c.reduceResults rows cols w)).getD m 0 = reduceWords (c.isInt (dsTile w)) (dsRedFn w) ((upFrom (dsFirst w) (dsCount w)).map (fun i =>
      let word (r k : Nat) : Nat := if r < rows ∧ k < cols then c.tileWord (dsTile w) r k else 0
      if dsRedDir w then word i m else word m i)) := by
  refine getD_nonzeroWords (List.mem_map.mpr ⟨m, (mem_upFrom 256 0 m).mpr ⟨Nat.zero_le m, by omega⟩, rfl⟩) fun e he hplace => ?_
  obtain ⟨i, -, rfl⟩ := List.mem_map.mp he
  dsimp only at hplace
  rw [hplace]

/-! ### Write-outs -/

/-- Bytes outside a run of writes stay. -/
theorem memRead_writes {α : Type} (at' : α → Nat) (bs : α → List Byte) {a : Nat} : ∀ (l : List α) (m : List Host.Cell), (∀ x ∈ l, a < at' x ∨ at' x + (bs x).length ≤ a) →
    memRead (l.foldl (fun m x => memWriteN m (at' x) (bs x)) m) a = memRead m a
  | [], _, _ => rfl
  | x :: l, m, h => by
    rw [List.foldl_cons, memRead_writes at' bs l _ (fun y hy => h y (List.mem_cons_of_mem _ hy)), memRead_memWriteN_out _ _ _ _ (h x List.mem_cons_self)]

/-- Writing a buffer out reaches memory and what goes with it, and load reservations; without bytes that a tidy core stored meanwhile, memory takes the rows. -/
theorem writeShadow_form (d : Dev) (sh : Shadow) : ∃ m p ba g mg gr td fr, d.writeShadow sh =
      { d with devMem := m, poison := p, badShares := ba, goodLines := g, merges := mg, groups := gr, tidies := td, free := fr }
    ∧ Tidies.freed d.tidies td ∧ (sh.dirty = [] → m = sh.dests.zipIdx.foldl (fun m e => memWriteN m e.1.1 (sh.row e.2)) d.devMem) := by
  obtain ⟨m, p, ba, g, mg, gr, td, hrows, hm, hfreed⟩ := storeDevs_form (fun e : (Nat × Nat) × Nat => e.1.1) (fun e => sh.row e.2) sh.dests.zipIdx d
  obtain ⟨m', p', ba', g', mg', fr, hdirty⟩ := freeBytesAll_form (sh.dirty.map (fun a => (a, 1))) (sh.dests.zipIdx.foldl (fun d e => d.storeDev e.1.1 (sh.row e.2)) d)
  rw [List.foldl_map] at hdirty
  refine ⟨m', p', ba', g', mg', gr, td, fr, ?_, hfreed, fun hnone => ?_⟩
  · rw [Dev.writeShadow, hdirty, hrows]
  · rw [← hm]
    simpa only [hnone, List.foldl_nil, hrows] using (congrArg Dev.devMem hdirty).symm

section
variable {d : Dev} {n b id : Nat} {j : Job} {sh : Shadow} (hj : d.coreJob n = some (id, j)) (hb : (d.core n).shadow.get? b = some sh)
include hj hb

/-- A link of a chain has no write-out of its own. -/
theorem writeOutEnd_chain (hu : sh.use = .chainSend ∨ sh.use = .chainWait) : d.writeOutEnd n b = d := by
  simp only [Dev.writeOutEnd, hj, hb]
  exact if_neg (by rcases hu with h | h <;> simp [h])

theorem writeOutEnd_writes (hu : sh.use = .drain ∨ sh.use = .reduce) :
    ∃ o, d.writeOutEnd n b = ({ d.writeShadow sh with occ := o } : Dev).updCore n (fun c => { c with shadow := c.shadow.del b, matrixQ := landIn c.matrixQ sh.ticket }) := by
  simp only [Dev.writeOutEnd, hj, hb, Dev.landMatrix, updCore_updCore]
  rw [if_pos hu]
  exact note_form _ _ _ _ _

end

/-! ### The running-sum chain -/

/-- A running sum's receiver is of the sender's job, named by it, and waits for this chain from this core. -/
theorem chainReceiver_some {d : Dev} {id n r rb : Nat} {sh y : Shadow} (h : d.chainReceiver id n sh = some (r, rb, y)) :
    (d.core r).job = some id ∧ r = dsNext sh.word ∧ y.use = .chainWait ∧ dsChain y.word = dsChain sh.word ∧ dsPrev y.word = n := by
  unfold Dev.chainReceiver at h
  dsimp only at h
  split at h
  · cases h
  · rename_i hjob
    split at h
    · rename_i b x hfind
      cases h
      have hwaits := List.find?_some hfind
      simp only [Bool.and_eq_true, beq_iff_eq] at hwaits
      exact ⟨not_not.mp hjob, rfl, hwaits.1.1, hwaits.1.2, hwaits.2⟩
    · cases h

/-- The lowest buffer of a core whose running sum has a receiver that is ready. -/
def Dev.readySum (d : Dev) (id n : Nat) : Option (Nat × Shadow × Nat × Nat × Shadow) :=
  (d.core n).shadow.findSome? (fun e => if e.2.use = .chainSend then (d.chainReceiver id n e.2).map (fun q => (e.1, e.2, q)) else none)

theorem runningSum_ready {d : Dev} {id n b r rb : Nat} {j : Job} {sh x : Shadow} (hj : d.coreJob n = some (id, j)) (h : d.readySum id n = some (b, sh, r, rb, x)) :
    d.runningSum n = d.handOver id n b sh r rb x := by
  rw [Dev.readySum] at h
  simp only [Dev.runningSum, hj, h]

theorem runningSum_none {d : Dev} {id n : Nat} {j : Job} (hj : d.coreJob n = some (id, j)) (h : d.readySum id n = none) : d.runningSum n = d := by
  rw [Dev.readySum] at h
  simp only [Dev.runningSum, hj, h]

theorem chainSums_words (x t : Shadow) :
    (chainSums x t).map (·.1) = blockWords 0 0 t.rows t.cols (fun r k => (chainAdd t.isInt (x.words.getD (r * 256 + k) 0) (t.words.getD (r * 256 + k) 0)).1) := by
  simp only [chainSums, blockWords, List.map_flatMap, List.map_map, Nat.zero_add]
  rfl

/-- The conditions that a link's sums meet. -/
def chainFlags (x t : Shadow) : AccFlags := (chainSums x t).foldl (fun f y => f.or y.2) {}

/-- The sender of a running sum after it is handed on. -/
def Core.sentSum (c : Core) (b : Nat) (sh : Shadow) : Core := { c with shadow := c.shadow.del b, matrixQ := landIn c.matrixQ sh.ticket }

/-- The LAST link of a chain: its tile takes the sums, and its buffer is free (R138). -/
def Core.lastSum (c : Core) (rb : Nat) (sh x : Shadow) : Core :=
  { c.raised (2 ^ dsTile x.word) (descTag x.word) (chainFlags sh x) with
    tiles := (c.putTile (dsTile x.word) x.rows x.cols (nonzeroWords ((chainSums sh x).map (·.1)))).tiles
    shadow := c.shadow.del rb
    matrixQ := landIn c.matrixQ x.ticket }

theorem tileWord_lastSum (c : Core) (rb : Nat) {sh x : Shadow} (hrows : x.rows ≤ 256) (hcols : x.cols ≤ 256) (t' : Nat) {i k : Nat} (hi : i < 256) (hk : k < 256) :
    (c.lastSum rb sh x).tileWord t' i k =
      if t' = dsTile x.word ∧ i < x.rows ∧ k < x.cols then (chainAdd x.isInt (sh.words.getD (i * 256 + k) 0) (x.words.getD (i * 256 + k) 0)).1 else c.tileWord t' i k := by
  show (c.putTile (dsTile x.word) x.rows x.cols (nonzeroWords ((chainSums sh x).map (·.1)))).tileWord t' i k = _
  rw [chainSums_words]
  exact tileWord_putNonzero hrows hcols _ c (dsTile x.word) t' hi hk

/-- Another link: its buffer takes the sums and sends them on, and its tile stays (R138). -/
def Core.middleSum (c : Core) (rb : Nat) (sh x : Shadow) : Core :=
  { c.raised 0 (descTag x.word) (chainFlags sh x) with shadow := c.shadow.put rb { x with use := .chainSend, words := nonzeroWords ((chainSums sh x).map (·.1)) } }

section
variable {d : Dev} {id n b r rb : Nat} {sh x : Shadow}

theorem handOver_otherTag (ht : sh.isInt ≠ x.isInt) : d.handOver id n b sh r rb x = d.faultJob id 0x0E 0 cJobFault (UnitId.acc r).page (dsChain x.word) := if_pos ht

theorem handOver_last (ht : sh.isInt = x.isInt) (hr : r ≠ n) (hrole : dsRole x.word = 2) :
    d.handOver id n b sh r rb x = (d.updCore n (fun _ => (d.core n).sentSum b sh)).updCore r (fun _ => (d.core r).lastSum rb sh x) := by
  obtain ⟨tl, htl⟩ := putTile_rest (d.core r) (dsTile x.word) x.rows x.cols (nonzeroWords ((chainSums sh x).map (·.1)))
  unfold Dev.handOver
  rw [if_neg (not_not.mpr ht)]
  dsimp only
  rw [if_pos hrole]
  simp only [raiseAcc_eq, Dev.landMatrix, updCore_updCore]
  rw [updCore_const _ r, core_updCore_ne _ _ hr.symm, Core.lastSum, ← nonzeroWords, htl]
  rfl

theorem handOver_middle (ht : sh.isInt = x.isInt) (hr : r ≠ n) (hrole : dsRole x.word ≠ 2) :
    d.handOver id n b sh r rb x = (d.updCore n (fun _ => (d.core n).sentSum b sh)).updCore r (fun _ => (d.core r).middleSum rb sh x) := by
  unfold Dev.handOver
  rw [if_neg (not_not.mpr ht)]
  dsimp only
  rw [if_neg hrole]
  simp only [raiseAcc_eq, Dev.landMatrix, updCore_updCore]
  rw [updCore_const _ r, core_updCore_ne _ _ hr.symm]
  rfl

end

/-! ### Completed descriptors -/

/-- A queue of a core. -/
def Core.queue (c : Core) : DescQueue → List Desc
  | .matrix => c.matrixQ
  | .sua => c.suaQ
  | .move => c.moveQ

/-- A core whose queue's head has completed. -/
def Core.complete (c : Core) (q : DescQueue) (ticket : Nat) (rest : List Desc) : Core :=
  match q with
  | .matrix => { c with matrixQ := rest, lastDoneM := ticket }
  | .sua => { c with suaQ := rest, lastDoneS := ticket }
  | .move => { c with moveQ := rest, lastDoneMove := ticket }

/-- A device in which the token draw at the head of a completing SUA queue has ended (R200). -/
def Dev.drawEnded (d : Dev) (n : Nat) (q : DescQueue) : Dev := if q = .sua then d.endTokenDraw n else d

theorem completed_form (d : Dev) (n : Nat) (q : DescQueue) (x : SampleItem) : ∃ o, d.completed n q x = { d with occ := o } := by
  cases q with
  | matrix => exact note_form _ _ _ _ _
  | sua => exact ⟨d.occ, rfl⟩
  | move => exact note_form _ _ _ _ _

section
variable {d : Dev} {n id : Nat} {j : Job} {q : DescQueue} (hj : d.coreJob n = some (id, j))
include hj

theorem descComplete_eq : d.descComplete n q =
    match ((d.drawEnded n q).core n).queue q with
    | x :: _ =>
      if x.landed = true then
        (((d.drawEnded n q).updCore n (fun c => c.complete q x.ticket ((c.queue q).drop 1))).wakeTidies n).completed n q (x.item id (if q = .move then 2 else 1) (wfld x.word 0x10 63 0))
      else d.drawEnded n q
    | [] => d.drawEnded n q := by
  unfold Dev.descComplete
  rw [hj]
  cases q <;> rfl

variable {y : Desc} {rest : List Desc} (hq : ((d.drawEnded n q).core n).queue q = y :: rest)
include hq

/-- A head that has not landed stays. -/
theorem descComplete_waits (hl : y.landed = false) : d.descComplete n q = d.drawEnded n q := by
  rw [descComplete_eq hj, hq]
  exact if_neg (by rw [hl]; decide)

/-- A head that has landed leaves, and the tidy cores that wait for it go on (R110). -/
theorem descComplete_lands (hl : y.landed = true) :
    ∃ o, d.descComplete n q = { ((d.drawEnded n q).updCore n (fun c => c.complete q y.ticket rest)).wakeTidies n with occ := o } := by
  have hpop : (d.drawEnded n q).updCore n (fun c => c.complete q y.ticket ((c.queue q).drop 1)) = (d.drawEnded n q).updCore n (fun c => c.complete q y.ticket rest) := by
    rw [updCore_const, hq]
    rfl
  rw [descComplete_eq hj, hq, ← hpop]
  exact (completed_form _ n q _).imp fun o ho => (if_pos hl).trans ho

end

/-- Settles O54: a capture holds its tile's words, a write-out its rows, a link the sums of its chain, and a completed head leaves its queue. -/
theorem capturesWriteOutsChainsAndTickets : Obligations.CapturesWriteOutsChainsAndTickets := by
  intro s t n b id op j x sh
  generalize hd : s.dueAt t = d
  intro d w ctx c taken
  refine ⟨fun hm hfull => ?full, fun hm hfree => ⟨fun hop => ?reduce, fun hop hrows hcols => ?drain, fun hop hrows hcols => ?chain⟩, fun hj hb => ⟨fun hu => ?writeOut, fun hu => ?keeps⟩,
    fun hj r rb y hfind => ⟨fun hr => chainReceiver_some hr, fun ht => ?otherTag, fun ht hr hrows hcols => ?sum⟩, fun hj hnone => ?noReceiver, fun hj q y rest hq => ?complete⟩
  case full =>
    refine ⟨fun hop => ?_, fun hop => ?_, fun hop => ?_⟩ <;> subst hop
    · exact exec_reduce hd hm (takeShadow_full x _ _ _ _ hfull)
    · exact exec_tileDrain hd hm (takeShadow_full x _ _ _ _ hfull)
    · exact exec_chainAdd hd hm (takeShadow_full x _ _ _ _ hfull)
  case reduce =>
    subst hop
    exact ⟨_, exec_reduce hd hm (takeShadow_free x _ _ _ _ hfree), rfl, rfl, rfl, rfl, fun m hm => getD_reduceResults c ctx.tileRows ctx.tileCols w hm⟩
  case drain =>
    subst hop
    refine ⟨_, exec_tileDrain hd hm (takeShadow_free x _ _ _ _ hfree), rfl, rfl, rfl, rfl, rfl, fun r k hr hk => ?_⟩
    rw [grabTile_eq]
    exact getD_nonzero_blockWords _ hcols hr hk
  case chain =>
    subst hop
    refine ⟨_, exec_chainAdd hd hm (takeShadow_free x _ _ _ _ hfree), rfl, rfl, rfl, rfl, rfl, fun r k hr hk => ?_⟩
    rw [grabTile_eq]
    exact getD_nonzero_blockWords _ hcols hr hk
  case writeOut =>
    obtain ⟨o, ho⟩ := writeOutEnd_writes hj hb hu
    obtain ⟨m, p, ba, g, mg, gr, td, fr, hform, hfreed, hclean⟩ := writeShadow_form d sh
    refine ⟨_, by rw [exec_writeOutEnd, hd], ?_⟩
    rw [ho, hform]
    refine ⟨core_updCore_self _ n _, fun k hk => core_updCore_ne _ _ (Ne.symm hk), hfreed, rfl, rfl, fun hnone => ⟨hclean hnone, fun a ha => ?_⟩⟩
    exact (congrArg (fun m => memRead m a) (hclean hnone)).trans (memRead_writes _ _ _ _ ha)
  case keeps => rw [exec_writeOutEnd, hd, writeOutEnd_chain hj hb hu]
  case otherTag => rw [exec_runningSumHandover, hd, runningSum_ready hj hfind, handOver_otherTag ht]
  case sum =>
    by_cases hrole : dsRole y.word = 2
    case pos =>
      refine ⟨(Dev.core d r).lastSum rb sh y, c.sentSum b sh, by rw [exec_runningSumHandover, hd, runningSum_ready hj hfind, handOver_last ht hr hrole], rfl,
        fun _ => ⟨rfl, rfl, fun t' i k hi hk => ?_⟩, fun hother => absurd hrole hother⟩
      exact tileWord_lastSum _ rb hrows hcols t' hi hk
    case neg =>
      refine ⟨(Dev.core d r).middleSum rb sh y, c.sentSum b sh, by rw [exec_runningSumHandover, hd, runningSum_ready hj hfind, handOver_middle ht hr hrole], rfl,
        fun hlast => absurd hlast hrole, fun _ => ⟨rfl, rfl, _, rfl, rfl, rfl, rfl, fun i k hi hk => ?_⟩⟩
      rw [chainSums_words]
      exact getD_nonzero_blockWords _ hcols hi hk
  case noReceiver => rw [exec_runningSumHandover, hd, runningSum_none hj hnone]
  case complete =>
    have hqueue : ((Dev.drawEnded d n q).core n).queue q = y :: rest := by cases q <;> exact hq
    refine ⟨fun hl => ?_, fun hl => ?_⟩
    · rw [exec_descriptorComplete, hd, descComplete_waits hj hqueue hl]
      rfl
    · obtain ⟨o, ho⟩ := descComplete_lands hj hqueue hl
      refine ⟨o, ?_⟩
      rw [exec_descriptorComplete, hd, ho]
      cases q <;> rfl

end Sys2Proof.Machine
end

section
/-! PROOFS. A tidy core's issuing instructions: the request they read, its checks, the stall at a full queue and the ticket of an accepted one (R98, R101, R103, R110, R196, R199, R269, R271, R400). -/

namespace Sys2Proof.Machine

/-! ### The commands -/

theorem exec_xmIssue (s : State) (t tc rd rs1 : Nat) : exec (.xmIssue t tc rd rs1) s = .next (s.endsWith t ((s.dueAt t).xmIssue tc rd rs1)) := rfl

theorem exec_xtDraw (s : State) (t tc rd rs1 : Nat) : exec (.xtDraw t tc rd rs1) s = .next (s.endsWith t ((s.dueAt t).xtDraw tc rd rs1)) := rfl

theorem exec_xdMove (s : State) (t tc rd rs1 : Nat) : exec (.xdMove t tc rd rs1) s = .next (s.endsWith t ((s.dueAt t).xdMove tc rd rs1)) := rfl

/-! ### Reading the request -/

section
variable {d : Dev} {id tc a : Nat} (body : Nat → Dev)

theorem issueRead_misaligned (ha : a % 64 ≠ 0) : d.issueRead id tc a body = d.tidyTrap id tc exLoadMisaligned a := if_pos ha

theorem issueRead_outside (ha : a % 64 = 0) (hs : inShare (tc / 8) a 64 = false) : d.issueRead id tc a body = d.tidyTrap id tc exLoadAccess a := by
  simp [Dev.issueRead, ha, hs]

theorem issueRead_poisoned (ha : a % 64 = 0) (hs : inShare (tc / 8) a 64 = true) (hp : d.poisoned a 64 = true) :
    d.issueRead id tc a body = d.faultJob id 0x0A 0 cJobFault (tidyPage tc) a := by
  simp [Dev.issueRead, ha, hs, hp]

theorem issueRead_request (ha : a % 64 = 0) (hs : inShare (tc / 8) a 64 = true) (hp : d.poisoned a 64 = false) : d.issueRead id tc a body = body (memNat d.devMem a 64) := by
  simp [Dev.issueRead, ha, hs, hp]

end

/-! ### What becomes of a request that was read -/

/-- A word that `xm.issue` presents from an address. -/
def Dev.presentEngine (d : Dev) (id : Nat) (j : Job) (tc rd a w : Nat) : Dev :=
  match d.engineCheck j (tc / 8) (tc % 8) w, opQueue (descOp w) with
  | some code, _ => d.issueReject tc rd code w
  | none, none => d.issueReject tc rd cBadFormat w
  | none, some q => if 16 ≤ (if q = .sua then (d.core (tc / 8)).suaQ.length else (d.core (tc / 8)).matrixQ.length) then d.stallIssue tc else d.accept id j (tc / 8) (tc % 8) rd w a false q

/-- A word that `xt.draw` presents. -/
def Dev.presentDraw (d : Dev) (id : Nat) (j : Job) (tc rd a w : Nat) : Dev :=
  match d.tokenCheck j (tc / 8) (tc % 8) w with
  | some code => d.issueReject tc rd code w
  | none => if 16 ≤ (d.core (tc / 8)).suaQ.length then d.stallIssue tc else d.accept id j (tc / 8) (tc % 8) rd w a true .sua

/-- A core whose mover's queue takes a request; one for the network is counted and keeps its issuer. -/
def Core.takeMove (c : Core) (net : Prop) [Decidable net] (m mask : Nat) (x : Desc) : Core :=
  if net then
    { c with
      nextMove := nextTicketOf c.nextMove, moveQ := c.moveQ ++ [x]
      netCount := c.netCount.put mask (c.netCount.getD mask 0 + 1), lastNetAdd := some m
      firstNetAdd := some (c.firstNetAdd.getD m) }
  else { c with nextMove := nextTicketOf c.nextMove, moveQ := c.moveQ ++ [x] }

/-- A move request that is accepted. -/
def Dev.acceptMove (d : Dev) (id : Nat) (j : Job) (tc rd a w : Nat) : Dev :=
  ((if mvOp w = 3 then d.countIssue id (d.core (tc / 8)).lastNetAdd (tc % 8) (d.ctx j.ctx).throughput else d).updCore (tc / 8) (fun c =>
      c.takeMove (mvOp w = 3) (tc % 8) (mvMask w)
        { ticket := (d.core (tc / 8)).nextMove, tidy := tc % 8, word := w, addr := a, ordinal := if mvOp w = 3 then (d.core (tc / 8)).netCount.getD (mvMask w) 0 else 0 })).retire
    tc rd ((d.core (tc / 8)).nextMove * 65536)

/-- A word that `xd.move` presents. -/
def Dev.presentMove (d : Dev) (id : Nat) (j : Job) (tc rd a w : Nat) : Dev :=
  match d.moveCheck j (tc / 8) (tc % 8) w with
  | some code => d.issueReject tc rd code w
  | none => if moveCapacity ≤ (d.core (tc / 8)).moveQ.length then d.stallIssue tc else d.acceptMove id j tc rd a w

section
variable {d : Dev} {tc id : Nat} {j : Job} (hj : d.tidyJob tc = some (id, j)) (hh : (d.tidy tc).halted = false) (rd rs1 : Nat)
include hj hh

theorem xmIssue_eq : d.xmIssue tc rd rs1 =
    (d.taking id tc).issueRead id tc (((d.taking id tc).tidy tc).get rs1) ((d.taking id tc).presentEngine id j tc rd (((d.taking id tc).tidy tc).get rs1)) := tidyRun_eq hj hh _

theorem xtDraw_eq : d.xtDraw tc rd rs1 =
    (d.taking id tc).issueRead id tc (((d.taking id tc).tidy tc).get rs1) ((d.taking id tc).presentDraw id j tc rd (((d.taking id tc).tidy tc).get rs1)) := tidyRun_eq hj hh _

theorem xdMove_eq : d.xdMove tc rd rs1 =
    (d.taking id tc).issueRead id tc (((d.taking id tc).tidy tc).get rs1) ((d.taking id tc).presentMove id j tc rd (((d.taking id tc).tidy tc).get rs1)) := tidyRun_eq hj hh _

end

section
variable {d : Dev} {id tc : Nat} {j : Job} {w : Nat} (rd a : Nat)

theorem presentEngine_rejected {code : Nat} (h : d.engineCheck j (tc / 8) (tc % 8) w = some code) : d.presentEngine id j tc rd a w = d.issueReject tc rd code w := by
  simp only [Dev.presentEngine, h]

theorem presentDraw_rejected {code : Nat} (h : d.tokenCheck j (tc / 8) (tc % 8) w = some code) : d.presentDraw id j tc rd a w = d.issueReject tc rd code w := by
  unfold Dev.presentDraw
  rw [h]

theorem presentMove_rejected {code : Nat} (h : d.moveCheck j (tc / 8) (tc % 8) w = some code) : d.presentMove id j tc rd a w = d.issueReject tc rd code w := by
  simp only [Dev.presentMove, h]

/-- A descriptor that passes stalls at a full queue, and else is accepted. -/
theorem presentEngine_passed {q : DescQueue} (h : d.engineCheck j (tc / 8) (tc % 8) w = none) (hq : opQueue (descOp w) = some q) :
    d.presentEngine id j tc rd a w =
      if 16 ≤ (if q = .sua then (d.core (tc / 8)).suaQ.length else (d.core (tc / 8)).matrixQ.length) then d.stallIssue tc else d.accept id j (tc / 8) (tc % 8) rd w a false q := by
  simp only [Dev.presentEngine, h, hq]

theorem presentDraw_passed (h : d.tokenCheck j (tc / 8) (tc % 8) w = none) :
    d.presentDraw id j tc rd a w = if 16 ≤ (d.core (tc / 8)).suaQ.length then d.stallIssue tc else d.accept id j (tc / 8) (tc % 8) rd w a true .sua := by
  unfold Dev.presentDraw
  rw [h]

theorem presentMove_passed (h : d.moveCheck j (tc / 8) (tc % 8) w = none) :
    d.presentMove id j tc rd a w = if 32 ≤ (d.core (tc / 8)).moveQ.length then d.stallIssue tc else d.acceptMove id j tc rd a w := by
  unfold Dev.presentMove
  rw [h]
  rfl

end

/-! ### What acceptance leaves -/

@[simp] theorem retire_core (d : Dev) (tc rd v k : Nat) : (d.retire tc rd v).core k = d.core k := rfl

/-- A destination register other than x0 holds what was retired. -/
theorem get_retire_rd (d : Dev) (tc v : Nat) {rd : Nat} (hrd : rd % 32 ≠ 0) : ((d.retire tc rd v).tidy tc).get rd = w64 v := by
  rw [get_retire, if_pos ⟨rfl, hrd⟩]
  rfl

/-- Counting an acceptance from another tidy core reaches jobs and contexts alone (R103). -/
theorem countIssue_form (d : Dev) (id : Nat) (last : Option Nat) (m : Nat) (thr : Bool) : ∃ js cs, d.countIssue id last m thr = { d with jobs := js, ctxs := cs } := by
  cases last with
  | none => exact ⟨d.jobs, d.ctxs, rfl⟩
  | some l =>
    rw [Dev.countIssue]
    split
    · exact countTdc_form d id .issue
    · exact ⟨d.jobs, d.ctxs, rfl⟩

/-- A core whose matrix queue takes a descriptor. -/
def Core.takeMatrix (c : Core) (m : Nat) (x : Desc) : Core := { c with nextTicket := nextTicketOf c.nextTicket, matrixQ := c.matrixQ ++ [x], lastIssuerM := some m }

/-- A core whose SUA queue takes one, counted among the group requests of its mask (R155). -/
def Core.takeSua (c : Core) (m mask : Nat) (x : Desc) : Core :=
  { c with nextTicket := nextTicketOf c.nextTicket, suaQ := c.suaQ ++ [x], lastIssuerS := some m, groupCount := c.groupCount.put mask (c.groupCount.getD mask 0 + 1) }

section
variable (d : Dev) (id : Nat) (j : Job) (n m rd w addr : Nat) (token : Bool)

theorem accept_matrix : ∃ js cs, d.accept id j n m rd w addr token .matrix = (({ d with jobs := js, ctxs := cs } : Dev).updCore n (fun c =>
    c.takeMatrix m { ticket := (d.core n).nextTicket, tidy := m, word := w, token, addr, ordinal := 0 })).retire (8 * n + m) rd ((d.core n).nextTicket * 65536) := by
  obtain ⟨js, cs, h⟩ := countIssue_form d id (d.core n).lastIssuerM m (d.ctx j.ctx).throughput
  refine ⟨js, cs, ?_⟩
  simp only [Dev.accept, if_false, reduceCtorEq, h]
  rfl

theorem accept_sua : ∃ js cs, d.accept id j n m rd w addr token .sua = (({ d with jobs := js, ctxs := cs } : Dev).updCore n (fun c =>
    c.takeSua m (descMask w) { ticket := (d.core n).nextTicket, tidy := m, word := w, token, addr, ordinal := (d.core n).groupCount.getD (descMask w) 0 })).retire
      (8 * n + m) rd ((d.core n).nextTicket * 65536) := by
  obtain ⟨js, cs, h⟩ := countIssue_form d id (d.core n).lastIssuerS m (d.ctx j.ctx).throughput
  refine ⟨js, cs, ?_⟩
  simp only [Dev.accept, if_true, h]
  rfl

theorem acceptMove_form (tc a : Nat) : ∃ js cs, d.acceptMove id j tc rd a w = (({ d with jobs := js, ctxs := cs } : Dev).updCore (tc / 8) (fun c =>
    c.takeMove (mvOp w = 3) (tc % 8) (mvMask w)
      { ticket := (d.core (tc / 8)).nextMove, tidy := tc % 8, word := w, addr := a, ordinal := if mvOp w = 3 then (d.core (tc / 8)).netCount.getD (mvMask w) 0 else 0 })).retire
      tc rd ((d.core (tc / 8)).nextMove * 65536) := by
  obtain ⟨js, cs, h⟩ : ∃ js cs, (if mvOp w = 3 then d.countIssue id (d.core (tc / 8)).lastNetAdd (tc % 8) (d.ctx j.ctx).throughput else d) = { d with jobs := js, ctxs := cs } := by
    split
    · exact countIssue_form d _ _ _ _
    · exact ⟨d.jobs, d.ctxs, rfl⟩
  refine ⟨js, cs, ?_⟩
  rw [← h]
  rfl

end

/-- The mover's queue holds the request last, the next ticket follows, and the other queues stay. -/
theorem takeMove_queues (c : Core) (net : Prop) [Decidable net] (m mask : Nat) (x : Desc) :
    (c.takeMove net m mask x).moveQ = c.moveQ ++ [x] ∧ (c.takeMove net m mask x).nextMove = nextTicketOf c.nextMove ∧ (c.takeMove net m mask x).matrixQ = c.matrixQ ∧ (c.takeMove net m mask x).suaQ = c.suaQ := by
  unfold Core.takeMove
  split <;> exact ⟨rfl, rfl, rfl, rfl⟩

/-- Settles O51: each instruction reads its request, a failed check rejects it, a full queue stalls the core, and an accepted one is last in its queue under the next ticket. -/
theorem tidyCoresIssueDescriptors : Obligations.TidyCoresIssueDescriptors := by
  intro s t tc rd rs1 id code j q
  generalize hd : s.dueAt t = d
  intro d e a w n m all reject
  refine ⟨fun hj hh => ?issue, fun z n m w addr token hm => ?matrix, fun z n m w addr token => ?sua⟩
  case issue =>
    have hxm : exec (.xmIssue t tc rd rs1) s = .next (s.endsWith t (e.issueRead id tc a (e.presentEngine id j tc rd a))) := by rw [exec_xmIssue, hd, xmIssue_eq hj hh]; rfl
    have hxt : exec (.xtDraw t tc rd rs1) s = .next (s.endsWith t (e.issueRead id tc a (e.presentDraw id j tc rd a))) := by rw [exec_xtDraw, hd, xtDraw_eq hj hh]; rfl
    have hxd : exec (.xdMove t tc rd rs1) s = .next (s.endsWith t (e.issueRead id tc a (e.presentMove id j tc rd a))) := by rw [exec_xdMove, hd, xdMove_eq hj hh]; rfl
    have all_of {y : Dev} (h : ∀ body, e.issueRead id tc a body = y) : all y := ⟨by rw [hxm, h], by rw [hxt, h], by rw [hxd, h]⟩
    refine ⟨fun ha => all_of fun body => issueRead_misaligned body ha, fun ha hs => all_of fun body => issueRead_outside body ha hs,
      fun ha hs hp => all_of fun body => issueRead_poisoned body ha hs hp, fun ha hs hp => ?passed⟩
    rw [issueRead_request _ ha hs hp] at hxm hxt hxd
    refine ⟨fun h => ?_, fun h => ?_, fun h => ?_, fun h hq => ⟨fun hl => ?_, fun hl => ?_⟩, fun h => ⟨fun hl => ?_, fun hl => ?_⟩, fun h => ⟨fun hl => ?_, fun hl => ?move⟩⟩
    · rw [hxm, presentEngine_rejected rd a h]; rfl
    · rw [hxt, presentDraw_rejected rd a h]; rfl
    · rw [hxd, presentMove_rejected rd a h]; rfl
    · rw [hxm, presentEngine_passed rd a h hq, if_pos hl]; rfl
    · rw [hxm, presentEngine_passed rd a h hq, if_neg (Nat.not_le.mpr hl)]
    · rw [hxt, presentDraw_passed rd a h, if_pos hl]; rfl
    · rw [hxt, presentDraw_passed rd a h, if_neg (Nat.not_le.mpr hl)]
    · rw [hxd, presentMove_passed rd a h, if_pos hl]; rfl
    case move =>
      rw [presentMove_passed rd a h, if_neg (Nat.not_le.mpr hl)] at hxd
      obtain ⟨js, cs, hy⟩ := acceptMove_form e id j rd w tc a
      obtain ⟨hmove, hnext, hmatrix, hsua⟩ := takeMove_queues (e.core n) (mvOp w = 3) m (mvMask w)
        { ticket := (e.core n).nextMove, tidy := m, word := w, addr := a, ordinal := if mvOp w = 3 then (e.core n).netCount.getD (mvMask w) 0 else 0 }
      refine ⟨_, hxd, ?_⟩
      rw [hy, retire_core, core_updCore_self]
      exact ⟨⟨_, hmove⟩, hnext, hmatrix, hsua, by rw [retire_devMem, updCore_devMem], fun hrd => get_retire_rd _ tc _ hrd⟩
  case matrix =>
    intro y
    obtain ⟨js, cs, hy⟩ := accept_matrix z id j n m rd w addr token
    have hcore : y.core n = (z.core n).takeMatrix m { ticket := (z.core n).nextTicket, tidy := m, word := w, token, addr, ordinal := 0 } := by rw [show y = _ from hy, retire_core, core_updCore_self]; rfl
    rw [hcore]
    refine ⟨rfl, rfl, rfl, rfl, ?_⟩
    rw [show y = _ from hy]
    exact ⟨fun hrd => get_retire_rd _ _ _ hrd, by rw [retire_devMem, updCore_devMem], fun k hk => (retire_core _ _ _ _ k).trans (core_updCore_ne _ _ hk), fun k hk => tidy_retire_ne _ rd _ hk⟩
  case sua =>
    intro y
    obtain ⟨js, cs, hy⟩ := accept_sua z id j n m rd w addr token
    have hcore : y.core n = (z.core n).takeSua m (descMask w) { ticket := (z.core n).nextTicket, tidy := m, word := w, token, addr, ordinal := (z.core n).groupCount.getD (descMask w) 0 } := by
      rw [show y = _ from hy, retire_core, core_updCore_self]; rfl
    rw [hcore]
    refine ⟨⟨_, rfl⟩, rfl, rfl, ?_⟩
    rw [show y = _ from hy]
    exact ⟨by rw [retire_devMem, updCore_devMem], fun k hk => (retire_core _ _ _ _ k).trans (core_updCore_ne _ _ hk)⟩

end Sys2Proof.Machine
end

section
/-! PROOFS. A tidy core's vector conversions and draws: what each leaves in the vector registers and when it traps (R109, R111, R112, R113, R211, R214, R215, R216, R218). -/

namespace Sys2Proof.Machine

/-! ### The commands -/

theorem exec_xcCvt (s : State) (t tc vd vs2 fmt : Nat) (sat : Bool) : exec (.xcCvt t tc vd vs2 fmt sat) s = .next (s.endsWith t ((s.dueAt t).xcCvt tc vd vs2 fmt sat)) := rfl

theorem exec_xcSrnd (s : State) (t tc vd vs2 rs1 fmt : Nat) (sat : Bool) :
    exec (.xcSrnd t tc vd vs2 rs1 fmt sat) s = .next (s.endsWith t ((s.dueAt t).xcSrnd tc vd vs2 rs1 fmt sat)) := rfl

theorem exec_xrDraw (s : State) (t tc vd rs1 : Nat) : exec (.xrDraw t tc vd rs1) s = .next (s.endsWith t ((s.dueAt t).xrDraw tc vd rs1)) := rfl

theorem exec_xrDmask (s : State) (t tc vd rs1 rs2 : Nat) : exec (.xrDmask t tc vd rs1 rs2) s = .next (s.endsWith t ((s.dueAt t).xrDmask tc vd rs1 rs2)) := rfl

theorem exec_xrSlate (s : State) (t tc vd rs1 : Nat) : exec (.xrSlate t tc vd rs1) s = .next (s.endsWith t ((s.dueAt t).xrSlate tc vd rs1)) := rfl

/-! ### Elements of a register group -/

theorem packBits_lt (n : Nat) : ∀ ws : List Nat, packBits n ws < 2 ^ (n * ws.length)
  | [] => by simp [packBits]
  | w :: ws => by
    have hw : w % 2 ^ n < 2 ^ n := Nat.mod_lt _ (Nat.two_pow_pos n)
    calc packBits n (w :: ws) = w % 2 ^ n + 2 ^ n * packBits n ws := rfl
      _ < 2 ^ n * (packBits n ws + 1) := by rw [Nat.mul_add_one]; omega
      _ ≤ 2 ^ n * 2 ^ (n * ws.length) := Nat.mul_le_mul_left _ (packBits_lt n ws)
      _ = 2 ^ (n * (w :: ws).length) := by rw [← Nat.pow_add, List.length_cons, Nat.mul_add_one, Nat.add_comm]

/-- Replacing the first elements of a group leaves every bit from the next element on. -/
theorem testBit_setElems (old : Nat) (es : List Nat) {b : Nat} (hb : 32 * es.length ≤ b) : (setElems old es).testBit b = old.testBit b := by
  have hpacked : (packBits 32 es).testBit b = false := Nat.testBit_lt_two_pow ((packBits_lt 32 es).trans_le (Nat.pow_le_pow_right (by decide) hb))
  rw [setElems, Nat.testBit_or, hpacked, Bool.or_false, Nat.testBit_shiftLeft, Nat.testBit_shiftRight, decide_eq_true hb, Bool.true_and, Nat.add_sub_cancel' hb]

theorem elem32_setElems (old : Nat) (es : List Nat) {i : Nat} (hi : es.length ≤ i) : elem32 (setElems old es) i = elem32 old i := by
  refine Nat.eq_of_testBit_eq fun b => ?_
  rw [elem32, elem32, Nat.testBit_mod_two_pow, Nat.testBit_mod_two_pow, Nat.testBit_shiftRight, Nat.testBit_shiftRight, testBit_setElems old es (by omega)]

/-! ### The settings that the encodings need (R109) -/

theorem vecOk_one {x : Tidy} {vd : Nat} : x.vecOk [vd] = true ↔ x.sew32 = true ∧ x.groupOk vd = true := by
  simp [Tidy.vecOk]

theorem vecOk_two {x : Tidy} {vd vs2 : Nat} : x.vecOk [vd, vs2] = true ↔ x.sew32 = true ∧ x.groupOk vd = true ∧ x.groupOk vs2 = true := by
  simp [Tidy.vecOk]

/-! ### Conversions and draws -/

section
variable {d : Dev} {tc id : Nat} {j : Job} {e : Dev} {x : Tidy} (hj : d.tidyJob tc = some (id, j)) (hh : (d.tidy tc).halted = false) (he : d.taking id tc = e) (hx : e.tidy tc = x)
  (vd vs2 rs1 rs2 fmt : Nat) (sat : Bool)
include hj hh he hx

theorem xcCvt_eq : d.xcCvt tc vd vs2 fmt sat =
    if fmt ≤ 7 ∧ x.vecOk [vd, vs2] = true then
      let rs := (upFrom 0 x.vl).map (fun i => Machine.xcCvt fmt sat (elem32 (x.vget vs2) i))
      e.retireVec tc vd (packBits (fmtBits fmt) (rs.map (·.1))) (rs.foldl (fun a r => a ||| r.2) 0)
    else e.tidyTrap id tc exIllegal (rType 0x5B 0 (cvtF7 fmt sat) vd 0 vs2) := by
  subst he hx
  exact tidyRun_eq hj hh _

theorem xcSrnd_eq : d.xcSrnd tc vd vs2 rs1 fmt sat =
    if fmt ≤ 7 ∧ x.vecOk [vd, vs2] = true then
      let rs := (upFrom 0 x.vl).map (fun i => Machine.xcSrnd fmt sat (elem32 (x.vget vs2) i) (bits (x.indigo j.seed .sround (w64 (x.get rs1 + i))) 31 8))
      e.retireVec tc vd (packBits (fmtBits fmt) (rs.map (·.1))) (rs.foldl (fun a r => a ||| r.2.1) 0)
    else e.tidyTrap id tc exIllegal (rType 0x5B 1 (cvtF7 fmt sat) vd rs1 vs2) := by
  subst he hx
  exact tidyRun_eq hj hh _

theorem xrDraw_eq : d.xrDraw tc vd rs1 =
    if x.vecOk [vd] = true then e.retireVec tc vd (setElems (x.vget vd) ((upFrom 0 x.vl).map (fun i => x.indigo j.seed .general (w64 (x.get rs1 + i))))) 0
    else e.tidyTrap id tc exIllegal (rType 0x5B 2 1 vd rs1 0) := by
  subst he hx
  exact tidyRun_eq hj hh _

/-- The mask register after `xr.dmask`: bit i tells whether the dropout word of index i reaches the threshold. -/
def Tidy.dropoutMask (x : Tidy) (seed vd rs1 rs2 : Nat) : Nat :=
  ((x.v.getD vd 0 >>> x.vl) <<< x.vl ||| packBits 1 ((upFrom 0 x.vl).map (fun i => b2n (decide (x.get rs2 % 2 ^ 32 ≤ x.indigo seed .dropout (w64 (x.get rs1 + i))))))) % 2 ^ vlen

theorem xrDmask_eq : d.xrDmask tc vd rs1 rs2 =
    if (x.sew32 && decide (vd < 32)) = true then (e.updTidy tc (fun y => { y with v := y.v.put vd (x.dropoutMask j.seed vd rs1 rs2) })).retire tc 0 0
    else e.tidyTrap id tc exIllegal (rType 0x5B 3 1 vd rs1 rs2) := by
  subst he hx
  exact tidyRun_eq hj hh _

/-! ### Slate streams -/

theorem xrSlate_illegal (hv : x.vecOk [vd] = false) : d.xrSlate tc vd rs1 = e.tidyTrap id tc exIllegal (rType 0x5B 4 1 vd rs1 0) := by
  subst he hx
  exact (tidyRun_eq hj hh _).trans (if_pos (by rw [hv]; rfl))

/-- A stream bound to a tidy core: another core may not draw from it, and past its end none may (R216, R218). -/
theorem xrSlate_bound {owner : Nat} (hv : x.vecOk [vd] = true) (hb : j.slateBind.get? (x.get rs1 % 4096) = some owner) : d.xrSlate tc vd rs1 =
    let n := x.get rs1 % 4096
    let p := x.slate.getD n 0
    if owner ≠ tc then e.tidyTrap id tc exSlateUnavailable n
    else if slateEnd < p + x.vl then e.tidyTrap id tc exSlateExhausted n
    else
      let y := (e.slateWords tc vd j x n p).updTidy tc (fun y => { y with slate := y.slate.put n (p + y.vl) })
      if x.vl = 0 then y else y.updCtx j.ctx (fun c => { c with slate := c.slate.put n { c.slate.getD n {} with touched := true } }) := by
  subst he hx
  refine (tidyRun_eq hj hh _).trans ((if_neg (by rw [hv]; decide)).trans ?_)
  rw [hb]

/-- A stream that no core of the job binds is shared in a throughput context, unless another running job binds it (R216, R218). -/
theorem xrSlate_unbound (hv : x.vecOk [vd] = true) (hb : j.slateBind.get? (x.get rs1 % 4096) = none) : d.xrSlate tc vd rs1 =
    let n := x.get rs1 % 4096
    let p := ((e.ctx j.ctx).slate.getD n {}).pos
    if (!(e.ctx j.ctx).throughput || e.slateBoundElsewhere id j n) = true then e.tidyTrap id tc exSlateUnavailable n
    else if slateEnd < p + x.vl then e.tidyTrap id tc exSlateExhausted n
    else (e.slateShared id tc j n p x.vl).slateWords tc vd j x n p := by
  subst he hx
  refine (tidyRun_eq hj hh _).trans ((if_neg (by rw [hv]; decide)).trans ?_)
  rw [hb]

end

/-- Settles O52: each instruction's body is a test of its settings, and then what it retires or the trap it raises. -/
theorem vectorConversionsAndDraws : Obligations.VectorConversionsAndDraws := by
  intro s t tc vd vs2 rs1 rs2 fmt id j sat
  generalize hd : s.dueAt t = d
  intro d e x n words
  refine ⟨fun hj hh => ?runs, fun old es i hi => elem32_setElems old es hi⟩
  have he : Dev.taking d id tc = e := rfl
  have hx : e.tidy tc = x := rfl
  refine ⟨⟨fun hf hs hvd hvs => ?converts, fun hbad => ?badConversion⟩, fun hs hvd => ?draw, fun hs hvd => ?dmask, fun hs => ?badDraw, fun hs hvd => ?slate⟩
  case converts =>
    have hok := And.intro hf (vecOk_two.mpr ⟨hs, hvd, hvs⟩)
    rw [exec_xcCvt, exec_xcSrnd, hd, xcCvt_eq hj hh he hx, xcSrnd_eq hj hh he hx, if_pos hok, if_pos hok]
    exact ⟨rfl, rfl⟩
  case badConversion =>
    have hok : ¬(fmt ≤ 7 ∧ x.vecOk [vd, vs2] = true) := fun ⟨hf, hv⟩ => by
      obtain ⟨hs, hvd, hvs⟩ := vecOk_two.mp hv
      simp [hs, hvd, hvs, Nat.not_lt.mpr hf] at hbad
    rw [exec_xcCvt, exec_xcSrnd, hd, xcCvt_eq hj hh he hx, xcSrnd_eq hj hh he hx, if_neg hok, if_neg hok]
    exact ⟨rfl, rfl⟩
  case draw =>
    rw [exec_xrDraw, hd, xrDraw_eq hj hh he hx, if_pos (vecOk_one.mpr ⟨hs, hvd⟩)]
    rfl
  case dmask =>
    rw [exec_xrDmask, hd, xrDmask_eq hj hh he hx, if_pos (by rw [hs, decide_eq_true hvd]; rfl)]
    rfl
  case badDraw =>
    have hv : x.vecOk [vd] = false := by rw [Tidy.vecOk, hs]; rfl
    rw [exec_xrDraw, exec_xrDmask, exec_xrSlate, hd, xrDraw_eq hj hh he hx, xrDmask_eq hj hh he hx, xrSlate_illegal hj hh he hx vd rs1 hv, hv, hs]
    exact ⟨rfl, rfl, rfl⟩
  case slate =>
    have hv := vecOk_one.mpr ⟨hs, hvd⟩
    refine ⟨fun hb => ?own, fun o hb ho => ?other, fun hb => ?unbound⟩
    case own =>
      rw [exec_xrSlate, hd, xrSlate_bound hj hh he hx vd rs1 hv hb]
      dsimp only
      refine ⟨fun hp => ?_, fun hp => ?_⟩
      · rw [if_neg (not_not.mpr rfl), if_neg (c := slateEnd < _) (Nat.not_lt.mpr hp)]
        rfl
      · rw [if_neg (not_not.mpr rfl), if_pos (c := slateEnd < _) hp]
        rfl
    case other =>
      rw [exec_xrSlate, hd, xrSlate_bound hj hh he hx vd rs1 hv hb]
      dsimp only
      rw [if_pos ho]
      rfl
    case unbound =>
      rw [exec_xrSlate, hd, xrSlate_unbound hj hh he hx vd rs1 hv hb]
      dsimp only
      refine ⟨fun hshare => ?_, fun hthr helse => ⟨fun hp => ?_, fun hp => ?_⟩⟩
      · rw [if_pos (by simpa using hshare)]
        rfl
      · rw [if_neg (by simpa [hthr] using helse), if_pos (c := slateEnd < _) hp]
        rfl
      · rw [if_neg (by simpa [hthr] using helse), if_neg (c := slateEnd < _) (Nat.not_lt.mpr hp)]
        rfl

end Sys2Proof.Machine
end

section
/-! PROOFS. The windows of a SEQUENTIAL sweep: each decides its units as one at a time would (R163, R164). -/

namespace Sys2Proof.Machine

/-! ### The commands of a running group -/

theorem exec_chromaticBeat (s : State) (t n : Nat) : exec (.chromaticBeat t n) s = .next (s.endsWith t ((s.dueAt t).beatRow n 0)) := rfl

theorem exec_windowStep (s : State) (t n : Nat) : exec (.windowStep t n) s = .next (s.endsWith t ((s.dueAt t).beatRow n 1)) := rfl

theorem exec_synchronousBeat (s : State) (t n : Nat) : exec (.synchronousBeat t n) s = .next (s.endsWith t ((s.dueAt t).beatRow n 2)) := rfl

section
variable {d : Dev} {n id key : Nat} {j : Job} {g : GroupRun} {r : SuaRun}

theorem beatRow_of_group {mode : Nat} (hj : d.coreJob n = some (id, j)) (hg : d.groupOn n = some (key, g)) (hk : groupKind g.token g.word = .sweep) (hm : suaMode g.word = mode) :
    d.beatRow n mode = d.suaBeat id j key := by
  simp only [Dev.beatRow, hj, hg]
  exact if_pos ⟨hk, hm⟩

variable (hg : d.groups.get? key = some g) (hr : d.suaRunOf j g = some r)
include hg hr

theorem suaBeat_poisoned {a : Nat} (hp : d.firstPoison (r.beatReads g.word g.beat) = some a) : d.suaBeat id j key = d.suaPoison id key a := by
  simp only [Dev.suaBeat, hg, hr, hp]

/-- A window whose flip reads a poisoned column. -/
theorem suaBeat_window_poisoned (hp : d.firstPoison (r.beatReads g.word g.beat) = none) (hm : suaMode g.word = 1) {e : Dev} {n' a : Nat}
    (hw : d.windowStep key r r.us (suaWindow g.word) g.beat = (e, n', some a)) : d.suaBeat id j key = e.suaPoison id key a := by
  simp only [Dev.suaBeat, hg, hr, hp, hm, hw]

theorem suaBeat_window (hp : d.firstPoison (r.beatReads g.word g.beat) = none) (hm : suaMode g.word = 1) {e : Dev} {n' : Nat}
    (hw : d.windowStep key r r.us (suaWindow g.word) g.beat = (e, n', none)) : d.suaBeat id j key = e.beatDone id key r g (decide (r.us.length ≤ n')) n' := by
  simp only [Dev.suaBeat, hg, hr, hp, hm, hw]

end

/-! ### How a beat ends -/

/-- A beat that does not end its sweep leaves the position of the next. -/
theorem beatDone_goes_on (d : Dev) (id key : Nat) (r : SuaRun) (g : GroupRun) (beat : Nat) : d.beatDone id key r g false beat = d.updGroup key (fun g => { g with beat := beat }) := rfl

/-- In SEQUENTIAL mode the fields are kept, so the end of the last sweep forms none for poison to meet (R158). -/
theorem beatDone_sequential (d : Dev) (id key : Nat) (r : SuaRun) {g : GroupRun} (hm : suaMode g.word = 1) (beat : Nat) :
    d.beatDone id key r g true beat =
      (let f := d.updGroup key (fun g => { g with sweep := g.sweep + 1, beat := 0 })
       if suaSweeps g.word ≤ g.sweep + 1 then f.suaFinish key r.p r.us else f) := by
  simp [Dev.beatDone, Dev.sweepsEnd, hm]

/-! ### Deciding one unit at a time -/

/-- Whether a unit is decided, and its decision from the present states is a flip. -/
def Dev.flips (d : Dev) (r : SuaRun) (u : SuaUnit) : Bool := !u.frozen && (d.decideUnit r (d.suaStates r.p) u).flip

/-- Commit the decision of a unit from the present states. -/
def Dev.commitUnit (d : Dev) (key : Nat) (r : SuaRun) (u : SuaUnit) : Dev :=
  d.commitFlip key r.p u (d.decideUnit r (d.suaStates r.p) u).pick (u.now (d.suaStates r.p))

/-- Decide a unit from the present states, and commit a flip at once. -/
def Dev.decideOne (key : Nat) (r : SuaRun) (d : Dev) (u : SuaUnit) : Dev :=
  if u.frozen then d
  else
    let st := d.suaStates r.p
    let x := d.decideUnit r st u
    if x.flip then d.commitFlip key r.p u x.pick (u.now st) else d

/-- Decide units one at a time, in their order (R164). -/
def Dev.oneAtATime (d : Dev) (key : Nat) (r : SuaRun) (us : List SuaUnit) : Dev := us.foldl (Dev.decideOne key r) d

theorem decideOne_eq (key : Nat) (r : SuaRun) (d : Dev) (u : SuaUnit) : Dev.decideOne key r d u = if d.flips r u then d.commitUnit key r u else d := by
  cases hf : u.frozen <;> simp [Dev.decideOne, Dev.flips, Dev.commitUnit, hf]

theorem flips_of_mem {a b : Dev} (h : a.devMem = b.devMem) (r : SuaRun) (u : SuaUnit) : a.flips r u = b.flips r u := by
  rw [Dev.flips, Dev.flips, suaStates_of_mem h, decideUnit_of_mem h]

theorem commitUnit_of_mem {a b : Dev} (h : a.devMem = b.devMem) (key : Nat) (r : SuaRun) (u : SuaUnit) : (a.commitUnit key r u).devMem = (b.commitUnit key r u).devMem := by
  rw [Dev.commitUnit, Dev.commitUnit, suaStates_of_mem h, decideUnit_of_mem h, commitFlip_of_mem h]

theorem decideOne_of_mem {a b : Dev} (h : a.devMem = b.devMem) (key : Nat) (r : SuaRun) (u : SuaUnit) : (Dev.decideOne key r a u).devMem = (Dev.decideOne key r b u).devMem := by
  rw [decideOne_eq, decideOne_eq, flips_of_mem h]
  split
  · exact commitUnit_of_mem h key r u
  · exact h

theorem oneAtATime_of_mem (key : Nat) (r : SuaRun) (us : List SuaUnit) : ∀ {a b : Dev}, a.devMem = b.devMem → (a.oneAtATime key r us).devMem = (b.oneAtATime key r us).devMem := by
  induction us with
  | nil => exact id
  | cons u us ih => exact fun h => ih (decideOne_of_mem h key r u)

theorem oneAtATime_append (d : Dev) (key : Nat) (r : SuaRun) (us vs : List SuaUnit) : d.oneAtATime key r (us ++ vs) = (d.oneAtATime key r us).oneAtATime key r vs := List.foldl_append

/-- Units that do not flip leave the device. -/
theorem oneAtATime_still {d : Dev} (key : Nat) {r : SuaRun} {us : List SuaUnit} (h : ∀ u ∈ us, d.flips r u = false) : d.oneAtATime key r us = d := by
  induction us with
  | nil => rfl
  | cons u us ih =>
    have hu : Dev.decideOne key r d u = d := by rw [decideOne_eq, h u List.mem_cons_self]; rfl
    rw [Dev.oneAtATime, List.foldl_cons, hu]
    exact ih (fun v hv => h v (List.mem_cons_of_mem u hv))

/-- Up to the first unit that flips, deciding one at a time is the commit of that unit alone. -/
theorem oneAtATime_first_flip {d : Dev} (key : Nat) {r : SuaRun} {us : List SuaUnit} {f : Nat} (hf : f < us.length) (hbefore : ∀ u ∈ us.take f, d.flips r u = false) (hflip : d.flips r us[f] = true) :
    d.oneAtATime key r (us.take (f + 1)) = d.commitUnit key r us[f] := by
  rw [List.take_succ_eq_append_getElem hf, oneAtATime_append, oneAtATime_still key hbefore]
  exact (decideOne_eq key r d us[f]).trans (by rw [hflip]; rfl)

/-! ### A window -/

/-- The decisions of a window: place, unit and decision of each unit that is not frozen. -/
def Dev.windowDecisions (d : Dev) (r : SuaRun) (win : List SuaUnit) : List (Nat × SuaUnit × Decision) :=
  (win.zipIdx.filter (fun e => !e.1.frozen)).map (fun e => (e.2, e.1, d.decideUnit r (d.suaStates r.p) e.1))

/-- The first flip among a window's decisions is that of the first unit that flips. -/
theorem find_windowDecisions (d : Dev) (r : SuaRun) (win : List SuaUnit) :
    (d.windowDecisions r win).find? (fun e => e.2.2.flip) = (win.zipIdx.find? (fun e => d.flips r e.1)).map (fun e => (e.2, e.1, d.decideUnit r (d.suaStates r.p) e.1)) := by
  rw [Dev.windowDecisions, List.find?_map, List.find?_filter]
  simp only [Bool.decide_and, Bool.decide_eq_true]
  rfl

/-- Either no unit of a window flips, or there is a first that does. -/
theorem first_flip_cases (d : Dev) (r : SuaRun) (win : List SuaUnit) :
    ((∀ u ∈ win, d.flips r u = false) ∧ (d.windowDecisions r win).find? (fun e => e.2.2.flip) = none)
    ∨ ∃ f, ∃ hf : f < win.length, (∀ u ∈ win.take f, d.flips r u = false) ∧ d.flips r win[f] = true
        ∧ (d.windowDecisions r win).find? (fun e => e.2.2.flip) = some (f, win[f], d.decideUnit r (d.suaStates r.p) win[f]) := by
  rw [find_windowDecisions]
  cases hfind : win.zipIdx.find? (fun e => d.flips r e.1) with
  | none =>
    refine .inl ⟨fun u hu => ?_, rfl⟩
    obtain ⟨i, hi, rfl⟩ := List.mem_iff_getElem.mp hu
    have hmem : (win[i], i) ∈ win.zipIdx := List.mem_zipIdx_iff_getElem?.mpr (List.getElem?_eq_getElem hi)
    simpa using List.find?_eq_none.mp hfind _ hmem
  | some e =>
    obtain ⟨hflip, f, hf, rfl, hbefore⟩ := List.find?_eq_some_iff_getElem.mp hfind
    rw [List.length_zipIdx] at hf
    refine .inr ⟨f, hf, fun u hu => ?_, by simpa using hflip, by simp⟩
    obtain ⟨i, hi, rfl⟩ := List.mem_take_iff_getElem.mp hu
    simpa using hbefore i (by omega)

section
variable {d : Dev} (key : Nat) {r : SuaRun} (us : List SuaUnit) (w next : Nat)

/-- A window in which no unit flips counts its decisions, and its sweep goes on after it. -/
theorem windowStep_still (h : (d.windowDecisions r ((us.drop next).take w)).find? (fun e => e.2.2.flip) = none) :
    ∃ e, d.windowStep key r us w next = (e, next + ((us.drop next).take w).length, none) ∧ e.devMem = d.devMem := by
  refine ⟨(d.windowDecisions r ((us.drop next).take w)).foldl (fun d e => d.countEval key r.p e.2 true) (d.beatEnds r.p.members 0x303), ?_, ?_⟩
  · unfold Dev.windowStep
    dsimp only
    rw [← Dev.windowDecisions, h, List.length_zipIdx]
  · rw [countEvals_mem]
    exact (tallied_reads (tallied_beatEnds _ _ _)).1

/-- A window with a flip commits it alone, discards the decisions after it, and its sweep goes on after its unit. -/
theorem windowStep_flip {f : Nat} {u : SuaUnit}
    (h : (d.windowDecisions r ((us.drop next).take w)).find? (fun e => e.2.2.flip) = some (f, u, d.decideUnit r (d.suaStates r.p) u)) :
    ∃ e : Dev, d.windowStep key r us w next = (e, next + f + 1, e.firstPoison ((u.columns (d.decideUnit r (d.suaStates r.p) u).pick (u.now (d.suaStates r.p))).flatMap r.p.colTiles))
      ∧ e.devMem = (d.commitUnit key r u).devMem := by
  unfold Dev.windowStep
  dsimp only
  rw [← Dev.windowDecisions, h]
  refine ⟨_, rfl, ?_⟩
  rw [noteSuas_mem, countDiscards_mem]
  refine commitFlip_of_mem ?_ key r.p u _ _
  rw [countEvals_mem]
  exact (tallied_reads (tallied_beatEnds _ _ _)).1

/-- A window decides the units it moves past as one at a time would; a poisoned line it reports lies in the columns of its flip. -/
theorem windowStep_decides (hw : 1 ≤ w) (hn : next < us.length) :
    ∃ (e : Dev) (n' : Nat) (p : Option Nat), d.windowStep key r us w next = (e, n', p) ∧ next < n' ∧ n' ≤ next + w ∧ n' ≤ us.length
      ∧ e.devMem = (d.oneAtATime key r ((us.drop next).take (n' - next))).devMem
      ∧ (p = none ∨ ∃ u ∈ us, d.flips r u = true ∧ p = e.firstPoison ((u.columns (d.decideUnit r (d.suaStates r.p) u).pick (u.now (d.suaStates r.p))).flatMap r.p.colTiles)) := by
  have hlen : ((us.drop next).take w).length = min w (us.length - next) := by rw [List.length_take, List.length_drop]
  rcases first_flip_cases d r ((us.drop next).take w) with ⟨hstill, hfind⟩ | ⟨f, hf, hbefore, hflip, hfind⟩
  · obtain ⟨e, he, hmem⟩ := windowStep_still key us w next hfind
    refine ⟨e, _, none, he, by omega, by omega, by omega, ?_, .inl rfl⟩
    rw [hmem, Nat.add_sub_cancel_left, List.length_take, ← List.take_eq_take_min, oneAtATime_still key hstill]
  · obtain ⟨e, he, hmem⟩ := windowStep_flip key us w next hfind
    refine ⟨e, _, _, he, by omega, by omega, by omega, ?_, .inr ⟨_, ?_, hflip, rfl⟩⟩
    · have hcut : (us.drop next).take (next + f + 1 - next) = ((us.drop next).take w).take (f + 1) := by
        rw [List.take_take]
        congr 1
        omega
      rw [hcut, oneAtATime_first_flip key hf hbefore hflip, hmem]
    · exact List.mem_of_mem_drop (List.mem_of_mem_take (List.getElem_mem hf))

end

/-- The windows from a position on decide the units that remain as one at a time would. -/
theorem windows_decide {key w : Nat} {r : SuaRun} {us : List SuaUnit} (hw : 1 ≤ w) (fuel : Nat) : ∀ (next : Nat) (d : Dev), us.length - next ≤ fuel → (Dev.windows fuel key r us w next d).2 = none →
    (Dev.windows fuel key r us w next d).1.devMem = (d.oneAtATime key r (us.drop next)).devMem := by
  induction fuel with
  | zero =>
    intro next d hfuel _
    rw [List.drop_eq_nil_of_le (by omega)]
    rfl
  | succ fuel ih =>
    intro next d hfuel hclean
    rw [Dev.windows] at hclean ⊢
    by_cases hn : us.length ≤ next
    · rw [if_pos hn, List.drop_eq_nil_of_le hn]
      rfl
    · rw [if_neg hn] at hclean ⊢
      obtain ⟨e, n', p, he, hlt, -, hle, hmem, -⟩ := windowStep_decides (d := d) (r := r) key us w next hw (by omega)
      rw [he] at hclean ⊢
      cases p with
      | some a => exact absurd hclean (by simp)
      | none =>
        calc (Dev.windows fuel key r us w n' e).1.devMem
            = (e.oneAtATime key r (us.drop n')).devMem := ih n' e (by omega) hclean
          _ = ((d.oneAtATime key r ((us.drop next).take (n' - next))).oneAtATime key r (us.drop n')).devMem := oneAtATime_of_mem key r _ hmem
          _ = (d.oneAtATime key r (us.drop next)).devMem := by
            rw [← oneAtATime_append, ← Nat.add_sub_of_le hlt.le, Nat.add_sub_cancel_left, ← List.drop_drop, List.take_append_drop]

theorem suaWindow_pos (w : Nat) : 1 ≤ suaWindow w := by
  unfold suaWindow
  split <;> omega

/-- Settles O56: a window decides the units it moves past as one at a time would, and the windows of a sweep by induction on their number. -/
theorem sequentialSweepDecidesOneAtATime : Obligations.SequentialSweepDecidesOneAtATime := by
  intro s t n id key j g r us w fuel d oneAtATime
  refine ⟨fun hj hon hg hk hm hr hp hbeat => ?window, fun hw hfuel hclean => windows_decide hw fuel 0 d hfuel hclean⟩
  obtain ⟨e, n', p, he, hlt, hle, hlen, hmem, hpoison⟩ := windowStep_decides (d := d) (r := r) key r.us (suaWindow g.word) g.beat (suaWindow_pos g.word) hbeat
  have hexec : exec (.windowStep t n) s = .next (s.endsWith t (d.suaBeat id j key)) := by rw [exec_windowStep, beatRow_of_group hj hon hk hm]
  refine ⟨e, n', p, hlt, hle, hlen, hmem, ?_, fun a ha => ?poisoned, fun hnone hmore => ?goesOn, fun hnone hlast => ?ends⟩
  · refine hpoison.imp_right fun ⟨u, hu, hflips, hcols⟩ => ?_
    simp only [Dev.flips, Bool.and_eq_true, Bool.not_eq_true'] at hflips
    exact ⟨u, hu, hflips.1, hflips.2, hcols⟩
  case poisoned =>
    subst ha
    rw [hexec, suaBeat_window_poisoned hg hr hp hm he]
  case goesOn =>
    subst hnone
    rw [hexec, suaBeat_window hg hr hp hm he, decide_eq_false (Nat.not_le.mpr hmore), beatDone_goes_on]
  case ends =>
    subst hnone
    rw [hexec, suaBeat_window hg hr hp hm he, decide_eq_true hlast.ge, beatDone_sequential e id key r hm]

end Sys2Proof.Machine
end

section
/-! PROOFS. SUA_FIELDS and SUA_SWEEP from their checks to their start, and the chromatic and the synchronous beat (R155 to R162, R166, R167, R173, Table 6-6). -/

namespace Sys2Proof.Machine

/-! ### The checks of a start (Table 6-6) -/

/-- The group that a started descriptor runs as. -/
def Dev.newGroup (d : Dev) (key : Nat) (lead : Desc) (rest : List (Nat × Desc)) (p : Problem) : GroupRun :=
  { members := ((key, lead) :: rest).map (·.1), word := lead.word, token := false, guarded := (d.suaGuards p lead.word).1, outs := (d.suaGuards p lead.word).2 }

/-- The device after a group descriptor starts: its group runs, and every member's request is marked. -/
def Dev.suaBegun (d : Dev) (key : Nat) (lead : Desc) (rest : List (Nat × Desc)) (p : Problem) : Dev :=
  ({ d with groups := d.groups.put key (d.newGroup key lead rest p) } : Dev).markStarted ((key, lead) :: rest)

/-- A start writes the group and the cores' requests alone. -/
theorem suaBegun_form (d : Dev) (key : Nat) (lead : Desc) (rest : List (Nat × Desc)) (p : Problem) :
    ∃ cs, d.suaBegun key lead rest p = { d with groups := d.groups.put key (d.newGroup key lead rest p), cores := cs } := by
  obtain ⟨⟨cs, h⟩, -⟩ := markStarted_form ((key, lead) :: rest) { d with groups := d.groups.put key (d.newGroup key lead rest p) }
  exact ⟨cs, h⟩

theorem suaBegun_firstPoison (d : Dev) (key : Nat) (lead : Desc) (rest : List (Nat × Desc)) (p : Problem) (rs : List (Nat × Nat)) :
    (d.suaBegun key lead rest p).firstPoison rs = d.firstPoison rs := by
  obtain ⟨_, h⟩ := suaBegun_form d key lead rest p
  rw [h]
  rfl

theorem suaBegun_group (d : Dev) (key : Nat) (lead : Desc) (rest : List (Nat × Desc)) (p : Problem) :
    (d.suaBegun key lead rest p).groups.get? key = some (d.newGroup key lead rest p) := by
  obtain ⟨_, h⟩ := suaBegun_form d key lead rest p
  rw [h]
  exact get?_put_self d.groups key _

theorem suaStart_waits {d : Dev} {n : Nat} {kind : GroupKind} (h : d.groupReady n kind = none) (id : Nat) : d.suaStart id n kind = (d, none) := by
  simp only [Dev.suaStart, h]

section
variable {d : Dev} {n key : Nat} {kind : GroupKind} {lead : Desc} {rest : List (Nat × Desc)} (hready : d.groupReady n kind = some ((key, lead) :: rest)) (id : Nat)
include hready

theorem suaStart_mismatch (hm : groupMatches ((key, lead) :: rest) = false) : d.suaStart id n kind = (d.problemFault id ((key, lead) :: rest) cBadFormat 0, none) := by
  simp [Dev.suaStart, hready, hm]

variable (hm : groupMatches ((key, lead) :: rest) = true)
include hm

theorem suaStart_record_poisoned {a : Nat} (ha : d.firstPoison [(shareBase key + descProblem lead.word, 64)] = some a) :
    d.suaStart id n kind = (d.suaPoison id key a, none) := by
  simp [Dev.suaStart, hready, hm, ha]

variable {p : Problem} (hclean : d.firstPoison [(shareBase key + descProblem lead.word, 64)] = none) (hp : d.problem (((key, lead) :: rest).map (·.1)) lead.word = p)
include hclean hp

theorem suaStart_record_bad (hr : p.recordOk = false) : d.suaStart id n kind = (d.problemFault id ((key, lead) :: rest) cBadFormat 0, none) := by
  simp only [List.map_cons] at hp
  simp [Dev.suaStart, hready, hm, hclean, hp, hr]

theorem suaStart_too_large (hr : p.recordOk = true) (hf : p.fits = false) : d.suaStart id n kind = (d.problemFault id ((key, lead) :: rest) cOutOfRange 0, none) := by
  simp only [List.map_cons] at hp
  simp [Dev.suaStart, hready, hm, hclean, hp, hr, hf]

variable (hr : p.recordOk = true) (hf : p.fits = true)
include hr hf

theorem suaStart_units_poisoned {a : Nat} (hu : d.suaUnitsOk p lead.word = .error (.poison a)) : d.suaStart id n kind = (d.suaPoison id key a, none) := by
  simp only [List.map_cons] at hp
  simp [Dev.suaStart, hready, hm, hclean, hp, hr, hf, hu]

theorem suaStart_units_bad (hu : d.suaUnitsOk p lead.word = .error .format) : d.suaStart id n kind = (d.problemFault id ((key, lead) :: rest) cBadFormat 0, none) := by
  simp only [List.map_cons] at hp
  simp [Dev.suaStart, hready, hm, hclean, hp, hr, hf, hu]

theorem suaStart_starts {us : List SuaUnit} (hu : d.suaUnitsOk p lead.word = .ok us) : d.suaStart id n kind = (d.suaBegun key lead rest p, some (key, p, us)) := by
  simp only [List.map_cons] at hp
  simp [Dev.suaStart, Dev.suaBegun, Dev.newGroup, hready, hm, hclean, hp, hr, hf, hu]

end

/-! ### SUA_FIELDS and SUA_SWEEP -/

section
variable {d e : Dev} {n id key : Nat} {j : Job} {p : Problem} {us : List SuaUnit} {g : GroupRun} (h : d.suaStart id n .sweep = (e, some (key, p, us))) (hg : e.groups.get? key = some g) (whole : Bool)
include h hg

theorem suaSweep_poisoned {a : Nat} (hm : suaMode g.word = 1) (ha : e.firstPoison p.formReads = some a) : d.suaSweep id j n whole = e.suaPoison id key a := by
  simp [Dev.suaSweep, h, hg, hm, Dev.suaForm, ha]

/-- A sweep holds its group, in SEQUENTIAL mode with every field formed; with `whole` its beats follow (R157, R158). -/
theorem suaSweep_starts (hclean : suaMode g.word = 1 → e.firstPoison p.formReads = none) :
    d.suaSweep id j n whole =
      (let f := if suaMode g.word = 1 then e.suaFormFields key p us else e
       if whole then Dev.suaBeats (beatBound g.word p.slots) id j key f else f) := by
  by_cases hm : suaMode g.word = 1
  · simp [Dev.suaSweep, h, hg, hm, Dev.suaForm, hclean hm]
  · simp [Dev.suaSweep, h, hg, hm]

end

section
variable {s : State} {t n id : Nat} {j : Job} {e : Dev} (hj : (s.dueAt t).coreJob n = some (id, j))
include hj

theorem exec_suaSweep (whole : Bool) : exec (.suaSweep t n whole) s = .next (s.endsWith t ((s.dueAt t).suaSweep id j n whole)) := by
  show execSuaSweep t n whole s = _
  simp only [execSuaSweep, run_eq, hj]

/-- A descriptor that does not start leaves what its checks left, whether it is SUA_FIELDS or SUA_SWEEP. -/
theorem exec_suaStart_stops {kind : GroupKind} (whole : Bool) (h : (s.dueAt t).suaStart id n kind = (e, none)) :
    (kind = .fields → exec (.suaFields t n) s = .next (s.endsWith t e)) ∧ (kind = .sweep → exec (.suaSweep t n whole) s = .next (s.endsWith t e)) := by
  constructor
  · rintro rfl
    show execSuaFields t n s = _
    simp only [execSuaFields, run_eq, hj, h]
  · rintro rfl
    rw [exec_suaSweep hj]
    simp only [Dev.suaSweep, h]

variable {key : Nat} {p : Problem} {us : List SuaUnit} (h : (s.dueAt t).suaStart id n .fields = (e, some (key, p, us)))
include h

theorem exec_suaFields_poisoned {a : Nat} (ha : e.firstPoison p.formReads = some a) : exec (.suaFields t n) s = .next (s.endsWith t (e.suaPoison id key a)) := by
  show execSuaFields t n s = _
  simp only [execSuaFields, run_eq, hj, h, ha]

theorem exec_suaFields_forms (hclean : e.firstPoison p.formReads = none) : exec (.suaFields t n) s = .next (s.endsWith t (e.suaFinish key p us)) := by
  show execSuaFields t n s = _
  simp only [execSuaFields, run_eq, hj, h, hclean]

end

/-! ### The chromatic beat (R159 to R161) -/

/-- The units that a beat of a colour class decides. -/
def SuaRun.classUnits (r : SuaRun) (c : Nat) : List SuaUnit := r.us.filter (fun u => !u.frozen && u.colour == c)

/-- What a beat counts before it decides anything: its barrier and the rows it reads. -/
def Dev.beatEntered (d : Dev) (r : SuaRun) (us : List SuaUnit) : Dev := (d.beatEnds r.p.members 0x304).countRows r.p (us.flatMap SuaUnit.slots)

theorem tallied_beatEntered (d : Dev) (r : SuaRun) (us : List SuaUnit) : d.tallied (d.beatEntered r us) := (tallied_beatEnds _ _ _).trans (tallied_countRows _ _ _)

/-- What a beat decides keeps every byte that holds no state of its units. -/
theorem beatEntered_decideAll_frame (d : Dev) (key : Nat) (r : SuaRun) (us : List SuaUnit) (allow : SuaUnit → Bool) {a : Nat}
    (ha : ¬ ∃ u ∈ us, ∃ i, (i = u.first ∨ i ∈ u.slots) ∧ a = stateByte r.p.members r.p.state i) :
    memRead ((d.beatEntered r us).decideAll key r us allow).1.devMem a = memRead d.devMem a := by
  rw [decideAll_frame _ key r us allow ha, (tallied_reads (tallied_beatEntered d r us)).1]

/-- A class with a conflict under DEMOTE, before its windows: its evaluations are discarded, and the conflict and the demotion are recorded (R162). -/
def Dev.demoted (d : Dev) (key : Nat) (r : SuaRun) (us : List SuaUnit) (a b : Nat) : Dev :=
  let st := d.suaStates r.p
  let d := us.foldl (fun d u => (d.countEval key r.p (u, d.decideUnit r st u) false).countDiscard key r.p u) d
  let d := d.noteConflict key r.p true a b
  let d := d.updSua (r.p.members.headD 0) (fun s => { s with demotions := satAdd max32 s.demotions 1 })
  d.updGroup key (fun g => { g with demotions := satAdd max32 g.demotions 1 })

theorem tallied_demoted (d : Dev) (key : Nat) (r : SuaRun) (us : List SuaUnit) (a b : Nat) : d.tallied (d.demoted key r us a b) := by
  refine Dev.tallied.trans ?_ (tallied_updGroup _ _ _)
  refine Dev.tallied.trans ?_ (tallied_updSua _ _ _)
  refine Dev.tallied.trans ?_ (tallied_noteConflict _ _ _ _ _ _)
  exact tallied_foldl _ (fun x u => (tallied_countEval x _ _ _ _).trans (tallied_countDiscard _ _ _ _)) _ _

section
variable {d : Dev} (key : Nat) {r : SuaRun} {w c : Nat}

theorem chromaticBeat_clear (hc : d.firstConflict r.p (r.classUnits c) = none) :
    d.chromaticBeat key r w c = (((d.beatEntered r (r.classUnits c)).decideAll key r (r.classUnits c) (fun _ => true)).1, .on) := by
  rw [← tallied_firstConflict (tallied_beatEntered d r (r.classUnits c))] at hc
  unfold Dev.chromaticBeat
  dsimp only
  rw [← SuaRun.classUnits, ← Dev.beatEntered, hc]

variable {a b : Nat} (hc : d.firstConflict r.p (r.classUnits c) = some (a, b))
include hc

theorem chromaticBeat_strict (hd : suaDemote w = false) : d.chromaticBeat key r w c = ((d.beatEntered r (r.classUnits c)).noteConflict key r.p false a b, .conflict a b) := by
  rw [← tallied_firstConflict (tallied_beatEntered d r (r.classUnits c))] at hc
  unfold Dev.chromaticBeat
  dsimp only
  rw [← SuaRun.classUnits, ← Dev.beatEntered, hc]
  simp [hd]

theorem chromaticBeat_demoted (hd : suaDemote w = true) {z : Dev} {p : Option Nat}
    (hz : Dev.windows (r.classUnits c).length key r (r.classUnits c) (suaWindow w) 0 ((d.beatEntered r (r.classUnits c)).demoted key r (r.classUnits c) a b) = (z, p)) :
    d.chromaticBeat key r w c = (z, p.elim .on .poison) := by
  rw [← tallied_firstConflict (tallied_beatEntered d r (r.classUnits c))] at hc
  unfold Dev.demoted at hz
  unfold Dev.chromaticBeat
  dsimp only at hz ⊢
  rw [← SuaRun.classUnits, ← Dev.beatEntered, hc]
  simp only [hd, if_true, hz]
  cases p <;> rfl

end

/-! ### The synchronous beat (R166 to R168) -/

/-- Whether damping lets a unit flip: its draw is below RHO (R167). -/
def SuaRun.dampAllows (r : SuaRun) (w : Nat) (u : SuaUnit) : Bool :=
  !suaDamp w || decide (bits (indigoWord r.seed .damping r.p.stream r.step u.first) 31 8 < suaRho w)

/-- What a synchronous beat counts of its flips: the rows read again, and the coupled pairs among them (R168). -/
def Dev.staleCounted (d : Dev) (key : Nat) (r : SuaRun) (flipped : List SuaUnit) : Dev :=
  let d := d.countRows r.p (flipped.flatMap SuaUnit.slots)
  let ps := (d.stalePairs r.p flipped).filter (fun e => e.2 != 0)
  if ps.isEmpty then d
  else
    let d := r.p.members.foldl (fun d k => d.updSua k (fun s => { s with stale := true })) d
    ps.foldl (fun d e =>
      (d.updSua (slotCore r.p.members e.1.first) (fun s => { s with staleCount := w64 (s.staleCount + e.2) })).updGroup key
        (fun g => { g with stale := satAdd max64 g.stale e.2 })) d

theorem tallied_staleCounted (d : Dev) (key : Nat) (r : SuaRun) (flipped : List SuaUnit) : d.tallied (d.staleCounted key r flipped) := by
  unfold Dev.staleCounted
  dsimp only
  split
  · exact tallied_countRows _ _ _
  · refine Dev.tallied.trans ?_ (tallied_foldl _ (fun d x => (tallied_updSua d _ _).trans (tallied_updGroup _ _ _)) _ _)
    refine Dev.tallied.trans ?_ (tallied_foldl _ (fun d k => tallied_updSua d k _) _ _)
    exact tallied_countRows _ _ _

theorem synchronousBeat_eq (d : Dev) (key : Nat) (r : SuaRun) (w : Nat) : d.synchronousBeat key r w =
    (let us := r.us.filter (fun u => !u.frozen)
     let x := (d.beatEntered r us).decideAll key r us (r.dampAllows w)
     x.1.staleCounted key r x.2) := rfl

/-- The synchronous beat keeps every byte that holds no state of a unit that is not frozen. -/
theorem synchronousBeat_frame (d : Dev) (key : Nat) (r : SuaRun) (w : Nat) {a : Nat}
    (ha : ¬ ∃ u ∈ r.us.filter (fun u => !u.frozen), ∃ i, (i = u.first ∨ i ∈ u.slots) ∧ a = stateByte r.p.members r.p.state i) :
    memRead (d.synchronousBeat key r w).devMem a = memRead d.devMem a := by
  rw [synchronousBeat_eq]
  dsimp only
  rw [(tallied_reads (tallied_staleCounted _ _ _ _)).1, beatEntered_decideAll_frame _ _ _ _ _ ha]

/-! ### The beat of a running group -/

/-- The end of the last sweep of a mode that reads rows: its final fields are formed, unless poison is met (R158, R400). -/
def Dev.formAndFinish (d : Dev) (id key : Nat) (r : SuaRun) : Dev :=
  match d.firstPoison r.p.formReads with
  | some a => d.suaPoison id key a
  | none => d.suaFinish key r.p r.us

theorem sweepsEnd_formed (d : Dev) (id key : Nat) (r : SuaRun) {w : Nat} (hm : suaMode w ≠ 1) : d.sweepsEnd id key r w = d.formAndFinish id key r := by
  unfold Dev.sweepsEnd
  rw [if_neg hm]
  rfl

theorem beatDone_formed (d : Dev) (id key : Nat) (r : SuaRun) {g : GroupRun} (hm : suaMode g.word ≠ 1) (done : Bool) (beat : Nat) :
    d.beatDone id key r g done beat =
      (let e := d.updGroup key (fun g => if done = true then { g with sweep := g.sweep + 1, beat := 0 } else { g with beat := beat })
       if (done && decide (suaSweeps g.word ≤ g.sweep + 1)) = true then e.formAndFinish id key r else e) := by
  simp only [Dev.beatDone, sweepsEnd_formed _ id key r hm]

section
variable {d e : Dev} {id key : Nat} {j : Job} {g : GroupRun} {r : SuaRun} (hg : d.groups.get? key = some g) (hr : d.suaRunOf j g = some r)
  (hp : d.firstPoison (r.beatReads g.word g.beat) = none)
include hg hr hp

theorem suaBeat_chromatic (hm : suaMode g.word = 0) (hb : d.chromaticBeat key r g.word g.beat = (e, .on)) :
    d.suaBeat id j key = e.beatDone id key r g (decide (suaClasses g.word ≤ g.beat + 1)) (g.beat + 1) := by
  simp only [Dev.suaBeat, hg, hr, hp, hm, hb]

theorem suaBeat_conflict (hm : suaMode g.word = 0) {a b : Nat} (hb : d.chromaticBeat key r g.word g.beat = (e, .conflict a b)) : d.suaBeat id j key = e.suaConflict id key r g.word a b := by
  simp only [Dev.suaBeat, hg, hr, hp, hm, hb]

theorem suaBeat_demoted_poisoned (hm : suaMode g.word = 0) {a : Nat} (hb : d.chromaticBeat key r g.word g.beat = (e, .poison a)) : d.suaBeat id j key = e.suaPoison id key a := by
  simp only [Dev.suaBeat, hg, hr, hp, hm, hb]

theorem suaBeat_synchronous (hm : suaMode g.word = 2) : d.suaBeat id j key = (d.synchronousBeat key r g.word).beatDone id key r g true 0 := by
  simp only [Dev.suaBeat, hg, hr, hp, hm]

end

/-- Counts leave where the statistics of a conflict lie. -/
theorem suaConflict_of_tallied {d e : Dev} (h : d.tallied e) (id key : Nat) (r : SuaRun) (w a b : Nat) :
    e.suaConflict id key r w a b = ((r.p.ranges (fun rs => rs.drop 5) ++ (if suaStats w then r.p.members.map (fun k => (shareBase k + d.statsOff k, 64)) else [])).foldl (fun (d : Dev) (x : Nat × Nat) => d.freeBytes x.1 x.2)
      { e with groups := e.groups.del key }).faultJob id 0x0F 0 cColourConflict (UnitId.sua key).page (descTag w * 2 ^ 48 + a * 2 ^ 24 + b) := by
  simp only [Dev.suaConflict, tallied_statsOff h]

/-- Settles O55: a start by the first check that fails, a beat by its mode and its conflict. -/
theorem samplingStartsAndBeats : Obligations.SamplingStartsAndBeats := by
  intro s t n id key j lead rest g r kind whole d ms p begun both
  have hbegun : begun = d.suaBegun key lead rest p := rfl
  have hform := suaBegun_form d key lead rest p
  refine ⟨fun hj => ⟨fun hwait => ?waits, fun hready => ⟨fun hbad => ?mismatch, fun hm => ⟨fun a ha => ?recordPoisoned, fun hclean => ⟨fun hrec => ?recordBad, fun hrec hfits => ?tooLarge, fun hrec hfits => ?units⟩⟩⟩⟩,
    ?mem, ?jobs, fun hj hon hg hk hr => ⟨fun a ha => ⟨fun hm => ?chromaticPoisoned, fun hm => ?synchronousPoisoned⟩, fun hp => ?beats⟩⟩
  case waits => exact exec_suaStart_stops hj whole (suaStart_waits hwait id)
  case mismatch => exact exec_suaStart_stops hj whole (suaStart_mismatch hready id hbad)
  case recordPoisoned => exact exec_suaStart_stops hj whole (suaStart_record_poisoned hready id hm ha)
  case recordBad => exact exec_suaStart_stops hj whole (suaStart_record_bad hready id hm hclean rfl hrec)
  case tooLarge => exact exec_suaStart_stops hj whole (suaStart_too_large hready id hm hclean rfl hrec hfits)
  case units =>
    refine ⟨fun a hu => exec_suaStart_stops hj whole (suaStart_units_poisoned hready id hm hclean rfl hrec hfits hu), fun hu => exec_suaStart_stops hj whole (suaStart_units_bad hready id hm hclean rfl hrec hfits hu), fun us hu => ?_⟩
    have hstart := suaStart_starts hready id hm hclean rfl hrec hfits hu
    have hreads : begun.firstPoison p.formReads = d.firstPoison p.formReads := suaBegun_firstPoison d key lead rest p p.formReads
    have hg := suaBegun_group d key lead rest p
    refine ⟨fun a ha => ⟨?_, ?_⟩, ?_, ?_⟩
    · rintro rfl
      exact exec_suaFields_poisoned hj hstart (hreads.trans ha)
    · rintro rfl hmode
      exact (exec_suaSweep hj whole).trans (congrArg (Host.Outcome.next <| s.endsWith t ·) (suaSweep_poisoned hstart hg whole hmode (hreads.trans ha)))
    · rintro hrows rfl
      exact exec_suaFields_forms hj hstart (hreads.trans hrows)
    · rintro rfl hrows
      exact (exec_suaSweep hj whole).trans (congrArg (Host.Outcome.next <| s.endsWith t ·) (suaSweep_starts hstart hg whole (fun hmode => hreads.trans (hrows hmode))))
  case mem =>
    obtain ⟨_, h⟩ := hform
    rw [hbegun, h]
  case jobs =>
    obtain ⟨_, h⟩ := hform
    rw [hbegun, h]
  case chromaticPoisoned => rw [exec_chromaticBeat, beatRow_of_group hj hon hk hm, suaBeat_poisoned hg hr ha]
  case synchronousPoisoned => rw [exec_synchronousBeat, beatRow_of_group hj hon hk hm, suaBeat_poisoned hg hr ha]
  case beats =>
    intro ended adv bytesOf
    refine ⟨?chromatic, fun hm => ?synchronous⟩
    case chromatic =>
      intro hm us
      have hexec : exec (.chromaticBeat t n) s = .next (s.endsWith t (d.suaBeat id j key)) := by rw [exec_chromaticBeat, beatRow_of_group hj hon hk hm]
      have hmode : suaMode g.word ≠ 1 := by rw [hm]; decide
      have hadv (e : Dev) (fin : Bool) (beat : Nat) : e.beatDone id key r g fin beat = adv e fin beat := beatDone_formed e id key r hmode fin beat
      have hentered := tallied_beatEntered d r (r.classUnits g.beat)
      refine ⟨fun hc => ?clear, fun a b hc hd => ?strict, fun a b hc hd => ?demoted⟩
      case clear =>
        refine ⟨d.beatEntered r us, _, (tallied_reads hentered).1, ?_, rfl, fun a ha => beatEntered_decideAll_frame d key r us _ ha⟩
        rw [hexec, suaBeat_chromatic hg hr hp hm (chromaticBeat_clear key hc), hadv]
        rfl
      case strict =>
        have he := hentered.trans (tallied_noteConflict _ key r.p false a b)
        exact ⟨_, (tallied_reads he).1, by rw [hexec, suaBeat_conflict hg hr hp hm (chromaticBeat_strict key hc hd), suaConflict_of_tallied he]⟩
      case demoted =>
        refine ⟨(d.beatEntered r us).demoted key r us a b, (tallied_reads (hentered.trans (tallied_demoted _ key r us a b))).1, ?_⟩
        rw [hexec]
        cases hz : Dev.windows us.length key r us (suaWindow g.word) 0 ((d.beatEntered r us).demoted key r us a b) with
        | mk z p =>
          have hbeat := chromaticBeat_demoted key hc hd hz
          cases p with
          | none => rw [suaBeat_chromatic hg hr hp hm hbeat, hadv]
          | some a => rw [suaBeat_demoted_poisoned hg hr hp hm hbeat]
    case synchronous =>
      have hmode : suaMode g.word ≠ 1 := by rw [hm]; decide
      refine ⟨_, ?_, rfl, fun a ha => synchronousBeat_frame d key r g.word ha⟩
      rw [exec_synchronousBeat, beatRow_of_group hj hon hk hm, suaBeat_synchronous hg hr hp hm, beatDone_formed _ id key r hmode]
      rfl

end Sys2Proof.Machine
end

section
/-! PROOFS. Annealing: the walls of a variable's update, the step of a running group, and the start of ANNEAL_RUN through its checks (R172, R176 to R185, R400, Table 7-5). -/

namespace Sys2Proof.Machine

/-! ### The walls (R182) -/

/-- A variable's momentum after its update, held to 32 bits (R181). -/
def annealMomentum (w : Nat) (p f x y : Int) : Int :=
  clampInt (-2 ^ 31) (2 ^ 31 - 1) (y + rshiftRne ((anDt w : Int) * (f * anCMul w * 2 ^ 15 - ((anA0 w : Int) - p) * x * 2 ^ anCShift w)) (anCShift w + 21))

/-- A variable's position after its update, before a wall acts (R181). -/
def annealPosition (w : Nat) (p f x y : Int) : Int := x + rshiftRne (annealMomentum w p f x y * (anA0 w : Int) * (anDt w : Int)) 41

theorem annealVar_eq (w : Nat) (p f x y : Int) : ∃ sat, annealVar w p f x y =
    if 16384 < annealPosition w p f x y then (16384, 0, sat, 1)
    else if annealPosition w p f x y < -16384 then (-16384, 0, sat, 1)
    else (annealPosition w p f x y, annealMomentum w p f x y, sat, 0) := ⟨_, rfl⟩

section
variable {w : Nat} {p f x y : Int}

theorem annealVar_above (h : 16384 < annealPosition w p f x y) : (annealVar w p f x y).1 = 16384 ∧ (annealVar w p f x y).2.1 = 0 ∧ (annealVar w p f x y).2.2.2 = 1 := by
  obtain ⟨sat, hv⟩ := annealVar_eq w p f x y
  rw [hv, if_pos h]
  exact ⟨rfl, rfl, rfl⟩

theorem annealVar_below (h : annealPosition w p f x y < -16384) : (annealVar w p f x y).1 = -16384 ∧ (annealVar w p f x y).2.1 = 0 ∧ (annealVar w p f x y).2.2.2 = 1 := by
  obtain ⟨sat, hv⟩ := annealVar_eq w p f x y
  rw [hv, if_neg (by omega), if_pos h]
  exact ⟨rfl, rfl, rfl⟩

/-- A position on a wall is within, so it keeps its momentum. -/
theorem annealVar_within (hlo : -16384 ≤ annealPosition w p f x y) (hhi : annealPosition w p f x y ≤ 16384) :
    (annealVar w p f x y).1 = annealPosition w p f x y ∧ (annealVar w p f x y).2.1 = annealMomentum w p f x y ∧ (annealVar w p f x y).2.2.2 = 0 := by
  obtain ⟨sat, hv⟩ := annealVar_eq w p f x y
  rw [hv, if_neg (Int.not_lt.mpr hhi), if_neg (Int.not_lt.mpr hlo)]
  exact ⟨rfl, rfl, rfl⟩

end

/-! ### Writing variables -/

/-- A group's own write leaves its run undisturbed (R172). -/
theorem disturb_own_run (d : Dev) (key a n : Nat) : (d.disturb (some key) a n).groups.get? key = d.groups.get? key := by
  show Tab.get? (d.groups.map _) key = _
  induction d.groups with
  | nil => rfl
  | cons e gs ih =>
    obtain ⟨k, v⟩ := e
    by_cases hk : k = key
    · subst hk
      simp [Tab.get?]
    · simp only [List.map_cons]
      split <;> simpa only [Tab.get?, if_neg hk] using ih

/-- Memory after one variable's position and momentum are stored. -/
def AnnealRec.storeXY (r : AnnealRec) (m : List Host.Cell) (i : Nat) (x y : Int) : List Host.Cell :=
  memWriteN (memWriteN m (slotAddr r.members r.pos 2 i) (leBytes 2 (unsigned 16 x))) (slotAddr r.members r.mom 4 i) (leBytes 4 (unsigned 32 y))

/-- Whether an address lies in a variable's position or momentum. -/
def AnnealRec.holdsXY (r : AnnealRec) (a i : Nat) : Prop :=
  (slotAddr r.members r.pos 2 i ≤ a ∧ a < slotAddr r.members r.pos 2 i + 2) ∨ (slotAddr r.members r.mom 4 i ≤ a ∧ a < slotAddr r.members r.mom 4 i + 4)

theorem storeXY_frame (r : AnnealRec) (m : List Host.Cell) (i : Nat) (x y : Int) {a : Nat} (ha : ¬ r.holdsXY a i) : memRead (r.storeXY m i x y) a = memRead m a := by
  unfold AnnealRec.holdsXY at ha
  unfold AnnealRec.storeXY
  rw [memRead_memWriteN_out _ _ _ _ (by rw [leBytes_length]; omega), memRead_memWriteN_out _ _ _ _ (by rw [leBytes_length]; omega)]

theorem setXY_own_run (d : Dev) (key : Nat) (r : AnnealRec) (i : Nat) (x y : Int) : (d.setXY key r i x y).groups.get? key = d.groups.get? key := by
  unfold Dev.setXY
  exact (disturb_own_run _ key _ 4).trans (disturb_own_run _ key _ 2)

/-- A variable with its update: position, momentum, saturations and wall hits. -/
abbrev AnnealNew := Nat × Int × Int × Nat × Nat

/-- Store the updates of several variables. -/
def AnnealRec.storeNews (r : AnnealRec) (m : List Host.Cell) (news : List AnnealNew) : List Host.Cell := news.foldl (fun m u => r.storeXY m u.1 u.2.1 u.2.2.1) m

theorem storeNews_frame (r : AnnealRec) {a : Nat} (news : List AnnealNew) : ∀ m, (∀ u ∈ news, ¬ r.holdsXY a u.1) → memRead (r.storeNews m news) a = memRead m a := by
  induction news with
  | nil => exact fun _ _ => rfl
  | cons u news ih => exact fun m h => (ih _ (fun v hv => h v (List.mem_cons_of_mem u hv))).trans (storeXY_frame r m u.1 _ _ (h u List.mem_cons_self))

/-- Commit the updates of several variables. -/
def Dev.setXYs (d : Dev) (key : Nat) (r : AnnealRec) (news : List AnnealNew) : Dev := news.foldl (fun d u => d.setXY key r u.1 u.2.1 u.2.2.1) d

/-- Committing updates stores them, and leaves the run that commits them. -/
theorem setXYs_effect (key : Nat) (r : AnnealRec) (news : List AnnealNew) : ∀ d : Dev,
    (d.setXYs key r news).devMem = r.storeNews d.devMem news ∧ (d.setXYs key r news).groups.get? key = d.groups.get? key := by
  induction news with
  | nil => exact fun _ => ⟨rfl, rfl⟩
  | cons u news ih =>
    intro d
    obtain ⟨hmem, hrun⟩ := ih (d.setXY key r u.1 u.2.1 u.2.2.1)
    exact ⟨hmem, hrun.trans (setXY_own_run d key r _ _ _)⟩

/-! ### The step of a running group (R181) -/

/-- The variables that are not frozen. -/
def Dev.anFree (d : Dev) (r : AnnealRec) : List Nat := (upFrom 0 r.vars).filter (fun i => !d.anFrozen r i)

/-- The updates of the variables that are not frozen, from the positions at the start of the step. -/
def Dev.annealNews (d : Dev) (r : AnnealRec) (w step : Nat) : List AnnealNew :=
  let xs := (upFrom 0 r.vars).map (d.anX r)
  (d.anFree r).map (fun i => (i, annealVar w (d.pump r step) (d.anField r xs i) (xs.getD i 0) (d.anY r i)))

theorem mem_annealNews {d : Dev} {r : AnnealRec} {w step : Nat} {u : AnnealNew} (hu : u ∈ d.annealNews r w step) : u.1 < r.vars ∧ d.anFrozen r u.1 = false := by
  obtain ⟨i, hi, rfl⟩ := List.mem_map.mp hu
  obtain ⟨hvar, hfree⟩ := List.mem_filter.mp hi
  exact ⟨by simpa using ((mem_upFrom _ _ _).mp hvar).2, by simpa using hfree⟩

/-- What a step adds to the counts of its run; `turned` variables changed sign. -/
def GroupRun.stepped (g : GroupRun) (news : List AnnealNew) (turned : Nat) : GroupRun :=
  { g with
    sweep := g.sweep + 1, momSat := satAdd max64 g.momSat (news.foldl (fun k u => k + u.2.2.2.1) 0),
    wallHits := satAdd max64 g.wallHits (news.foldl (fun k u => k + u.2.2.2.2) 0), signChanges := min turned max32 }

theorem stepped_counts (g : GroupRun) (news : List AnnealNew) (turned : Nat) : (g.stepped news turned).sweep = g.sweep + 1
    ∧ (g.stepped news turned).wallHits = satAdd max64 g.wallHits (news.foldl (fun k u => k + u.2.2.2.2) 0) ∧ (g.stepped news turned).momSat = satAdd max64 g.momSat (news.foldl (fun k u => k + u.2.2.2.1) 0) :=
  ⟨rfl, rfl, rfl⟩

/-- Reading the couplings leaves notes alone. -/
theorem countCoup_form (d : Dev) (r : AnnealRec) : ∃ o, d.countCoup r = { d with occ := o } :=
  notes_form (fun d (e : Nat × Nat) => d.noteSua e.1 0x305 (r.coefBytes e.2)) (fun d _ => note_form d _ _ _ _) r.members.zipIdx d

/-- What a step counts of its lanes and of its barrier over the group. -/
def Dev.stepCounted (d : Dev) (r : AnnealRec) (free : List Nat) : Dev :=
  let d := r.members.zipIdx.foldl (fun d e => d.noteLanes e.1 0 (free.filter (fun i => slotMember r.count i == e.2)).length) d
  if 2 ≤ r.count then d.countMembers r.members else d

theorem stepCounted_form (d : Dev) (r : AnnealRec) (free : List Nat) : ∃ rs o, d.stepCounted r free = { d with routers := rs, occ := o } := by
  obtain ⟨o, hlanes⟩ := noteLanesAll_form (fun e : Nat × Nat => e.1) (fun e => (free.filter (fun i => slotMember r.count i == e.2)).length) 0 r.members.zipIdx d
  unfold Dev.stepCounted
  dsimp only
  rw [hlanes]
  split
  · obtain ⟨rs, o', hmembers⟩ := countMembers_form { d with occ := o } r.members
    exact ⟨rs, o', hmembers⟩
  · exact ⟨d.routers, o, rfl⟩

/-- A step commits its updates together, and then counts. -/
theorem annealStep_eq (d : Dev) (key : Nat) (r : AnnealRec) (w step : Nat) : ∃ turned, d.annealStep key r w step =
    (((d.countCoup r).setXYs key r (d.annealNews r w step)).stepCounted r (d.anFree r)).updGroup key (fun g => g.stepped (d.annealNews r w step) turned) := by
  simp only [Dev.annealStep, Dev.annealNews, Dev.setXYs, Dev.anFree, GroupRun.stepped, Dev.stepCounted, List.foldl_map]
  exact ⟨_, rfl⟩

/-- The device before a step's run is counted: its memory holds the updates, and the run is as it was. -/
theorem annealStep_form (d : Dev) (key : Nat) (r : AnnealRec) (w step : Nat) : ∃ (e : Dev) (turned : Nat),
    d.annealStep key r w step = e.updGroup key (fun g => g.stepped (d.annealNews r w step) turned)
    ∧ e.devMem = r.storeNews d.devMem (d.annealNews r w step) ∧ e.groups.get? key = d.groups.get? key := by
  obtain ⟨turned, hstep⟩ := annealStep_eq d key r w step
  obtain ⟨o, hcoup⟩ := countCoup_form d r
  obtain ⟨hmem, hrun⟩ := setXYs_effect key r (d.annealNews r w step) { d with occ := o }
  rw [hcoup] at hstep
  obtain ⟨rs, o', hcounted⟩ := stepCounted_form (({ d with occ := o } : Dev).setXYs key r (d.annealNews r w step)) r (d.anFree r)
  rw [hcounted] at hstep
  exact ⟨_, turned, hstep, hmem, hrun⟩

theorem annealStep_mem (d : Dev) (key : Nat) (r : AnnealRec) (w step : Nat) : (d.annealStep key r w step).devMem = r.storeNews d.devMem (d.annealNews r w step) := by
  obtain ⟨e, turned, hstep, hmem, -⟩ := annealStep_form d key r w step
  rw [hstep, (tallied_reads (tallied_updGroup e key _)).1, hmem]

/-- A step changes no byte but the positions and momenta of the variables that are not frozen. -/
theorem annealStep_frame (d : Dev) (key : Nat) (r : AnnealRec) (w step : Nat) {a : Nat} (ha : ∀ i < r.vars, d.anFrozen r i = false → ¬ r.holdsXY a i) :
    memRead (d.annealStep key r w step).devMem a = memRead d.devMem a := by
  rw [annealStep_mem]
  refine storeNews_frame r _ _ (fun u hu => ?_)
  obtain ⟨hvar, hfree⟩ := mem_annealNews hu
  exact ha u.1 hvar hfree

theorem annealStep_run {d : Dev} {key : Nat} {g : GroupRun} (hg : d.groups.get? key = some g) (r : AnnealRec) (w step : Nat) :
    ∃ turned, (d.annealStep key r w step).groups.get? key = some (g.stepped (d.annealNews r w step) turned) := by
  obtain ⟨e, turned, hstep, -, hrun⟩ := annealStep_form d key r w step
  refine ⟨turned, ?_⟩
  rw [hstep]
  simp only [Dev.updGroup, hrun.trans hg]
  exact get?_put_self _ key _

section
variable {d : Dev} {key : Nat} {g : GroupRun} (hg : d.groups.get? key = some g) (id : Nat)
include hg

theorem annealBeat_poisoned {a : Nat} (ha : d.firstPoison (d.annealReads (d.annealRec g.members g.word)) = some a) : d.annealBeat id key = d.suaPoison id key a := by
  simp only [Dev.annealBeat, hg, ha]

theorem annealBeat_steps (hclean : d.firstPoison (d.annealReads (d.annealRec g.members g.word)) = none) :
    d.annealBeat id key =
      (let r := d.annealRec g.members g.word
       let e := d.annealStep key r g.word (w64 (anBase g.word + g.sweep))
       if anSteps g.word ≤ g.sweep + 1 then e.annealFinish key r else e) := by
  simp only [Dev.annealBeat, hg, hclean]

end

theorem exec_annealStep {s : State} {t n id key : Nat} {j : Job} {g : GroupRun} (hj : (s.dueAt t).coreJob n = some (id, j)) (hon : (s.dueAt t).groupOn n = some (key, g))
    (hk : groupKind g.token g.word = .anneal) : exec (.annealStep t n) s = .next (s.endsWith t ((s.dueAt t).annealBeat id key)) := by
  show execAnnealStep t n s = _
  simp only [execAnnealStep, run_eq, hj, hon]
  rw [if_pos hk]

/-! ### The start of ANNEAL_RUN (R185, Table 7-5) -/

/-- The device after an ANNEAL_RUN starts: its group runs, and every member's request is marked. -/
def Dev.annealBegun (d : Dev) (key : Nat) (lead : Desc) (rest : List (Nat × Desc)) (q : AnnealRec) : Dev :=
  ({ d with groups := d.groups.put key { members := ((key, lead) :: rest).map (·.1), word := lead.word, token := false, guarded := (d.annealGuards q lead.word).1, outs := (d.annealGuards q lead.word).2 } } : Dev).markStarted ((key, lead) :: rest)

/-- The device before the first step: with INIT the starting positions are drawn (R183). -/
def Dev.annealPlaced (d : Dev) (key : Nat) (lead : Desc) (rest : List (Nat × Desc)) (q : AnnealRec) (seed : Nat) : Dev :=
  if anInit lead.word then (d.annealBegun key lead rest q).annealInit key q lead.word seed else d.annealBegun key lead rest q

theorem annealStart_waits {d : Dev} {n : Nat} (h : d.groupReady n .anneal = none) (id : Nat) (j : Job) : d.annealStart id j n = (d, none) := by
  simp only [Dev.annealStart, h]

section
variable {d : Dev} {n key : Nat} {lead : Desc} {rest : List (Nat × Desc)} (hready : d.groupReady n .anneal = some ((key, lead) :: rest)) (id : Nat) (j : Job)
include hready

theorem annealStart_mismatch (hm : groupMatches ((key, lead) :: rest) = false) : d.annealStart id j n = (d.problemFault id ((key, lead) :: rest) cBadFormat 0, none) := by
  simp [Dev.annealStart, hready, hm]

variable (hm : groupMatches ((key, lead) :: rest) = true)
include hm

theorem annealStart_record_poisoned {a : Nat} (ha : d.firstPoison [(shareBase key + descProblem lead.word, 64)] = some a) :
    d.annealStart id j n = (d.suaPoison id key a, none) := by
  simp [Dev.annealStart, hready, hm, ha]

variable {q : AnnealRec} (hclean : d.firstPoison [(shareBase key + descProblem lead.word, 64)] = none) (hq : d.annealRec (key :: rest.map (·.1)) lead.word = q)
include hclean hq

theorem annealStart_record_bad {code : Nat} (hc : q.check = some code) : d.annealStart id j n = (d.problemFault id ((key, lead) :: rest) code 0, none) := by
  simp [Dev.annealStart, hready, hm, hclean, hq, hc]

variable (hc : q.check = none)
include hc

theorem annealStart_entries_poisoned {a : Nat} (ha : d.firstPoison q.entries = some a) : d.annealStart id j n = (d.suaPoison id key a, none) := by
  simp [Dev.annealStart, hready, hm, hclean, hq, hc, ha]

variable (he : d.firstPoison q.entries = none)
include he

theorem annealStart_streamed_bad {code : Nat} (hs : d.streamedCheck j q = some code) : d.annealStart id j n = (d.problemFault id ((key, lead) :: rest) code 0, none) := by
  simp [Dev.annealStart, hready, hm, hclean, hq, hc, he, hs]

variable (hs : d.streamedCheck j q = none)
include hs

theorem annealStart_variables_poisoned {a : Nat} (hv : d.annealVars q lead.word = some (.poison a)) : d.annealStart id j n = (d.suaPoison id key a, none) := by
  simp [Dev.annealStart, hready, hm, hclean, hq, hc, he, hs, hv]

theorem annealStart_variables_bad (hv : d.annealVars q lead.word = some .format) : d.annealStart id j n = (d.problemFault id ((key, lead) :: rest) cBadFormat 0, none) := by
  simp [Dev.annealStart, hready, hm, hclean, hq, hc, he, hs, hv]

theorem annealStart_starts (hv : d.annealVars q lead.word = none) : d.annealStart id j n = (d.annealPlaced key lead rest q j.seed, some (key, q)) := by
  simp [Dev.annealStart, Dev.annealPlaced, Dev.annealBegun, hready, hm, hclean, hq, hc, he, hs, hv]

end

section
variable {s : State} {t n id : Nat} {j : Job} {e : Dev} (hj : (s.dueAt t).coreJob n = some (id, j))
include hj

theorem exec_annealRun (whole : Bool) : exec (.annealRun t n whole) s = .next (s.endsWith t ((s.dueAt t).annealRun id j n whole)) := by
  show execAnnealRun t n whole s = _
  simp only [execAnnealRun, run_eq, hj]

/-- A descriptor that does not start leaves what its checks left. -/
theorem exec_annealRun_stops (whole : Bool) (h : (s.dueAt t).annealStart id j n = (e, none)) : exec (.annealRun t n whole) s = .next (s.endsWith t e) := by
  rw [exec_annealRun hj]
  simp only [Dev.annealRun, h]

variable {key : Nat} {q : AnnealRec} (h : (s.dueAt t).annealStart id j n = (e, some (key, q)))
include h

theorem exec_annealRun_starts : exec (.annealRun t n false) s = .next (s.endsWith t e) := by
  rw [exec_annealRun hj]
  simp [Dev.annealRun, h]

/-- With `whole` a descriptor that starts makes every step. -/
theorem exec_annealRun_whole : exec (.annealRun t n true) s = .next (s.endsWith t (match e.groups.get? key with
    | some g => e.annealBeats (anSteps g.word) id key
    | none => e)) := by
  rw [exec_annealRun hj]
  cases hg : e.groups.get? key <;> simp only [Dev.annealRun, h, hg, if_true]

end

/-- Settles O57: a variable by where its new position lies, a step by the poison it reads, and a start by the first check that fails. -/
theorem annealStepsMoveClampAndLeaveFrozen : Obligations.AnnealStepsMoveClampAndLeaveFrozen := by
  intro s t n id key j lead rest g w p f x y whole d yn xn v ms q begun
  refine ⟨annealVar_above, annealVar_below, annealVar_within, fun hj hon hg hk => ⟨fun a ha => ?stepPoisoned, fun hclean => ?steps⟩,
    fun hj hwait => exec_annealRun_stops hj whole (annealStart_waits hwait id j), fun hj hready => ⟨fun hbad => ?mismatch, fun hm => ⟨fun a ha => ?recordPoisoned, fun hclean => ⟨fun code hc => ?recordBad, fun hc => ⟨fun a ha => ?entriesPoisoned, fun he =>
      ⟨fun code hs => ?streamedBad, fun hs => ⟨fun a hv => ?variablesPoisoned, fun hv => ?variablesBad, fun hv => ?starts⟩⟩⟩⟩⟩⟩⟩
  case stepPoisoned => rw [exec_annealStep hj hon hk, annealBeat_poisoned hg id ha]
  case steps =>
    intro step xs news
    obtain ⟨turned, hrun⟩ := annealStep_run hg (d.annealRec g.members g.word) g.word step
    refine ⟨d.annealStep key (d.annealRec g.members g.word) g.word step, ?ends, annealStep_mem d key _ _ _, fun a ha => ?frame, _, hrun, stepped_counts g _ turned⟩
    case frame => exact annealStep_frame d key _ _ _ (fun i hi hfree => not_or.mpr (ha i hi hfree))
    case ends => rw [exec_annealStep hj hon hk, annealBeat_steps hg id hclean]
  case mismatch => exact exec_annealRun_stops hj whole (annealStart_mismatch hready id j hbad)
  case recordPoisoned => exact exec_annealRun_stops hj whole (annealStart_record_poisoned hready id j hm ha)
  case recordBad => exact exec_annealRun_stops hj whole (annealStart_record_bad hready id j hm hclean rfl hc)
  case entriesPoisoned => exact exec_annealRun_stops hj whole (annealStart_entries_poisoned hready id j hm hclean rfl hc ha)
  case streamedBad => exact exec_annealRun_stops hj whole (annealStart_streamed_bad hready id j hm hclean rfl hc he hs)
  case variablesPoisoned => exact exec_annealRun_stops hj whole (annealStart_variables_poisoned hready id j hm hclean rfl hc he hs hv)
  case variablesBad => exact exec_annealRun_stops hj whole (annealStart_variables_bad hready id j hm hclean rfl hc he hs hv)
  case starts =>
    have hstart := annealStart_starts hready id j hm hclean rfl hc he hs hv
    exact ⟨exec_annealRun_starts hj hstart, exec_annealRun_whole hj hstart⟩

end Sys2Proof.Machine
end

section
/-! PROOFS. Token draws: the winner of a sequence and its record (R194, R195, Table 8-5), and TOKEN_DRAW through its checks to what it writes (R198, R200, R400). -/

namespace Sys2Proof.Machine

/-! ### The winner (R194, R195) -/

/-- A (token, score) pair is at least as good as another: a higher rank, or the same rank and no higher index. -/
def tokenAtLeast (a b : Nat × Nat) : Prop := scoreRank b.2 ≤ scoreRank a.2 ∧ (scoreRank b.2 = scoreRank a.2 → a.1 ≤ b.1)

theorem tokenAtLeast.refl (a : Nat × Nat) : tokenAtLeast a a := ⟨le_rfl, fun _ => le_rfl⟩

theorem tokenAtLeast.trans {a b c : Nat × Nat} (hab : tokenAtLeast a b) (hbc : tokenAtLeast b c) : tokenAtLeast a c := by
  obtain ⟨hrank, hindex⟩ := hab
  obtain ⟨hrank', hindex'⟩ := hbc
  refine ⟨hrank'.trans hrank, fun heq => ?_⟩
  exact (hindex (by omega)).trans (hindex' (by omega))

/-- The better of two pairs is one of them, and at least as good as both. -/
theorem tokenBetter_spec (a b : Nat × Nat) : (tokenBetter a b = a ∨ tokenBetter a b = b) ∧ tokenAtLeast (tokenBetter a b) a ∧ tokenAtLeast (tokenBetter a b) b := by
  unfold tokenBetter
  split
  case isTrue hb => exact ⟨.inr rfl, ⟨by omega, fun heq => by omega⟩, .refl b⟩
  case isFalse ha => exact ⟨.inl rfl, .refl a, ⟨by omega, fun heq => by omega⟩⟩

/-- The best of a list of pairs is one of them, and at least as good as each. -/
theorem foldl_tokenBetter_spec (cs : List (Nat × Nat)) : ∀ c, cs.foldl tokenBetter c ∈ c :: cs ∧ ∀ y ∈ c :: cs, tokenAtLeast (cs.foldl tokenBetter c) y := by
  induction cs with
  | nil => simpa using tokenAtLeast.refl
  | cons b cs ih =>
    intro c
    obtain ⟨hone, hleft, hright⟩ := tokenBetter_spec c b
    obtain ⟨hmem, hbest⟩ := ih (tokenBetter c b)
    have hkept : tokenAtLeast ((b :: cs).foldl tokenBetter c) (tokenBetter c b) := hbest _ List.mem_cons_self
    constructor
    · rcases List.mem_cons.mp hmem with heq | hlater
      · rw [List.foldl_cons, heq]
        rcases hone with h | h <;> simp [h]
      · exact List.mem_cons_of_mem _ (List.mem_cons_of_mem _ hlater)
    · intro y hy
      simp only [List.mem_cons] at hy
      rcases hy with rfl | rfl | hy
      · exact hkept.trans hleft
      · exact hkept.trans hright
      · exact hbest y (List.mem_cons_of_mem _ hy)

/-- The candidates of sequence `q`: every token of every member's shard, with its score under the parameter record `r`. -/
def Dev.tokenCands (d : Dev) (seed q r : Nat) (members : List (Nat × Nat)) : List (Nat × Nat) :=
  members.flatMap (fun m => (upFrom (tkFirst m.2) (tkCount m.2)).map (fun v => (v, d.tokenScore seed m.1 m.2 q r v)))

theorem mem_tokenCands {d : Dev} {seed q r : Nat} {members : List (Nat × Nat)} {c : Nat × Nat} :
    c ∈ d.tokenCands seed q r members ↔ ∃ m ∈ members, tkFirst m.2 ≤ c.1 ∧ c.1 < tkFirst m.2 + tkCount m.2 ∧ c.2 = d.tokenScore seed m.1 m.2 q r c.1 := by
  simp only [Dev.tokenCands, List.mem_flatMap, List.mem_map, mem_upFrom]
  constructor
  · rintro ⟨m, hm, v, ⟨hlow, hhigh⟩, rfl⟩
    exact ⟨m, hm, hlow, hhigh, rfl⟩
  · rintro ⟨m, hm, hlow, hhigh, hscore⟩
    exact ⟨m, hm, c.1, ⟨hlow, hhigh⟩, Prod.ext rfl hscore.symm⟩

/-- The winner of a sequence is a candidate at least as good as each. -/
theorem tokenWinner_best {d : Dev} {seed key q : Nat} {members : List (Nat × Nat)} {c : Nat × Nat} (h : d.tokenWinner seed key members q = some c) :
    c ∈ d.tokenCands seed q (d.tokenParam key (members.headD (0, 0)).2 q) members ∧ ∀ y ∈ d.tokenCands seed q (d.tokenParam key (members.headD (0, 0)).2 q) members, tokenAtLeast c y := by
  unfold Dev.tokenWinner at h
  dsimp only at h
  rw [← Dev.tokenCands] at h
  split at h
  case h_1 => cases h
  case h_2 b bs hcands =>
    cases h
    rw [hcands]
    exact foldl_tokenBetter_spec bs b

/-! ### The output records (R198, Table 8-5) -/

theorem tokenRecord_length (winner : Option (Nat × Nat)) : (tokenRecord winner).length = 8 := by
  unfold tokenRecord
  split
  · exact leBytes_length 8 0
  · split <;> simp only [List.length_append, leBytes_length]

/-- The record of every sequence. -/
def Dev.tokenRecords (d : Dev) (seed key seqs : Nat) (ws : List (Nat × Nat)) : List (Nat × List Byte) :=
  (upFrom 0 seqs).map (fun q => (q, tokenRecord (d.tokenWinner seed key ws q)))

theorem mem_tokenRecords {d : Dev} {seed key seqs : Nat} {ws : List (Nat × Nat)} {r : Nat × List Byte} (h : r ∈ d.tokenRecords seed key seqs ws) : r.1 < seqs ∧ r.2.length = 8 := by
  obtain ⟨q, hq, rfl⟩ := List.mem_map.mp h
  exact ⟨by simpa using ((mem_upFrom _ _ _).mp hq).2, tokenRecord_length _⟩

/-- Records of 8 bytes written at a member's output keep every byte outside it. -/
theorem writeRecords_frame {seqs base a : Nat} (ha : a < base ∨ base + 8 * seqs ≤ a) (recs : List (Nat × List Byte)) :
    ∀ m : List Host.Cell, (∀ r ∈ recs, r.1 < seqs ∧ r.2.length = 8) → memRead (recs.foldl (fun m r => memWriteN m (base + 8 * r.1) r.2) m) a = memRead m a := by
  induction recs with
  | nil => exact fun _ _ => rfl
  | cons r recs ih =>
    intro m h
    obtain ⟨hseq, hlen⟩ := h r List.mem_cons_self
    rw [List.foldl_cons, ih _ (fun r' hr' => h r' (List.mem_cons_of_mem r hr')), memRead_memWriteN_out _ _ _ _ (by omega)]

/-- A memory with the records written at every member's output. -/
def writeDraws (ws : List (Nat × Nat)) (recs : List (Nat × List Byte)) (m : List Host.Cell) : List Host.Cell :=
  ws.foldl (fun m k => recs.foldl (fun m r => memWriteN m (shareBase k.1 + tkOut k.2 + 8 * r.1) r.2) m) m

theorem writeDraws_frame {seqs a : Nat} {recs : List (Nat × List Byte)} (hrecs : ∀ r ∈ recs, r.1 < seqs ∧ r.2.length = 8) (ws : List (Nat × Nat)) :
    ∀ m : List Host.Cell, (∀ k ∈ ws, a < shareBase k.1 + tkOut k.2 ∨ shareBase k.1 + tkOut k.2 + 8 * seqs ≤ a) → memRead (writeDraws ws recs m) a = memRead m a := by
  unfold writeDraws
  induction ws with
  | nil => exact fun _ _ => rfl
  | cons k ws ih =>
    intro m h
    rw [List.foldl_cons, ih _ (fun k' hk' => h k' (List.mem_cons_of_mem k hk')), writeRecords_frame (h k List.mem_cons_self) recs m hrecs]

/-! ### The checks of a start (R200, R400) -/

section
variable {d : Dev} {key w : Nat} {ws : List (Nat × Nat)}

theorem tokenFault_uncovered (hv : shardsCover (ws.map (·.2)) (tkVocab w) = false) : d.tokenFault key w ws = some .format := by
  simp [Dev.tokenFault, hv]

variable (hv : shardsCover (ws.map (·.2)) (tkVocab w) = true)
include hv

theorem tokenFault_table_poisoned {a : Nat} (ha : d.firstPoison [tokenTable key ws] = some a) : d.tokenFault key w ws = some (.poison a) := by
  simp [Dev.tokenFault, hv, ha]

variable (hclean : d.firstPoison [tokenTable key ws] = none)
include hclean

theorem tokenFault_record_bad (hp : (upFrom 0 (tkSeqs w)).all (fun q => tokenParamOk (d.tokenParam key w q)) = false) : d.tokenFault key w ws = some .format := by
  simp only [Dev.tokenFault, hv, hclean, hp]
  rfl

/-- Past its records a draw meets the poison of the logits, or nothing. -/
theorem tokenFault_logits (hp : (upFrom 0 (tkSeqs w)).all (fun q => tokenParamOk (d.tokenParam key w q)) = true) :
    d.tokenFault key w ws = (d.firstPoison (tokenLogits ws)).map StartFault.poison := by
  simp only [Dev.tokenFault, hv, hclean, hp]
  rfl

end

/-! ### What a draw that passes its checks leaves (R172, R173, R198, R200) -/

/-- The device after a draw's records are stored. -/
def Dev.drawsStored (d : Dev) (ws : List (Nat × Nat)) (recs : List (Nat × List Byte)) : Dev :=
  ws.foldl (fun d k => recs.foldl (fun d r => d.storeDev (shareBase k.1 + tkOut k.2 + 8 * r.1) r.2) d) d

/-- A group's members with the words of their requests. -/
def memberWords (ms : List (Nat × Desc)) : List (Nat × Nat) := ms.map (fun m => (m.1, m.2.word))

/-- The run of a token draw's group, with the regions it guards until its completion. -/
def tokenRun (key : Nat) (x : Desc) (ms : List (Nat × Desc)) : GroupRun :=
  { members := ms.map (·.1), word := x.word, token := true, guarded := (tokenGuards key (memberWords ms)).1, outs := (tokenGuards key (memberWords ms)).2 }

/-- The device after a token draw starts: its group runs, and every member's request is marked. -/
def Dev.tokenBegun (d : Dev) (key : Nat) (x : Desc) (ms : List (Nat × Desc)) : Dev :=
  ({ d with groups := d.groups.put key (tokenRun key x ms) } : Dev).markStarted ms

/-- What a token draw counts: an argmax over the group per sequence, and every member's draws. -/
def Dev.drawsCounted (d : Dev) (id seqs : Nat) (ms : List (Nat × Desc)) : Dev :=
  ms.foldl (fun d m =>
    let item := m.2.item id 1 (shareBase m.1 + tkLogit m.2.word)
    (d.note (UnitId.sua m.1).page 0x307 (seqs * tkCount m.2.word) item).noteSlot m.1 1 0 (seqs * tkCount m.2.word) item)
    ((upFrom 0 seqs).foldl (fun d _ => d.countMembers (ms.map (·.1))) d)

theorem drawsCounted_form (d : Dev) (id seqs : Nat) (ms : List (Nat × Desc)) : ∃ rs o, d.drawsCounted id seqs ms = { d with routers := rs, occ := o } := by
  obtain ⟨rs, o, hcombines⟩ := countMembersAll_form (ms.map (·.1)) (upFrom 0 seqs) d
  unfold Dev.drawsCounted
  rw [hcombines]
  obtain ⟨o', hnotes⟩ := notes_form _ (fun _ _ => ⟨_, rfl⟩) ms { d with routers := rs, occ := o }
  exact ⟨rs, o', hnotes⟩

/-- The device after a token draw that passes its checks: its records stored, its group started, its work counted. -/
def Dev.tokensDrawn (d : Dev) (id seed key : Nat) (x : Desc) (ms : List (Nat × Desc)) : Dev :=
  ((d.drawsStored (memberWords ms) (d.tokenRecords seed key (tkSeqs x.word) (memberWords ms))).tokenBegun key x ms).drawsCounted id (tkSeqs x.word) ms

/-- A token draw's start changes the running groups and the marks of the members' requests alone. -/
theorem tokenBegun_form (b : Dev) (key : Nat) (x : Desc) (ms : List (Nat × Desc)) : ∃ cs, b.tokenBegun key x ms = { b with groups := b.groups.put key (tokenRun key x ms), cores := cs } := by
  obtain ⟨⟨cs, hmarked⟩, -⟩ := markStarted_form ms { b with groups := b.groups.put key (tokenRun key x ms) }
  exact ⟨cs, hmarked⟩

section
variable (d : Dev) (id seed key : Nat) (x : Desc) (ms : List (Nat × Desc))

/-- What a draw counts apart, it is the start of a device `b` that differs by the stores alone. -/
theorem tokensDrawn_form : ∃ (b : Dev) (rs : Tab Router) (o : List Occ), d.tokensDrawn id seed key x ms = { b.tokenBegun key x ms with routers := rs, occ := o }
    ∧ b.devMem = writeDraws (memberWords ms) (d.tokenRecords seed key (tkSeqs x.word) (memberWords ms)) d.devMem
    ∧ b.cores = d.cores ∧ b.jobs = d.jobs ∧ b.ctxs = d.ctxs ∧ Tidies.freed d.tidies b.tidies := by
  obtain ⟨m, p, ba, g, mg, gr, td, hstored, hmem, hfreed⟩ := storeDevs2_form (fun (k : Nat × Nat) (r : Nat × List Byte) => shareBase k.1 + tkOut k.2 + 8 * r.1) (·.2)
    (d.tokenRecords seed key (tkSeqs x.word) (memberWords ms)) (memberWords ms) d
  unfold Dev.tokensDrawn
  rw [Dev.drawsStored, hstored]
  obtain ⟨rs, o, hcounted⟩ := drawsCounted_form (Dev.tokenBegun { d with devMem := m, poison := p, badShares := ba, goodLines := g, merges := mg, groups := gr, tidies := td } key x ms) id (tkSeqs x.word) ms
  exact ⟨_, rs, o, hcounted, hmem, rfl, rfl, rfl, hfreed⟩

/-- The memory holds the records, the group runs, jobs and contexts stay, and a tidy core loses no more than its reservation. -/
theorem tokensDrawn_fields : (d.tokensDrawn id seed key x ms).devMem = writeDraws (memberWords ms) (d.tokenRecords seed key (tkSeqs x.word) (memberWords ms)) d.devMem
    ∧ (d.tokensDrawn id seed key x ms).groups.get? key = some (tokenRun key x ms) ∧ (d.tokensDrawn id seed key x ms).jobs = d.jobs ∧ (d.tokensDrawn id seed key x ms).ctxs = d.ctxs
    ∧ ∀ k, ∃ r, (d.tokensDrawn id seed key x ms).tidy k = { d.tidy k with reservation := r } := by
  obtain ⟨b, rs, o, hdrawn, hmem, -, hjobs, hctxs, hfreed⟩ := tokensDrawn_form d id seed key x ms
  obtain ⟨cs, hbegun⟩ := tokenBegun_form b key x ms
  rw [hdrawn, hbegun]
  exact ⟨hmem, get?_put_self _ key _, hjobs, hctxs, hfreed⟩

/-- Cores outside the group stay, every queue keeps its tickets, and the members' requests have started. -/
theorem tokensDrawn_cores : (∀ k, k ∉ ms.map (·.1) → (d.tokensDrawn id seed key x ms).core k = d.core k)
    ∧ (∀ k, ((d.tokensDrawn id seed key x ms).core k).suaQ.map (·.ticket) = (d.core k).suaQ.map (·.ticket))
    ∧ ∀ m ∈ ms, ∀ y ∈ ((d.tokensDrawn id seed key x ms).core m.1).suaQ, y.ticket = m.2.ticket → y.started = true := by
  obtain ⟨b, rs, o, hdrawn, -, hcores, -⟩ := tokensDrawn_form d id seed key x ms
  have hcore : ∀ k, b.core k = d.core k := fun k => by simp only [Dev.core, hcores]
  obtain ⟨-, hout, htickets, -, hstarted⟩ := markStarted_form ms { b with groups := b.groups.put key (tokenRun key x ms) }
  rw [hdrawn]
  refine ⟨fun k hk => (hout k hk).trans (hcore k), fun k => (htickets k).trans ?_, hstarted⟩
  rw [← hcore k]
  rfl

end

/-! ### TOKEN_DRAW (R200) -/

theorem tokenDraw_waits {d : Dev} {n : Nat} (h : d.groupReady n .token = none) (id : Nat) (j : Job) : d.tokenDraw id j n = d := by
  simp only [Dev.tokenDraw, h]

section
variable {d : Dev} {n key : Nat} {x : Desc} {rest : List (Nat × Desc)} (hready : d.groupReady n .token = some ((key, x) :: rest)) (id : Nat) (j : Job)
include hready

theorem tokenDraw_mismatch (hm : groupMatches ((key, x) :: rest) = false) : d.tokenDraw id j n = d.problemFault id ((key, x) :: rest) cBadFormat 0 := by
  simp [Dev.tokenDraw, hready, hm]

variable (hm : groupMatches ((key, x) :: rest) = true)
include hm

theorem tokenDraw_format (hf : d.tokenFault key x.word (memberWords ((key, x) :: rest)) = some .format) : d.tokenDraw id j n = d.problemFault id ((key, x) :: rest) cBadFormat 0 := by
  rw [memberWords, List.map_cons] at hf
  simp [Dev.tokenDraw, hready, hm, hf]

theorem tokenDraw_poisoned {a : Nat} (hf : d.tokenFault key x.word (memberWords ((key, x) :: rest)) = some (.poison a)) : d.tokenDraw id j n = d.suaPoison id key a := by
  rw [memberWords, List.map_cons] at hf
  simp [Dev.tokenDraw, hready, hm, hf]

theorem tokenDraw_draws (hf : d.tokenFault key x.word (memberWords ((key, x) :: rest)) = none) : d.tokenDraw id j n = d.tokensDrawn id j.seed key x ((key, x) :: rest) := by
  rw [memberWords, List.map_cons] at hf
  simp only [Dev.tokenDraw, hready, hm, List.map_cons, hf]
  rfl

end

theorem exec_tokenDraw {s : State} {t n id : Nat} {j : Job} (hj : (s.dueAt t).coreJob n = some (id, j)) : exec (.tokenDraw t n) s = .next (s.endsWith t ((s.dueAt t).tokenDraw id j n)) := by
  show execTokenDraw t n s = _
  simp only [execTokenDraw, run_eq, hj]

/-- Settles O58: a draw by the first check that fails, what one that passes leaves, and the winner as the best of the candidates. -/
theorem tokenDrawsWriteTheWinners : Obligations.TokenDrawsWriteTheWinners := by
  intro s t n id key j x rest q v sc ms2 d ms ws params recs
  refine ⟨fun hj => ?_, fun hw => ?winner, rfl⟩
  · rw [exec_tokenDraw hj]
    refine ⟨fun hwait => ?waits, fun hready => ⟨fun hbad => ?bad, fun hm hv => ⟨fun a ha => ?tablePoisoned, fun hclean hp => ?recordBad, fun a hclean hp ha => ?logitsPoisoned, fun hclean hp hl => ?draws⟩⟩⟩
    case waits => rw [tokenDraw_waits hwait]
    case bad =>
      cases hm : groupMatches ms with
      | false => rw [tokenDraw_mismatch hready id j hm]
      | true =>
        have hv : shardsCover (ws.map (·.2)) (tkVocab x.word) = false := hbad.resolve_left (by simp [hm])
        rw [tokenDraw_format hready id j hm (tokenFault_uncovered hv)]
    case tablePoisoned => rw [tokenDraw_poisoned hready id j hm (tokenFault_table_poisoned hv ha)]
    case recordBad => rw [tokenDraw_format hready id j hm (tokenFault_record_bad hv hclean hp)]
    case logitsPoisoned =>
      have hf := tokenFault_logits hv hclean hp
      rw [ha] at hf
      rw [tokenDraw_poisoned hready id j hm hf]
    case draws =>
      have hf := tokenFault_logits hv hclean hp
      rw [hl] at hf
      obtain ⟨hout, htickets, hstarted⟩ := tokensDrawn_cores d id j.seed key x ms
      obtain ⟨hmem, hrun, hkept⟩ := tokensDrawn_fields d id j.seed key x ms
      refine ⟨d.tokensDrawn id j.seed key x ms, by rw [tokenDraw_draws hready id j hm hf], hmem, fun a ha => ?frame, hout, htickets, hstarted, hrun, hkept⟩
      case frame => exact (congrArg (memRead · a) hmem).trans (writeDraws_frame (fun _ => mem_tokenRecords) _ d.devMem ha)
  case winner =>
    obtain ⟨hcand, hbest⟩ := tokenWinner_best hw
    refine ⟨_, rfl, mem_tokenCands.mp hcand, fun m hm u hlow hhigh => ?_⟩
    exact hbest (u, _) (mem_tokenCands.mpr ⟨m, hm, hlow, hhigh, rfl⟩)

end Sys2Proof.Machine
end

section
/-! PROOFS. Requests of the entropy source: a ready generator with nothing held serves one at once (R232, R234, R240), and SEED_REQUEST and ENTROPY_READ through step 8 (R222, R242, R244 to R246). -/

namespace Sys2Proof.Machine

/-! ### The service -/

/-- A ready service stops no consumer. -/
theorem serviceCode_ready {e : Entropy} (h : e.service = .ready) : e.serviceCode = none := by simp [Entropy.serviceCode, h]

/-- An empty queue holds nothing. -/
theorem held_of_queue_nil {e : Entropy} (h : e.queue = []) : e.held = 0 := by simp [Entropy.held, h]

/-- With an empty queue there is nothing to serve. -/
theorem entServeAll_of_queue_nil {d : Dev} (h : d.ent.queue = []) (n : Nat) : d.entServeAll n = d := by
  cases n with
  | zero => rfl
  | succ n => simp [Dev.entServeAll, h]

/-! ### A request served at once (R234, R246) -/

/-- A generate request leaves ENTROPY_SEQ. -/
theorem entGenerate_seq (d : Dev) (n : Nat) : (d.entGenerate n).2.ent.seq = d.ent.seq := rfl

/-- The device with one more delivery counted in ENTROPY_SEQ. -/
def Dev.nextEntSeq (d : Dev) : Dev := d.updEnt (fun e => { e with seq := e.seq + 1 })

/-- A seed's delivery writes the receipt, unless its address is 0, and answers with the seed. -/
theorem entDeliver_seed {q : EntReq} (d : Dev) (out : List Byte) (h : q.kind = .seed) :
    d.entDeliver q out = d.nextEntSeq.writeThenAnswer q.cmd q.dest
      (if q.dest = 0 then [] else leBytes 16 (leNat out) ++ leBytes 8 (d.ent.seq + 1) ++ leBytes 8 d.nextEntSeq.deviceTime) cOk (leNat out % 2 ^ 64) (leNat out / 2 ^ 64) := by
  unfold Dev.entDeliver
  rw [h]
  rfl

/-- A read's delivery writes its record and answers with its number and time. -/
theorem entDeliver_read {q : EntReq} (d : Dev) (out : List Byte) (h : q.kind = .read) :
    d.entDeliver q out = d.nextEntSeq.writeThenAnswer q.cmd q.dest
      (leBytes 8 (d.ent.seq + 1) ++ leBytes 8 d.nextEntSeq.deviceTime ++ out) cOk (d.ent.seq + 1) d.nextEntSeq.deviceTime := by
  unfold Dev.entDeliver
  rw [h]
  rfl

/-- With no request held and nothing due, a request that waits for no window is generated and delivered. -/
theorem entRequest_served {d : Dev} {q : EntReq} (hready : d.ent.service = .ready) (hqueue : d.ent.queue = []) (hprep : d.entPrepare = d) (hwait : q.wait = false) :
    d.entRequest q = (d.entGenerate q.len).2.entDeliver q (d.entGenerate q.len).1 := by
  have hidle : (d.entServeAll 600).entPrepare = d := by rw [entServeAll_of_queue_nil hqueue, hprep]
  simp [Dev.entRequest, Dev.entServe, hidle, hready, hqueue, hwait]

/-! ### Step 8 of SEED_REQUEST (R222) -/

/-- A seed request with an aligned receipt reaches the generator. -/
theorem seedRequest_ready {d : Dev} {c : Cmd} (hready : d.ent.service = .ready) (hqueue : d.ent.queue = []) (ha : c.qw 0x18 % 32 = 0) :
    d.seedRequest c = d.entRequest { kind := .seed, cmd := c, len := 16, wait := false, dest := c.qw 0x18 } := by
  simp [Dev.seedRequest, ha, serviceCode_ready hready, held_of_queue_nil hqueue]

theorem seedRequest_stopped {d : Dev} {c : Cmd} {code : Nat} (ha : c.qw 0x18 % 32 = 0) (hs : d.ent.serviceCode = some code) : d.seedRequest c = d.answer c code 0 0 := by
  simp [Dev.seedRequest, ha, hs]

theorem exec_seedRequest {s : State} {t r : Nat} {c : Cmd} (h : (s.dueAt t).admits r c specSeedRequest none) :
    exec (.seedRequest t r) s = .next (s.endsRing t r (((s.dueAt t).taken r c specSeedRequest none).seedRequest c)) := by
  show execSeedRequest t r s = _
  rw [execSeedRequest, run_eq, ringCmd_of_admits (spec := fun _ => specSeedRequest) (cond := fun _ => none) rfl h rfl]
  rfl

/-! ### Step 8 of ENTROPY_READ (R244, R245) -/

/-- The fields of a read of TAP 0 are in range: 8 to 64 bytes in whole qwords, to an address that is a multiple of 16 and not 0. -/
def Cmd.readsGenerator (c : Cmd) : Prop :=
  8 ≤ c.fld 0x18 6 0 ∧ c.fld 0x18 6 0 ≤ 64 ∧ c.fld 0x18 6 0 % 8 = 0 ∧ c.fld 0x18 9 8 = 0 ∧ c.qw 0x20 ≠ 0 ∧ c.qw 0x20 % 16 = 0

section
variable {d : Dev} {c : Cmd} (hform : c.readsGenerator)
include hform

/-- Past the checks of its fields, a read of TAP 0 goes by the state of the service. -/
theorem entropyRead_form : d.entropyRead c =
    if d.ent.service = .test then d.answer c cIllegal 0 0
    else d.ent.serviceCode.elim
      (if 256 ≤ d.ent.held then d.answer c cNoResource 0 0
        else d.entRequest { kind := .read, cmd := c, len := c.fld 0x18 6 0, wait := c.fld 0x18 7 7 == 1, dest := c.qw 0x20 })
      (fun code => d.answer c code 0 0) := by
  obtain ⟨hmin, hmax, hwhole, htap, hdest, haligned⟩ := hform
  have hshort := Nat.not_lt.mpr hmin
  have hlong := Nat.not_lt.mpr hmax
  by_cases ht : d.ent.service = .test
  · simp [Dev.entropyRead, hshort, hlong, hwhole, htap, hdest, haligned, ht]
  · cases hs : d.ent.serviceCode with
    | none => simp [Dev.entropyRead, hshort, hlong, hwhole, htap, hdest, haligned, ht, hs]
    | some code => simp [Dev.entropyRead, hshort, hlong, hwhole, htap, hdest, haligned, ht, hs]

theorem entropyRead_test (ht : d.ent.service = .test) : d.entropyRead c = d.answer c cIllegal 0 0 := by
  rw [entropyRead_form hform, if_pos ht]

theorem entropyRead_stopped {code : Nat} (ht : d.ent.service ≠ .test) (hs : d.ent.serviceCode = some code) : d.entropyRead c = d.answer c code 0 0 := by
  rw [entropyRead_form hform, if_neg ht, hs, Option.elim_some]

/-- A read of the generator with no WAIT_WINDOW reaches it. -/
theorem entropyRead_ready (hready : d.ent.service = .ready) (hqueue : d.ent.queue = []) (hwindow : c.fld 0x18 7 7 = 0) :
    d.entropyRead c = d.entRequest { kind := .read, cmd := c, len := c.fld 0x18 6 0, wait := false, dest := c.qw 0x20 } := by
  have ht : d.ent.service ≠ .test := by simp [hready]
  simp [entropyRead_form hform, ht, serviceCode_ready hready, held_of_queue_nil hqueue, hwindow]

end

theorem exec_entropyRead {s : State} {t r : Nat} {c : Cmd} (h : (s.dueAt t).admits r c specEntropyRead none) :
    exec (.entropyRead t r) s = .next (s.endsRing t r (((s.dueAt t).taken r c specEntropyRead none).entropyRead c)) := by
  show execEntropyRead t r s = _
  rw [execEntropyRead, run_eq, ringCmd_of_admits (spec := fun _ => specEntropyRead) (cond := fun _ => none) rfl h rfl]
  rfl

/-- Settles O28: a request that passes its checks is served at once by a ready generator with nothing held, and a service that stops its consumers answers with its code. -/
theorem entropyRequestsAreDelivered : Obligations.EntropyRequestsAreDelivered := by
  intro s t r c d readForm
  refine ⟨fun h ha hready hqueue hprep => ?seed, fun code h ha hs => ?seedStopped, fun h hform hwindow hready hqueue hprep => ?read,
    fun code h hform ht hs => ?readStopped, fun h hform ht => ?readTest⟩
  case seed =>
    rw [exec_seedRequest h, seedRequest_ready hready hqueue ha, entRequest_served hready hqueue hprep rfl, entDeliver_seed _ _ rfl, entGenerate_seq]
    rfl
  case seedStopped => rw [exec_seedRequest h, seedRequest_stopped ha hs]
  case read =>
    rw [exec_entropyRead h, entropyRead_ready hform hready hqueue hwindow, entRequest_served hready hqueue hprep rfl, entDeliver_read _ _ rfl, entGenerate_seq]
    rfl
  case readStopped => rw [exec_entropyRead h, entropyRead_stopped hform ht hs]
  case readTest => rw [exec_entropyRead h, entropyRead_test hform ht]

end Sys2Proof.Machine
end

section
/-! PROOFS. Noise sources: what setting one leaves, how it settles, how its windows end, and what a test failure makes of it and of the service (R227 to R231, R236 to R239). -/

namespace Sys2Proof.Machine

/-! ### The two sources -/

@[simp] theorem src_setSrc_same (e : Entropy) (i : Nat) (x : NoiseSrc) : (e.setSrc i x).src i = x := by
  by_cases hi : i = 0 <;> simp [Entropy.setSrc, Entropy.src, hi]

/-- Setting a source leaves the other one. -/
theorem src_setSrc_other {i j : Nat} (hi : i < 2) (hj : j < 2) (hne : j ≠ i) (e : Entropy) (x : NoiseSrc) : (e.setSrc i x).src j = e.src j := by
  obtain ⟨rfl, rfl⟩ | ⟨rfl, rfl⟩ : i = 0 ∧ j = 1 ∨ i = 1 ∧ j = 0 := by omega
  · rfl
  · rfl

/-- Of two settings of one source the later stands. -/
@[simp] theorem setSrc_setSrc (e : Entropy) (i : Nat) (x y : NoiseSrc) : (e.setSrc i x).setSrc i y = e.setSrc i y := by
  by_cases hi : i = 0 <;> simp [Entropy.setSrc, hi]

@[simp] theorem setSrc_service (e : Entropy) (i : Nat) (x : NoiseSrc) : (e.setSrc i x).service = e.service := by unfold Entropy.setSrc; split <;> rfl
@[simp] theorem setSrc_seq (e : Entropy) (i : Nat) (x : NoiseSrc) : (e.setSrc i x).seq = e.seq := by unfold Entropy.setSrc; split <;> rfl
@[simp] theorem setSrc_queue (e : Entropy) (i : Nat) (x : NoiseSrc) : (e.setSrc i x).queue = e.queue := by unfold Entropy.setSrc; split <;> rfl

@[simp] theorem updEnt_ent (d : Dev) (f : Entropy → Entropy) : (d.updEnt f).ent = f d.ent := rfl

/-- A class-3 record leaves the entropy source. -/
@[simp] theorem entRecord_ent (d : Dev) (code w v : Nat) : (d.entRecord code w v).ent = d.ent := by
  obtain ⟨q, hq⟩ := raiseFor_form d 0 3 code UnitId.entropy.page w v
  unfold Dev.entRecord Dev.raise
  rw [hq]
  dsimp only
  split <;> rfl

/-! ### The commands -/

section
variable {s : State} {t : Nat} {d : Dev} (hd : s.dueAt t = d)
include hd

theorem exec_sourceSettled {i : Nat} (hi : i < 2) (hs : (d.ent.src i).sstate = .startup) (hn : (d.ent.src i).settled = false) :
    exec (.sourceSettled t i) s = .next (s.endsWith t (d.updEnt (fun e => e.setSrc i
      { d.ent.src i with settled := true, window := 0, windowFailed := false, passRun := 0, attempts := 0, lastSample := none, runLength := 0, seqAtWindow := e.seq }))) := by
  show execSourceSettled t i s = _
  rw [execSourceSettled, run_eq, hd]
  dsimp only
  rw [if_pos (by simp [hi, hs, hn])]

theorem exec_entropyWindowEnd (i : Nat) (raw : List Byte) : exec (.entropyWindowEnd t i raw) s = .next (s.endsWith t (d.entWindowEnd i raw)) := by rw [← hd]; rfl

theorem exec_repetitionCountFailure (i : Nat) : exec (.repetitionCountFailure t i) s = .next (s.endsWith t (d.entTestFails i 1)) := by rw [← hd]; rfl

theorem exec_adaptiveProportionFailure (i : Nat) : exec (.adaptiveProportionFailure t i) s = .next (s.endsWith t (d.entTestFails i 2)) := by rw [← hd]; rfl

end

/-! ### The end of a window (R229, R231) -/

/-- A source at the start of its next window: the repetition count goes on from the last sample `l` and its run `n`, and ENTROPY_SEQ stands at `seq`. -/
def NoiseSrc.nextWindow (x : NoiseSrc) (l : Option Bool) (n seq : Nat) : NoiseSrc :=
  { x with window := x.window + 1, windowFailed := false, lastSample := l, runLength := n, seqAtWindow := seq }

section
variable {d : Dev} {i : Nat} {raw : List Byte} (hi : i < 2) (hset : (d.ent.src i).settled = true) (hraw : raw.length = 128)
include hi hset hraw

/-- A window in which a test failed yields nothing: the next one begins. -/
theorem entWindowEnd_failed (hoff : (d.ent.src i).sstate ≠ .off) (hf : (d.ent.src i).windowFailed = true) :
    ∃ l n, d.entWindowEnd i raw = d.updEnt (fun e => e.setSrc i ((d.ent.src i).nextWindow l n d.ent.seq)) := by
  have hends : (decide (i < 2) && (d.ent.src i).settled && (d.ent.src i).sstate != .off && raw.length == 128) = true := by simp [hi, hset, hraw, hoff]
  unfold Dev.entWindowEnd
  dsimp only
  rw [if_pos hends, if_neg (by simp [hf]), if_pos hf]
  exact ⟨_, _, rfl⟩

/-- A window of a start-up test whose samples pass both tests counts for it, and the next one begins. -/
theorem entWindowEnd_startup (hs : (d.ent.src i).sstate = .startup) (hf : (d.ent.src i).windowFailed = false)
    (hrct : (rctRun (d.ent.src i).lastSample (d.ent.src i).runLength (d.entSamples i raw)).2.2 = false) (hapt : aptFails (d.entSamples i raw) = false) :
    ∃ l n, d.entWindowEnd i raw = d.updEnt (fun e => e.setSrc i (((d.ent.src i).pass (d.entSamples i raw)).nextWindow l n e.seq)) := by
  have hends : (decide (i < 2) && (d.ent.src i).settled && (d.ent.src i).sstate != .off && raw.length == 128) = true := by simp [hi, hset, hraw, hs]
  unfold Dev.entWindowEnd
  dsimp only
  rw [if_pos hends, if_neg (by simp [hrct, hapt]), if_neg (by simp [hf]), if_neg (by simp [hs])]
  simp only [Dev.updEnt, src_setSrc_same, setSrc_setSrc, setSrc_seq]
  exact ⟨_, _, rfl⟩

end

/-- While no test pattern is selected, a source presents its own samples. -/
theorem entSamples_of_not_test {d : Dev} (h : d.ent.service ≠ .test) (i : Nat) (raw : List Byte) : d.entSamples i raw = samplesOf raw := by
  simp [Dev.entSamples, h]

/-- A passing window of a start-up test: the fourth in a row makes the source STANDBY. -/
theorem pass_startup {x : NoiseSrc} (h : x.sstate = .startup) (xs : List Bool) :
    x.pass xs = if x.passRun = 3 then { x with sstate := .standby, passRun := 0, attempts := 0, retest := false, lfsr := 0, pool := 0, poolLen := 0 }
      else { x with passRun := x.passRun + 1 } := by
  unfold NoiseSrc.pass
  rw [h]

/-! ### A test failure (R236, R237, R239) -/

/-- A source with one more failure of the test of `code` counted. -/
def NoiseSrc.countFail (x : NoiseSrc) (code : Nat) : NoiseSrc :=
  if code = 1 then { x with rctFails := satAdd 255 x.rctFails 1 } else { x with aptFails := satAdd 255 x.aptFails 1 }

/-- The device with one more failure of the test of `code` counted in source `i`. -/
def Dev.countFail (d : Dev) (i code : Nat) : Dev := d.updEnt (fun e => e.setSrc i ((d.ent.src i).countFail code))


/-- The entropy source after its active source `i`, which stands as `x`, has failed and the other one has taken over: no undelivered output is left, and the service waits for a new instantiation. -/
def Entropy.failedOver (e : Entropy) (i : Nat) (x : NoiseSrc) : Entropy :=
  { (e.setSrc i x.fail).setSrc (1 - i) { e.src (1 - i) with sstate := .active } with
    suspect := x.seqAtWindow, gen := none, renew := false, queue := e.queue.map (fun q => { q with out := none }), service := .holding, activeSrc := 1 - i }

/-- A source in STANDBY fails while the generator serves: it is marked FAILED and nothing else changes. -/
theorem entStandbyFails_ent {d : Dev} (hready : d.ent.service = .ready) (i code : Nat) : (d.entStandbyFails i code).ent = d.ent.setSrc i (d.ent.src i).fail := by
  simp [Dev.entStandbyFails, hready]

section
variable {d : Dev} {i : Nat} (hi : i < 2)
include hi

theorem failedOver_src_same (e : Entropy) (x : NoiseSrc) : (e.failedOver i x).src i = x.fail := by
  obtain rfl | rfl : i = 0 ∨ i = 1 := by omega
  · rfl
  · rfl

theorem failedOver_src_other (e : Entropy) (x : NoiseSrc) : (e.failedOver i x).src (1 - i) = { e.src (1 - i) with sstate := .active } := by
  obtain rfl | rfl : i = 0 ∨ i = 1 := by omega
  · rfl
  · rfl

/-- What the failing source was before leaves no trace. -/
theorem failedOver_setSrc (e : Entropy) (x y : NoiseSrc) : (e.setSrc i y).failedOver i x = e.failedOver i x := by
  obtain rfl | rfl : i = 0 ∨ i = 1 := by omega
  · rfl
  · rfl

/-- The active source fails and the other one is in STANDBY: it takes over. -/
theorem entActiveFails_ent (ho : (d.ent.src (1 - i)).sstate = .standby) (code : Nat) : (d.entActiveFails i code).ent = d.ent.failedOver i (d.ent.src i) := by
  unfold Dev.entActiveFails
  obtain rfl | rfl : i = 0 ∨ i = 1 := by omega
  all_goals
    dsimp only
    rw [if_pos (by rw [entRecord_ent]; exact ho)]
    simp only [updEnt_ent, entRecord_ent]
    rfl

section
variable (hset : (d.ent.src i).settled = true) (hf : (d.ent.src i).windowFailed = false) (hready : d.ent.service = .ready)
include hset hf hready

theorem entTestFails_of_active (hs : (d.ent.src i).sstate = .active) (code : Nat) : d.entTestFails i code = (d.countFail i code).entActiveFails i code := by
  by_cases hc : code = 1 <;> simp [Dev.entTestFails, Dev.countFail, NoiseSrc.countFail, hc, hi, hset, hf, hready, hs]

theorem entTestFails_of_standby (hs : (d.ent.src i).sstate = .standby) (code : Nat) : d.entTestFails i code = (d.countFail i code).entStandbyFails i code := by
  by_cases hc : code = 1 <;> simp [Dev.entTestFails, Dev.countFail, NoiseSrc.countFail, hc, hi, hset, hf, hready, hs]

/-- A test failure of the active source with the other in STANDBY, whichever test it is (R236, R239). -/
theorem entTestFails_active_ent (hs : (d.ent.src i).sstate = .active) (ho : (d.ent.src (1 - i)).sstate = .standby) (code : Nat) :
    (d.entTestFails i code).ent = d.ent.failedOver i ((d.ent.src i).countFail code) := by
  have hother : (d.countFail i code).ent.src (1 - i) = d.ent.src (1 - i) := src_setSrc_other hi (by omega) (by omega) _ _
  rw [entTestFails_of_active hi hset hf hready hs, entActiveFails_ent hi (by rw [hother]; exact ho), Dev.countFail, updEnt_ent, src_setSrc_same, failedOver_setSrc hi]

/-- A test failure of a source in STANDBY, whichever test it is (R237). -/
theorem entTestFails_standby_ent (hs : (d.ent.src i).sstate = .standby) (code : Nat) :
    (d.entTestFails i code).ent = d.ent.setSrc i ((d.ent.src i).countFail code).fail := by
  rw [entTestFails_of_standby hi hset hf hready hs, entStandbyFails_ent (by simp [Dev.countFail, hready])]
  simp [Dev.countFail]

end

end

/-- Settles O30: each clause follows from what the source's settling, its window or its test failure leaves of the entropy source. -/
theorem noiseSourcesAndTheirTests : Obligations.NoiseSourcesAndTheirTests := by
  intro s t i raw hi
  dsimp only
  obtain ⟨d, hd⟩ : ∃ d, s.dueAt t = d := ⟨_, rfl⟩
  rw [hd]
  refine ⟨fun hs hn => exec_sourceSettled hd hi hs hn, fun hset hs hraw hsv hf hrct hapt => ?passes, fun hset hoff hraw hf _ => ?yieldsNothing,
    fun hset hs hf hready ho => ?active, fun hset hs hf hready => ?standby⟩
  case passes =>
    have hxs : d.entSamples i raw = samplesOf raw := entSamples_of_not_test hsv i raw
    obtain ⟨l, n, hw⟩ := entWindowEnd_startup hi hset hraw hs hf (hxs ▸ hrct) (hxs ▸ hapt)
    refine ⟨_, exec_entropyWindowEnd hd i raw, ?_⟩
    rw [State.endsWith_ent, hw, pass_startup hs]
    by_cases hrun : (d.ent.src i).passRun = 3
    · simp [NoiseSrc.nextWindow, hrun]
    · simp [NoiseSrc.nextWindow, hrun, hs]
  case yieldsNothing =>
    obtain ⟨l, n, hw⟩ := entWindowEnd_failed hi hset hraw hoff hf
    refine ⟨_, exec_entropyWindowEnd hd i raw, ?_⟩
    rw [State.endsWith_ent, hw]
    simp [NoiseSrc.nextWindow]
  case active =>
    have hfail := entTestFails_active_ent hi hset hf hready hs ho
    refine ⟨⟨_, exec_repetitionCountFailure hd i, ?_⟩, ⟨_, exec_adaptiveProportionFailure hd i, ?_⟩⟩
    all_goals
      rw [State.endsWith_ent, hfail, failedOver_src_same hi, failedOver_src_other hi]
      simp [Entropy.failedOver, NoiseSrc.fail, NoiseSrc.countFail]
  case standby =>
    have hfail := entTestFails_standby_ent hi hset hf hready hs
    have hother (x : NoiseSrc) : (d.ent.setSrc i x).src (1 - i) = d.ent.src (1 - i) := src_setSrc_other hi (by omega) (by omega) d.ent x
    refine ⟨⟨_, exec_repetitionCountFailure hd i, ?_⟩, ⟨_, exec_adaptiveProportionFailure hd i, ?_⟩⟩
    all_goals
      rw [State.endsWith_ent, hfail, hother]
      simp [NoiseSrc.fail, hready]

end Sys2Proof.Machine
end

section
/-! PROOFS. The generator: its instantiation, its reseeds and the held requests that it serves (R233 to R236, R240). -/

namespace Sys2Proof.Machine

/-! ### The commands -/

section
variable {s : State} {t : Nat} {d : Dev} (hd : s.dueAt t = d)
include hd

theorem exec_drbgInstantiateDone : exec (.drbgInstantiateDone t) s = .next (s.endsWith t d.entInstantiateDone) := by rw [← hd]; rfl

theorem exec_generateRequest : exec (.generateRequest t) s = .next (s.endsWith t d.entServeNext) := by rw [← hd]; rfl

/-- A ready generator that has served its 65,536 requests takes its reseed from the active pool, or holds the service. -/
theorem exec_drbgReseed (hready : d.ent.service = .ready) (hcount : d.ent.genCount = 65536) (hgen : d.ent.gen.isSome = true) (hrenew : d.ent.renew = false) :
    exec (.drbgReseed t) s = .next (s.endsWith t (if 384 ≤ (d.ent.src d.ent.activeSrc).poolLen then d.updEnt (fun e => { e.reseed with service := .ready })
      else d.updEnt (fun e => { e with service := .holding }))) := by
  show execDrbgReseed t s = _
  rw [execDrbgReseed, run_eq, hd]
  dsimp only
  rw [if_pos (by simp [hready, hcount, hgen, hrenew])]

end

/-! ### Instantiation (R235) -/

/-- Before the first instantiation, source 0 is taken as soon as it qualifies. -/
theorem candidate_source0 {e : Entropy} (hsv : e.service = .notReady) (hs : e.src0.sstate = .standby) (hpool : 512 ≤ e.src0.poolLen) : e.candidate = some 0 := by
  simp [Entropy.candidate, Entropy.src, hsv, hs, hpool]

/-- Once instantiated from source `i`, the generator is ready, with that source active and no request counted. -/
theorem entInstantiateDone_ready {d : Dev} {i : Nat} (h : d.ent.candidate = some i) :
    d.entInstantiateDone.ent.service = .ready ∧ d.entInstantiateDone.ent.activeSrc = i ∧ d.entInstantiateDone.ent.genCount = 0 := by
  unfold Dev.entInstantiateDone
  rw [h]
  exact ⟨rfl, rfl, rfl⟩

/-! ### Held requests (R234, R236, R240) -/

/-- A service that is not READY has nothing to prepare. -/
theorem entPrepare_of_not_ready {d : Dev} (h : d.ent.service ≠ .ready) : d.entPrepare = d := by
  simp [Dev.entPrepare, h]

theorem entServeNext_of_not_ready {d : Dev} (h : d.ent.service ≠ .ready) : d.entServeNext = d := by
  simp [Dev.entServeNext, entPrepare_of_not_ready h, h]

/-- A ready generator with nothing due serves the request at the head; the later ones stay as they are. -/
theorem entServeNext_head {d : Dev} {q : EntReq} {rest : List EntReq} (hready : d.ent.service = .ready) (hprep : d.entPrepare = d)
    (hqueue : d.ent.queue = q :: rest) (hout : q.out = none) (hwait : q.wait = false) :
    d.entServeNext = ((d.entGenerate q.len).2.entDeliver q (d.entGenerate q.len).1).updEnt (fun e => { e with queue := rest }) := by
  have hfirst : takeFirst (fun q : EntReq => q.out.isNone) (q :: rest) = some (q, rest) := takeFirst_head rest (by simp [hout])
  simp [Dev.entServeNext, Dev.entServe, hprep, hready, hqueue, hfirst, hout, hwait]

/-- Settles O29: the generator is instantiated, reseeds or holds, and serves the head of its queue. -/
theorem generatorSteps : Obligations.GeneratorSteps := by
  intro s t q rest
  dsimp only
  obtain ⟨d, hd⟩ : ∃ d, s.dueAt t = d := ⟨_, rfl⟩
  rw [hd]
  refine ⟨fun hsv hs hpool => ?instantiated, fun hready hcount hgen hrenew hpool => ⟨?reseeded, rfl⟩, fun hready hcount hgen hrenew hpool => ?held,
    fun hready hprep hqueue hout hwait => ?served, fun hsv => ?stopped⟩
  case instantiated =>
    refine ⟨_, exec_drbgInstantiateDone hd, ?_⟩
    rw [State.endsWith_ent]
    exact entInstantiateDone_ready (candidate_source0 hsv hs hpool)
  case reseeded => rw [exec_drbgReseed hd hready hcount hgen hrenew, if_pos hpool]
  case held =>
    rw [exec_drbgReseed hd hready hcount hgen hrenew, if_neg (Nat.not_le.mpr hpool)]
    rfl
  case served => rw [exec_generateRequest hd, entServeNext_head hready hprep hqueue hout hwait]
  case stopped => rw [exec_generateRequest hd, entServeNext_of_not_ready hsv]

end Sys2Proof.Machine
end

section
/-! PROOFS. Writes of the entropy page: RETEST and the factory test pattern (R247, R249). -/

namespace Sys2Proof.Machine

/-! ### The commands -/

section
variable {s : State} {t : Nat} {d : Dev} (hd : s.dueAt t = d) (hopen : d.hostOpen .entropy = true)
include hd hopen

theorem exec_entRetest (v : Nat) : exec (.entRetest t v) s = .next (s.endsWith t (d.entRetest 0 v)) := by
  show execEntRetest t v s = _
  rw [execEntRetest, run_eq, hd, if_pos hopen]

theorem exec_testPatternSelect (v : Nat) : exec (.testPatternSelect t v) s = .next (s.endsWith t (d.entTestCtrl 0 (v ||| 1))) := by
  show execTestPatternSelect t v s = _
  rw [execTestPatternSelect, run_eq, hd, if_pos hopen]

theorem exec_testPatternDeselect (v : Nat) : exec (.testPatternDeselect t v) s = .next (s.endsWith t (d.entTestCtrl 0 (v / 2 * 2))) := by
  show execTestPatternDeselect t v s = _
  rw [execTestPatternDeselect, run_eq, hd, if_pos hopen]

theorem exec_entTestHiWrite (v : Nat) : exec (.entTestHiWrite t v) s = .next (s.endsWith t (d.entTestHi 0 v)) := by
  show execEntTestHiWrite t v s = _
  rw [execEntTestHiWrite, run_eq, hd, if_pos hopen]

end

/-! ### RETEST (R249) -/

/-- A retest: a FAILED source begins its test again, and another source stays as it is. -/
def NoiseSrc.retested (x : NoiseSrc) : NoiseSrc := if x.sstate = .failed then x.restart true else x

section
variable {d : Dev} {v : Nat} (hv : bit v 0 = true)
include hv

/-- A RETEST that nothing bars starts the FAILED sources again and bars another for 10 s. -/
theorem entRetest_taken (hfrom : d.ent.retestFrom ≤ d.sincePower) (hsv : d.ent.service ≠ .test) (fn : Nat) :
    d.entRetest fn v = { d with ent := { d.ent with src0 := d.ent.src0.retested, src1 := d.ent.src1.retested, retestFrom := d.sincePower + 10000000000 } } := by
  unfold Dev.entRetest
  rw [if_pos hv, if_neg (by simp [hfrom, hsv])]
  rfl

/-- A RETEST that comes too early is refused. -/
theorem entRetest_early (hfrom : d.sincePower < d.ent.retestFrom) (fn : Nat) : d.entRetest fn v = d.refuse fn UnitId.entropy.page 0x044 4 v cIllegal := by
  unfold Dev.entRetest
  rw [if_pos hv, if_pos (by simp [hfrom])]

end

/-! ### The test pattern (R247) -/

/-- Bit 0 of a number with its bit 0 set. -/
theorem bit_zero_set (v : Nat) : bit (v ||| 1) 0 = true := by simp [bit]

/-- Bit 0 of a number with its bit 0 cleared. -/
theorem bit_zero_cleared (v : Nat) : bit (v / 2 * 2) 0 = false := by simp [bit]

section
variable {d : Dev} (hlife : d.sec.life = 0)
include hlife

/-- Setting SELECT in FACTORY: the service is TEST with the source named, the generator's seed is dropped, and the held requests are answered. -/
theorem entTestCtrl_select {v : Nat} (hv : bit v 0 = true) (fn : Nat) :
    d.entTestCtrl fn v =
      ({ d with ent := { d.ent with testSelect := true, testSource := bits v 1 1, service := .test, gen := none, renew := false, tapRaw := 0, tapCond := 0, tapLfsr := 0 } } : Dev).entAnswerAll cEntNotReady := by
  unfold Dev.entTestCtrl
  rw [if_neg (not_not.mpr hlife), if_pos hv]
  rfl

/-- Clearing SELECT in FACTORY while the service is TEST ends TEST. -/
theorem entTestCtrl_deselect {v : Nat} (hv : bit v 0 = false) (hsv : d.ent.service = .test) (fn : Nat) :
    d.entTestCtrl fn v = (d.updEnt (fun e => { e with testSource := bits v 1 1 })).entEndTest := by
  unfold Dev.entTestCtrl
  rw [if_neg (not_not.mpr hlife), if_neg (by simp [hv])]
  exact if_pos hsv

theorem entTestHi_factory (fn v : Nat) :
    d.entTestHi fn v = { d with ent := { d.ent with pattern := d.ent.testLo + 2 ^ 32 * (v % 2 ^ 32), tapRaw := 0, tapCond := 0, tapLfsr := 0 } } := by
  unfold Dev.entTestHi
  rw [if_neg (not_not.mpr hlife)]
  rfl

end

/-- Outside FACTORY a write of the pattern's high half is refused. -/
theorem entTestHi_refused {d : Dev} (hlife : d.sec.life ≠ 0) (fn v : Nat) : d.entTestHi fn v = d.refuse fn UnitId.entropy.page 0x074 4 v cIllegal := if_pos hlife

/-- The end of TEST: the service waits for an instantiation, and both sources start again with empty pools. -/
theorem entEndTest_restarts (d : Dev) :
    d.entEndTest.ent.service = .notReady ∧ d.entEndTest.ent.src0.sstate = .startup ∧ d.entEndTest.ent.src1.sstate = .startup
    ∧ d.entEndTest.ent.src0.poolLen = 0 ∧ d.entEndTest.ent.src1.poolLen = 0 ∧ d.entEndTest.ent.gen = none := ⟨rfl, rfl, rfl, rfl, rfl, rfl⟩

/-- Settles O31: each write of the entropy page does what its register says, or is refused. -/
theorem entropyPageWrites : Obligations.EntropyPageWrites := by
  intro s t v
  dsimp only
  obtain ⟨d, hd⟩ : ∃ d, s.dueAt t = d := ⟨_, rfl⟩
  rw [hd]
  intro hopen
  refine ⟨fun hv hfrom hsv => ?retest, fun hv hfrom => ?early, fun hlife => ?select, fun hlife hsv => ?deselect, fun hlife => ?pattern, fun hlife => ?refused⟩
  case retest =>
    rw [exec_entRetest hd hopen, entRetest_taken hv hfrom hsv]
    rfl
  case early => rw [exec_entRetest hd hopen, entRetest_early hv hfrom]
  case select => rw [exec_testPatternSelect hd hopen, entTestCtrl_select hlife (bit_zero_set v)]
  case deselect =>
    refine ⟨_, exec_testPatternDeselect hd hopen v, ?_⟩
    rw [State.endsWith_ent, entTestCtrl_deselect hlife (bit_zero_cleared v) hsv]
    exact entEndTest_restarts _
  case pattern => rw [exec_entTestHiWrite hd hopen, entTestHi_factory hlife]
  case refused => rw [exec_entTestHiWrite hd hopen, entTestHi_refused hlife]

end Sys2Proof.Machine
end

section
/-! PROOFS. Plans and their jobs: JOB_DEFINE through its checks to the job it creates, JOB_PLACE through its placement to its answer, and the commands that end a job and free its handle (R60, R257, R258, R261, R266). -/

namespace Sys2Proof.Machine

/-! ### The commands -/

section
variable {s : State} {t r : Nat} {c : Cmd}

/-- The row of a ring command that its ring brings to execution: the body runs on the device as steps 1 to 7 left it. -/
theorem run_ringCmd_of_admits {sp : CmdSpec} {cond : Dev → Cmd → Option Nat} {body : Cmd → Dev → Dev} (h : (s.dueAt t).admits r c sp (cond (s.dueAt t) c)) :
    s.run t (fun d => d.ringCmd r (fun _ => sp) anyForm (cond d) body) = .next (s.endsRing t r (body c ((s.dueAt t).taken r c sp (cond (s.dueAt t) c)))) := by
  rw [run_eq, ringCmd_of_admits (spec := fun _ => sp) rfl h rfl]
  rfl

theorem exec_jobDefine (h : (s.dueAt t).admits r c specJobDefine ((s.dueAt t).ctxCond c)) :
    exec (.jobDefine t r) s = .next (s.endsRing t r (((s.dueAt t).taken r c specJobDefine ((s.dueAt t).ctxCond c)).jobDefine c)) :=
  run_ringCmd_of_admits (cond := Dev.ctxCond) h

theorem exec_jobPlace (h : (s.dueAt t).admits r c specJobPlace ((s.dueAt t).jobCond c (fun js => js == .defined))) :
    exec (.jobPlace t r) s =
      .next (s.endsRing t r (((s.dueAt t).taken r c specJobPlace ((s.dueAt t).jobCond c (fun js => js == .defined))).jobPlace c)) :=
  run_ringCmd_of_admits (cond := fun d c => d.jobCond c (fun js => js == .defined)) h

theorem exec_jobAbort (h : (s.dueAt t).admits r c specJobAbort ((s.dueAt t).jobCond c (fun js => !js.over?))) :
    exec (.jobAbort t r) s =
      .next (s.endsRing t r ((((s.dueAt t).taken r c specJobAbort ((s.dueAt t).jobCond c (fun js => !js.over?))).abortJob c.job true).answer c cOk 0 0)) :=
  run_ringCmd_of_admits (cond := fun d c => d.jobCond c (fun js => !js.over?)) (body := fun c d => (d.abortJob c.job true).answer c cOk 0 0) h

theorem exec_jobRelease (h : (s.dueAt t).admits r c specJobRelease ((s.dueAt t).jobCond c JobState.over?)) :
    exec (.jobRelease t r) s =
      .next (s.endsRing t r ((((s.dueAt t).taken r c specJobRelease ((s.dueAt t).jobCond c JobState.over?)).releaseJob c.job).answer c cOk 0 0)) :=
  run_ringCmd_of_admits (cond := fun d c => d.jobCond c JobState.over?) (body := fun c d => (d.releaseJob c.job).answer c cOk 0 0) h

end

/-! ### What an answer leaves -/

@[simp] theorem answer_jobs (d : Dev) (c : Cmd) (code r0 r1 : Nat) : (d.answer c code r0 r1).jobs = d.jobs := by
  obtain ⟨g, l, q, h⟩ := answer_form d c code r0 r1
  rw [h]

@[simp] theorem answer_nextJob (d : Dev) (c : Cmd) (code r0 r1 : Nat) : (d.answer c code r0 r1).nextJob = d.nextJob := by
  obtain ⟨g, l, q, h⟩ := answer_form d c code r0 r1
  rw [h]

/-! ### Step 8 of JOB_DEFINE (R257, R258) -/

/-- The plan that JOB_DEFINE reads from host memory. -/
def Dev.planOf (d : Dev) (c : Cmd) : List Byte := memReadN d.hostMem (c.qw 0x18) (c.dw 0x20)

/-- The job that JOB_DEFINE creates. -/
def Dev.definedJob (d : Dev) (c : Cmd) : Job :=
  { ctx := c.ctx, jstate := .defined, plan := d.planOf c, cores := planCores (d.planOf c), seed := planSeed (d.planOf c) }

/-- The device with the next JOB_ID given to the job that JOB_DEFINE creates. -/
def Dev.withDefinedJob (d : Dev) (c : Cmd) : Dev :=
  { d with jobs := d.jobs.put d.nextJob (d.definedJob c), nextJob := if d.nextJob = 0xFFFFFFFF then 1 else d.nextJob + 1 }

/-- The checks of JOB_DEFINE: where the plan lies and how long it is, its form, its cores and the number of jobs, and the plan store. -/
structure Dev.DefinesPlan (d : Dev) (c : Cmd) : Prop where
  aligned : c.qw 0x18 % 64 = 0
  longEnough : 128 ≤ c.dw 0x20
  shortEnough : c.dw 0x20 ≤ 16777216
  wellFormed : planOk (d.planOf c) = true
  coresPresent : planCores (d.planOf c) < 2 ^ d.nCores
  jobRoom : d.jobs.length < 4096
  storeRoom : planUnits (d.planOf c) ≤ d.planFree

/-- A plan that passes the checks becomes a job with the next JOB_ID, and the answer is OK with that number and the free bytes of the plan store. -/
theorem jobDefine_defines {d : Dev} {c : Cmd} (h : d.DefinesPlan c) :
    d.jobDefine c = (d.withDefinedJob c).answer c cOk d.nextJob ((d.withDefinedJob c).planFree * 65536) := by
  have hplace : ¬ (c.qw 0x18 % 64 != 0 || decide (c.dw 0x20 < 128) || decide (16777216 < c.dw 0x20)) = true := by
    simp [h.aligned, h.longEnough, h.shortEnough]
  have hform : ¬ (!planOk (d.planOf c)) = true := by simp [h.wellFormed]
  have hrange : ¬ (decide (planCores (d.planOf c) ≥ 2 ^ d.nCores) || decide (4096 ≤ d.jobs.length)) = true := by
    simp [h.coresPresent, h.jobRoom]
  have hstore : ¬ d.planFree < planUnits (d.planOf c) := Nat.not_lt.mpr h.storeRoom
  exact (if_neg hplace).trans ((if_neg hform).trans ((if_neg hrange).trans (if_neg hstore)))

/-- The next JOB_ID, before the last one, is one more. -/
theorem withDefinedJob_nextJob {d : Dev} (h : d.nextJob < 0xFFFFFFFF) (c : Cmd) : (d.withDefinedJob c).nextJob = d.nextJob + 1 := if_neg (Nat.ne_of_lt h)

/-! ### Step 8 of JOB_PLACE (R261) -/

section
variable {d : Dev} {c : Cmd} {j : Job} (hj : d.jobs.get? c.job = some j) (ha : c.qw 0x18 % 64 = 0)
include hj ha

/-- A placement that succeeds: its record is written unless the address is 0, and the answer counts the regions mapped and the rows replicated. -/
theorem jobPlace_placed {j' : Job} {d' : Dev} (h : d.placeJob c.job j = .ok (j', d')) :
    d.jobPlace c = (if c.qw 0x18 = 0 then d' else d'.writeHost (c.qw 0x18) (placementRecord j'.tensors)).answer c cOk
      (j'.tensors.foldl (fun n q => if q.mode != 0 && !q.reused then n + q.regions else n) 0 + 2 ^ 32 * j'.hotRows.length) 0 := by
  unfold Dev.jobPlace
  simp only [hj, if_neg (not_not.mpr ha), h]

/-- A placement that fails answers its code alone. -/
theorem jobPlace_failed {e : Nat} (h : d.placeJob c.job j = .error e) : d.jobPlace c = d.answer c e 0 0 := by
  unfold Dev.jobPlace
  simp only [hj, if_neg (not_not.mpr ha), h]

end

/-- Settles O23: a plan that passes the checks becomes a job, a placement answers with what it placed or with the code that stopped it, and an abort and a release answer OK. -/
theorem jobsAreDefinedPlacedAndEnded : Obligations.JobsAreDefinedPlacedAndEnded := by
  intro s t r c d
  refine ⟨fun h haligned hlong hshort hform hcores hjobs hstore hnext => ?define, fun j j' d2 h hj ha hok => ?placed,
    fun j e h hj ha herr => ?failed, exec_jobAbort, exec_jobRelease⟩
  case define =>
    refine ⟨_, exec_jobDefine h, ?_⟩
    rw [jobDefine_defines ⟨haligned, hlong, hshort, hform, hcores, hjobs, hstore⟩]
    constructor
    · rw [State.endsRing, State.endsWith_nextJob, fetchUnknown_nextJob, answer_nextJob, withDefinedJob_nextJob hnext]
    · rw [State.endsRing, State.endsWith_jobs, fetchUnknown_jobs, answer_jobs]
      rfl
  case placed => rw [exec_jobPlace h, jobPlace_placed hj ha hok]
  case failed => rw [exec_jobPlace h, jobPlace_failed hj ha herr]

end Sys2Proof.Machine
end

section
/-! PROOFS. A step runs the command at the front; FROST and ACTIVE agree with the work in progress after every command; and NOP answers the boot record (Table 2-12, R478). -/

namespace Sys2Proof.Machine

/-- Settles O1: `step` takes the front command off the queue and runs it, and idles on an empty queue. -/
theorem stepRunsFrontCommand : Obligations.StepRunsFrontCommand := fun _ _ _ => ⟨rfl, rfl⟩

/-! ### FROST and ACTIVE -/

/-- Counting what a command noted leaves the module's state and its work. -/
@[simp] theorem tally_coherent (d : Dev) : d.tally.coherent = d.coherent := rfl

/-- What running an effect leaves agrees with the work in progress: the effect is settled last. -/
theorem runAt_coherent {s u : State} {n : Nat} {f : Dev → Dev} (h : s.runAt n f = .next u) : u.dev.coherent = true := by
  obtain rfl := Host.Outcome.next.inj h
  rw [tally_coherent, coherent_setNow]
  exact settle_coherent _

/-- The next state of every command agrees with the work in progress, whatever the state before it. -/
theorem exec_coherent {i : Instr} {s u : State} (h : exec i s = .next u) : u.dev.coherent = true := by
  obtain ⟨n, f, _, hrun⟩ := exec_runs i s
  exact runAt_coherent (hrun.symm.trans h)

/-- A step keeps the agreement: it runs a command, or it idles. -/
theorem step_keeps_coherent {s u : State} (hs : s.dev.coherent = true) (h : step s = .next u) : u.dev.coherent = true := by
  unfold step at h
  split at h
  case h_1 => exact Host.Outcome.next.inj h ▸ hs
  case h_2 => exact exec_coherent h

/-- Settles O3: every effect is settled before the next state, and the idle step keeps the state. -/
theorem everyStepKeepsFrostAndActive : Obligations.EveryStepKeepsFrostAndActive :=
  ⟨fun _ _ => step_keeps_coherent, fun _ _ _ => exec_coherent⟩

/-! ### A command taken from its ring -/

/-- Taking a record from a ring and checking it changes the ring, the security core's counts and the attention queues. -/
theorem taken_form (d : Dev) (r : Nat) (c : Cmd) (sp : CmdSpec) (cond : Option Nat) :
    ∃ g x q, d.taken r c sp cond = { d with rings := g, sec := x, attnqs := q } := by
  obtain ⟨x, q, h⟩ := preCheck_form (d.advanceHead r) c sp cond
  exact ⟨_, x, q, h⟩

/-- Taking a record leaves the memories, the jobs and the contexts. -/
theorem taken_keeps (d : Dev) (r : Nat) (c : Cmd) (sp : CmdSpec) (cond : Option Nat) :
    (d.taken r c sp cond).devMem = d.devMem ∧ (d.taken r c sp cond).hostMem = d.hostMem ∧ (d.taken r c sp cond).jobs = d.jobs
    ∧ (d.taken r c sp cond).ctxs = d.ctxs := by
  obtain ⟨g, x, q, h⟩ := taken_form d r c sp cond
  simp [h]

/-! ### NOP (R478) -/

/-- The answer of a NOP. -/
def Dev.nopAnswer (d : Dev) (c : Cmd) : Dev :=
  d.answer c cOk (d.bootRecord d.ent.service.code).1 (d.bootRecord d.ent.service.code).2

theorem exec_nop {s : State} {t r : Nat} {c : Cmd} (h : (s.dueAt t).admits r c specNop none) :
    exec (.nop t r) s = .next (s.endsRing t r (((s.dueAt t).taken r c specNop none).nopAnswer c)) :=
  run_ringCmd_of_admits (cond := fun _ _ => none) (body := fun c d => d.nopAnswer c) h

/-- What a ring command leaves of the fields that its answer and the counters do not touch. -/
theorem endsRing_answer_keeps (s : State) (t r : Nat) (d : Dev) (c : Cmd) (code r0 r1 : Nat) :
    let u := s.endsRing t r (d.answer c code r0 r1)
    u.dev.devMem = d.devMem ∧ u.dev.hostMem = d.hostMem ∧ u.dev.jobs = d.jobs ∧ u.dev.ctxs = d.ctxs := by
  obtain ⟨g, l, q, h⟩ := answer_form d c code r0 r1
  simp [State.endsRing, h]

/-- Settles O18: an admitted NOP is answered OK with the boot record, and nothing but its ring changes. -/
theorem nopReturnsTheBootRecord : Obligations.NopReturnsTheBootRecord := by
  intro s t r c h d1
  refine ⟨exec_nop h, _, exec_nop h, ?_⟩
  obtain ⟨hdev, hhost, hjobs, hctxs⟩ := endsRing_answer_keeps s t r d1 c cOk (d1.bootRecord d1.ent.service.code).1 (d1.bootRecord d1.ent.service.code).2
  obtain ⟨tdev, thost, tjobs, tctxs⟩ := taken_keeps (s.dueAt t) r c specNop none
  exact ⟨hdev.trans tdev, hhost.trans thost, hjobs.trans tjobs, hctxs.trans tctxs⟩

end Sys2Proof.Machine
end

section
/-! PROOFS. The driver lease: the commands that set it, the resolution of an orphaned module, and what the clock does to it (R65, R369 to R373). -/

namespace Sys2Proof.Machine

/-! ### A ring command of one form -/

/-- The row of one form of a ring command that its ring brings to execution: the body runs on the device as steps 1 to 7 left it. -/
theorem run_ringCmd_of_form {s : State} {t r : Nat} {c : Cmd} {sp : CmdSpec} {mine : Cmd → Bool} {cond : Dev → Cmd → Option Nat} {body : Cmd → Dev → Dev}
    (h : (s.dueAt t).admits r c sp (cond (s.dueAt t) c)) (hm : mine c = true) :
    s.run t (fun d => d.ringCmd r (fun _ => sp) mine (cond d) body) = .next (s.endsRing t r (body c ((s.dueAt t).taken r c sp (cond (s.dueAt t) c)))) := by
  rw [run_eq, ringCmd_of_admits (spec := fun _ => sp) rfl h hm]
  rfl

/-! ### ATTACH, LEASE_RENEW and DETACH -/

section
variable {s : State} {t r : Nat} {c : Cmd}

theorem exec_attach (h : (s.dueAt t).admits r c specAttach none) :
    exec (.attach t r) s = .next (s.endsRing t r (((s.dueAt t).taken r c specAttach none).attach c)) :=
  run_ringCmd_of_admits (cond := fun _ _ => none) h

theorem exec_leaseRenew (h : (s.dueAt t).admits r c specLeaseRenew ((s.dueAt t).renewCond c)) :
    exec (.leaseRenew t r) s = .next (s.endsRing t r (((s.dueAt t).taken r c specLeaseRenew ((s.dueAt t).renewCond c)).leaseRenew c)) :=
  run_ringCmd_of_admits (cond := Dev.renewCond) h

theorem exec_detach (h : (s.dueAt t).admits r c specDetach (if (s.dueAt t).anyLive then some cIllegal else none)) :
    exec (.detach t r) s =
      .next (s.endsRing t r (((s.dueAt t).taken r c specDetach (if (s.dueAt t).anyLive then some cIllegal else none)).detach c)) :=
  run_ringCmd_of_admits (cond := fun d _ => if d.anyLive then some cIllegal else none) h

end

/-- Entering FROST leaves the lease. -/
@[simp] theorem moveFrost_lease (d : Dev) : d.moveFrost.lease = d.lease := move_lease d .frost

theorem attach_inRange {d : Dev} {c : Cmd} {ms : Nat} (h : leaseMs c = some ms) :
    d.attach c = (d.updLease (fun l => l.start .held ms d.now)).moveFrost.answer c cOk (d.now + ms * 1000000) 0 := by
  simp only [Dev.attach, h, moveFrost_lease]
  rfl

theorem attach_outOfRange {d : Dev} {c : Cmd} (h : leaseMs c = none) : d.attach c = d.answer c cOutOfRange 0 0 := by
  simp only [Dev.attach, h]

theorem leaseRenew_serving {d : Dev} (c : Cmd) (hgo : d.hostStopped = false) (hm : d.modState ≠ .orphaned) :
    d.leaseRenew c = (d.updLease (fun l => l.start .held l.interval d.now)).answer c cOk (d.now + d.lease.interval * 1000000) 0 := by
  simp only [Dev.leaseRenew, hgo, Bool.false_and, Bool.false_eq_true, if_false, if_neg hm]
  rfl

theorem detach_fromFrost {d : Dev} (c : Cmd) (hm : d.modState = .frost) :
    d.detach c = ((d.updLease (fun l => { l with status := .none, warned := false, deadline := 0, setAt := 0 })).move .ready).answer c cOk 0 0 := by
  have hsnow : d.modState ≠ .snowpack := by simp [hm]
  simp only [Dev.detach, if_neg hsnow]

/-! ### TAKEOVER (R65, R373) -/

/-- A TAKEOVER that passes its checks starts the lease TAKEN_OVER for its ring and is answered on that ring. -/
def Dev.takenOver (d : Dev) (r : Nat) (c : Cmd) (ms : Nat) : Dev :=
  ((d.takeResult r cOk).updLease (fun l => { l.start .takenOver ms d.now with takeRing := some r })).answerDirect c cOk (d.now + ms * 1000000) 0

theorem takeover_of_admits {d : Dev} {r : Nat} {c : Cmd} {ms : Nat} (h : d.admits r c specTakeover none) (hms : leaseMs c = some ms) :
    d.takeover r = ((d.taken r c specTakeover none).takenOver r c ms).fetchUnknown 65536 r := by
  obtain ⟨hhead, hop, hpass, -, -⟩ := h
  have hpre : (d.advanceHead r).preCheck c specTakeover none = (d.taken r c specTakeover none, none) := Prod.ext rfl hpass
  simp only [Dev.takeover, hhead, hop, hpre, hms, bne_self_eq_false, Bool.false_eq_true, if_false]
  rfl

/-- Settles O19: each lease command that passes its checks sets the lease as its chapter says, and its answer carries D. -/
theorem leaseCommands : Obligations.LeaseCommands := by
  intro s t r c
  refine ⟨fun ms h hms => ?attach, fun h hms => ?outOfRange, fun h hgo hm => ?renew, fun h hm => ?detach, fun ms h hms => ?takeover⟩
  case attach =>
    rw [exec_attach h, attach_inRange hms]
    rfl
  case outOfRange => rw [exec_attach h, attach_outOfRange hms]
  case renew =>
    rw [exec_leaseRenew h, leaseRenew_serving c hgo hm]
    rfl
  case detach =>
    rw [exec_detach h, detach_fromFrost c hm]
    rfl
  case takeover =>
    show s.run t (fun d => d.takeover r) = _
    rw [run_eq, takeover_of_admits h hms]
    rfl

/-! ### ORPHAN_RESOLVE (R78, R373) -/

/-- Leaving ORPHANED makes the lease HELD with no takeover, and goes to SNOWPACK, ACTIVE or FROST (Table 2-12). -/
theorem leaveOrphaned_facts (d : Dev) :
    d.leaveOrphaned.lease.status = .held ∧ d.leaveOrphaned.lease.takeRing = none
    ∧ d.leaveOrphaned.modState = if d.lease.fromSnowpack then .snowpack else if d.anyRunning then .active else .frost := by
  unfold Dev.leaveOrphaned
  generalize hx : d.updLease (fun l => { l with status := .held, takeRing := none }) = x
  have hstatus : x.lease.status = .held := hx ▸ rfl
  have htake : x.lease.takeRing = none := hx ▸ rfl
  have hfrom : x.lease.fromSnowpack = d.lease.fromSnowpack := hx ▸ rfl
  have hrun : x.anyRunning = d.anyRunning := hx ▸ rfl
  simp only [hfrom, hrun]
  split
  · exact ⟨by rw [move_lease, hstatus], by rw [move_lease, htake], rfl⟩
  · split
    · exact ⟨(congrArg Lease.status (move_lease x .active)).trans hstatus, (congrArg Lease.takeRing (move_lease x .active)).trans htake, rfl⟩
    · exact ⟨(congrArg Lease.status (moveFrost_lease x)).trans hstatus, (congrArg Lease.takeRing (moveFrost_lease x)).trans htake, rfl⟩

/-- Settles O20: RESUME and DISCARD run their step 8, and both leave ORPHANED. -/
theorem orphanResolution : Obligations.OrphanResolution := by
  intro s t r c d h d1
  refine ⟨fun hresume => ?resume, fun hdiscard => ?discard, leaveOrphaned_facts⟩
  case resume => exact run_ringCmd_of_form (cond := Dev.resolveCond) (body := Dev.orphanResolve false) h (beq_iff_eq.mpr hresume)
  case discard => exact run_ringCmd_of_form (cond := Dev.resolveCond) (body := Dev.orphanResolve true) h (beq_iff_eq.mpr hdiscard)

end Sys2Proof.Machine
end

section
/-! PROOFS. What the clock does to the driver lease: its warning, its expiry, and the lapse of a takeover (R370 to R373). -/

namespace Sys2Proof.Machine

/-! ### Doing what has fallen due -/

theorem whenDue_due {d : Dev} {x : Nat} (h : x ≤ d.now) (f : Dev → Dev) : d.whenDue x f = d.atTime x f := if_pos h

theorem whenDue_early {d : Dev} {x : Nat} (h : d.now < x) (f : Dev → Dev) : d.whenDue x f = d := if_neg (Nat.not_le.mpr h)

/-- What no effect of a deadline changes, the deadline leaves as it was. -/
theorem whenDue_keeps {α : Type} (φ : Dev → α) (hnow : ∀ (d : Dev) (n : Nat), φ { d with now := n } = φ d) {f : Dev → Dev} (hf : ∀ d : Dev, φ (f d) = φ d)
    (d : Dev) (x : Nat) : φ (d.whenDue x f) = φ d := by
  unfold Dev.whenDue Dev.atTime
  split
  · rw [hnow, hf, hnow]
  · rfl

/-- The end of an unlock leaves the lease. -/
theorem endUnlock_lease (d : Dev) : d.endUnlock.lease = d.lease := by
  have hclose : ∀ x : Dev, x.closeExtended.lease = x.lease := fun x => by unfold Dev.closeExtended; split <;> rfl
  unfold Dev.endUnlock Dev.warnUnlock
  split
  · rfl
  · obtain ⟨c, l, q, h⟩ := logRec_form (Dev.closeExtended _) 0 lvWarn 2 0 0
    dsimp only
    rw [h]
    exact hclose _

/-- The end of an unlock leaves the module's state. -/
theorem endUnlock_modState (d : Dev) : d.endUnlock.modState = d.modState := by
  obtain ⟨-, -, -, -, -, hm, -⟩ := quiet_endUnlock d
  exact hm

theorem unlockDue_lease (d : Dev) : d.unlockDue.lease = d.lease := by
  unfold Dev.unlockDue
  split
  · rfl
  · exact whenDue_keeps Dev.lease (fun _ _ => rfl) endUnlock_lease d _

theorem unlockDue_modState (d : Dev) : d.unlockDue.modState = d.modState := by
  unfold Dev.unlockDue
  split
  · rfl
  · exact whenDue_keeps Dev.modState (fun _ _ => rfl) endUnlock_modState d _

/-! ### The warning (R370) -/

/-- The device time of the lease's warning. -/
def Lease.warnAt (l : Lease) : Nat := l.setAt + 750000 * l.interval

/-- The warning touches WARNED of the lease and no other of its fields. -/
theorem leaseWarning_lease (d : Dev) : ∃ w, d.leaseWarning.lease = { d.lease with warned := w } := by
  unfold Dev.leaseWarning
  dsimp only
  split
  · exact ⟨true, rfl⟩
  · exact ⟨d.lease.warned, rfl⟩

theorem leaseWarning_modState (d : Dev) : d.leaseWarning.modState = d.modState := by
  unfold Dev.leaseWarning
  dsimp only
  split <;> rfl

/-- The device once the warning has had its time. -/
def Dev.pastWarning (d : Dev) : Dev := d.whenDue d.lease.warnAt Dev.leaseWarning

theorem pastWarning_now (d : Dev) : d.pastWarning.now = d.now := by
  unfold Dev.pastWarning Dev.whenDue
  split <;> rfl

theorem pastWarning_lease (d : Dev) : ∃ w, d.pastWarning.lease = { d.lease with warned := w } := by
  unfold Dev.pastWarning Dev.whenDue
  split
  · exact leaseWarning_lease { d with now := d.lease.warnAt }
  · exact ⟨d.lease.warned, rfl⟩

theorem pastWarning_modState (d : Dev) : d.pastWarning.modState = d.modState :=
  whenDue_keeps Dev.modState (fun _ _ => rfl) leaseWarning_modState d _

/-- A lease that runs and has not warned warns at its time. -/
theorem pastWarning_warns {d : Dev} (hrun : d.lease.status = .held ∨ d.lease.status = .takenOver) (hw : d.lease.warned = false) (hdue : d.lease.warnAt ≤ d.now) :
    d.pastWarning = d.atTime d.lease.warnAt (fun d => (d.class4 0x001).updLease (fun l => { l with warned := true })) := by
  rw [Dev.pastWarning, whenDue_due hdue, Dev.atTime, Dev.atTime]
  unfold Dev.leaseWarning
  rw [if_pos]
  simpa [hw, Lease.warnAt] using hrun

/-! ### Expiry and lapse (R370 to R373) -/

/-- The store of held completions leaves the state of the module and every field of the lease but the store. -/
theorem storeHeld_facts (d : Dev) : d.storeHeld.modState = d.modState ∧ ∃ st, d.storeHeld.lease = { d.lease with store := st } := by
  unfold Dev.storeHeld
  generalize d.rings.map (·.1) = rs
  induction rs generalizing d with
  | nil => exact ⟨rfl, d.lease.store, rfl⟩
  | cons r rs ih =>
    obtain ⟨hm, st, hl⟩ := ih (Dev.updRing _ r _)
    exact ⟨hm, st, hl⟩

/-- A HELD lease past D is EXPIRED and counted, and a module in service is ORPHANED. -/
theorem leaseExpiry_facts {d : Dev} (hs : d.lease.status = .held) (hD : d.lease.deadline < d.now)
    (hm : d.modState = .frost ∨ d.modState = .active ∨ d.modState = .snowpack) :
    d.leaseExpiry.modState = .orphaned ∧ d.leaseExpiry.lease.status = .expired ∧ d.leaseExpiry.lease.expiries = satAdd 0xFFFFFFFF d.lease.expiries 1
    ∧ d.leaseExpiry.lease.fromSnowpack = (d.modState == .snowpack) := by
  unfold Dev.leaseExpiry
  rw [if_pos ⟨hs, hD⟩]
  dsimp only
  generalize hx : (d.class4 cLeaseExpired).updLease _ = x
  have hxm : x.modState = .frost ∨ x.modState = .active ∨ x.modState = .snowpack := hx ▸ hm
  rw [if_pos hxm, if_pos (show (x.move .orphaned).hostStopped = true from rfl)]
  obtain ⟨hstate, st, hl⟩ := storeHeld_facts (x.move .orphaned)
  rw [hstate, hl, move_lease, ← hx]
  exact ⟨rfl, rfl, rfl, rfl⟩

theorem leaseExpiry_of_not_held {d : Dev} (h : d.lease.status ≠ .held) : d.leaseExpiry = d := if_neg (fun hh => h hh.1)

theorem takeoverLapse_of_not_takenOver {d : Dev} (h : d.lease.status ≠ .takenOver) : d.takeoverLapse = d := if_neg (fun hh => h hh.1)

/-- A takeover's lease past D is EXPIRED and counted, and its ring forgotten. -/
theorem takeoverLapse_facts {d : Dev} (hs : d.lease.status = .takenOver) (hD : d.lease.deadline < d.now) :
    d.takeoverLapse.lease.status = .expired ∧ d.takeoverLapse.lease.takeRing = none ∧ d.takeoverLapse.lease.expiries = satAdd 0xFFFFFFFF d.lease.expiries 1 := by
  unfold Dev.takeoverLapse
  rw [if_pos ⟨hs, hD⟩]
  exact ⟨rfl, rfl, rfl⟩

/-! ### What the lease timer has done -/

theorem leaseDue_eq (d : Dev) :
    d.leaseDue = (d.pastWarning.whenDue (d.pastWarning.lease.deadline + 1) Dev.leaseExpiry).whenDue (d.pastWarning.lease.deadline + 1) Dev.takeoverLapse := rfl

/-- Up to D only the warning can have come. -/
theorem leaseDue_untilD {d : Dev} (hD : d.now ≤ d.lease.deadline) : d.leaseDue = d.pastWarning := by
  obtain ⟨w, hl⟩ := pastWarning_lease d
  have hearly : d.pastWarning.now < d.pastWarning.lease.deadline + 1 := by
    rw [pastWarning_now, hl]
    exact Nat.lt_succ_of_le hD
  rw [leaseDue_eq, whenDue_early hearly, whenDue_early hearly]

/-- Past D of a HELD lease. -/
theorem leaseDue_expired {d : Dev} (hs : d.lease.status = .held) (hD : d.lease.deadline < d.now)
    (hm : d.modState = .frost ∨ d.modState = .active ∨ d.modState = .snowpack) :
    d.leaseDue.modState = .orphaned ∧ d.leaseDue.lease.status = .expired ∧ d.leaseDue.lease.expiries = satAdd 0xFFFFFFFF d.lease.expiries 1
    ∧ d.leaseDue.lease.fromSnowpack = (d.modState == .snowpack) := by
  obtain ⟨w, hl⟩ := pastWarning_lease d
  have hmod := pastWarning_modState d
  have hnow := pastWarning_now d
  rw [leaseDue_eq]
  generalize d.pastWarning = e at hl hmod hnow ⊢
  obtain ⟨hstate, hstatus, hcount, hfrom⟩ := leaseExpiry_facts (d := { e with now := e.lease.deadline + 1 }) (by simp [hl, hs]) (Nat.lt_succ_self _) (by rw [← hmod] at hm; exact hm)
  have hdue : e.lease.deadline + 1 ≤ e.now := by
    rw [hl, hnow]
    exact hD
  rw [whenDue_due hdue, whenDue_due (show _ ≤ (e.atTime _ _).now from hdue), Dev.atTime, takeoverLapse_of_not_takenOver (by simp [Dev.atTime, hstatus])]
  refine ⟨hstate, hstatus, hcount.trans ?_, hfrom.trans ?_⟩
  · simp [hl]
  · simp [hmod]

/-- Past D of a takeover's lease. -/
theorem leaseDue_lapsed {d : Dev} (hs : d.lease.status = .takenOver) (hD : d.lease.deadline < d.now) :
    d.leaseDue.lease.status = .expired ∧ d.leaseDue.lease.takeRing = none ∧ d.leaseDue.lease.expiries = satAdd 0xFFFFFFFF d.lease.expiries 1 := by
  obtain ⟨w, hl⟩ := pastWarning_lease d
  have hnow := pastWarning_now d
  rw [leaseDue_eq]
  generalize d.pastWarning = e at hl hnow ⊢
  have hdue : e.lease.deadline + 1 ≤ e.now := by
    rw [hl, hnow]
    exact hD
  have hheld : ({ e with now := e.lease.deadline + 1 } : Dev).lease.status ≠ .held := by simp [hl, hs]
  rw [whenDue_due hdue, Dev.atTime, leaseExpiry_of_not_held hheld, whenDue_due hdue]
  obtain ⟨hstatus, hring, hcount⟩ := takeoverLapse_facts (d := { e with now := e.lease.deadline + 1 }) (by simp [hl, hs]) (Nat.lt_succ_self _)
  exact ⟨hstatus, hring, hcount.trans (by simp [hl])⟩

/-! ### The three rows -/

/-- The device with the cycles counted up to the time that a command brings. -/
def State.counted (s : State) (t : Nat) : Dev := (s.clockAt t).elapse s.dev.now

theorem dueAt_lease (s : State) (t : Nat) : (s.dueAt t).lease = (s.counted t).leaseDue.lease := unlockDue_lease _

theorem dueAt_modState_leaseDue (s : State) (t : Nat) : (s.dueAt t).modState = (s.counted t).leaseDue.modState := unlockDue_modState _

/-- With no unlock in force the lease timer alone acts. -/
theorem dueAt_of_locked {s : State} {t : Nat} (h : (s.counted t).leaseDue.sec.unlock = .none) : s.dueAt t = (s.counted t).leaseDue := if_pos h

/-- Settles O21: the clock warns, expires and lets a takeover lapse at their times, and each of the three rows only brings it. -/
theorem leaseTimes : Obligations.LeaseTimes := by
  intro s t
  dsimp only
  have hlease : (s.counted t).lease = s.dev.lease := rfl
  refine ⟨fun hrun hw hdue hD hlock => ?warns, fun hs hD hm => ?expires, fun hs hD => ?lapses, fun hwarn hD => ?early⟩
  case warns =>
    have hpast : (s.counted t).leaseDue = _ := (leaseDue_untilD (d := s.counted t) hD).trans (pastWarning_warns hrun hw hdue)
    have hd : s.dueAt t = _ := (dueAt_of_locked (by rw [hpast]; exact hlock)).trans hpast
    refine ⟨s.endsWith t (s.dueAt t), rfl, ?_, ?_⟩
    · rw [State.endsWith_lease, hd]
      rfl
    · rw [State.endsWith_attnqs, hd]
      rfl
  case expires =>
    obtain ⟨hstate, hstatus, hcount, hfrom⟩ := leaseDue_expired (d := s.counted t) hs hD hm
    have hstate' : (s.dueAt t).modState = .orphaned := (dueAt_modState_leaseDue s t).trans hstate
    refine ⟨s.endsWith t (s.dueAt t), rfl, ?_, ?_⟩
    · exact (congrArg Dev.modState (settle_of_state (by simp [hstate']) (by simp [hstate']))).trans hstate'
    · rw [State.endsWith_lease, State.endsWith_jobs, State.dueAt_jobs, dueAt_lease]
      exact ⟨hstatus, hcount, hfrom, rfl⟩
  case lapses =>
    obtain ⟨hstatus, hring, hcount⟩ := leaseDue_lapsed (d := s.counted t) hs hD
    refine ⟨s.endsWith t (s.dueAt t), rfl, ?_⟩
    rw [State.endsWith_lease, State.endsWith_jobs, State.dueAt_jobs, dueAt_lease]
    exact ⟨hstatus, hring, hcount, rfl⟩
  case early =>
    have hl : (s.endsWith t (s.dueAt t)).dev.lease = s.dev.lease := by
      rw [State.endsWith_lease, dueAt_lease, leaseDue_untilD (d := s.counted t) hD, Dev.pastWarning, whenDue_early hwarn, hlease]
    exact ⟨_, _, _, rfl, rfl, rfl, hl, hl, hl⟩

end Sys2Proof.Machine
end

section
/-! PROOFS. SNOWPACK entered and left (R332), and contexts created and destroyed (R288, R289). -/

namespace Sys2Proof.Machine

/-! ### POWER_STATE (R332) -/

section
variable {s : State} {t r : Nat} {c : Cmd}

theorem exec_powerStateSnowpack (h : (s.dueAt t).admits r c specPowerState ((s.dueAt t).powerStateCond c)) (hto : c.fld 0x18 0 0 = 1) :
    exec (.powerStateSnowpack t r) s = .next (s.endsRing t r (((s.dueAt t).taken r c specPowerState ((s.dueAt t).powerStateCond c)).powerState c)) :=
  run_ringCmd_of_form (mine := fun c => c.fld 0x18 0 0 == 1) (cond := Dev.powerStateCond) (body := Dev.powerState) h (beq_iff_eq.mpr hto)

theorem exec_powerStateFrost (h : (s.dueAt t).admits r c specPowerState ((s.dueAt t).powerStateCond c)) (hto : c.fld 0x18 0 0 = 0) :
    exec (.powerStateFrost t r) s = .next (s.endsRing t r (((s.dueAt t).taken r c specPowerState ((s.dueAt t).powerStateCond c)).powerState c)) :=
  run_ringCmd_of_form (mine := fun c => c.fld 0x18 0 0 == 0) (cond := Dev.powerStateCond) (body := Dev.powerState) h (beq_iff_eq.mpr hto)

end

section
variable {d : Dev} {o : PowerOp} {rest : List PowerOp} (hops : d.pwr.powerOps = o :: rest)
include hops

/-- The first POWER_STATE that waits is taken where it is one of those asked for. -/
theorem takePowerOp_head {p : PowerOp → Bool} (hp : p o = true) : d.takePowerOp p = some (o, { d with pwr := { d.pwr with powerOps := rest } }) := by
  rw [Dev.takePowerOp, hops, takeFirst_head rest hp]
  rfl

/-- A waiting entry completes from FROST: the stacks and the ports go down, and the module is in SNOWPACK. -/
theorem snowpackEntry_fromFrost (hcore : d.powerCore = true) (hm : d.modState = .frost) (ho : o.toSnowpack = true) :
    d.snowpackEntry = ((({ d with pwr := { d.pwr with powerOps := rest } } : Dev).snowpackDown).move .snowpack).finishCmd o.cmd cOk 0 0 := by
  rw [Dev.snowpackEntry, if_pos ⟨hcore, .inl hm⟩, takePowerOp_head hops ho]
  exact congrArg (Dev.finishCmd · o.cmd cOk 0 0) (if_pos hm)

/-- A waiting exit completes 120 ms after its check: the stacks and the ports return, and the module is in FROST. -/
theorem snowpackExit_due (hcore : d.powerCore = true) (hm : d.modState = .snowpack) (ho : o.toSnowpack = false) (hdue : o.check + 120000000 ≤ d.now) :
    d.snowpackExit = ((({ d with pwr := { d.pwr with powerOps := rest } } : Dev).snowpackUp).moveFrost).finishCmd o.cmd cOk 0 0 := by
  rw [Dev.snowpackExit, if_pos ⟨hcore, .inl hm⟩, takePowerOp_head hops (by simp [ho, hdue])]
  exact congrArg (Dev.finishCmd · o.cmd cOk 0 0) (if_pos hm)

end

/-- Before 120 ms have passed since its check, the only POWER_STATE that waits does not complete as an exit. -/
theorem snowpackExit_early {d : Dev} {o : PowerOp} (hops : d.pwr.powerOps = [o]) (h : d.now < o.check + 120000000) : d.snowpackExit = d := by
  have hnone : d.takePowerOp (fun o => !o.toSnowpack && decide (o.check + 120000000 ≤ d.now)) = none := by
    rw [Dev.takePowerOp, hops, takeFirst_none (by simp [h])]
    rfl
  rw [Dev.snowpackExit, hnone]
  split <;> rfl

/-- Settles O22: POWER_STATE waits for its one record, which its entry or its exit gives it. -/
theorem snowpackEntryAndExit : Obligations.SnowpackEntryAndExit := by
  intro s t r c o rest
  refine ⟨fun h => ⟨fun hto => ?snowpack, fun hto => ?frost⟩, fun hcore hm hops ho => ?entry, fun hcore hm hops ho hdue => ?exit, fun hops hlt => ?early⟩
  case snowpack =>
    rw [exec_powerStateSnowpack h hto, Dev.powerState, hto]
    rfl
  case frost =>
    rw [exec_powerStateFrost h hto, Dev.powerState, hto]
    rfl
  case entry =>
    show s.run t (fun d => d.snowpackEntry) = _
    rw [run_eq, snowpackEntry_fromFrost hops hcore hm ho]
    rfl
  case exit =>
    show s.run t (fun d => d.snowpackExit) = _
    rw [run_eq, snowpackExit_due hops hcore hm ho hdue]
    rfl
  case early =>
    show s.run t (fun d => d.snowpackExit) = _
    rw [run_eq, snowpackExit_early hops hlt]

/-! ### CTX_CREATE and CTX_DESTROY (R288, R289) -/

section
variable {s : State} {t r : Nat} {c : Cmd}

theorem exec_ctxCreate (h : (s.dueAt t).admits r c specCtxCreate none) :
    exec (.ctxCreate t r) s = .next (s.endsRing t r (((s.dueAt t).taken r c specCtxCreate none).ctxCreate c)) :=
  run_ringCmd_of_admits (cond := fun _ _ => none) (body := fun c d => d.ctxCreate c) h

theorem exec_ctxDestroy (h : (s.dueAt t).admits r c specCtxDestroy ((s.dueAt t).ctxJobsCond c JobState.live?)) (hgo : (s.dueAt t).destroyWaits r = false) :
    exec (.ctxDestroy t r) s =
      .next (s.endsRing t r ((((s.dueAt t).taken r c specCtxDestroy ((s.dueAt t).ctxJobsCond c JobState.live?)).destroyCtx c.ctx).answer c cOk 0 0)) := by
  have hrun := run_ringCmd_of_admits (cond := fun d c => d.ctxJobsCond c JobState.live?) (body := fun c d => (d.destroyCtx c.ctx).answer c cOk 0 0) h
  rw [run_eq] at hrun
  show s.run t (fun d => if d.destroyWaits r then d else _) = _
  rw [run_eq, if_neg (by simp [hgo])]
  exact hrun

theorem exec_ctxDestroy_waits (hwait : (s.dueAt t).destroyWaits r = true) : exec (.ctxDestroy t r) s = .next (s.endsWith t (s.dueAt t)) := by
  show s.run t (fun d => if d.destroyWaits r then d else _) = _
  rw [run_eq, if_pos hwait]

end

section
variable {d : Dev} (c : Cmd)

theorem ctxCreate_free {n : Nat} (h : (upFrom 0 64).find? (fun n => (d.ctx n).cstate == .free) = some n) :
    d.ctxCreate c = (({ d with ctxs := d.ctxs.put n (Ctx.fresh (c.fld 0x18 0 0 == 1) c.fn d.nCores) } : Dev).ctxTree c.fn).answer c cOk n 0 := by
  simp only [Dev.ctxCreate, h]

theorem ctxCreate_full (h : (upFrom 0 64).find? (fun n => (d.ctx n).cstate == .free) = none) : d.ctxCreate c = d.answer c cNoResource 0 0 := by
  simp only [Dev.ctxCreate, h]

end

theorem ctxTree_regions (d : Dev) (fn : Nat) : (d.ctxTree fn).regions = d.regions := by unfold Dev.ctxTree; split <;> rfl

theorem ctxTree_syncs (d : Dev) (fn : Nat) : (d.ctxTree fn).syncs = d.syncs := by unfold Dev.ctxTree; split <;> rfl

/-- No region belongs to a context that has been destroyed. -/
theorem destroyCtx_regions (d : Dev) (n : Nat) : (d.destroyCtx n).regions.all (fun e => e.2.owner != n) = true := by
  unfold Dev.destroyCtx
  rw [ctxTree_regions]
  generalize List.foldl _ _ _ = x
  show (x.regions.filter (fun e => e.2.owner != n)).all (fun e => e.2.owner != n) = true
  simp

/-- No synchronisation object belongs to a context that has been destroyed. -/
theorem destroyCtx_syncs (d : Dev) {n : Nat} (hn : n ≠ 0x7F) : (d.destroyCtx n).syncs.all (fun e => e.2.owner != n) = true := by
  unfold Dev.destroyCtx
  rw [ctxTree_syncs]
  generalize List.foldl _ _ _ = y
  refine List.all_eq_true.mpr fun e (he : e ∈ y.syncs.map _) => ?_
  obtain ⟨x, -, rfl⟩ := List.mem_map.mp he
  split
  · simpa using Ne.symm hn
  · rename_i hx
    simpa using hx

/-- Settles O26: a context is created at the lowest free number, and destroyed with all that it holds once its transfers have ended. -/
theorem contextsComeAndGo : Obligations.ContextsComeAndGo := by
  intro s t r c
  refine ⟨fun n h hfree => ?create, fun h hfull => ?full, fun h hgo => exec_ctxDestroy h hgo, exec_ctxDestroy_waits,
    fun x n hn => ⟨destroyCtx_regions x n, destroyCtx_syncs x hn⟩⟩
  case create =>
    rw [exec_ctxCreate h, ctxCreate_free c hfree]
    rfl
  case full => rw [exec_ctxCreate h, ctxCreate_full c hfull]

end Sys2Proof.Machine
end

section
/-! PROOFS. Caps and Ice mode: the commands that ask for a change, and the change at S (R318 to R320, R323, R324). -/

namespace Sys2Proof.Machine

/-- A row that leaves the device `e` ends in it. -/
theorem run_of_eq {s : State} {t : Nat} {f : Dev → Dev} {e : Dev} (h : f (s.dueAt t) = e) : s.run t f = .next (s.endsWith t e) := by
  rw [run_eq, h]

/-! ### The commands -/

section
variable {s : State} {t r : Nat} {c : Cmd}

theorem exec_setCap (h : (s.dueAt t).admits r c specSetCap none) :
    exec (.setCap t r) s = .next (s.endsRing t r (((s.dueAt t).taken r c specSetCap none).setCapBody false c)) :=
  run_ringCmd_of_admits (cond := fun _ _ => none) (body := fun c d => d.setCapBody false c) h

theorem exec_setPlatformLimit (h : (s.dueAt t).admits r c specSetPlatformLimit none) :
    exec (.setPlatformLimit t r) s = .next (s.endsRing t r (((s.dueAt t).taken r c specSetPlatformLimit none).setCapBody true c)) :=
  run_ringCmd_of_admits (cond := fun _ _ => none) (body := fun c d => d.setCapBody true c) h

theorem exec_setIceMode (h : (s.dueAt t).admits r c specSetIceMode none) :
    exec (.setIceMode t r) s = .next (s.endsRing t r (((s.dueAt t).taken r c specSetIceMode none).setIceBody c)) :=
  run_ringCmd_of_admits (cond := fun _ _ => none) (body := fun c d => d.setIceBody c) h

end

/-! ### Step 8 of SET_CAP, SET_PLATFORM_LIMIT and SET_ICE_MODE -/

/-- The cap change that a command with its S asks for. -/
def Cmd.capOp (c : Cmd) (platform : Bool) (S : Nat) : CapOp :=
  { cmd := { c with interim := true }, platform, watts := c.fld 0x18 10 0, prio := c.fld 0x18 21 16, ownS := some S }

/-- A cap change in range, with none waiting before it, is answered PENDING with its S and waits. -/
theorem setCapBody_waits {d : Dev} {c : Cmd} {platform : Bool} (hform : (if platform then c.fld 0x18 21 16 != 0 || c.qw 0x20 != 0 else !prioOk (c.fld 0x18 21 16)) = false)
    (hlow : 380 ≤ c.fld 0x18 10 0) (hhigh : c.fld 0x18 10 0 ≤ 1200) (hplat : platform = true ∨ c.fld 0x18 10 0 ≤ d.pwr.platform)
    (hnone : d.pwr.capOps = []) (hm : d.modState ≠ .snowpack) :
    d.setCapBody platform c =
      (d.answerPending c (if platform then d.now else d.effective (c.qw 0x20)) 0).updPwr
        (fun p => { p with capOps := p.capOps ++ [c.capOp platform (if platform then d.now else d.effective (c.qw 0x20))] }) := by
  have hrange : ¬ (c.fld 0x18 10 0 < 380 ∨ 1200 < c.fld 0x18 10 0 ∨ (!platform && decide (d.pwr.platform < c.fld 0x18 10 0)) = true) := by
    rcases hplat with hp | hp
    · simp [hp, hlow, hhigh]
    · simp [hp, hlow, hhigh]
  unfold Dev.setCapBody
  simp only [hform, Bool.false_eq_true, if_false, if_neg hrange, if_neg hm, hnone, List.isEmpty_nil, if_true, CapOp.s, Option.map_some, Nat.max_zero]
  rfl

/-- An Ice-mode command with a point that the part has is answered PENDING with its S and waits. -/
theorem setIceBody_waits {d : Dev} {c : Cmd} (hpoint : c.fld 0x18 12 8 ≤ d.pwr.high) (hform : c.fld 0x18 0 0 = 1 ∨ c.fld 0x18 12 8 = 0) :
    d.setIceBody c = (d.answerPending c (d.effective (c.qw 0x20)) 0).updPwr (fun p => { p with
      iceOps := p.iceOps ++ [{ cmd := { c with interim := true }, enable := c.fld 0x18 0 0 == 1, point := c.fld 0x18 12 8, s := d.effective (c.qw 0x20) }] }) := by
  have hok : ¬ (!(c.fld 0x18 0 0 == 1) && c.fld 0x18 12 8 != 0) = true := by
    rcases hform with hf | hf <;> simp [hf]
  exact (if_neg hok).trans (if_neg (Nat.not_lt.mpr hpoint))

/-! ### A cap change at its S (R320) -/

section
variable {d : Dev} {o : CapOp} {rest : List CapOp} {S : Nat} (hops : d.pwr.capOps = o :: rest) (hS : o.s = some S)
include hops hS

theorem capEffect_due (hnew : o.started = false) (hdue : S ≤ d.now) :
    d.capEffect = (d.updPwr (fun p => { p.setCap o.platform o.watts o.prio with
      capOps := { o with started := true, lowest := d.pwr.mean1 d.now, prevWatts := if o.platform then d.pwr.platform else d.pwr.cap, prevPrio := d.pwr.prio } :: rest })).capSettle := by
  simp only [Dev.capEffect, hops, hS, hnew, hdue, Bool.not_false, Bool.true_and, decide_true, if_true]

theorem capEffect_early (hlt : d.now < S) : d.capEffect = d := by
  simp only [Dev.capEffect, hops, hS, Nat.not_le.mpr hlt, decide_false, Bool.and_false, Bool.false_eq_true, if_false]

theorem capEnd_due (hstarted : o.started = true) (hdue : S + 10000000 ≤ d.now) (hcore : d.powerCore = true) :
    d.capEnd = (d.updPwr (fun p => p.setCap o.platform o.prevWatts o.prevPrio)).endCap o cCapUnreachable := by
  simp only [Dev.capEnd, hops, hS, hstarted, hcore, Option.getD_some, decide_eq_true hdue, Bool.and_true, if_true]

theorem capEnd_early (hlt : d.now < S + 10000000) : d.capEnd = d := by
  simp only [Dev.capEnd, hops, hS, Option.getD_some, decide_eq_false (Nat.not_le.mpr hlt), Bool.and_false, Bool.false_and, Bool.false_eq_true, if_false]

end

/-! ### Ice mode at its S (R323) -/

section
variable {d : Dev} {i : IceOp} (hi : nextIce d.pwr.iceOps = some i)
include hi

theorem iceEffect_enables (hdue : i.s ≤ d.now) (hen : i.enable = true) :
    d.iceEffect = (d.updPwr (fun p => { p with ice := true, icePoint := i.point, memK := 16, linkK := 16, iceOps := startIce i p.iceOps })).iceSettle := by
  simp only [Dev.iceEffect, hi, hdue, hen, Bool.not_true, Bool.false_and, Bool.false_eq_true, if_false, if_true]

theorem iceEffect_disables (hdue : i.s ≤ d.now) (hen : i.enable = false) (hice : d.pwr.ice = true) (hready : d.modState ≠ .ready) (hfrost : d.modState ≠ .frost) :
    d.iceEffect = (d.updPwr (fun p => { p with ice := false, icePoint := 0, common := min p.icePoint p.high, iceOps := startIce i p.iceOps })).iceSettle := by
  have hstay : ∀ f, (!i.enable && ((d.updPwr f).modState == .ready || (d.updPwr f).modState == .frost) && (d.updPwr f).powerCore) = false := by
    intro f
    have hm : (d.updPwr f).modState = d.modState := rfl
    simp [hm, hready, hfrost]
  simp only [Dev.iceEffect, hi, hdue, hstay, Bool.false_eq_true, if_false, if_true]
  simp only [Dev.updPwr, hen, hice, Bool.false_eq_true, if_false, if_true]
  rfl

theorem iceEffect_early (hlt : d.now < i.s) : d.iceEffect = d := by
  simp only [Dev.iceEffect, hi, if_neg (Nat.not_le.mpr hlt)]

end

/-- Settles O32: a change of cap or of Ice mode is answered PENDING, waits, and takes effect at its S. -/
theorem capsAndIceMode : Obligations.CapsAndIceMode := by
  intro s t r c o i rest
  refine ⟨fun h hprio hr hplat hm => ?cap, fun h hprio hq hr hm => ?platform, fun h hpoint hform => ?ice, fun S hops hS => ⟨?effect, ?before, ?unmet, ?settling⟩,
    fun hi => ⟨?enables, ?disables, ?early⟩⟩
  case cap =>
    obtain ⟨hlow, hhigh, hnone⟩ := hr
    rw [exec_setCap h, setCapBody_waits (by simp [hprio]) hlow hhigh (.inr hplat) hnone hm]
    rfl
  case platform =>
    obtain ⟨hlow, hhigh, hnone⟩ := hr
    rw [exec_setPlatformLimit h, setCapBody_waits (by simp [hprio, hq]) hlow hhigh (.inl rfl) hnone hm]
    rfl
  case ice => rw [exec_setIceMode h, setIceBody_waits hpoint hform]
  case effect => exact fun hnew hdue => run_of_eq (f := Dev.capEffect) (capEffect_due hops hS hnew hdue)
  case before => exact fun hlt => run_of_eq (f := Dev.capEffect) (capEffect_early hops hS hlt)
  case unmet => exact fun hstarted hdue hcore => run_of_eq (f := Dev.capEnd) (capEnd_due hops hS hstarted hdue hcore)
  case settling => exact fun hlt => run_of_eq (f := Dev.capEnd) (capEnd_early hops hS hlt)
  case enables => exact fun hdue hen => run_of_eq (f := Dev.iceEffect) (iceEffect_enables hi hdue hen)
  case disables => exact fun hdue hen hice hready hfrost => run_of_eq (f := Dev.iceEffect) (iceEffect_disables hi hdue hen hice hready hfrost)
  case early => exact fun hlt => run_of_eq (f := Dev.iceEffect) (iceEffect_early hi hlt)

end Sys2Proof.Machine
end

section
/-! PROOFS. Measuring and controlling power: the governor's estimate, the control period, the SMU's windows, distrust, overrun, emergencies and temperatures (R311 to R314, R321, R325 to R329, R339). -/

namespace Sys2Proof.Machine

/-! ### The estimate (R311, R313) -/

/-- The peak limiter leaves E. -/
theorem peakStep_e (p : Power) (now n : Nat) : (p.peakStep now n).e = p.e := by
  unfold Power.peakStep
  dsimp only
  split
  · rfl
  · split
    · split <;> rfl
    · rfl

/-- E after an estimate is the wanted value, held within 20 W per µs since the last estimate. -/
theorem estimate_e {p : Power} {q : PSample} {y : List PSample} (h : p.samples = q :: y) (now : Nat) (l : LoadEstimate) :
    (p.estimate now l).e = slopeLimit p.e l.e (max 1 ((now - q.time) / 1000)) := by
  simp only [Power.estimate, peakStep_e, h]

theorem slopeLimit_le (old want n : Nat) : slopeLimit old want n ≤ old + 20000 * n := by
  unfold slopeLimit
  omega

theorem le_slopeLimit (old want n : Nat) : old - 20000 * n ≤ slopeLimit old want n := by
  unfold slopeLimit
  omega

/-! ### The control period (R309, R312, R317) -/

theorem controlPeriod_due {d : Dev} (hcore : d.powerCore = true) (hdue : d.pwr.lastPeriod + 100000 ≤ d.now) :
    d.controlPeriod =
      ((((d.updPwr (fun p => (upFrom 0 4).foldl Power.thermalStep ((({ p with boostHeld := false } : Power).thermalRates).sustain ((upFrom 0 4).any d.clusterBusy) d.now))).updPwr
        (fun p => { p with lastPeriod := d.now })).movePoints).iceSettle) := by
  rw [Dev.controlPeriod, if_pos (by simp [hcore, hdue])]
  rfl

theorem controlPeriod_early {d : Dev} (hran : d.pwr.lastPeriod ≠ 0) (hlt : d.now < d.pwr.lastPeriod + 100000) : d.controlPeriod = d := by
  rw [Dev.controlPeriod, if_neg (by simp [hran, hlt])]

/-- The part's highest sustained point is 12 or 15, below the boost point 16. -/
theorem high_lt_boost (p : Power) : p.high < 16 := by
  unfold Power.high
  split <;> decide

/-- A step between sustained points moves by at most one. -/
theorem stepPoint_near (p : Power) {cur target : Nat} (hcur : cur ≤ p.high) (htarget : target ≤ p.high) :
    p.stepPoint cur target ≤ cur + 1 ∧ cur ≤ p.stepPoint cur target + 1 := by
  have hboost := high_lt_boost p
  unfold Power.stepPoint
  split_ifs <;> omega

/-! ### The SMU's windows (R326, R339) -/

/-- A class-2 record leaves the power core's state. -/
theorem class2_pwr (d : Dev) (code w v : Nat) : (d.class2 code w v).pwr = d.pwr := by
  obtain ⟨q, h⟩ := raiseFor_form d 0 2 code UnitId.pwr.page w v
  rw [Dev.class2, Dev.raise, h]

/-- Following the emergency and the episodes leaves the figures that a window record gives. -/
theorem updPwr_window (d : Dev) (f : Power → Power) :
    (d.updPwr f).pwr.m = (f d.pwr).m ∧ (d.updPwr f).pwr.smuAbsent = (f d.pwr).smuAbsent ∧ (d.updPwr f).pwr.lastValid = (f d.pwr).lastValid
    ∧ (d.updPwr f).pwr.disagree = (f d.pwr).disagree := by
  simp only [Dev.updPwr, Power.trackEmergency]
  split
  · exact ⟨rfl, rfl, rfl, rfl⟩
  · split <;> exact ⟨rfl, rfl, rfl, rfl⟩

theorem exec_smuWindowRecord {s : State} {t : Nat} (err endAt : Nat) (h : (s.dueAt t).smu.powered = true) :
    exec (.smuWindowRecord t ⟨err, endAt⟩) s = .next (s.endsWith t ((s.dueAt t).smuWindow (windowOf ((s.dueAt t).smu.record ^^^ err) endAt))) := by
  show execSmuWindowRecord t ⟨err, endAt⟩ s = _
  rw [execSmuWindowRecord, run_eq, if_pos h]

/-- What a valid record that ends an absence makes of the power core's figures. -/
def Power.recovered (w : SmuWindow) (now : Nat) (p : Power) : Power :=
  { p with m := 100 * (w.power % 65536), smuSeq := some (w.seq % 65536), lastValid := now, feedValid := true, feedOverrange := w.overrange, smuAbsent := false,
           disagree := 0, agree := 0 }

/-- A valid window record, the first since the SMU was absent, gives M and ends the absence. -/
theorem smuWindow_recovers {d : Dev} {w : SmuWindow} (hcrc : w.crcOk = true) (hvalid : w.valid = true) (hseq : d.pwr.smuSeq = none) (habs : d.pwr.smuAbsent = true) :
    (d.smuWindow w).pwr = (d.updPwr (Power.recovered w d.now)).pwr := by
  have hrec : d.pwr.validRecord w = true := by simp [Power.validRecord, hcrc, hvalid, hseq]
  rw [Dev.smuWindow, if_neg (by simp [hcrc]), if_pos hrec]
  simp only [habs, if_true]
  exact class2_pwr _ _ _ _

theorem smuAbsence_due {d : Dev} (habs : d.pwr.smuAbsent = false) (hdue : d.pwr.lastValid + 1000000 ≤ d.now) :
    d.smuAbsence = (d.updPwr (fun p => { p with smuAbsent := true, smuSeq := none, feedValid := false })).class2 0x004 0 d.pwr.lastValid := by
  rw [Dev.smuAbsence, if_pos (by simp [habs, hdue])]

theorem smuAbsence_early {d : Dev} (hlt : d.now < d.pwr.lastValid + 1000000) : d.smuAbsence = d := by
  rw [Dev.smuAbsence, if_neg (by simp [hlt])]

/-- The absence that has begun. -/
theorem smuAbsence_absent (d : Dev) : ((d.updPwr (fun p => { p with smuAbsent := true, smuSeq := none, feedValid := false })).class2 0x004 0 d.pwr.lastValid).pwr.smuAbsent = true := by
  obtain ⟨-, habs, -, -⟩ := updPwr_window d (fun p => { p with smuAbsent := true, smuSeq := none, feedValid := false })
  rw [class2_pwr]
  exact habs

/-! ### Distrust, overrun and the end of an emergency (R321, R325, R329) -/

section
variable {d : Dev} (hcore : d.powerCore = true)
include hcore

theorem distrustEnter_due (hd : d.pwr.distrust = false) (habs : d.pwr.smuAbsent = false) (hcount : 500 ≤ d.pwr.disagree) :
    d.distrustEnter = (d.updPwr (fun p => { p with distrust := true, agree := 0, entries := satAdd 0xFFFF p.entries 1 })).class2 0x002 (watts12 d.pwr.e) (watts12 d.pwr.m) := by
  rw [Dev.distrustEnter, if_pos (by simp [hcore, hd, habs, hcount])]

theorem distrustExit_due (hd : d.pwr.distrust = true) (habs : d.pwr.smuAbsent = false) (hcount : 10000 ≤ d.pwr.agree) :
    d.distrustExit = (d.updPwr (fun p => { p with distrust := false })).class2 0x003 (watts12 d.pwr.e) (watts12 d.pwr.m) := by
  rw [Dev.distrustExit, if_pos (by simp [hcore, hd, habs, hcount])]

theorem capOverrun_due {o : Nat} (hsince : d.pwr.overSince = some o) (hover : d.pwr.overrun = false) (hdue : o + 10000000 ≤ d.now) :
    d.capOverrun = (d.updPwr (fun p => { p with overrun := true })).class2 0x001 (d.pwr.inForce / 1000) (min (d.pwr.mean10 d.now / 1000) 0x7FF) := by
  simp only [Dev.capOverrun, hsince]
  rw [if_pos (by simp [hcore, hover, hdue])]

theorem emergencyClear_due {b c : Nat} (hb : d.pwr.emergencySince = some b) (hc : d.pwr.clearSince = some c) (hdue : c + 1000000000 ≤ d.now) :
    d.emergencyClear = ({ d with pwr := { d.pwr with emergencySince := none, clearSince := none } } : Dev).class2 0x008 0 b := by
  simp only [Dev.emergencyClear, hb, hc]
  rw [if_pos (by simp [hcore, hdue])]

end

/-! ### Temperatures (R327) -/

/-- Readings that trip nothing are kept, and the controls follow them. -/
theorem sensors_untripped {d : Dev} {x : Temperatures} (hcore : ((d.keepTemps x).trackHold).powerCore = true) (hx : tripSource x = none) :
    d.sensors x = (((d.keepTemps x).trackHold).hotControls x).hotClamp x := by
  simp only [Dev.sensors, hx, hcore, if_true]

/-- Settles O33: each measurement and each control acts on its condition and not before. -/
theorem powerIsMeasuredAndControlled : Obligations.PowerIsMeasuredAndControlled := by
  intro s t l err endAt x
  refine ⟨⟨_, rfl, rfl⟩, fun q y hq => ?estimate, fun hcore hdue => run_of_eq (f := Dev.controlPeriod) (controlPeriod_due hcore hdue),
    fun hran hlt => run_of_eq (f := Dev.controlPeriod) (controlPeriod_early hran hlt), fun q cur target hcur htarget => stepPoint_near q hcur htarget,
    fun hpow hcrc hvalid hseq habs => ?window, fun habs hdue => ?absence, fun habs hlt => ?present,
    fun hcore hd habs hcount => run_of_eq (f := Dev.distrustEnter) (distrustEnter_due hcore hd habs hcount),
    fun hcore hd habs hcount => run_of_eq (f := Dev.distrustExit) (distrustExit_due hcore hd habs hcount),
    fun o hcore hsince hover hdue => run_of_eq (f := Dev.capOverrun) (capOverrun_due hcore hsince hover hdue),
    fun b c hcore hb hc hdue => run_of_eq (f := Dev.emergencyClear) (emergencyClear_due hcore hb hc hdue),
    fun hcore hx => run_of_eq (f := (Dev.sensors · x)) (sensors_untripped hcore hx)⟩
  case estimate =>
    rw [estimate_e hq]
    exact ⟨slopeLimit_le _ _ _, le_slopeLimit _ _ _⟩
  case window =>
    obtain ⟨hm, hab, hlast, hdis⟩ := updPwr_window (s.dueAt t) (Power.recovered (windowOf ((s.dueAt t).smu.record ^^^ err) endAt) (s.dueAt t).now)
    refine ⟨(s.dueAt t).smuWindow (windowOf ((s.dueAt t).smu.record ^^^ err) endAt), ?_, ?_⟩
    · exact exec_smuWindowRecord err endAt hpow
    · rw [smuWindow_recovers hcrc hvalid hseq habs]
      exact ⟨hm, hab, hlast, hdis⟩
  case absence =>
    show s.run t (fun d => if d.smuAbsence.pwr.smuAbsent then d.smuAbsence.dropChanges else d.smuAbsence) = _
    refine run_of_eq ?_
    rw [smuAbsence_due habs hdue, if_pos (smuAbsence_absent _)]
  case present =>
    show s.run t (fun d => if d.smuAbsence.pwr.smuAbsent then d.smuAbsence.dropChanges else d.smuAbsence) = _
    refine run_of_eq ?_
    rw [smuAbsence_early hlt, if_neg (by simp [habs])]

end Sys2Proof.Machine
end

section
/-! PROOFS. Metering: the division of an interval's energy, the metrology interval, the frame, the attribution interval and SMU_ACCOUNT (R335, R338, R342 to R346). -/

namespace Sys2Proof.Machine

/-! ### The division of an interval's energy (R343) -/

/-- Whole parts and remainders of the accounts' portions make up the energy times the sum of the weights. -/
theorem portions_sum (q total : Nat) (w : Tab Nat) :
    total * (w.map (fun e => q * e.2 / total)).sum + (w.map (fun e => q * e.2 % total)).sum = q * (w.map (fun e => e.2)).sum := by
  induction w with
  | nil => simp
  | cons e w ih =>
    have hmod := Nat.div_add_mod (q * e.2) total
    simp only [List.map_cons, List.sum_cons, Nat.mul_add]
    omega

/-- Only a weight that is not zero leaves a remainder, and each less than the sum of the weights. -/
theorem remainders_le (q : Nat) {total : Nat} (h : 0 < total) (w : Tab Nat) :
    (w.map (fun e => q * e.2 % total)).sum ≤ total * (w.filter (fun e => e.2 != 0)).length := by
  induction w with
  | nil => simp
  | cons e w ih =>
    have hlt := Nat.mod_lt (q * e.2) h
    by_cases he : e.2 = 0
    · simpa [he] using ih
    · simp only [List.map_cons, List.sum_cons, List.filter_cons, bne_iff_ne, ne_eq, he, not_false_eq_true, if_true, List.length_cons, Nat.mul_succ]
      omega

/-- What the whole parts leave of the energy is no more than the number of weights that are not zero. -/
theorem left_le {q : Nat} {w : Tab Nat} (h : 0 < (w.map (fun e => e.2)).sum) :
    q - (w.map (fun e => q * e.2 / (w.map (fun e => e.2)).sum)).sum ≤ (w.filter (fun e => e.2 != 0)).length := by
  have hsum := portions_sum q (w.map (fun e => e.2)).sum w
  have hrem := remainders_le q h w
  generalize (w.map (fun e => e.2)).sum = total at *
  refine Nat.le_of_mul_le_mul_left ?_ h
  rw [Nat.mul_sub, Nat.mul_comm total q]
  omega

/-- The whole parts are no more than the energy. -/
theorem parts_le {q : Nat} {w : Tab Nat} (h : 0 < (w.map (fun e => e.2)).sum) :
    (w.map (fun e => q * e.2 / (w.map (fun e => e.2)).sum)).sum ≤ q := by
  have hsum := portions_sum q (w.map (fun e => e.2)).sum w
  generalize (w.map (fun e => e.2)).sum = total at *
  refine Nat.le_of_mul_le_mul_left ?_ h
  rw [Nat.mul_comm total q]
  omega

/-- Adding one to each of some keys of a table, no key twice, adds their number to the sum. -/
theorem sum_bumped (l : Tab Nat) (ks : List Nat) (hl : (l.map (fun e => e.1)).Nodup) (hks : ks.Nodup) (hsub : ∀ k ∈ ks, k ∈ l.map (fun e => e.1)) :
    (l.map (fun e => if ks.contains e.1 then e.2 + 1 else e.2)).sum = (l.map (fun e => e.2)).sum + ks.length := by
  have hperm : ((l.map (fun e => e.1)).filter ks.contains).Perm ks := by
    refine (List.perm_ext_iff_of_nodup (hl.filter _) hks).mpr fun k => ?_
    simpa [List.mem_filter] using hsub k
  have hcount : ∀ l : Tab Nat, (l.map (fun e => if ks.contains e.1 then e.2 + 1 else e.2)).sum
      = (l.map (fun e => e.2)).sum + ((l.map (fun e => e.1)).filter ks.contains).length := by
    intro l
    induction l with
    | nil => simp
    | cons e l ih =>
      by_cases he : ks.contains e.1 = true
      · simp only [List.map_cons, List.sum_cons, he, if_true, ih, List.filter_cons, List.length_cons]
        omega
      · simp only [List.map_cons, List.sum_cons, if_neg he, ih, List.filter_cons]
        omega
  rw [hcount l, hperm.length_eq]

/-- The shares of a division add up to its energy. -/
theorem divideEnergy_sum {q : Nat} {w : Tab Nat} (hkeys : (w.map (fun e => e.1)).Nodup) (hpos : 0 < (w.map (fun e => e.2)).sum) :
    ((divideEnergy q w).map (fun e => e.2)).sum = q := by
  have hleft := left_le (q := q) hpos
  have hparts := parts_le (q := q) hpos
  simp only [divideEnergy]
  generalize (w.map (fun e => e.2)).sum = total at *
  have hrem : ((w.filter (fun e => e.2 != 0)).map (fun e => (e.1, q * e.2 % total))).map (fun e => e.1) = (w.filter (fun e => e.2 != 0)).map (fun e => e.1) := by
    rw [List.map_map]
    rfl
  have hshares : (w.map (fun e => (e.1, q * e.2 / total))).map (fun e => e.2) = w.map (fun e => q * e.2 / total) := by
    rw [List.map_map]
    rfl
  have hkeys' : (w.map (fun e => (e.1, q * e.2 / total))).map (fun e => e.1) = w.map (fun e => e.1) := by
    rw [List.map_map]
    rfl
  obtain ⟨hnodup, hmem, hlen⟩ := largestFirst_spec (q - (w.map (fun e => q * e.2 / total)).sum) ((w.filter (fun e => e.2 != 0)).map (fun e => (e.1, q * e.2 % total)))
    (hrem ▸ hkeys.sublist (List.filter_sublist.map _))
  have hsub : ∀ k ∈ largestFirst (q - (w.map (fun e => q * e.2 / total)).sum) ((w.filter (fun e => e.2 != 0)).map (fun e => (e.1, q * e.2 % total))),
      k ∈ (w.map (fun e => (e.1, q * e.2 / total))).map (fun e => e.1) := by
    intro k hk
    rw [hkeys']
    exact (List.filter_sublist.map _).subset (hrem ▸ hmem k hk)
  rw [hshares, List.map_map]
  refine (sum_bumped _ _ (hkeys' ▸ hkeys) hnodup hsub).trans ?_
  rw [hshares, hlen (by rw [List.length_map]; exact hleft)]
  omega

/-! ### The metrology interval and the frame (R335, R338, R342) -/

theorem smuMetrology_counts {d : Dev} {x : SmuSample} (hpow : d.smu.powered = true) (hseal : d.smu.regs.sealCount ≠ 0) (hx : x.outOfLimits = none) :
    d.smuMetrology x = d.updRegs (fun r => { r with accA := r.accA + x.energyA, accB := r.accB + x.energyB }) := by
  simp only [Dev.smuMetrology, hpow, if_neg hseal, hx, if_true]

/-- With no account change under way a frame changes none. -/
theorem frameChanges_none {d : Dev} (h : d.smu.changes = []) : d.frameChanges = d := by
  have hsame : d.updSmu (fun u => { u with changes := [] }) = d := by
    rw [Dev.updSmu, ← h]
  simp only [Dev.frameChanges, h, List.foldl_nil, hsame, ite_self]

/-- With no request waiting none is served. -/
theorem smuServe_none {d : Dev} (h : d.smu.asks = []) : d.smuServe = d := by
  unfold Dev.smuServe
  rw [h]
  cases d.smu.served <;> rfl

/-- A frame with no change and no request under way forms its window record and takes its slot B. -/
theorem smuFrame_quiet {d : Dev} {f : SmuFrameIn} (hpow : d.smu.powered = true) (hch : d.smu.changes = []) (hserved : d.smu.served = none) (hasks : d.smu.asks = []) :
    d.smuFrame f = d.frameWindow f := by
  have hchan : (d.frameWindow f).frameChannels = (d.frameWindow f).smuServe := by
    have hs : (d.frameWindow f).smu.served = none := hserved
    simp only [Dev.frameChannels, hs]
  rw [Dev.smuFrame, if_pos hpow, frameChanges_none (show (d.frameWindow f).smu.changes = [] from hch), hchan,
    smuServe_none (show (d.frameWindow f).smu.asks = [] from hasks)]

/-! ### The attribution interval (R343, R344) -/

/-- The registers at the end of an attribution interval, its energy credited. -/
def SmuRegs.intervalEnd (r r' : SmuRegs) : SmuRegs :=
  { r' with
    attributed := r.energyTotal, total := r.energyTotal, totalA := r.energyA, totalB := r.energyB
    smuTime := if r.sealCount = 0 then 0 else w64 (r.smuTime + 1) }

/-- The SMU after an attribution interval that has left its registers at `r`. -/
def Smu.nextInterval (u : Smu) (r : SmuRegs) : Smu :=
  { u with regs := r, frames := 0, missed := false, weights := [], changes := [], sinceUnattrib := satAdd 0xFFFFFFFF u.sinceUnattrib 1 }

theorem nextInterval_unattrib (u : Smu) (shares : Tab Nat) : (u.nextInterval (u.regs.intervalEnd (u.regs.credit shares))).regs.unattrib = u.regs.unattrib := rfl

section
variable {d : Dev} (hpow : d.smu.powered = true) (hch : d.smu.changes = [])
include hpow hch

/-- An interval whose ten frames and weights are there divides its energy by them. -/
theorem attribution_whole (hgood : d.smu.missed = false) (hframes : 10 ≤ d.smu.frames) (hweights : 0 < (d.smu.weights.map (fun e => e.2)).sum) :
    d.attribution = d.updSmu (fun u => u.nextInterval
      (u.regs.intervalEnd (u.regs.credit (divideEnergy (u.regs.energyTotal - u.regs.attributed) u.weights)))) := by
  rw [Dev.attribution, if_pos hpow]
  simp only [hch, hgood, hframes, hweights, Bool.not_false, decide_true, Bool.and_self, if_true, List.filter_nil, List.foldl_nil]
  rfl

end

/-- A class-9 record leaves the SMU. -/
theorem class9_smu (d : Dev) (code w v : Nat) : (d.class9 code w v).smu = d.smu := by
  unfold Dev.class9
  split
  · rfl
  · obtain ⟨q, h⟩ := raiseFor_form d 0 9 code UnitId.smu.page w v
    rw [Dev.raise, h]

/-- An UNATTRIBUTED record leaves the SMU's registers. -/
theorem unattributed_regs (d : Dev) : d.unattributed.smu.regs = d.smu.regs := by
  unfold Dev.unattributed
  split
  · rfl
  · exact (congrArg Smu.regs (class9_smu d 0x006 _ _) :)

/-- A missed interval gives the whole energy to account 0. -/
theorem attribution_missed_regs {d : Dev} (hpow : d.smu.powered = true) (hch : d.smu.changes = []) (hbad : d.smu.missed = true) :
    d.attribution.smu.regs = d.smu.regs.intervalEnd
      { d.smu.regs.credit [(0, d.smu.regs.energyTotal - d.smu.regs.attributed)] with unattrib := satAdd 0xFFFFFFFF d.smu.regs.unattrib 1 } := by
  rw [Dev.attribution, if_pos hpow]
  simp only [hch, hbad, Bool.not_true, Bool.false_and, Bool.false_eq_true, if_false, List.filter_nil, List.foldl_nil]
  rw [unattributed_regs]
  rfl

/-! ### SMU_ACCOUNT (R346) -/

section
variable {s : State} {t r : Nat} {c : Cmd} (h : (s.dueAt t).admits r c specSmuAccount none)
include h

theorem exec_smuAccountAssign (hop : c.fld 0x18 1 0 = 0) :
    exec (.smuAccountAssign t r) s = .next (s.endsRing t r (((s.dueAt t).taken r c specSmuAccount none).smuAccount c)) :=
  run_ringCmd_of_form (mine := isForm (fun c => c.fld 0x18 1 0) 0 2) (cond := fun _ _ => none) (body := fun c d => d.smuAccount c) h (by simp [isForm, hop])

theorem exec_smuAccountLabel (hop : c.fld 0x18 1 0 = 1) :
    exec (.smuAccountLabel t r) s = .next (s.endsRing t r (((s.dueAt t).taken r c specSmuAccount none).smuAccount c)) :=
  run_ringCmd_of_form (mine := isForm (fun c => c.fld 0x18 1 0) 1 2) (cond := fun _ _ => none) (body := fun c d => d.smuAccount c) h (by simp [isForm, hop])

end

section
variable {d : Dev} {c : Cmd}

theorem smuAccount_assign (hup : d.smuUp = true) (hroom : d.smu.regs.log.length < smuLogCapacity) (hop : c.fld 0x18 1 0 = 0) (hv : c.qw 0x20 = 0) (hctx : c.ctx < 64)
    (hlive : (d.ctx c.ctx).cstate ≠ .free) :
    d.smuAccount c = (d.answerPending c 0 0).updSmu (fun u =>
      { u with changes := u.changes ++ [{ cmd := { c with interim := true }, label := false, ctx := c.ctx, account := c.fld 0x18 15 8, value := 0 }] }) := by
  simp [Dev.smuAccount, hup, Nat.not_le.mpr hroom, hop, hv, Nat.not_le.mpr hctx, hlive]

theorem smuAccount_label (hup : d.smuUp = true) (hroom : d.smu.regs.log.length < smuLogCapacity) (hop : c.fld 0x18 1 0 = 1) (hctx : c.ctx = 0x7F) :
    d.smuAccount c = (d.answerPending c 0 0).updSmu (fun u =>
      { u with changes := u.changes ++ [{ cmd := { c with interim := true }, label := true, ctx := 0x7F, account := c.fld 0x18 15 8, value := c.qw 0x20 }] }) := by
  simp [Dev.smuAccount, hup, Nat.not_le.mpr hroom, hop, hctx]

theorem smuAccount_unavailable (hdown : d.smuUp = false) (hop : c.fld 0x18 1 0 = 1) (hctx : c.ctx = 0x7F) : d.smuAccount c = d.answer c cSmuUnavailable 0 0 := by
  simp [Dev.smuAccount, hdown, hop, hctx]

end

/-- Settles O34: energy is metered, weighted by the frames and divided whole, and an account change waits for the SMU. -/
theorem meteringAndAttribution : Obligations.MeteringAndAttribution := by
  intro s t r c x f
  refine ⟨fun hpow hseal hx => run_of_eq (f := (Dev.smuMetrology · x)) (smuMetrology_counts hpow hseal hx),
    fun hpow hch hserved hasks => run_of_eq (f := (Dev.smuFrame · f)) (smuFrame_quiet hpow hch hserved hasks), fun hpow hch hgood hframes hweights => ?whole,
    fun hpow hch hbad => ?missed, fun q w hkeys hpos => divideEnergy_sum hkeys hpos,
    fun h hup hroom => ⟨fun hop hv hctx hlive => ?assign, fun hop hctx => ?label⟩, fun h hdown hop hctx => ?down⟩
  case whole =>
    refine ⟨_, run_of_eq (f := Dev.attribution) rfl, ?_⟩
    rw [State.endsWith_smu, attribution_whole hpow hch hgood hframes hweights]
    exact ⟨rfl, rfl, rfl, rfl, rfl, nextInterval_unattrib (s.dueAt t).smu _⟩
  case missed =>
    refine ⟨_, run_of_eq (f := Dev.attribution) rfl, ?_⟩
    rw [State.endsWith_smu, attribution_missed_regs hpow hch hbad]
    simp only [SmuRegs.intervalEnd, and_self]
  case assign => rw [exec_smuAccountAssign h hop, smuAccount_assign hup hroom hop hv hctx hlive]
  case label => rw [exec_smuAccountLabel h hop, smuAccount_label hup hroom hop hctx]
  case down => rw [exec_smuAccountLabel h hop, smuAccount_unavailable hdown hop hctx]

end Sys2Proof.Machine
end

section
/-! PROOFS. The Sealed Metering Unit: channel requests, the page's reading, the seal, the store and the supply (R340, R347 to R356). -/

namespace Sys2Proof.Machine

/-! ### The channels (R340, R347, R348) -/

section
variable {d : Dev} {a : SmuAsk}

/-- With no request under way a request that arrives is served at once. -/
theorem smuAsk_served (hpow : d.smu.powered = true) (hserved : d.smu.served = none) (hasks : d.smu.asks = []) :
    d.smuAsk a true = (d.smuReply a).2.updSmu (fun u => { u with served := some { ask := a, reply := (d.smuReply a).1, left := (d.smuReply a).1.portions } }) := by
  have hsame : (d.updSmu (fun u => { u with asks := d.smu.asks ++ [a] })).updSmu (fun u => { u with asks := [] }) = d := by
    rw [← hasks]
    rfl
  rw [Dev.smuAsk, hpow]
  unfold Dev.smuServe
  simp only [Dev.updSmu, hserved, hasks, List.nil_append, Bool.and_self, if_true] at hsame ⊢
  rw [hsame]

/-- A portion whose CRC fails changes nothing. -/
theorem smuAsk_badCrc : d.smuAsk a false = d := by simp [Dev.smuAsk]

/-- Outside a sealing a request of channel 0 finds the SMU open. -/
theorem smuReply_open (h : a.chan = 0 → d.pins.sealN = false) : ¬ (a.chan = 0 ∧ d.sealing = true) := fun hs => by
  simp [Dev.sealing, h hs.1] at hs

end

section
variable {d : Dev} {ch : Nat} {page : Bool} (h : ch = 0 → d.pins.sealN = false)
include h

theorem smuReply_signed (account nonce : Nat) :
    d.smuReply { chan := ch, ask := .signed account nonce, page } = (.reading (d.signedReading account nonce).1, (d.signedReading account nonce).2) := by
  rw [Dev.smuReply, if_neg (smuReply_open h)]

theorem smuReply_pubkey : d.smuReply { chan := ch, ask := .pubkey, page } = (.pubkey (Config.smuPublicKey 0).toNat, d) := by
  rw [Dev.smuReply, if_neg (smuReply_open h)]

theorem smuReply_log (i : Nat) : d.smuReply { chan := ch, ask := .log i, page } = (.entry d.smu.regs.log[i]?, d) := by
  rw [Dev.smuReply, if_neg (smuReply_open h)]

end

section
variable {d : Dev} {ch : Nat} (hpow : d.smu.powered = true) (hserved : d.smu.served = none) (hasks : d.smu.asks = []) (hopen : ch = 0 → d.pins.sealN = false)
include hpow hserved hasks hopen

theorem smuAsk_signed (account nonce : Nat) :
    d.smuAsk { chan := ch, ask := .signed account nonce } true = (d.signedReading account nonce).2.updSmu (fun u =>
      { u with served := some { ask := { chan := ch, ask := .signed account nonce }, reply := .reading (d.signedReading account nonce).1, left := 22 } }) := by
  rw [smuAsk_served hpow hserved hasks, smuReply_signed hopen]
  rfl

theorem smuAsk_pubkey :
    d.smuAsk { chan := ch, ask := .pubkey } true = { d with smu := { d.smu with
      served := some { ask := { chan := ch, ask := .pubkey }, reply := .pubkey (Config.smuPublicKey 0).toNat, left := 8 } } } := by
  rw [smuAsk_served hpow hserved hasks, smuReply_pubkey hopen]
  rfl

theorem smuAsk_log (i : Nat) :
    d.smuAsk { chan := ch, ask := .log i } true = { d with smu := { d.smu with
      served := some { ask := { chan := ch, ask := .log i }, reply := .entry d.smu.regs.log[i]?, left := 6 } } } := by
  rw [smuAsk_served hpow hserved hasks, smuReply_log hopen]
  rfl

end

/-- The frame that carries the last portion delivers the reply, and with no request waiting none is served. -/
theorem smuFrame_delivers {d : Dev} {f : SmuFrameIn} {x : SmuServed} (hpow : d.smu.powered = true) (hch : d.smu.changes = []) (hasks : d.smu.asks = [])
    (hserved : d.smu.served = some x) (hleft : x.left = 1) :
    d.smuFrame f = (d.frameWindow f).updSmu (fun u => { u.deliver x with served := none }) := by
  have hs : (d.frameWindow f).smu.served = some x := hserved
  have hdeliver : ∀ u : Smu, (u.deliver x).asks = u.asks := by
    intro u
    unfold Smu.deliver
    split <;> rfl
  rw [Dev.smuFrame, if_pos hpow, frameChanges_none (show (d.frameWindow f).smu.changes = [] from hch), Dev.frameChannels, hs]
  simp only [hleft, Nat.reduceLeDiff, if_false]
  exact smuServe_none ((hdeliver _).trans hasks)

/-- A reply to no page goes to its channel. -/
theorem deliver_channel {u : Smu} {x : SmuServed} (hpage : x.ask.page = false) : u.deliver x = { u with replies := u.replies.put x.ask.chan x.reply } := by
  simp only [Smu.deliver, hpage]

/-- The last portion of a reply to no page: no request is served any more, and the channel has it. -/
theorem smuFrame_facts {d : Dev} {f : SmuFrameIn} {x : SmuServed} (hpow : d.smu.powered = true) (hch : d.smu.changes = []) (hasks : d.smu.asks = [])
    (hserved : d.smu.served = some x) (hleft : x.left = 1) (hpage : x.ask.page = false) :
    (d.smuFrame f).smu.served = none ∧ (d.smuFrame f).smu.replies = d.smu.replies.put x.ask.chan x.reply := by
  rw [smuFrame_delivers hpow hch hasks hserved hleft]
  simp only [Dev.updSmu, deliver_channel hpage, Dev.frameWindow, and_self]

/-! ### The seal (R351) -/

/-- With no account change under way a stop of the SMU drops none. -/
theorem dropChanges_none {d : Dev} (h : d.smu.changes = []) : d.dropChanges = d := by
  have hsame : d.updSmu (fun u => { u with changes := [] }) = d := by
    rw [Dev.updSmu, ← h]
  rw [Dev.dropChanges]
  simp only [h, List.filter_nil, List.foldl_nil]
  simpa [Dev.updSmu, h] using hsame

theorem dropChannel0_regs (u : Smu) : u.dropChannel0.regs = u.regs := by
  unfold Smu.dropChannel0
  dsimp only
  split <;> split <;> rfl

/-- The seal pulled low ends channel 0's requests, takes the nonce and issues a reading. -/
theorem sealAssert_reads {d : Dev} {nonce : Nat} (hpow : d.smu.powered = true) (hseal : d.pins.sealN = false) (hch : d.smu.changes = []) :
    d.sealAssert nonce = (({ d with pins := { d.pins with sealN := true } } : Dev).updSmu (fun u => { u.dropChannel0 with sealNonce := nonce })).sealReading := by
  rw [Dev.sealAssert, hpow, hseal]
  simp only [Bool.not_false, Bool.and_self, if_true]
  rw [dropChanges_none (d := { d with pins := { d.pins with sealN := true } }) hch]

/-- A reading in a sealing takes the next READING_SEQ and stands on channel 1. -/
theorem sealReading_facts (d : Dev) :
    d.sealReading.pins = d.pins ∧ d.sealReading.smu.sealNonce = d.smu.sealNonce ∧ d.sealReading.smu.regs.readingSeq = w64 (d.smu.regs.readingSeq + 1)
      ∧ d.sealReading.smu.replies.get? 1 ≠ none := by
  simp only [Dev.sealReading, Dev.signedReading, Dev.updRegs, Dev.updSmu, get?_put_self, ne_eq, reduceCtorEq, not_false_eq_true, and_self]

/-- A sealing begun: the seal low, its nonce taken and a reading on channel 1. -/
theorem sealAssert_facts {d : Dev} {nonce : Nat} (hpow : d.smu.powered = true) (hseal : d.pins.sealN = false) (hch : d.smu.changes = []) :
    (d.sealAssert nonce).pins.sealN = true ∧ (d.sealAssert nonce).smu.sealNonce = nonce ∧ (d.sealAssert nonce).smu.regs.readingSeq = w64 (d.smu.regs.readingSeq + 1)
      ∧ (d.sealAssert nonce).smu.replies.get? 1 ≠ none := by
  rw [sealAssert_reads hpow hseal hch]
  obtain ⟨hpins, hnonce, hseq, hreply⟩ := sealReading_facts
    (({ d with pins := { d.pins with sealN := true } } : Dev).updSmu (fun u => { u.dropChannel0 with sealNonce := nonce }))
  refine ⟨by rw [hpins]; rfl, hnonce, hseq.trans ?_, hreply⟩
  exact congrArg (fun r : SmuRegs => w64 (r.readingSeq + 1)) (dropChannel0_regs d.smu)

theorem sealLoad_old {d : Dev} {x : SmuImage} (hpow : d.smu.powered = true) (hseal : d.pins.sealN = true) (hv : x.version ≤ d.smu.regs.version) :
    d.sealLoad x = (d.smuLog .sealFailed 1 0).class9 0x005 1 0 := by
  simp [Dev.sealLoad, hpow, hseal, hv]

/-! ### Supply (R353) -/

/-- At the loss of VSMU33 the SMU stops with its registers stored. -/
theorem vsmuLoss_facts {d : Dev} (hpow : d.smu.powered = true) (hch : d.smu.changes = []) :
    d.vsmuLoss.smu.powered = false ∧ d.vsmuLoss.smu.nv = d.smu.regs ∧ d.vsmuLoss.pins.vsmu33 = false ∧ d.vsmuLoss.smu.weights = [] := by
  rw [Dev.vsmuLoss, if_pos hpow]
  dsimp only
  rw [dropChanges_none (d := { d with pins := { d.pins with vsmu33 := false } }) hch]
  exact ⟨rfl, rfl, rfl, rfl⟩

/-- The SMU as it restores its store. -/
def Smu.restored (u : Smu) : Smu :=
  { u with powered := true, regs := { u.nv with powerOns := (u.nv.powerOns + 1) % 2 ^ 32 }, frames := 0, missed := true, weights := [] }

/-- An entry written below the mark of LOG_NEAR_FULL raises no record. -/
theorem smuLog_room {d : Dev} {event : SmuEvent} {a b : Nat} (h : d.smu.regs.log.length < 3839) :
    d.smuLog event a b = d.updRegs (fun r => { r with log := r.log ++ [{ event, a, b, total := r.energyTotal }] }) := by
  have hfull : ¬ smuLogCapacity ≤ d.smu.regs.log.length := by unfold smuLogCapacity; omega
  have hnear : ¬ d.smu.regs.log.length + 1 = smuLogNear := by unfold smuLogNear; omega
  rw [Dev.smuLog, if_neg hfull]
  dsimp only [Dev.updRegs]
  rw [List.length_append, List.length_singleton, if_neg hnear]

theorem class9_pins (d : Dev) (code w v : Nat) : (d.class9 code w v).pins = d.pins := by
  unfold Dev.class9
  split
  · rfl
  · obtain ⟨q, h⟩ := raiseFor_form d 0 9 code UnitId.smu.page w v
    rw [Dev.raise, h]

/-- At power-on the SMU has its store back, one power-on more and that in its log. -/
theorem vsmuOn_facts {d : Dev} (hpow : d.smu.powered = false) (hroom : d.smu.nv.log.length < 3839) :
    d.vsmuOn.smu.powered = true ∧ d.vsmuOn.smu.regs.powerOns = (d.smu.nv.powerOns + 1) % 2 ^ 32 ∧ d.vsmuOn.smu.regs.accA = d.smu.nv.accA
      ∧ d.vsmuOn.smu.regs.log.length = d.smu.nv.log.length + 1 ∧ d.vsmuOn.pins.vsmu33 = true := by
  have hlog := smuLog_room (d := ({ d with pins := { d.pins with vsmu33 := true } } : Dev).updSmu Smu.restored) (event := .powerOn) (a := (d.smu.nv.powerOns + 1) % 2 ^ 32) (b := 0) hroom
  have heq : ∃ w v, d.vsmuOn = ((({ d with pins := { d.pins with vsmu33 := true } } : Dev).updSmu Smu.restored).smuLog .powerOn ((d.smu.nv.powerOns + 1) % 2 ^ 32) 0).class9 0x001 w v := by
    rw [Dev.vsmuOn, hpow]
    exact ⟨_, _, rfl⟩
  obtain ⟨w, v, heq⟩ := heq
  rw [heq, class9_smu, class9_pins, hlog]
  refine ⟨rfl, rfl, rfl, ?_, rfl⟩
  exact List.length_append

/-! ### The page's reading (R354, R356) -/

section
variable {d : Dev} {v : Nat}

/-- The page as GO leaves it. -/
def Smu.asking (u : Smu) (account : Nat) : Smu := { u with reading := some (account, u.nonce), fetched := none }

theorem signedReading_hostMem (d : Dev) (account nonce : Nat) : (d.signedReading account nonce).2.hostMem = d.hostMem := by
  simp only [Dev.signedReading, Dev.updRegs]

/-- GO with an address and no reading in progress begins the reading of the account and nonce set. -/
theorem smuGo_starts (hgo : bit v 8 = true) (hreading : d.smu.reading = none) (haddr : d.smu.readAddr ≠ 0) (hup : d.smuUp = true) :
    d.smuGo v = ((d.updSmu (fun u => u.asking (bits v 7 0))).smuAsk
      { chan := 0, ask := .signed (bits v 7 0) d.smu.nonce, page := true } true, cOk) := by
  have hup' : (d.updSmu (fun u => u.asking (bits v 7 0))).smuUp = true := hup
  rw [Dev.smuGo]
  simp only [hgo, hreading, haddr, Bool.not_true, Bool.false_eq_true, if_false, Option.isSome_none]
  exact congrArg (fun d => (d, cOk)) (if_pos hup')

/-- The reading that GO begins is a request of channel 0 being served. -/
theorem smuGo_facts (hgo : bit v 8 = true) (hreading : d.smu.reading = none) (haddr : d.smu.readAddr ≠ 0) (hup : d.smuUp = true)
    (hserved : d.smu.served = none) (hasks : d.smu.asks = []) :
    (d.smuGo v).1.smu.reading = some (bits v 7 0, d.smu.nonce)
      ∧ (d.smuGo v).1.smu.served.map (fun x => x.ask) = some { chan := 0, ask := .signed (bits v 7 0) d.smu.nonce, page := true }
      ∧ (d.smuGo v).1.hostMem = d.hostMem := by
  obtain ⟨⟨hpow, -⟩, hseal⟩ : (d.smu.powered = true ∧ d.pwr.smuAbsent = false) ∧ d.sealing = false := by
    simpa [Dev.smuUp] using hup
  rw [smuGo_starts hgo hreading haddr hup, smuAsk_served (d := d.updSmu (fun u => u.asking (bits v 7 0))) hpow hserved hasks,
    smuReply_signed (d := d.updSmu (fun u => u.asking (bits v 7 0))) (fun _ => hseal)]
  exact ⟨rfl, rfl, signedReading_hostMem (d.updSmu (fun u => u.asking (bits v 7 0))) (bits v 7 0) d.smu.nonce⟩

end

/-- SMU_READ_REQ_GO where no other write waits at the SMU's page. -/
theorem readReq_facts {d : Dev} {v : Nat} (hm : d.modState ≠ .reset) (hs : d.notServing .smu = false) (hh : d.serverHalted .smu = false) (hw : d.emuWaiting .smu = [])
    (hv : v < 2 ^ 32) (hgo : bit v 8 = true) (hreading : d.smu.reading = none) (haddr : d.smu.readAddr ≠ 0) (hup : d.smuUp = true)
    (hserved : d.smu.served = none) (hasks : d.smu.asks = []) :
    (d.emuWriteNow 0 .smu 0x088 v).smu.reading = some (bits v 7 0, d.smu.nonce)
      ∧ (d.emuWriteNow 0 .smu 0x088 v).smu.served.map (fun x => x.ask) = some { chan := 0, ask := .signed (bits v 7 0) d.smu.nonce, page := true }
      ∧ (d.emuWriteNow 0 .smu 0x088 v).hostMem = d.hostMem := by
  rw [emuWriteNow_eq 0x088 v hm hs hh rfl hw, Nat.mod_eq_of_lt hv]
  exact smuGo_facts (d := { d with emu := d.emu.put UnitId.smu.page { d.emuPage .smu with writes := [] }, emuSeq := d.emuSeq + 1 }) hgo hreading haddr hup hserved hasks

/-- A reading that has come is written to host memory while host writes go on. -/
theorem readingWritten_writes {d : Dev} {bs : List Byte} (hr : d.smu.reading.isSome = true) (hf : d.smu.fetched = some bs) (hup : d.smuUp = true) (hhost : d.hostStopped = false) :
    d.readingWritten = (d.writeHost d.smu.readAddr bs).updSmu (fun u => { u with reading := none, fetched := none, readCode := cOk }) := by
  obtain ⟨x, hx⟩ := Option.isSome_iff_exists.mp hr
  simp [Dev.readingWritten, hx, hf, hup, hhost]

theorem readingWritten_unavailable {d : Dev} (hr : d.smu.reading.isSome = true) (hup : d.smuUp = false) :
    d.readingWritten = d.updSmu (fun u => { u with reading := none, fetched := none, readCode := cSmuUnavailable }) := by
  obtain ⟨x, hx⟩ := Option.isSome_iff_exists.mp hr
  simp [Dev.readingWritten, hx, hup]

/-- Settles O35: the channels' requests, the page's reading, the seal, the store and the supply. -/
theorem smuChannelSealAndSupply : Obligations.SmuChannelSealAndSupply := by
  intro s t v image
  refine ⟨fun hpow => ⟨fun ch account nonce hserved hasks hch hopen hacc hnonce => ?signed, fun ch hserved hasks hch hopen => ?pubkey, fun ch i hserved hasks hch hopen => ?log,
      fun ch account nonce i => ⟨?badSigned, ?badPubkey, ?badLog⟩, fun f x hch hasks hserved hleft hpage => ?frame, ?store, fun nonce hnonce hseal hch => ?sealing, fun hseal hv => ?image, fun hch => ?loss⟩,
    fun hpow hroom => ?on, fun hpow => ?onAlready, rfl, fun hm hs hh hw hv hgo hreading haddr hup hserved hasks => ?go, fun bs hr hf hup hhost => ?written, fun hr hup => ?unavailable⟩
  case signed =>
    refine run_of_eq (f := fun d => if account < 256 ∧ ch < 2 then d.smuAsk { chan := ch, ask := .signed account (nonce % 2 ^ 128) } true else d) ?_
    rw [if_pos ⟨hacc, hch⟩, Nat.mod_eq_of_lt hnonce, smuAsk_signed hpow hserved hasks hopen]
  case pubkey =>
    refine run_of_eq (f := fun d => if ch < 2 then d.smuAsk { chan := ch, ask := .pubkey } true else d) ?_
    rw [if_pos hch, smuAsk_pubkey hpow hserved hasks hopen]
  case log =>
    refine run_of_eq (f := fun d => if ch < 2 then d.smuAsk { chan := ch, ask := .log i } true else d) ?_
    rw [if_pos hch, smuAsk_log hpow hserved hasks hopen]
  case badSigned =>
    refine run_of_eq (f := fun d => if account < 256 ∧ ch < 2 then d.smuAsk { chan := ch, ask := .signed account (nonce % 2 ^ 128) } false else d) ?_
    rw [smuAsk_badCrc, ite_self]
  case badPubkey =>
    refine run_of_eq (f := fun d => if ch < 2 then d.smuAsk { chan := ch, ask := .pubkey } false else d) ?_
    rw [smuAsk_badCrc, ite_self]
  case badLog =>
    refine run_of_eq (f := fun d => if ch < 2 then d.smuAsk { chan := ch, ask := .log i } false else d) ?_
    rw [smuAsk_badCrc, ite_self]
  case frame =>
    refine ⟨_, run_of_eq (f := (Dev.smuFrame · f)) rfl, ?_⟩
    rw [State.endsWith_smu]
    exact smuFrame_facts hpow hch hasks hserved hleft hpage
  case store => exact run_of_eq (f := fun d => if d.smu.powered then d.updSmu (fun u => { u with nv := u.regs }) else d) (if_pos hpow)
  case sealing =>
    refine ⟨_, run_of_eq (f := (Dev.sealAssert · (nonce % 2 ^ 128))) rfl, ?_⟩
    rw [State.endsWith_smu, State.endsWith_pins, ← Nat.mod_eq_of_lt hnonce, Nat.mod_mod]
    exact sealAssert_facts hpow hseal hch
  case image => exact run_of_eq (f := (Dev.sealLoad · image)) (sealLoad_old hpow hseal hv)
  case loss =>
    refine ⟨_, run_of_eq (f := Dev.vsmuLoss) rfl, ?_⟩
    rw [State.endsWith_smu, State.endsWith_pins]
    exact vsmuLoss_facts hpow hch
  case on =>
    refine ⟨_, run_of_eq (f := Dev.vsmuOn) rfl, ?_⟩
    rw [State.endsWith_smu, State.endsWith_pins]
    exact vsmuOn_facts hpow hroom
  case onAlready => exact run_of_eq (f := Dev.vsmuOn) (if_pos hpow)
  case go =>
    refine ⟨_, run_of_eq (f := (Dev.emuWriteNow · 0 .smu 0x088 v)) rfl, ?_⟩
    rw [State.endsWith_smu, State.endsWith_hostMem]
    exact readReq_facts hm hs hh hw hv hgo hreading haddr hup hserved hasks
  case written => exact run_of_eq (f := Dev.readingWritten) (readingWritten_writes hr hf hup hhost)
  case unavailable => exact run_of_eq (f := Dev.readingWritten) (readingWritten_unavailable hr hup)

end Sys2Proof.Machine
end

section
/-! PROOFS. Firmware: staging, activation, restart, reversion and abandonment (R359, R361, R362, R364, R377). -/

namespace Sys2Proof.Machine

/-! ### The two commands -/

section
variable {d : Dev} {c : Cmd}

theorem fwStage_pending (hp : fwProc c ≠ 7) (hlow : 4096 ≤ c.dw 0x1C) (hhigh : c.dw 0x1C ≤ 4194304) (hpage : c.qw 0x20 % 4096 = 0) :
    d.fwStage c = (d.answerPending c 0 0).updProc (fwProc c) (fun q =>
      { q with staged := none, stagedRevokes := 0, op := some { cmd := { c with interim := true }, phase := .staging, s := 0, since := d.now } }) := by
  simp [Dev.fwStage, hp, Nat.not_lt.mpr hlow, Nat.not_lt.mpr hhigh, hpage]

theorem fwActivate_pending (hp : fwProc c ≠ 7) (hbytes : c.dw 0x1C = 0) (haddr : c.qw 0x20 = 0) :
    d.fwActivate c = (d.answerPending c (d.effective (c.qw 0x28)) 0).updProc (fwProc c) (fun q =>
      { q with op := some { cmd := { c with interim := true }, phase := .waiting, s := d.effective (c.qw 0x28), since := d.now } }) := by
  simp [Dev.fwActivate, hp, hbytes, haddr]

end

/-! ### The steps of an operation in progress -/

section
variable {d : Dev} {p : Nat} {o : FwOp} (ho : (d.proc p).op = some o)
include ho

/-- The check of a staged image ends its command, with the image in the other slot where it passes. -/
theorem fwStageDone_ends {x : FwImage} {code : Nat} (hphase : o.phase = .staging) (hsec : (d.proc 0).restarting = false)
    (hcode : code = d.stageCode p (memReadN d.hostMem (o.cmd.qw 0x20) (o.cmd.dw 0x1C)) x) :
    d.fwStageDone p x = (d.updProc p (fun q =>
      if code = cOk then { q with op := none, other := some { version := x.version, key := x.key }, staged := some x.version, stagedRevokes := revokedBy x }
      else { q with op := none, staged := none, stagedRevokes := 0 })).finishCmd o.cmd code (if code = cOk then x.version else 0) 0 := by
  subst hcode
  simp [Dev.fwStageDone, ho, hphase, hsec]

section
variable (hphase : o.phase = .waiting)
include hphase

/-- At S, with no other processor restarting, the processor restarts. -/
theorem activationStart_restarts (hdue : o.s ≤ d.now) (hfree : d.activationBlocked p o.s = false) (hem : d.pwr.emergency = false) :
    d.activationStart p = (d.updProc p (fun q => { q with op := some { o with phase := .restarting, since := d.now } })).beginRestart p := by
  simp [Dev.activationStart, ho, hphase, hdue, hfree, hem]

theorem activationStart_defers (hdue : o.s ≤ d.now) (hfree : d.activationBlocked p o.s = false) (hem : d.pwr.emergency = true) :
    d.activationStart p = (d.updProc p (fun q => { q with op := some { o with phase := .deferred, since := d.now } })).class8 0x002 p o.cmd d.deviceTime := by
  simp [Dev.activationStart, ho, hphase, hdue, hfree, hem]

theorem activationStart_early (hearly : d.now < o.s) : d.activationStart p = d := by
  simp [Dev.activationStart, ho, hphase, Nat.not_le.mpr hearly]

end

/-- A self-check passed in time runs the image, advances the floor and revokes the keys it names. -/
theorem activationPass_runs (hphase : o.phase = .restarting) (hin : d.now ≤ o.since + restartTime p)
    (hboot : d.bootable p ((d.proc p).other.getD (d.proc p).image) = true) :
    ∃ z : Dev, d.activationPass p = (z.class8 0x001 p o.cmd ((d.proc p).other.getD (d.proc p).image).version).finishCmd o.cmd cOk ((d.proc p).other.getD (d.proc p).image).version 0
      ∧ (z.proc p).image = (d.proc p).other.getD (d.proc p).image ∧ (z.proc p).other = some (d.proc p).image ∧ (z.proc p).staged = none ∧ (z.proc p).op = none
      ∧ z.floor p = ((d.proc p).other.getD (d.proc p).image).version ∧ z.sec.rootRevoked = d.sec.rootRevoked ||| (d.proc p).stagedRevokes := by
  obtain ⟨u, cc, l, q, w, hend⟩ := endRestart_form d p
  unfold Dev.activationPass
  simp only [ho, hphase, beq_self_eq_true, hin, decide_true, hboot, Bool.and_self, if_true, hend]
  refine ⟨_, rfl, ?_⟩
  simp [Dev.updProc, Dev.proc, Dev.floor]

/-- A self-check not passed in time leaves the processor its image and nothing staged. -/
theorem activationTimeout_reverts (hphase : o.phase = .restarting) (hlate : o.since + restartTime p < d.now) :
    ∃ y : Dev, d.activationTimeout p = (y.class8 0x004 p o.cmd ((d.proc p).staged.getD 0 + 2 ^ 32 * (d.proc p).image.version)).finishCmd o.cmd cBadFormat 0 0
      ∧ (y.proc p).image = (d.proc p).image ∧ (y.proc p).staged = none ∧ (y.proc p).op = none ∧ (y.proc p).reverts = satAdd 0xFFFF (d.proc p).reverts 1 := by
  obtain ⟨u, cc, l, q, w, hend⟩ := endRestart_form d p
  unfold Dev.activationTimeout
  simp only [ho, hphase, beq_self_eq_true, hlate, decide_true, Bool.and_self, if_true, hend]
  refine ⟨_, rfl, ?_⟩
  simp [Dev.updProc, Dev.proc]

theorem activationAbandon_ends (hphase : o.phase = .deferred) (hlate : o.since + 60000000000 ≤ d.now) :
    d.activationAbandon p = ((d.updProc p (fun q => { q with op := none })).class8 0x003 p o.cmd o.since).finishCmd o.cmd cDeferredEmergency 0 0 := by
  simp [Dev.activationAbandon, ho, hphase, hlate]

end

theorem exec_fwStage {s : State} {t r : Nat} {c : Cmd} (h : (s.dueAt t).admits r c specFwStage (if (s.dueAt t).fwIdle c then none else some cIllegal)) :
    exec (.fwStage t r) s = .next (s.endsRing t r (((s.dueAt t).taken r c specFwStage (if (s.dueAt t).fwIdle c then none else some cIllegal)).fwStage c)) :=
  run_ringCmd_of_admits (cond := fun d c => if d.fwIdle c then none else some cIllegal) (body := fun c d => d.fwStage c) h

theorem exec_fwActivate {s : State} {t r : Nat} {c : Cmd}
    (h : (s.dueAt t).admits r c specFwActivate (if fwProc c == 7 || ((s.dueAt t).fwIdle c && ((s.dueAt t).proc (fwProc c)).staged.isSome) then none else some cIllegal)) :
    exec (.fwActivate t r) s = .next (s.endsRing t r (((s.dueAt t).taken r c specFwActivate
      (if fwProc c == 7 || ((s.dueAt t).fwIdle c && ((s.dueAt t).proc (fwProc c)).staged.isSome) then none else some cIllegal)).fwActivate c)) :=
  run_ringCmd_of_admits (cond := fun d c => if fwProc c == 7 || (d.fwIdle c && (d.proc (fwProc c)).staged.isSome) then none else some cIllegal)
    (body := fun c d => d.fwActivate c) h

/-- Settles O36: firmware is staged and activated step by step, each with its record. -/
theorem firmwareStagedAndActivated : Obligations.FirmwareStagedAndActivated := by
  intro s t r c p o x
  refine ⟨fun h hp hlow hhigh hpage => ?stage, fun h hp hbytes haddr => ?activate, fun ho => ⟨fun code hphase hsec hcode => ?staged, fun hphase hdue hfree hem => ?start,
    fun hphase hdue hfree hem => ?defer, fun hphase hearly => ?early, fun hphase hin hboot => ?pass, fun hphase hlate => ?timeout, fun hphase hlate => ?abandon⟩⟩
  case stage => rw [exec_fwStage h, fwStage_pending hp hlow hhigh hpage]
  case activate => rw [exec_fwActivate h, fwActivate_pending hp hbytes haddr]
  case staged => exact run_of_eq (f := (Dev.fwStageDone · p x)) (fwStageDone_ends ho hphase hsec hcode)
  case start => exact run_of_eq (f := (Dev.activationStart · p)) (activationStart_restarts ho hphase hdue hfree hem)
  case defer => exact run_of_eq (f := (Dev.activationStart · p)) (activationStart_defers ho hphase hdue hfree hem)
  case early => exact run_of_eq (f := (Dev.activationStart · p)) (activationStart_early ho hphase hearly)
  case pass =>
    obtain ⟨z, hz, hfacts⟩ := activationPass_runs ho hphase hin hboot
    exact ⟨z, run_of_eq (f := (Dev.activationPass · p)) hz, hfacts⟩
  case timeout =>
    obtain ⟨y, hy, hfacts⟩ := activationTimeout_reverts ho hphase hlate
    exact ⟨y, run_of_eq (f := (Dev.activationTimeout · p)) hy, hfacts⟩
  case abandon => exact run_of_eq (f := (Dev.activationAbandon · p)) (activationAbandon_ends ho hphase hlate)

end Sys2Proof.Machine
end

section
/-! PROOFS. Key slots and the owner password: KEY_MANAGE and its commit (R385, R386). -/

namespace Sys2Proof.Machine

/-! ### The command -/

section
variable {s : State} {t r : Nat} {c : Cmd} (h : (s.dueAt t).admits r c specKeyManage none)
include h

/-- A row of KEY_MANAGE whose OP the command names runs its step 8. -/
theorem run_keyManage {op : Nat} (hop : kmOp c = op) :
    s.run t (fun d => d.ringCmd r (fun _ => specKeyManage) (isForm kmOp op 5) (fun _ => none) (fun c d => d.keyManage c))
      = .next (s.endsRing t r (((s.dueAt t).taken r c specKeyManage none).keyManage c)) :=
  run_ringCmd_of_form (mine := isForm kmOp op 5) (cond := fun _ _ => none) (body := fun c d => d.keyManage c) h (by simp [isForm, hop])

theorem exec_keyManageInstall (hop : kmOp c = 0) : exec (.keyManageInstall t r) s = .next (s.endsRing t r (((s.dueAt t).taken r c specKeyManage none).keyManage c)) :=
  run_keyManage h hop

theorem exec_keyManageReplace (hop : kmOp c = 1) : exec (.keyManageReplace t r) s = .next (s.endsRing t r (((s.dueAt t).taken r c specKeyManage none).keyManage c)) :=
  run_keyManage h hop

theorem exec_keyManageRevoke (hop : kmOp c = 2) : exec (.keyManageRevoke t r) s = .next (s.endsRing t r (((s.dueAt t).taken r c specKeyManage none).keyManage c)) :=
  run_keyManage h hop

theorem exec_keyManageSetPassword (hop : kmOp c = 3) : exec (.keyManageSetPassword t r) s = .next (s.endsRing t r (((s.dueAt t).taken r c specKeyManage none).keyManage c)) :=
  run_keyManage h hop

theorem exec_keyManageClearPassword (hop : kmOp c = 4) : exec (.keyManageClearPassword t r) s = .next (s.endsRing t r (((s.dueAt t).taken r c specKeyManage none).keyManage c)) :=
  run_keyManage h hop

end

section
variable {d : Dev} {c : Cmd} {b : List Byte}

theorem keyManage_waits (hb : d.kmBlock c = some b) (hlegal : d.kmIllegal c = false) :
    d.keyManage c = (d.answerPending c 0 0).updSec (fun s =>
      { s with keyChanges := s.keyChanges ++ [{ cmd := { c with interim := true }, op := kmOp c, slot := kmSlot c, admin := kmAdmin c, block := leNat b }] }) := by
  simp [Dev.keyManage, hb, hlegal]

theorem keyManage_badFormat (hb : d.kmBlock c = none) : d.keyManage c = d.answer c cBadFormat 0 0 := by
  simp [Dev.keyManage, hb]

theorem keyManage_illegal (hb : d.kmBlock c = some b) (hillegal : d.kmIllegal c = true) : d.keyManage c = d.answer c cIllegal 0 0 := by
  simp [Dev.keyManage, hb, hillegal]

end

/-! ### The commit -/

/-- With the security core at work the first change is written and its command completes. -/
theorem keyCommit_first {d : Dev} {x : KeyChange} {rest : List KeyChange} (hx : d.sec.keyChanges = x :: rest) (hsec : (d.proc 0).restarting = false) :
    d.keyCommit = ((d.updSec (fun s => { s with keyChanges := rest })).applyKeyChange x).finishCmd x.cmd cOk 0 0 := by
  simp [Dev.keyCommit, hx, hsec]

section
variable {d : Dev} {x : KeyChange} {rest : List KeyChange} (hx : d.sec.keyChanges = x :: rest) (hsec : (d.proc 0).restarting = false)
include hx hsec

theorem keyCommit_key (hop : x.op ≤ 1) :
    d.keyCommit = ({ d with sec := { d.sec with keyChanges := rest, slots := d.sec.slots.put x.slot { sstate := .inUse, admin := x.admin, key := x.block, last := 0, reserve := 0 } } } : Dev).finishCmd x.cmd cOk 0 0 := by
  rw [keyCommit_first hx hsec, Dev.applyKeyChange, if_neg (by omega), if_neg (by omega), slotAfter, if_neg (by omega)]
  rfl

theorem keyCommit_revoke (hop : x.op = 2) :
    d.keyCommit = ({ d with sec := { d.sec with keyChanges := rest, slots := d.sec.slots.put x.slot {} } } : Dev).finishCmd x.cmd cOk 0 0 := by
  rw [keyCommit_first hx hsec, Dev.applyKeyChange, if_neg (by omega), if_neg (by omega), slotAfter, if_pos hop]
  rfl

theorem keyCommit_password (hop : x.op = 3) :
    d.keyCommit = ({ d with sec := { d.sec with keyChanges := rest, verifier := some (d.verifierOf (leBytes (Nat.log2 x.block / 8 + 1) x.block)) } } : Dev).finishCmd x.cmd cOk 0 0 := by
  rw [keyCommit_first hx hsec, Dev.applyKeyChange, if_pos hop]
  rfl

theorem keyCommit_clear (hop : x.op = 4) :
    d.keyCommit = ({ d with sec := { d.sec with keyChanges := rest, verifier := none } } : Dev).finishCmd x.cmd cOk 0 0 := by
  rw [keyCommit_first hx hsec, Dev.applyKeyChange, if_neg (by omega), if_pos hop]
  rfl

end

/-- Settles O40: each KEY_MANAGE operation waits for the commit that writes the slot or the verifier. -/
theorem keySlotsAndThePassword : Obligations.KeySlotsAndThePassword := by
  intro s t r c b x rest
  refine ⟨fun h hb hlegal => ⟨fun hop => ?install, fun hop => ?replace, fun hop => ?revoke, fun hop => ?setPassword, fun hop => ?clearPassword⟩,
    fun h hop hb => ?badFormat, fun h hop hb hillegal => ?illegal,
    fun hx hsec => ⟨fun hop => ?commitKey, fun hop => ?commitRevoke, fun hop => ⟨_, ?commitPassword, rfl⟩, fun hop => ?commitClear⟩, fun hnone => ?nothing⟩
  case install => rw [exec_keyManageInstall h hop, keyManage_waits hb hlegal]
  case replace => rw [exec_keyManageReplace h hop, keyManage_waits hb hlegal]
  case revoke => rw [exec_keyManageRevoke h hop, keyManage_waits hb hlegal]
  case setPassword => rw [exec_keyManageSetPassword h hop, keyManage_waits hb hlegal]
  case clearPassword => rw [exec_keyManageClearPassword h hop, keyManage_waits hb hlegal]
  case badFormat => rw [exec_keyManageRevoke h hop, keyManage_badFormat hb]
  case illegal => rw [exec_keyManageRevoke h hop, keyManage_illegal hb hillegal]
  case commitKey => exact run_of_eq (f := Dev.keyCommit) (keyCommit_key hx hsec hop)
  case commitRevoke => exact run_of_eq (f := Dev.keyCommit) (keyCommit_revoke hx hsec hop)
  case commitPassword => exact run_of_eq (f := Dev.keyCommit) (keyCommit_password hx hsec hop)
  case commitClear => exact run_of_eq (f := Dev.keyCommit) (keyCommit_clear hx hsec hop)
  case nothing => exact run_of_eq (f := Dev.keyCommit) (by rw [Dev.keyCommit, hnone])

end Sys2Proof.Machine
end

section
/-! PROOFS. Life states, debug unlocks and JTAG (R384, R387 to R395). -/

namespace Sys2Proof.Machine

/-! ### LIFE_STATE (R387, R388) -/

theorem lifeStateBody_pending {d : Dev} {c : Cmd} (hlater : d.sec.life < c.fld 0x18 1 0) (hfield : c.fld 0x18 1 0 ≠ 2) :
    d.lifeStateBody c = (d.answerPending c 0 0).updSec (fun s => { s with lifeChanges := s.lifeChanges ++ [({ c with interim := true }, c.fld 0x18 1 0)] }) := by
  have hzero : c.fld 0x18 1 0 ≠ 0 := by omega
  simp [Dev.lifeStateBody, hzero, Nat.not_le.mpr hlater, hfield]

theorem lifeCommit_first {d : Dev} {c : Cmd} {target : Nat} {rest : List (Cmd × Nat)} (hx : d.sec.lifeChanges = (c, target) :: rest) (hsec : (d.proc 0).restarting = false) :
    d.lifeCommit = (({ d with sec := { d.sec with lifeChanges := rest } } : Dev).enterLife target).finishCmd c cOk 0 0 := by
  simp only [Dev.lifeCommit, hx, hsec, Bool.false_eq_true, if_false]
  rfl

/-! ### DEBUG_UNLOCK (R392 to R395) -/

section
variable {s : State} {t r : Nat} {c : Cmd} (h : (s.dueAt t).admits r c specDebugUnlock none)
include h

theorem exec_debugUnlockOwner (hop : duOp c = 0) : exec (.debugUnlockOwner t r) s = .next (s.endsRing t r (((s.dueAt t).taken r c specDebugUnlock none).unlockOwner c)) :=
  run_ringCmd_of_form (mine := isForm duOp 0 4) (cond := fun _ _ => none) (body := fun c d => d.unlockOwner c) h (by simp [isForm, hop])

theorem exec_debugUnlockChallenge (hop : duOp c = 1) : exec (.debugUnlockChallenge t r) s = .next (s.endsRing t r (((s.dueAt t).taken r c specDebugUnlock none).unlockChallenge c)) :=
  run_ringCmd_of_form (mine := isForm duOp 1 4) (cond := fun _ _ => none) (body := fun c d => d.unlockChallenge c) h (by simp [isForm, hop])

theorem exec_debugUnlockResponse (hop : duOp c = 2) : exec (.debugUnlockResponse t r) s = .next (s.endsRing t r (((s.dueAt t).taken r c specDebugUnlock none).unlockResponse c)) :=
  run_ringCmd_of_form (mine := isForm duOp 2 4) (cond := fun _ _ => none) (body := fun c d => d.unlockResponse c) h (by simp [isForm, hop])

theorem exec_debugUnlockLock (hop : duOp c = 3) : exec (.debugUnlockLock t r) s = .next (s.endsRing t r (((s.dueAt t).taken r c specDebugUnlock none).unlockLock c)) :=
  run_ringCmd_of_form (mine := isForm duOp 3 4) (cond := fun _ _ => none) (body := fun c d => d.unlockLock c) h (by simp [isForm, hop])

end

theorem ite_not_bool {α : Type} (v : Bool) (a b : α) : (if (!v) = true then a else b) = if v = true then b else a := by
  cases v <;> rfl

section
variable {d : Dev} {c : Cmd}

theorem unlockOwner_pending {pw : List Byte} (hlow : 1 ≤ duMinutes c) (hhigh : duMinutes c ≤ 1440) (haddr : duAddr c = 0) (hpw : (d.unwrap c).bind passwordOf = some pw)
    (hlife : d.sec.life = 2) (hver : d.sec.verifier.isSome = true) (hvendor : d.sec.unlock ≠ .vendor) :
    d.unlockOwner c = (d.answerPending c 0 0).updSec (fun s => { s with ownerUnlocks := s.ownerUnlocks ++ [({ c with interim := true }, pw, duMinutes c)] }) := by
  have hfields : ¬ (duMinutes c = 0 ∨ 1440 < duMinutes c ∨ duAddr c ≠ 0) := by omega
  have hlegal : ¬ (d.sec.life ≠ 2 ∨ d.sec.verifier.isNone ∨ d.sec.unlock = .vendor) := by
    simp [hlife, hvendor, Option.isSome_iff_ne_none.mp hver]
  rw [Dev.unlockOwner, if_neg hfields, hpw]
  exact if_neg hlegal

/-- The first password supplied opens OWNER where its verifier is the stored one. -/
theorem ownerVerified_first {pw : List Byte} {minutes : Nat} {rest : List (Cmd × List Byte × Nat)} (hx : d.sec.ownerUnlocks = (c, pw, minutes) :: rest) (hsec : (d.proc 0).restarting = false) :
    d.ownerVerified = if d.sec.verifier = some (d.verifierOf pw) then
        ((({ d with sec := { d.sec with ownerUnlocks := rest } } : Dev).openUnlock .owner minutes).2.authPassed).finishCmd c cOk (d.deviceTime + minutes * 60000000000) 0
      else (({ d with sec := { d.sec with ownerUnlocks := rest } } : Dev).authFailure c cAuthFail).finishCmd c cAuthFail 0 0 := by
  simp only [Dev.ownerVerified, hx, hsec, Bool.false_eq_true, if_false]
  rfl

theorem unlockChallenge_requests (hmin : duMinutes c = 0) (hwrap : c.wrapped = 0) (haddr : duAddr c = 0) (hready : d.ent.service = .ready) :
    d.unlockChallenge c = d.entRequest { kind := .challenge, cmd := c, len := 32, wait := true, dest := 0 } := by
  simp [Dev.unlockChallenge, hmin, hwrap, haddr, Entropy.serviceCode, hready]

section
variable (hmin : duMinutes c = 0) (hwrap : c.wrapped = 0) (haddr : duAddr c % 64 = 0) (hok : responseOk (memReadN d.hostMem (duAddr c) 128) = true)
include hmin hwrap haddr hok

/-- A response to a valid challenge uses it up and opens VENDOR where its signature verifies. -/
theorem unlockResponse_valid (hvoided : d.sec.chalVoided = false) (hvalid : d.sec.chalValid = true) (htime : d.deviceTime < d.sec.chalTime + 600000000000) :
    d.unlockResponse c =
      if Config.vendorSigned 4 (leBytes 32 d.sec.nonce ++ leBytes 16 d.sec.deviceId ++ (memReadN d.hostMem (duAddr c) 128).take 32)
          (((memReadN d.hostMem (duAddr c) 128).drop 0x20).take 48) (((memReadN d.hostMem (duAddr c) 128).drop 0x50).take 48) then
        ((({ d with sec := { d.sec with chalValid := false, chalVoided := false } } : Dev).openUnlock .vendor (leNat ((memReadN d.hostMem (duAddr c) 128).take 4))).2.authPassed).answer c cOk
          (d.deviceTime + leNat ((memReadN d.hostMem (duAddr c) 128).take 4) * 60000000000) 0
      else (({ d with sec := { d.sec with chalValid := false, chalVoided := false } } : Dev).authFailure c cAuthFail).answer c cAuthFail 0 0 := by
  have hhost : (d.updSec (fun s => { s with chalValid := false, chalVoided := false })).hostMem = d.hostMem := rfl
  unfold Dev.unlockResponse
  simp only [hhost, hmin, hwrap, haddr, hok, hvoided, hvalid, htime, decide_true, Bool.and_self, Bool.not_true, Bool.false_eq_true, ne_eq, not_true_eq_false, or_self, if_false]
  exact ite_not_bool _ _ _

/-- A response to a challenge that a failure of the source voided fails. -/
theorem unlockResponse_voided (hvoided : d.sec.chalVoided = true) :
    d.unlockResponse c = (({ d with sec := { d.sec with chalValid := false, chalVoided := false } } : Dev).authFailure c cAuthFail).answer c cAuthFail 0 0 := by
  have hhost : (d.updSec (fun s => { s with chalValid := false, chalVoided := false })).hostMem = d.hostMem := rfl
  unfold Dev.unlockResponse
  simp only [hhost, hmin, hwrap, haddr, hok, hvoided, Bool.not_true, Bool.false_eq_true, ne_eq, not_true_eq_false, or_self, if_false, if_true]
  rfl

end

theorem unlockLock_ends (hmin : duMinutes c = 0) (hwrap : c.wrapped = 0) (haddr : duAddr c = 0) : d.unlockLock c = d.endUnlock.answer c cOk 0 0 := by
  simp [Dev.unlockLock, hmin, hwrap, haddr]

end

/-! ### The end of an unlock (R395) -/

theorem log'_traceEn (d : Dev) (proc level point code data : Nat) : (d.log' proc level point code data).log.traceEn = d.log.traceEn := by
  have hpush : ∀ (l : LogRing) (x : LogRec), (l.push x).traceEn = l.traceEn := fun l x => by
    unfold LogRing.push
    split <;> rfl
  unfold Dev.log' Dev.logAt
  dsimp only
  split
  · obtain ⟨q, h⟩ := raiseFor_form { d with log := d.log.push { seq := d.log.seq + 1, time := d.deviceTime, proc, level, point, code, data } } 0 1 0x303 (procPage proc) (proc + 65536 * (point % 65536)) (d.log.seq + 1)
    rw [Dev.raise, h]
    exact hpush _ _
  · exact hpush _ _

/-- An unlock ended: none is in force and no trace point is enabled. -/
theorem endUnlock_facts {d : Dev} (hlocked : d.sec.unlock ≠ .none) : d.endUnlock.sec.unlock = .none ∧ d.endUnlock.log.traceEn = 0 := by
  have hclose : ∀ x : Dev, x.closeExtended.sec = x.sec ∧ x.closeExtended.log = x.log := fun x => by
    unfold Dev.closeExtended
    split <;> exact ⟨rfl, rfl⟩
  have hlog : ∀ x : Dev, x.warnUnlock 2 0 = x.log' 0 lvWarn 2 0 0 := fun x => by
    unfold Dev.warnUnlock Dev.logRec
    exact if_neg (by simp)
  rw [Dev.endUnlock, if_neg hlocked]
  dsimp only
  refine ⟨?_, ?_⟩
  · obtain ⟨_, l, q, h⟩ := logRec_form (Dev.closeExtended _) 0 lvWarn 2 0 0
    rw [Dev.warnUnlock, h]
    exact congrArg Security.unlock (hclose _).1
  · rw [hlog, log'_traceEn, (hclose _).2]
    rfl

theorem storeHeld_sec (d : Dev) : d.storeHeld.sec = d.sec := by
  unfold Dev.storeHeld
  generalize d.rings.map (·.1) = rs
  induction rs generalizing d with
  | nil => rfl
  | cons r rs ih => exact ih _

theorem leaseExpiry_sec (d : Dev) : d.leaseExpiry.sec = d.sec := by
  unfold Dev.leaseExpiry
  dsimp only
  split
  · have hmove : ∀ x : Dev, (if x.modState = .frost ∨ x.modState = .active ∨ x.modState = .snowpack then x.move .orphaned else x).sec = x.sec := fun x => by
      split
      · exact move_sec _ _
      · rfl
    have hhold : ∀ x : Dev, (if x.hostStopped then x.storeHeld else x).sec = x.sec := fun x => by
      split
      · exact storeHeld_sec x
      · rfl
    exact (hhold _).trans (hmove _)
  · rfl

/-- The lease timer leaves the security core's store. -/
theorem leaseDue_sec (d : Dev) : d.leaseDue.sec = d.sec := by
  have hwarn : ∀ x : Dev, x.leaseWarning.sec = x.sec := fun x => by
    unfold Dev.leaseWarning
    dsimp only
    split <;> rfl
  have hlapse : ∀ x : Dev, x.takeoverLapse.sec = x.sec := fun x => by
    unfold Dev.takeoverLapse
    dsimp only
    split <;> rfl
  unfold Dev.leaseDue
  rw [whenDue_keeps Dev.sec (fun _ _ => rfl) hlapse, whenDue_keeps Dev.sec (fun _ _ => rfl) leaseExpiry_sec, whenDue_keeps Dev.sec (fun _ _ => rfl) hwarn]

theorem whenDue_now (d : Dev) (x : Nat) (f : Dev → Dev) : (d.whenDue x f).now = d.now := by
  unfold Dev.whenDue
  split <;> rfl

theorem leaseDue_now (d : Dev) : d.leaseDue.now = d.now := by
  simp only [Dev.leaseDue, whenDue_now]

/-- An unlock ends at its time, and not before. -/
theorem dueAt_unlock {s : State} {t : Nat} (hlocked : s.dev.sec.unlock ≠ .none) :
    (s.dev.sec.unlockEnd ≤ max s.dev.now t → (s.dueAt t).sec.unlock = .none ∧ (s.dueAt t).log.traceEn = 0)
      ∧ (max s.dev.now t < s.dev.sec.unlockEnd → (s.dueAt t).sec = s.dev.sec) := by
  have hsec : (s.counted t).leaseDue.sec = s.dev.sec := leaseDue_sec _
  have hnow : (s.counted t).leaseDue.now = max s.dev.now t := leaseDue_now _
  have hdue : s.dueAt t = (s.counted t).leaseDue.whenDue s.dev.sec.unlockEnd Dev.endUnlock := by
    show (s.counted t).leaseDue.unlockDue = _
    rw [Dev.unlockDue, hsec, if_neg hlocked]
  rw [hdue]
  refine ⟨fun hend => ?_, fun hearly => ?_⟩
  · rw [whenDue_due (hnow ▸ hend)]
    exact endUnlock_facts (d := { (s.counted t).leaseDue with now := s.dev.sec.unlockEnd }) (hsec ▸ hlocked)
  · rw [whenDue_early (hnow ▸ hearly)]
    exact hsec

/-! ### JTAG (R390) -/

section
variable {d : Dev} {x : JtagAccess}

theorem jtag_open (hdebug : d.sec.debugOpen = true) (hscan : d.sec.scanOpen = true) :
    d.jtag x = ((d.jtagValue x).2.jtagDo x).updSec (fun y => { y with jtagReply := (d.jtagValue x).1 }) := by
  cases x <;> exact if_pos (by assumption)

theorem jtag_closed (hdebug : d.sec.debugOpen = false) (hscan : d.sec.scanOpen = false) :
    d.jtag x = { d with sec := { d.sec with jtagDenied := satAdd 0xFFFFFFFF d.sec.jtagDenied 1, jtagReply := 0 } } := by
  have hshut : ∀ b : Bool, b = false → ¬ b = true := fun b hb => by simp [hb]
  cases x <;> exact if_neg (hshut _ (by assumption))

end

/-- Settles O41: life states, the unlocks with their expiry, and what JTAG reaches. -/
theorem lifeStatesAndUnlocks : Obligations.LifeStatesAndUnlocks := by
  intro s t r c target minutes pw rest orest x
  refine ⟨fun h hlater hfield => ?life, fun hx hsec => run_of_eq (f := Dev.lifeCommit) (lifeCommit_first hx hsec),
    fun h hop hlow hhigh haddr hpw hlife hver hvendor => ?owner, fun hx hsec => run_of_eq (f := Dev.ownerVerified) (ownerVerified_first hx hsec),
    fun h hop hmin hwrap haddr hready => ?challenge, fun h hop hmin hwrap haddr hvoided hvalid htime hok => ?response, fun h hop hmin hwrap haddr hvoided hok => ?voided,
    fun h hop hmin hwrap haddr => ?lock, fun hvalid => ?chalExpiry, fun hlocked => ⟨fun hend => ⟨_, rfl, ?_⟩, fun hearly => ⟨_, rfl, ?_⟩⟩, rfl,
    fun hdebug hscan => run_of_eq (f := (Dev.jtag · x)) (jtag_open hdebug hscan), fun hdebug hscan => run_of_eq (f := (Dev.jtag · x)) (jtag_closed hdebug hscan)⟩
  case life =>
    rw [← lifeStateBody_pending hlater hfield]
    exact run_ringCmd_of_admits (cond := fun _ _ => none) (body := fun c d => d.lifeStateBody c) h
  case owner => rw [exec_debugUnlockOwner h hop, unlockOwner_pending hlow hhigh haddr hpw hlife hver hvendor]
  case challenge => rw [exec_debugUnlockChallenge h hop, unlockChallenge_requests hmin hwrap haddr hready]
  case response => rw [exec_debugUnlockResponse h hop, unlockResponse_valid hmin hwrap haddr hok hvoided hvalid htime]
  case voided => rw [exec_debugUnlockResponse h hop, unlockResponse_voided hmin hwrap haddr hok hvoided]
  case lock => rw [exec_debugUnlockLock h hop, unlockLock_ends hmin hwrap haddr]
  case chalExpiry =>
    refine run_of_eq (f := fun d => if d.sec.chalValid && decide (d.sec.chalTime + 600000000000 ≤ d.deviceTime) then d.updSec (fun x => { x with chalValid := false }) else d) ?_
    rw [hvalid, Bool.true_and]
    simp only [decide_eq_true_eq]
    rfl
  · show (s.endsWith t (s.dueAt t)).dev.sec.unlock = _ ∧ (s.endsWith t (s.dueAt t)).dev.log.traceEn = _
    rw [State.endsWith_sec, State.endsWith_log]
    exact (dueAt_unlock hlocked).1 hend
  · show (s.endsWith t (s.dueAt t)).dev.sec = _
    rw [State.endsWith_sec]
    exact (dueAt_unlock hlocked).2 hearly

end Sys2Proof.Machine
end

section
/-! PROOFS. The log's copy in host memory, corrected and uncorrectable errors, and the patrol scrub (R368, R399 to R402). -/

namespace Sys2Proof.Machine

/-! ### The log's copy (R368) -/

/-- A size of 0 or 8 to 20 sets the host ring and returns its indices to 0. -/
theorem logHostSize_sets {d : Dev} {fn v : Nat} (hv : v < 32) (hsize : v = 0 ∨ (8 ≤ v ∧ v ≤ 20)) :
    d.logHostSize fn v = ({ d with log := { d.log with hostLog2 := v, hostTail := 0, hostHead := 0 } }, cOk) := by
  have hbits : bits v 4 0 = v := by
    simp only [bits, Nat.sub_zero, Nat.reduceAdd]
    exact Nat.mod_eq_of_lt hv
  simp only [Dev.logHostSize, hbits, if_pos hsize]

/-- LOG_HOST_SIZE_WRITE where no other write waits at the scheduler core. -/
theorem logHostSizeWrite_facts {d : Dev} {v : Nat} (hm : d.modState ≠ .reset) (hs : d.notServing .sched = false) (hh : d.serverHalted .sched = false) (hw : d.emuWaiting .sched = [])
    (hv : v < 32) (hsize : v = 0 ∨ (8 ≤ v ∧ v ≤ 20)) :
    (d.emuWriteNow 0 .sched 0x068 v).log = { d.log with hostLog2 := v, hostTail := 0, hostHead := 0 } ∧ (d.emuWriteNow 0 .sched 0x068 v).hostMem = d.hostMem := by
  rw [emuWriteNow_eq 0x068 v hm hs hh rfl hw, Nat.mod_eq_of_lt (show v < 2 ^ 32 by omega)]
  have heffect : ∀ e : Dev, e.emuEffect 0 .sched 0x068 v = ({ e with log := { e.log with hostLog2 := v, hostTail := 0, hostHead := 0 } }, cOk) :=
    fun e => logHostSize_sets (d := e) hv hsize
  rw [heffect]
  exact ⟨rfl, rfl⟩

/-- With the ring on, the scheduler core at work, host writes allowed and a slot free, the next record goes to the tail. -/
theorem logCopy_writes {d : Dev} {rec : LogRec} (hon : d.log.hostLog2 ≠ 0) (hsched : (d.proc 2).restarting = false) (hhost : d.hostStopped = false)
    (hroom : (d.log.hostTail + 1) % 2 ^ d.log.hostLog2 ≠ d.log.hostHead) (hnext : d.log.records.find? (fun r => decide (d.log.nextCopy ≤ r.seq)) = some rec) :
    d.logCopy = { d.writeHost (d.log.hostBase + 64 * d.log.hostTail) rec.bytes with
      log := { d.log with hostTail := (d.log.hostTail + 1) % 2 ^ d.log.hostLog2, nextCopy := rec.seq + 1 } } := by
  have hgo : ¬ (d.log.hostLog2 = 0 ∨ (d.proc 2).restarting ∨ d.hostStopped ∨ (d.log.hostTail + 1) % 2 ^ d.log.hostLog2 = d.log.hostHead) := by
    simp [hon, hsched, hhost, hroom]
  unfold Dev.logCopy
  dsimp only
  rw [if_neg hgo, hnext]

/-! ### Corrected errors (R399, R402) -/

/-- The run that a first corrected error of a page and KIND starts. -/
def Dev.firstRun (d : Dev) (e : ErrorSite) : CeRun :=
  { page := e.page, kind := e.kind, since := d.deviceTime, count := 1, address := e.address, context := ((unitOf e.page).bind d.holder).getD 0x7F, syndrome := e.syndrome }

section
variable {d : Dev} {e : ErrorSite} (hflush : d.flushCe = d)
include hflush

theorem correct_starts (hpage : e.page ≠ UnitId.hostIf.page) (hce : d.flt.ce = []) :
    d.correct e = { d.note e.page 3 1 with flt := { d.flt with ce := [(d.note e.page 3 1).firstRun e] } } := by
  have hce' : (d.note e.page 3 1).flt.ce = [] := hce
  unfold Dev.correct
  rw [hflush]
  dsimp only
  rw [if_neg hpage, hce']
  rfl

/-- A first corrected error of a page and KIND starts its run and changes no memory and no job. -/
theorem correct_facts (hpage : e.page ≠ UnitId.hostIf.page) (hce : d.flt.ce = []) :
    (d.correct e).devMem = d.devMem ∧ (d.correct e).hostMem = d.hostMem ∧ (d.correct e).jobs = d.jobs
      ∧ (d.correct e).flt.ce.map (fun x => (x.page, x.kind, x.since, x.count, x.address, x.syndrome)) = [(e.page, e.kind, d.deviceTime, 1, e.address, e.syndrome)] := by
  rw [correct_starts hflush hpage hce]
  exact ⟨rfl, rfl, rfl, rfl⟩

theorem correct_hostIf (hpage : e.page = UnitId.hostIf.page) :
    d.correct e = { d.note e.page 3 1 with hostIf := { d.hostIf with corrected := satAdd 0xFFFFFFFF d.hostIf.corrected 1 } } := by
  unfold Dev.correct
  rw [hflush]
  exact if_pos hpage

end

/-! ### Uncorrectable errors (R400, R402) -/

section
variable {d : Dev} {e : ErrorSite} (hpage : e.page ≠ UnitId.hostIf.page) (hpath : e.path = none)
include hpage hpath

/-- A word of SRAM or DRAM that cannot be corrected is logged and poisons its line. -/
theorem uncorrectable_poisons (hkind : e.kind = 0x01 ∨ e.kind = 0x03) :
    d.uncorrectable e = ((d.note e.page 4 1).logFault e.page e.kind sevJob 0x7F e.address 0 e.syndrome).poisonLine (lineOf e.address) := by
  have hnopath : d.uePath e = d := by simp only [Dev.uePath, hpath]
  rw [Dev.uncorrectable, if_neg hpage, hnopath]
  exact if_pos hkind

theorem uncorrectable_fatal (hkind : e.kind = 0x09) : d.uncorrectable e = (d.note e.page 4 1).fatal 0x02 e.page 0x09 e.address e.syndrome := by
  have hnopath : d.uePath e = d := by simp only [Dev.uePath, hpath]
  rw [Dev.uncorrectable, if_neg hpage, hnopath]
  simp [hkind]

end

/-! ### The patrol scrub (R401) -/

theorem scrub_reports {d : Dev} {a : Nat} (hdet : d.detects (d.homePage a) = true) (hbad : d.linePoisoned (lineOf a) = true) :
    d.scrub a false = d.raise 1 0x302 (d.homePage a) 0 (64 * lineOf a) := by
  simp [Dev.scrub, hdet, hbad]

theorem scrub_clean {d : Dev} {a : Nat} (hgood : d.linePoisoned (lineOf a) = false) : d.scrub a false = d := by
  simp [Dev.scrub, hgood]

/-- Settles O37: the log's host ring and copy, corrected and uncorrectable errors, and the scrub. -/
theorem logAndErrorReports : Obligations.LogAndErrorReports := by
  intro s t v a e rec
  refine ⟨fun hm hs hh hw hv hsize => ⟨_, run_of_eq (f := (Dev.emuWriteNow · 0 .sched 0x068 v)) rfl, ?_⟩, fun hflush hon hsched hhost hroom hnext => ?copy,
    fun hflush hdet hkind hpage hce => ?correct, fun hflush hdet hpage => ?hostIf, fun hdet hpage hpath => ⟨fun hkind => ?poison, fun hkind => ?fatal⟩,
    fun hflush hdet hbad => ?scrubbed, fun hflush hgood => ?clean⟩
  · rw [State.endsWith_log, State.endsWith_hostMem]
    exact logHostSizeWrite_facts hm hs hh hw hv hsize
  case copy =>
    refine run_of_eq (f := fun d => d.flushCe.logCopy) ?_
    rw [hflush, logCopy_writes hon hsched hhost hroom hnext]
  case correct =>
    refine ⟨_, run_of_eq (f := fun d => if d.detects e.page && (corrects e.kind || e.page == UnitId.hostIf.page) then d.correct e else d) rfl, ?_⟩
    rw [State.endsWith_devMem, State.endsWith_hostMem, State.endsWith_jobs, State.endsWith_flt, hdet, hkind, Bool.true_or, Bool.and_self, if_pos rfl]
    exact correct_facts hflush hpage hce
  case hostIf =>
    refine run_of_eq (f := fun d => if d.detects e.page && (corrects e.kind || e.page == UnitId.hostIf.page) then d.correct e else d) ?_
    rw [hdet, beq_iff_eq.mpr hpage, Bool.or_true, Bool.and_self, if_pos rfl, correct_hostIf hflush hpage]
  case poison =>
    refine run_of_eq (f := fun d => if d.detects e.page then d.uncorrectable e else d) ?_
    rw [if_pos hdet, uncorrectable_poisons hpage hpath hkind]
  case fatal =>
    refine run_of_eq (f := fun d => if d.detects e.page then d.uncorrectable e else d) ?_
    rw [if_pos hdet, uncorrectable_fatal hpage hpath hkind]
  case scrubbed =>
    refine run_of_eq (f := fun d => d.flushCe.scrub a false) ?_
    rw [hflush, scrub_reports hdet hbad]
  case clean =>
    refine run_of_eq (f := fun d => d.flushCe.scrub a false) ?_
    rw [hflush, scrub_clean hgood]

end Sys2Proof.Machine
end

section
/-! PROOFS. CTX_SAVE and CTX_RESTORE: their start, and the image written or read back (R302, R305, R306, R408, R409). -/

namespace Sys2Proof.Machine

/-! ### CTX_SAVE (R408, R409) -/

section
variable {d : Dev} {c : Cmd}

theorem ctxSave_pending (haddr : saveAddr c % 4096 = 0) (hcores : (maskCores (saveCores c)).isEmpty = false) (hpage : saveShare c % 4096 = 0) (hshare : saveShare c ≤ shareBytes)
    (hup : (maskCores (saveCores c)).all (fun n => decide (n < d.nCores) && !d.offline (.core n)) = true) (hlimit : imageSize (d.saveLengths c) ≤ saveLimit c)
    (hsize : imageSize (d.saveLengths c) < 2 ^ 32) :
    d.ctxSave c = ((d.answerPending c 0 0).updCtx c.ctx (fun k => { k with cstate := .saving })).pushCtxOp
      { ctx := c.ctx, cmd := { c with interim := true }, cores := saveCores c, restore := false } := by
  have hfields : ¬ (saveAddr c % 4096 ≠ 0 ∨ (maskCores (saveCores c)).isEmpty = true ∨ saveShare c % 4096 ≠ 0 ∨ shareBytes < saveShare c) := by
    simp [haddr, hcores, hpage, Nat.not_lt.mpr hshare]
  have hin : ¬ (maskCores (saveCores c)).any (fun n => decide (d.nCores ≤ n)) = true := by
    simp only [List.any_eq_true, decide_eq_true_eq, not_exists, not_and, Nat.not_le]
    intro n hn
    have hn' := List.all_eq_true.mp hup n hn
    simp only [Bool.and_eq_true, decide_eq_true_eq] at hn'
    exact hn'.1
  have hon : ¬ (maskCores (saveCores c)).any (fun n => d.offline (.core n)) = true := by
    simp only [List.any_eq_true, not_exists, not_and]
    intro n hn
    have hn' := List.all_eq_true.mp hup n hn
    simp only [Bool.and_eq_true, Bool.not_eq_true'] at hn'
    rw [hn'.2]
    exact Bool.false_ne_true
  have hfits : ¬ (saveLimit c < imageSize (d.saveLengths c) ∨ 2 ^ 32 - 1 < imageSize (d.saveLengths c)) := by omega
  rw [Dev.ctxSave]
  dsimp only
  rw [if_neg hfields, if_neg hin, if_neg hon, if_neg hfits]

/-- A save whose cores no job holds any more writes its image. -/
theorem ctxSaveDone_writes {n : Nat} {o : CtxOp} (ho : d.ctxOpOf n false = some o) (hready : d.ctxOpReady o = true) (hlimit : imageSize (d.saveLengths o.cmd) ≤ saveLimit o.cmd)
    (hsize : imageSize (d.saveLengths o.cmd) < 2 ^ 32) :
    d.ctxSaveDone n = ((d.writeHost (saveAddr o.cmd) (d.saveImage o.cmd)).keepShares n (saveCores o.cmd) (saveShare o.cmd)).endCtxOp o cOk
      (imageSize (d.saveLengths o.cmd)) (d.savePoison o.cmd) := by
  have hfits : ¬ (saveLimit o.cmd < imageSize (d.saveLengths o.cmd) ∨ 2 ^ 32 - 1 < imageSize (d.saveLengths o.cmd)) := by omega
  rw [Dev.ctxSaveDone, ho]
  dsimp only
  rw [if_pos hready, if_neg hfits]

/-! ### CTX_RESTORE (R305, R306) -/

/-- A completion formed changes no host memory. -/
theorem answerPending_hostMem (r0 r1 : Nat) : (d.answerPending c r0 r1).hostMem = d.hostMem := by
  unfold Dev.answerPending Dev.complete
  split
  · rfl
  · split <;> rfl

theorem ctxRestore_pending {as : List PersistAlloc} {d2 : Dev} (hcheck : d.restoreCheck c = none)
    (hmap : d.mapGroups c.ctx (regionGroups ((d.imgRegions c).map (fun x => d.img c x.offset 32))) = some (as, d2)) :
    d.ctxRestore c = ((d2.answerPending c 0 0).updCtx c.ctx (fun k => { k with cstate := .restoring, persist := as ++ k.persist })).pushCtxOp
      { ctx := c.ctx, cmd := { c with interim := true }, cores := (d2.imgHeader c).used, restore := true } := by
  have hheader : ((d2.answerPending c 0 0).updCtx c.ctx (fun k => { k with cstate := .restoring, persist := as ++ k.persist })).imgHeader c = d2.imgHeader c := by
    unfold Dev.imgHeader Dev.img
    rw [updCtx_hostMem, answerPending_hostMem]
  rw [Dev.ctxRestore, hcheck]
  dsimp only
  rw [hmap]
  dsimp only
  rw [hheader]

/-- The device once the cores that an image names have their contents back. -/
def Dev.coresRestored (d : Dev) (c : Cmd) (h : Header) : Dev :=
  (maskCores h.used).foldl (fun d n => ((d.restoreTiles c h n).restoreTidies c h n).restoreShare c h n) d

/-- The device once an image's cores, regions and poisoned lines are back. -/
def Dev.imageRestored (d : Dev) (c : Cmd) (h : Header) (n : Nat) : Dev :=
  ((({ d.coresRestored c h with
    geom := { (d.coresRestored c h).geom with restoreDue := (d.coresRestored c h).geom.restoreDue - ((d.coresRestored c h).geom.restoreDue &&& h.used) } } : Dev).keepShares
      n h.used h.share).restoreRegions c).restorePoison c

/-- The entries of a shape map that are substituted. -/
def substituted (shapes : Tab ShapeEntry) : Nat := (shapes.filter (fun (e : Nat × ShapeEntry) => e.2.realise == 3)).length

/-- The context once it has an image's geometry, shapes and slate positions. -/
def Dev.contextRestored (d : Dev) (c : Cmd) (h : Header) (n : Nat) : Dev :=
  d.updCtx n (fun k => { k with
    geomCores := h.cores, fromFs8 := h.fromFs8, log2Rows := h.log2Rows, log2Cols := h.log2Cols, shapes := h.shapeMap (d.ctx n).throughput, slate := d.imgSlate c h
    tdcTotal := w64 (k.tdcTotal + substituted (h.shapeMap (d.ctx n).throughput)), tdcRestore := satAdd 0xFFFFFFFF k.tdcRestore (substituted (h.shapeMap (d.ctx n).throughput)) })

/-- A restore whose cores no job holds any more ends with the image read back. -/
theorem ctxRestoreDone_reads {n : Nat} {o : CtxOp} (ho : d.ctxOpOf n true = some o) (hready : d.ctxOpReady o = true) :
    d.ctxRestoreDone n = ((d.imageRestored o.cmd (d.imgHeader o.cmd) n).contextRestored o.cmd (d.imgHeader o.cmd) n).endCtxOp o cOk
      ((((d.imageRestored o.cmd (d.imgHeader o.cmd) n).contextRestored o.cmd (d.imgHeader o.cmd) n).ctx n).realiseWord
        + 2 ^ 16 * (((d.imageRestored o.cmd (d.imgHeader o.cmd) n).contextRestored o.cmd (d.imgHeader o.cmd) n).ctx n).shapeWord)
      (substituted ((d.imgHeader o.cmd).shapeMap ((d.imageRestored o.cmd (d.imgHeader o.cmd) n).ctx n).throughput)) := by
  rw [Dev.ctxRestoreDone, ho]
  exact if_pos hready

end

/-! ### The end of either -/

/-- The context is IDLE again with no operation, and host memory is as it was. -/
theorem endCtxOp_facts (x : Dev) (o : CtxOp) (code r0 r1 : Nat) :
    ∃ y : Dev, x.endCtxOp o code r0 r1 = (y.finishCmd o.cmd code r0 r1).evalLaunches ∧ (y.ctx o.ctx).cstate = .idle ∧ y.ctxOps.all (fun p => p.ctx != o.ctx) = true
      ∧ y.hostMem = x.hostMem := by
  refine ⟨_, rfl, ?_, ?_, rfl⟩
  · simp [Dev.updCtx, Dev.ctx]
  · simp [Dev.updCtx]

/-- Settles O27: saves and restores start, and end with the image written or read back. -/
theorem contextsAreSavedAndRestored : Obligations.ContextsAreSavedAndRestored := by
  intro s t r c
  refine ⟨fun h haddr hcores hpage hshare hup hlimit hsize => ?save, fun as d2 h hcheck hmap => ?restore,
    fun n o ho hready hlimit hsize => run_of_eq (f := (Dev.ctxSaveDone · n)) (ctxSaveDone_writes ho hready hlimit hsize),
    fun n o ho hready => run_of_eq (f := (Dev.ctxRestoreDone · n)) (ctxRestoreDone_reads ho hready), endCtxOp_facts⟩
  case save =>
    rw [← ctxSave_pending haddr hcores hpage hshare hup hlimit hsize]
    exact run_ringCmd_of_admits (cond := fun d c => d.ctxJobsCond c JobState.running?) (body := fun c d => d.ctxSave c) h
  case restore =>
    rw [← ctxRestore_pending hcheck hmap]
    exact run_ringCmd_of_admits (cond := fun d c => d.ctxJobsCond c (fun js => !js.over?)) (body := fun c d => d.ctxRestore c) h

end Sys2Proof.Machine
end

section
/-! PROOFS. Fatal errors and the dump (R422 to R428). -/

namespace Sys2Proof.Machine

/-! ### Entering DUMPING (R422, R423) -/

/-- What a fatal error records: its cause, its time, the state it left, and whether a dump is held already. -/
def Fatal.heading (f : Fatal) : Nat × Nat × Nat × Bool := (f.cause, f.time, f.prev, f.later)

/-- Entering DUMPING disables the ports and leaves the fault state. -/
theorem dumping_keeps (x : Dev) : (x.move .dumping).disablePorts.modState = .dumping ∧ (x.move .dumping).disablePorts.flt = x.flt := by
  obtain ⟨hstate, hflt, -⟩ := disablePorts_same (x.move .dumping)
  exact ⟨hstate, hflt.trans (move_flt x _)⟩

/-- A fatal error with no dump held or being written enters DUMPING with its cause and the state it left. -/
theorem fatal_dumps {d : Dev} (cause page kind address : Nat) (hm : d.modState ≠ .reset) (hf : d.flt.fatal = none) (hdump : d.flt.dump = none) :
    (d.fatal cause page kind address).modState = .dumping ∧ (d.fatal cause page kind address).flt.fatal.map Fatal.heading = some (cause, d.deviceTime, d.modState.code, false) := by
  obtain ⟨cc, l, q, hrec⟩ := fatalRecords_form d page kind address 0 cause d.deviceTime
  unfold Dev.fatal
  rw [if_neg hm]
  dsimp only
  rw [hrec]
  simp only [hf, hdump, Option.map_none, Option.isSome_none]
  rw [(dumping_keeps _).1, (dumping_keeps _).2]
  exact ⟨rfl, rfl⟩

/-- DUMPING follows no work in progress. -/
theorem endsWith_dumping {s : State} {t : Nat} {d : Dev} (h : d.modState = .dumping) : (s.endsWith t d).dev.modState = .dumping := by
  have hsettle := settle_of_state (d := d) (by rw [h]; decide) (by rw [h]; decide)
  exact (congrArg Dev.modState hsettle).trans h

/-- A row whose effect is a fatal error outside RESET with no dump held or being written ends in DUMPING. -/
theorem run_fatal {s : State} {t cause page kind address : Nat} (hm : (s.dueAt t).modState ≠ .reset) (hf : (s.dueAt t).flt.fatal = none) (hdump : (s.dueAt t).flt.dump = none) :
    (s.endsWith t ((s.dueAt t).fatal cause page kind address)).dev.modState = .dumping
      ∧ (s.endsWith t ((s.dueAt t).fatal cause page kind address)).dev.flt.fatal.map Fatal.heading = some (cause, (s.dueAt t).deviceTime, (s.dueAt t).modState.code, false) := by
  obtain ⟨hstate, hheading⟩ := fatal_dumps cause page kind address hm hf hdump
  exact ⟨endsWith_dumping hstate, by rw [State.endsWith_flt, hheading]⟩

theorem exec_fatalError {s : State} {t cause page detail : Nat} (hlow : 1 ≤ cause) (hhigh : cause ≤ 5) :
    exec (.fatalError t cause page detail) s = .next (s.endsWith t ((s.dueAt t).fatal cause page (if cause = 2 then 0x09 else 0) detail)) :=
  run_of_eq (f := fun d => if 1 ≤ cause ∧ cause ≤ 5 then d.fatal cause page (if cause = 2 then 0x09 else 0) detail else d) (if_pos ⟨hlow, hhigh⟩)

theorem exec_securityWatchdog {s : State} {t : Nat} : exec (.securityWatchdog t) s = .next (s.endsWith t ((s.dueAt t).fatal 0x03 UnitId.sec.page 0 0)) := rfl

theorem exec_controlMessageTimeout {s : State} {t page : Nat} : exec (.controlMessageTimeout t page) s = .next (s.endsWith t ((s.dueAt t).fatal 0x04 page 0 0)) := rfl

/-! ### The dump written (R423, R424, R426) -/

section
variable {d : Dev} {f : Fatal} (hf : d.flt.fatal = some f) (hstate : d.modState = .dumping) (hlater : f.later = false)
include hf hstate hlater

theorem dumpWritten_full (hsec : (d.proc 0).restarting = false) (hrun : (d.proc 0).halted = false) (hcause : f.cause ≠ 3) :
    d.dumpWritten = ((d.logCe (fun _ => true)).dumpOf f false).2.dumpOut ((d.logCe (fun _ => true)).dumpOf f false).1 := by
  simp only [Dev.dumpWritten, hf, hstate, hsec, hrun, hlater, if_neg hcause, bne_self_eq_false, Bool.or_self, Bool.false_eq_true, if_false]

/-- 2 s after the fatal error the hub's hardware writes the minimal dump. -/
theorem dumpTimeout_minimal (hlate : f.time + 2000000000 ≤ d.deviceTime) : d.dumpTimeout = ({ d with free := d.free + 1 } : Dev).dumpOut (d.dumpOf f true).1 := by
  have hgo : (d.modState != .dumping || !(f.cause == 3 || decide (f.time + 2000000000 ≤ d.deviceTime))) = false := by
    simp [hstate, hlate]
  unfold Dev.dumpTimeout
  simp only [hf, hgo, hlater, Bool.false_eq_true, if_false]
  rfl

end

/-- A dump is mirrored where a summary can be, and a full one counts the fatal errors since its own. -/
theorem dumpOf_facts (d : Dev) (f : Fatal) :
    (d.dumpOf f true).1.mirrored = d.mirrors ∧ (d.dumpOf f false).1.mirrored = d.mirrors ∧ (d.dumpOf f false).1.laterFatals = f.laterFatals := ⟨rfl, rfl, rfl⟩

theorem class14_form (d : Dev) : ∃ q, d.class14 = { d with attnqs := q } := by
  unfold Dev.class14
  split
  · exact ⟨_, rfl⟩
  · exact raiseFor_form d 0 14 cDeviceFatal UnitId.sec.page _ _

/-- A dump written leaves the module FAULTED, the dump held and no fatal error in progress. -/
theorem dumpOut_facts (y : Dev) (x : Dump) : (y.dumpOut x).modState = .faulted ∧ (y.dumpOut x).flt.dump = some x ∧ (y.dumpOut x).flt.fatal = none := by
  unfold Dev.dumpOut Dev.dumpDone
  generalize (if x.mirrored = true then y.mirror x else y) = z
  dsimp only
  obtain ⟨q, h⟩ := class14_form { z with flt := { z.flt with dump := some x } }
  rw [h, move_modState, move_flt]
  exact ⟨rfl, rfl, rfl⟩

/-! ### Reading and release (R427, R428) -/

/-- DUMP_READ inside the dump held waits with its operands. -/
theorem dumpRead_queued {d : Dev} {c : Cmd} {x : Dump} (hx : d.flt.dump = some x) (hoff : drOffset c % 4096 = 0) (hbytes : drBytes c % 4096 = 0) (hlow : 4096 ≤ drBytes c)
    (hhigh : drBytes c ≤ 16777216) (hdest : drDest c % 4096 = 0) (hin : drOffset c < x.size) :
    d.dumpRead c = { d.answerPending c 0 0 with flt := { (d.answerPending c 0 0).flt with
      dumpReads := (d.answerPending c 0 0).flt.dumpReads ++ [{ pend := (d.answerPending c 0 0).pendOf c, dump := x, offset := drOffset c, bytes := drBytes c, dest := drDest c }] } } := by
  have hfields : ¬ (drOffset c % 4096 ≠ 0 ∨ drBytes c % 4096 ≠ 0 ∨ drBytes c < 4096 ∨ 16777216 < drBytes c ∨ drDest c % 4096 ≠ 0) := by omega
  rw [Dev.dumpRead, if_neg hfields, hx]
  exact if_neg (Nat.not_le.mpr hin)

/-- The oldest copy goes to host memory where host writes go on. -/
theorem dumpReadDone_copies {d : Dev} {q : DumpRead} {rest : List DumpRead} (hq : d.flt.dumpReads = q :: rest) (hhost : d.hostStopped = false) (hdumping : d.modState ≠ .dumping)
    (hreset : d.modState ≠ .reset) (hsec : (d.proc 0).restarting = false) :
    d.dumpReadDone = ({ d.writeHost q.dest (padTo q.bytes ((q.dump.bytes.drop q.offset).take q.bytes)) with flt := { d.flt with dumpReads := rest } } : Dev).finish
      q.pend cOk q.dump.size q.dump.time := by
  have hgo : (d.hostStopped || d.modState == .dumping || d.modState == .reset || (d.proc 0).restarting) = false := by
    simp [hhost, hdumping, hreset, hsec]
  simp only [Dev.dumpReadDone, hq, hgo, Bool.false_eq_true, if_false]
  rfl

/-- Settles O38: a fatal error enters DUMPING, and its dump is written, read and released. -/
theorem fatalErrorsAndTheDump : Obligations.FatalErrorsAndTheDump := by
  intro s t r c f cause page detail
  refine ⟨fun hm hf hdump => ⟨fun hlow hhigh => ⟨_, exec_fatalError hlow hhigh, run_fatal hm hf hdump⟩, ⟨_, exec_securityWatchdog, run_fatal hm hf hdump⟩,
      ⟨_, exec_controlMessageTimeout, run_fatal hm hf hdump⟩⟩,
    fun hf hstate hlater => ⟨fun hsec hrun hcause => run_of_eq (f := Dev.dumpWritten) (dumpWritten_full hf hstate hlater hsec hrun hcause),
      fun hlate => run_of_eq (f := Dev.dumpTimeout) (dumpTimeout_minimal hf hstate hlater hlate)⟩,
    dumpOut_facts, dumpOf_facts _ f, fun x h hx hoff hbytes hlow hhigh hdest hin => ?read,
    fun q rest hq hhost hdumping hreset hsec => run_of_eq (f := Dev.dumpReadDone) (dumpReadDone_copies hq hhost hdumping hreset hsec), fun h => ?release⟩
  case read =>
    rw [← dumpRead_queued hx hoff hbytes hlow hhigh hdest hin]
    exact run_ringCmd_of_admits (cond := fun d _ => d.dumpCond) (body := Dev.dumpRead) h
  case release => exact run_ringCmd_of_admits (cond := fun d _ => d.dumpCond) (body := Dev.dumpRelease) h

end Sys2Proof.Machine
end

section
/-! PROOFS. Resets of the whole module and the supplies (R29, R64, R413, R414, R469, R477, R482, R485, R486, Table 17-8). -/

namespace Sys2Proof.Machine

/-! ### A row that sets the clock -/

/-- The state after a row that leaves the device `e`, outside FROST and ACTIVE, at time `n`. -/
def State.stillAt (s : State) (n : Nat) (e : Dev) : State := { pending := s.pending, dev := ({ e with now := n } : Dev).tally }

/-- Outside FROST and ACTIVE the module's state follows no work in progress. -/
theorem runAt_still {s : State} {n : Nat} {f : Dev → Dev} {e : Dev} (h : f { s.dev with now := n } = e) (hfrost : e.modState ≠ .frost) (hactive : e.modState ≠ .active) :
    s.runAt n f = .next (s.stillAt n e) := by
  rw [State.runAt, h, settle_of_state hfrost hactive]
  rfl

/-! ### What a host or function reset leaves of the configuration space (R41, R413) -/

/-- A function's view with its BAR2 at the default size. -/
def FnView.ofDefaultBar2 (v : FnView) : FnView := { v with bar2Log2 := 28 }

theorem resetConfig_bar2 (d : Dev) (f : Nat) : (d.resetConfig.view f).bar2Log2 = 28 := by
  have hview : d.resetConfig.view f = ((d.views.get? f).map FnView.ofDefaultBar2).getD {} :=
    congrArg (fun v : Option FnView => v.getD {}) (get?_mapVals FnView.ofDefaultBar2 d.views f)
  rw [hview]
  cases d.views.get? f <;> rfl

/-- What a module held in RESET by its host has kept of the device `d`. -/
def Dev.heldFrom (d y : Dev) : Prop :=
  y.modState = .reset ∧ y.pins.perst = true ∧ y.hostIf.vfEnabled = 0 ∧ (∀ f, (y.view f).bar2Log2 = 28) ∧ y.hostMem = d.hostMem ∧ y.flt.dump = d.flt.dump ∧ y.sec.slots = d.sec.slots
    ∧ (if d.modState = .reset then y.devMem = d.devMem ∧ y.jobs = d.jobs
      else y.devMem = d.devMem.filter (fun c => isDram c.1) ∧ y.jobs = [] ∧ y.ctxs = [] ∧ y.rings = [] ∧ y.prevState = d.modState.code)

/-- A host reset holds the module in RESET, and one that finds it there loses nothing more. -/
theorem hostReset_held (d : Dev) : d.heldFrom d.hostReset := by
  unfold Dev.heldFrom Dev.hostReset
  by_cases hm : d.modState = .reset
  · rw [if_pos hm, if_pos hm]
    exact ⟨hm, rfl, rfl, resetConfig_bar2 d, rfl, rfl, rfl, rfl, rfl⟩
  · rw [if_neg hm, if_neg hm]
    obtain ⟨hstate, hprev, -, hhost, hdev, hjobs, hctxs, hrings, -, -, -, -, -, hdump, hslots, -, -, -⟩ := warmReset_facts d
    have hview := resetConfig_bar2 d.warmReset
    generalize d.warmReset = w at *
    exact ⟨hstate, rfl, rfl, hview, hhost, hdump, hslots, hdev, hjobs, hctxs, hrings, hprev⟩

/-- The loss of the host clock besides keeps what a host reset keeps. -/
theorem heldFrom_hostRef {d y : Dev} (h : d.heldFrom y) : d.heldFrom { y with pins := { y.pins with hostRef := false } } := h

/-- A PF Function Level Reset (R413): it changes nothing in RESET. -/
def Dev.functionReset (d : Dev) : Dev := if d.modState = .reset then d else d.warmReset.resetConfig.releaseReset

theorem functionReset_config {d : Dev} (hm : d.modState ≠ .reset) : d.functionReset.hostIf.vfEnabled = 0 ∧ ∀ f, (d.functionReset.view f).bar2Log2 = 28 := by
  have hview := resetConfig_bar2 d.warmReset
  rw [Dev.functionReset, if_neg hm]
  generalize d.warmReset = w at *
  exact ⟨rfl, hview⟩

/-! ### The release of a host reset (R477) -/

theorem perstRelease_off {d : Dev} (h : d.pins.perst = false) : d.perstRelease = d := by
  simp [Dev.perstRelease, h]

theorem perstRelease_held {d : Dev} (h : d.pins.perst = true) :
    d.perstRelease.pins.perst = false ∧ d.perstRelease.pins.hostRef = true
      ∧ d.perstRelease.modState = (if d.modState = .reset ∧ d.pins.hubPower = true then .boot else d.modState) := by
  unfold Dev.perstRelease
  simp only [h, Bool.not_true, Bool.false_eq_true, if_false]
  split
  · exact ⟨rfl, rfl, rfl⟩
  · exact ⟨rfl, rfl, rfl⟩

/-! ### The supplies (R486) -/

/-- The WARN record of a supply changes the log and what its free words have used. -/
theorem warnSupply_form (d : Dev) : ∃ n c l q, d.warnSupply = { d with free := n, cccs := c, log := l, attnqs := q } := by
  obtain ⟨c, l, q, h⟩ := logRec_form { d with free := d.free + 2 } 1 lvWarn ((Config.freeWord d.free).toNat % 65536) 0 (Config.freeWord (d.free + 1)).toNat
  exact ⟨d.free + 2, c, l, q, h⟩

theorem warnSupply_keeps (d : Dev) : d.warnSupply.pins.excursion = d.pins.excursion ∧ d.warnSupply.modState = d.modState ∧ d.warnSupply.devMem = d.devMem := by
  obtain ⟨n, c, l, q, h⟩ := warnSupply_form d
  rw [h]
  exact ⟨rfl, rfl, rfl⟩

/-- An input group that leaves its range while the supply and the module are up (R486). -/
def Dev.excursionBegins (d : Dev) (group : Nat) : Dev :=
  if group < 2 ∧ d.pins.vin48 ∧ !bit d.pins.excursion group ∧ d.modState ≠ .reset then ({ d with pins := { d.pins with excursion := setBit d.pins.excursion group } } : Dev).warnSupply else d

theorem excursionBegins_once {d : Dev} {group : Nat} (hg : group < 2) (hvin : d.pins.vin48 = true) (hm : d.modState ≠ .reset) (hbit : bit d.pins.excursion group = false) :
    (d.excursionBegins group).pins.excursion = setBit d.pins.excursion group ∧ (d.excursionBegins group).modState = d.modState ∧ (d.excursionBegins group).devMem = d.devMem := by
  rw [Dev.excursionBegins, if_pos ⟨hg, hvin, by rw [hbit]; rfl, hm⟩]
  exact warnSupply_keeps _

theorem excursionBegins_not {d : Dev} {group : Nat} (h : 2 ≤ group ∨ d.pins.vin48 = false ∨ d.modState = .reset ∨ bit d.pins.excursion group = true) : d.excursionBegins group = d := by
  refine if_neg fun ⟨hg, hvin, hbit, hm⟩ => ?_
  rcases h with h | h | h | h
  · omega
  · simp [h] at hvin
  · exact hm h
  · simp [h] at hbit

/-- An input group that is back in its range (R486). -/
def Dev.excursionEnds (d : Dev) (group : Nat) : Dev :=
  if group < 2 ∧ bit d.pins.excursion group ∧ d.modState ≠ .reset then ({ d with pins := { d.pins with excursion := d.pins.excursion - 2 ^ group } } : Dev).warnSupply else d

theorem excursionEnds_once {d : Dev} {group : Nat} (hg : group < 2) (hbit : bit d.pins.excursion group = true) (hm : d.modState ≠ .reset) :
    (d.excursionEnds group).pins.excursion = d.pins.excursion - 2 ^ group ∧ (d.excursionEnds group).modState = d.modState ∧ (d.excursionEnds group).devMem = d.devMem := by
  rw [Dev.excursionEnds, if_pos ⟨hg, hbit, hm⟩]
  exact warnSupply_keeps _

theorem excursionEnds_not {d : Dev} {group : Nat} (h : 2 ≤ group ∨ bit d.pins.excursion group = false ∨ d.modState = .reset) : d.excursionEnds group = d := by
  refine if_neg fun ⟨hg, hbit, hm⟩ => ?_
  rcases h with h | h | h
  · omega
  · simp [h] at hbit
  · exact hm h

/-- The loss of the system clock while the hub has power (R482). -/
def Dev.clockLost (d : Dev) : Dev :=
  if d.pins.hubPower && d.pins.sysRef then ({ d with pins := { d.pins with sysRef := false } } : Dev).fatal 0x02 UnitId.timeBase.page 0x09 0 else d

theorem clockLost_fatal {d : Dev} (hhub : d.pins.hubPower = true) (hsys : d.pins.sysRef = true) (hm : d.modState ≠ .reset) (hf : d.flt.fatal = none) :
    d.clockLost = ({ d with pins := { d.pins with sysRef := false } } : Dev).fatal 0x02 UnitId.timeBase.page 0x09 0 ∧ d.clockLost.modState = .dumping
      ∧ d.clockLost.flt.fatal.map (fun f => (f.cause, f.prev)) = some (2, d.modState.code) ∧ d.clockLost.jobs = d.jobs ∧ d.clockLost.ctxs = d.ctxs := by
  have hlost : d.clockLost = ({ d with pins := { d.pins with sysRef := false } } : Dev).fatal 0x02 UnitId.timeBase.page 0x09 0 := if_pos (by rw [hhub, hsys]; rfl)
  rw [hlost]
  exact ⟨rfl, fatal_facts { d with pins := { d.pins with sysRef := false } } _ _ _ _ _ hm hf⟩

theorem clockLost_not {d : Dev} (h : d.pins.hubPower = false ∨ d.pins.sysRef = false) : d.clockLost = d :=
  if_neg (by rcases h with h | h <;> simp [h])

/-- After the loss of VIN48 the module boots again at once where the hub has power. -/
theorem vin48Loss_facts {d : Dev} (h : d.pins.vin48 = true) :
    d.vin48Loss.pins.vin48 = false ∧ d.vin48Loss.devMem = [] ∧ d.vin48Loss.jobs = [] ∧ d.vin48Loss.flt.dump = none ∧ d.vin48Loss.sec.slots = d.sec.slots
      ∧ d.vin48Loss.modState = (if d.pins.hubPower then .boot else .reset) := by
  obtain ⟨hstate, -, hdev, hjobs, -, hdump, -, -, hslots, -, hpins⟩ := coldReset_facts { d with pins := { d.pins with vin48 := false, excursion := 0 } }
  unfold Dev.vin48Loss
  simp only [h, Bool.not_true, Bool.false_eq_true, if_false]
  generalize ({ d with pins := { d.pins with vin48 := false, excursion := 0 } } : Dev).coldReset = w at *
  have hhub : w.pins.hubPower = d.pins.hubPower := by rw [hpins]
  rw [hhub]
  cases d.pins.hubPower with
  | true =>
    obtain ⟨n, c, l, q, hform⟩ := warnSupply_form (w.enterBoot { railsOff := w.boot.railsOff, tripped := w.boot.tripped })
    simp only [if_true]
    rw [hform]
    exact ⟨congrArg Pins.vin48 hpins, hdev, hjobs, hdump, hslots, rfl⟩
  | false =>
    simp only [Bool.false_eq_true, if_false]
    exact ⟨by rw [hpins], hdev, hjobs, hdump, hslots, hstate⟩

/-- The release of a lockout that power interrupted raises at most a record. -/
theorem lockoutBegins_form (d : Dev) : ∃ b q, d.lockoutBegins = { d with sec := { d.sec with lockoutAgain := b }, attnqs := q } := by
  unfold Dev.lockoutBegins
  split
  · obtain ⟨q, h⟩ := raiseFor_form (d.updSec (fun x => { x with lockoutAgain := false })) 0 1 cAuthLockout UnitId.sec.page d.sec.level d.sec.lockoutEnd
    exact ⟨false, q, h⟩
  · exact ⟨d.sec.lockoutAgain, d.attnqs, rfl⟩

/-- Power good in RESET begins BOOT at stage 0 over the memories and keys as they are. -/
theorem powerGood_boots {d : Dev} (hm : d.modState = .reset) (hhub : d.pins.hubPower = false) :
    d.powerGood.modState = .boot ∧ d.powerGood.boot.stage = 0 ∧ d.powerGood.boot.failReason = 0 ∧ d.powerGood.boot.warm = false ∧ d.powerGood.pins.hubPower = true
      ∧ d.powerGood.pins.sysRef = true ∧ d.powerGood.devMem = d.devMem ∧ d.powerGood.sec.slots = d.sec.slots := by
  obtain ⟨b, q, h⟩ := lockoutBegins_form (({ d with pins := { d.pins with hubPower := true, sysRef := true } } : Dev).enterBoot { railsOff := d.boot.railsOff, tripped := d.boot.tripped })
  have hgood : d.powerGood = (({ d with pins := { d.pins with hubPower := true, sysRef := true } } : Dev).enterBoot { railsOff := d.boot.railsOff, tripped := d.boot.tripped }).lockoutBegins := by
    rw [Dev.powerGood, if_pos ⟨hm, by rw [hhub]; rfl⟩]
  rw [hgood, h]
  exact ⟨rfl, rfl, rfl, rfl, rfl, rfl, rfl, rfl⟩

theorem powerGood_already {d : Dev} (h : d.modState ≠ .reset ∨ d.pins.hubPower = true) : d.powerGood = d := by
  refine if_neg fun hgood => ?_
  obtain ⟨hm, hhub⟩ := hgood
  rcases h with h | h
  · exact h hm
  · rw [h] at hhub
    exact Bool.false_ne_true hhub

/-! ### The rows -/

theorem exec_coldReset (s : State) (t : Nat) : exec (.coldReset t) s = s.runAt 0 (fun _ =>
    { (s.dueAt t).coldReset with pins := { (s.dueAt t).coldReset.pins with hubPower := false }, sec := { (s.dueAt t).coldReset.sec with keyChanges := [], lifeChanges := [] } }) := rfl

theorem exec_vaux33Loss (s : State) (t : Nat) : exec (.vaux33Loss t) s = s.runAt 0 (fun _ =>
    { (s.dueAt t).auxLoss with pins := { (s.dueAt t).auxLoss.pins with hubPower := false } }) := rfl

/-- The clock leaves a module in RESET there, and brings none there. -/
theorem dueAt_reset (s : State) (t : Nat) : (s.dueAt t).modState = .reset ↔ s.dev.modState = .reset := by
  rcases dueAt_modState s t with h | ⟨h, hwas⟩
  · rw [h]
  · refine iff_of_false (by rw [h]; decide) fun hreset => ?_
    rw [hreset] at hwas
    exact absurd hwas (by decide)

section
variable (s : State) (t : Nat)

theorem coldReset_ends : ∃ u : State, exec (.coldReset t) s = .next u ∧ u.pending = s.pending ∧ u.dev.now = 0 ∧ u.dev.modState = .reset ∧ u.dev.pins.hubPower = false
    ∧ u.dev.time.running = false ∧ u.dev.devMem = [] ∧ u.dev.jobs = [] ∧ u.dev.rings = [] ∧ u.dev.flt.dump = none ∧ u.dev.log.records = [] ∧ u.dev.hostMem = s.dev.hostMem
    ∧ u.dev.sec.slots = (s.dueAt t).sec.slots ∧ ∀ p, u.dev.epoch p = 1 := by
  obtain ⟨hstate, htime, hdev, hjobs, hrings, hdump, hlog, hhost, hslots, hepoch, -⟩ := coldReset_facts (s.dueAt t)
  rw [State.dueAt_hostMem] at hhost
  rw [exec_coldReset]
  generalize (s.dueAt t).coldReset = w at *
  exact ⟨_, runAt_still rfl (by rw [hstate]; decide) (by rw [hstate]; decide), rfl, rfl, hstate, rfl, htime, hdev, hjobs, hrings, hdump, hlog, hhost, hslots, hepoch⟩

theorem vaux33Loss_ends : ∃ u : State, exec (.vaux33Loss t) s = .next u ∧ u.pending = s.pending ∧ u.dev.now = 0 ∧ u.dev.modState = .reset ∧ u.dev.pins.hubPower = false
    ∧ u.dev.devMem = [] ∧ u.dev.jobs = [] ∧ u.dev.flt.dump = none ∧ u.dev.pwr.cap = 1200 ∧ u.dev.lease.status = .none ∧ u.dev.log.seq = 0 ∧ u.dev.hostMem = s.dev.hostMem
    ∧ (∀ p, u.dev.epoch p = 1) ∧ u.dev.sec.slots = (s.dueAt t).sec.slots.map (fun (e : Nat × KeySlot) => (e.1, { e.2 with last := e.2.reserve })) := by
  obtain ⟨hstate, hdev, hjobs, hdump, hcap, hlease, hlog, hhost, hepoch, hslots⟩ := auxLoss_facts (s.dueAt t)
  rw [State.dueAt_hostMem] at hhost
  rw [exec_vaux33Loss]
  generalize (s.dueAt t).auxLoss = w at *
  exact ⟨_, runAt_still rfl (by rw [hstate]; decide) (by rw [hstate]; decide), rfl, rfl, hstate, rfl, hdev, hjobs, hdump, hcap, hlease, hlog, hhost, hepoch, hslots⟩

theorem vin48Loss_ends (h : s.dev.pins.vin48 = true) : ∃ u : State, exec (.vin48Loss t) s = .next u ∧ u.pending = s.pending ∧ u.dev.now = 0 ∧ u.dev.pins.vin48 = false
    ∧ u.dev.devMem = [] ∧ u.dev.jobs = [] ∧ u.dev.flt.dump = none ∧ u.dev.sec.slots = (s.dueAt t).sec.slots ∧ u.dev.modState = (if s.dev.pins.hubPower then .boot else .reset) := by
  have hexec : exec (.vin48Loss t) s = s.runAt 0 (fun _ => (s.dueAt t).vin48Loss) := congrArg (fun n => s.runAt n (fun _ => (s.dueAt t).vin48Loss)) (if_pos h)
  obtain ⟨hvin, hdev, hjobs, hdump, hslots, hstate⟩ := vin48Loss_facts (d := s.dueAt t) (by rw [State.dueAt_pins]; exact h)
  rw [State.dueAt_pins] at hstate
  rw [hexec]
  generalize (s.dueAt t).vin48Loss = w at *
  have hstill : w.modState ≠ .frost ∧ w.modState ≠ .active := by
    rw [hstate]
    split <;> decide
  exact ⟨_, runAt_still rfl hstill.1 hstill.2, rfl, rfl, hvin, hdev, hjobs, hdump, hslots, hstate⟩

theorem vin48Loss_again (h : s.dev.pins.vin48 = false) : exec (.vin48Loss t) s = .next (s.endsWith t (s.dueAt t)) := by
  have hkeeps : (s.dueAt t).vin48Loss = s.dueAt t := if_pos (by rw [State.dueAt_pins, h]; rfl)
  show s.runAt (if s.dev.pins.vin48 then 0 else max s.dev.now t) (fun _ => (s.dueAt t).vin48Loss) = _
  rw [h, hkeeps]
  rfl

theorem hubPowerGood_ends (hm : s.dev.modState = .reset) (hhub : s.dev.pins.hubPower = false) : ∃ u : State, exec (.hubPowerGood t) s = .next u ∧ u.pending = s.pending ∧ u.dev.now = 0
    ∧ u.dev.modState = .boot ∧ u.dev.boot.stage = 0 ∧ u.dev.boot.failReason = 0 ∧ u.dev.boot.warm = false ∧ u.dev.pins.hubPower = true ∧ u.dev.pins.sysRef = true
    ∧ u.dev.devMem = s.dev.devMem ∧ u.dev.sec.slots = (s.dueAt t).sec.slots := by
  have hexec : exec (.hubPowerGood t) s = s.runAt 0 (fun _ => (s.dueAt t).powerGood) :=
    congrArg (fun n => s.runAt n (fun _ => (s.dueAt t).powerGood)) (if_pos (by rw [hm, hhub]; decide))
  obtain ⟨hstate, hstage, hfail, hwarm, hpower, hsys, hdev, hslots⟩ := powerGood_boots (d := s.dueAt t) ((dueAt_reset s t).mpr hm) (by rw [State.dueAt_pins]; exact hhub)
  rw [State.dueAt_devMem] at hdev
  rw [hexec]
  generalize (s.dueAt t).powerGood = w at *
  exact ⟨_, runAt_still rfl (by rw [hstate]; decide) (by rw [hstate]; decide), rfl, rfl, hstate, hstage, hfail, hwarm, hpower, hsys, hdev, hslots⟩

theorem hubPowerGood_keeps (h : s.dev.modState ≠ .reset ∨ s.dev.pins.hubPower = true) : exec (.hubPowerGood t) s = .next (s.endsWith t (s.dueAt t)) := by
  have hnot : ¬ (s.dev.modState == .reset && !s.dev.pins.hubPower) = true := by
    rcases h with h | h <;> simp [h]
  have hkeeps : (s.dueAt t).powerGood = s.dueAt t := powerGood_already (by rw [State.dueAt_pins, Ne, dueAt_reset]; exact h)
  show s.runAt (if s.dev.modState == .reset && !s.dev.pins.hubPower then 0 else max s.dev.now t) (fun _ => (s.dueAt t).powerGood) = _
  rw [if_neg hnot, hkeeps]
  rfl

end

/-- Settles O42: what the resets of the module and its supplies leave and keep. -/
theorem resetsOfTheModule : Obligations.ResetsOfTheModule := by
  intro s t r group c
  refine ⟨fun h => ⟨_, run_ringCmd_of_admits (cond := fun _ _ => none) (body := fun _ d => d.warmReset.releaseReset) h, released_facts _⟩,
    ⟨_, run_of_eq (f := Dev.functionReset) rfl, fun hm => ⟨?function, functionReset_config hm⟩, fun hm => if_pos hm⟩, ⟨_, run_of_eq (f := Dev.hostReset) rfl, hostReset_held _⟩,
    ⟨_, rfl, heldFrom_hostRef (hostReset_held _), rfl⟩, ⟨_, run_of_eq (f := Dev.perstRelease) rfl, perstRelease_off, perstRelease_held⟩, coldReset_ends s t, vaux33Loss_ends s t,
    vin48Loss_ends s t, vin48Loss_again s t, hubPowerGood_ends s t, hubPowerGood_keeps s t, ⟨_, run_of_eq (f := (Dev.excursionBegins · group)) rfl, excursionBegins_once, excursionBegins_not⟩,
    ⟨_, run_of_eq (f := (Dev.excursionEnds · group)) rfl, excursionEnds_once, excursionEnds_not⟩, ⟨_, run_of_eq (f := Dev.clockLost) rfl, clockLost_fatal, clockLost_not⟩⟩
  case function =>
    rw [Dev.functionReset, if_neg hm]
    exact functionReset_facts _

end Sys2Proof.Machine
end

section
/-! PROOFS. Unit resets and the resets of virtual functions (R29, R415, R419 to R421). -/

namespace Sys2Proof.Machine

/-! ### UNIT_RESET (R419) -/

theorem exec_unitReset {s : State} {t r : Nat} {c : Cmd} (h : (s.dueAt t).admits r c ((s.dueAt t).specUnitReset c) ((s.dueAt t).unitResetCond c)) :
    exec (.unitReset t r) s = .next (s.endsRing t r (((s.dueAt t).taken r c ((s.dueAt t).specUnitReset c) ((s.dueAt t).unitResetCond c)).unitReset c)) := by
  show s.run t (fun d => d.ringCmd r d.specUnitReset anyForm d.unitResetCond Dev.unitReset) = _
  rw [run_eq, ringCmd_of_admits (c := c) (spec := (s.dueAt t).specUnitReset) rfl h rfl]
  rfl

section
variable {d : Dev} {c : Cmd} {u : UnitId} (hu : (d.viewPage c.fn c.target).bind unitOf = some u)
include hu

theorem unitReset_barred (hbar : d.resetBarred u = true) : d.unitReset c = d.answer c cIllegal 0 0 := by
  rw [Dev.unitReset, hu]
  exact if_pos hbar

/-- A unit that may be reset now is remembered with the epoch before, and reset. -/
theorem unitReset_begins (hbar : d.resetBarred u = false) :
    d.unitReset c = ({ d.answerPending c 0 0 with
      sec := { (d.answerPending c 0 0).sec with chalValid := false, chalVoided := false }
      flt := { (d.answerPending c 0 0).flt with unitResets := (d.answerPending c 0 0).flt.unitResets ++
        [{ page := u.page, oldEpoch := d.epoch u.page, pend := (d.answerPending c 0 0).pendOf c }] } } : Dev).beginReset u := by
  rw [Dev.unitReset, hu]
  exact if_neg (by rw [hbar]; exact Bool.false_ne_true)

end

/-- The reset of a unit with none below it ends with the unit IDLE at its new epoch. -/
theorem unitResetDone_leaf {d : Dev} {page : Nat} {u : UnitId} {o : UnitResetOp} (ho : d.flt.unitResets.find? (fun o => o.page == page) = some o) (hu : unitOf page = some u)
    (hpage : u.page = page) (hleaf : u.children d.geo = []) :
    ∃ y : Dev, d.unitResetDone page = (y.class6 page o.oldEpoch 1).finish o.pend cOk (d.epoch page) 0 ∧ (y.hdr page).ustate = .idle ∧ y.epoch page = d.epoch page := by
  have hsub : UnitId.subtree d.geo u = [u] := by
    unfold UnitId.subtree
    rw [hleaf]
    rfl
  have hepoch := endUnit_epoch { d with flt := { d.flt with unitResets := d.flt.unitResets.filter (fun x => x.page != page) } } u page
  have hidle := endUnit_idle { d with flt := { d.flt with unitResets := d.flt.unitResets.filter (fun x => x.page != page) } } u
  have hdone : d.unitResetDone page = ((Dev.endUnit { d with flt := { d.flt with unitResets := d.flt.unitResets.filter (fun x => x.page != page) } } u).class6 page o.oldEpoch 1).finish
      o.pend cOk ((Dev.endUnit { d with flt := { d.flt with unitResets := d.flt.unitResets.filter (fun x => x.page != page) } } u).epoch page) 0 := by
    have hgeo : ({ d with flt := { d.flt with unitResets := d.flt.unitResets.filter (fun x => x.page != page) } } : Dev).geo = d.geo := rfl
    simp only [Dev.unitResetDone, ho, hu, hgeo, hsub, List.foldl_cons, List.foldl_nil]
  rw [hpage] at hidle
  rw [hdone, hepoch]
  exact ⟨_, rfl, hidle, hepoch⟩

theorem unitResetDone_none {d : Dev} {page : Nat} (ho : d.flt.unitResets.find? (fun o => o.page == page) = none) : d.unitResetDone page = d := by
  simp only [Dev.unitResetDone, ho]

/-! ### Resets of a virtual function (R415) -/

/-- A ring after the reset of a virtual function. -/
def Ring.afterReset (fn : Nat) (g : Ring) : Ring := if g.owner = fn then { g with enable := false, halted := false, held := [], awaiting := 0 } else g

/-- Every ring of a function that is reset is disabled, with no completion waiting. -/
theorem afterReset_rings {fn : Nat} (hfn : 1 ≤ fn) (rs : Tab Ring) (k : Nat) :
    let g := Tab.getD (rs.map (fun (e : Nat × Ring) => if e.2.owner = fn then (e.1, { e.2 with enable := false, halted := false, held := [], awaiting := 0 }) else e)) k ({} : Ring)
    g.owner = fn → g.enable = false ∧ g.held = [] ∧ g.awaiting = 0 := by
  have hmap : rs.map (fun (e : Nat × Ring) => if e.2.owner = fn then (e.1, { e.2 with enable := false, halted := false, held := [], awaiting := 0 }) else e)
      = rs.map (fun (e : Nat × Ring) => (e.1, e.2.afterReset fn)) := by
    refine List.map_congr_left fun e _ => ?_
    unfold Ring.afterReset
    split <;> rfl
  have hring : ∀ g : Ring, (g.afterReset fn).owner = fn → (g.afterReset fn).enable = false ∧ (g.afterReset fn).held = [] ∧ (g.afterReset fn).awaiting = 0 := by
    intro g hown
    unfold Ring.afterReset at hown ⊢
    split at hown
    · rename_i hg
      rw [if_pos hg]
      exact ⟨rfl, rfl, rfl⟩
    · rename_i hg
      exact absurd hown hg
  dsimp only
  rw [hmap]
  unfold Tab.getD
  rw [get?_mapVals (Ring.afterReset fn)]
  cases rs.get? k with
  | none => exact fun hown => absurd hown (show (0 : Nat) ≠ fn by omega)
  | some g => exact hring g

theorem vfReset_not {d : Dev} {fn : Nat} (h : fn = 0 ∨ d.fnActs fn = false ∨ d.modState = .reset ∨ fn ∈ d.flt.vfResets) : d.vfReset fn = d :=
  if_pos (by simpa using h)

/-- A function that is reset has its reset under way and no ring enabled. -/
theorem vfReset_disables {d : Dev} {fn : Nat} (hfn : 1 ≤ fn) (hact : d.fnActs fn = true) (hm : d.modState ≠ .reset) (hnew : fn ∉ d.flt.vfResets) :
    fn ∈ (d.vfReset fn).flt.vfResets ∧ ∀ k, ((d.vfReset fn).ring k).owner = fn →
      ((d.vfReset fn).ring k).enable = false ∧ ((d.vfReset fn).ring k).held = [] ∧ ((d.vfReset fn).ring k).awaiting = 0 := by
  have hgo : ¬ (fn = 0 ∨ d.fnActs fn = false ∨ d.modState = .reset ∨ d.flt.vfResets.contains fn = true) := by
    simp [hact, hm, hnew]
    omega
  unfold Dev.vfReset
  rw [if_neg hgo]
  dsimp only
  generalize List.foldl (fun d n => Dev.destroyCtx d n) _ _ = e
  exact ⟨List.mem_append_right _ (List.mem_singleton_self fn), fun k => afterReset_rings hfn e.rings k⟩

theorem vfResetDone_ends {d : Dev} {fn : Nat} (h : fn ∈ d.flt.vfResets) :
    d.vfResetDone fn = ({ d with flt := { d.flt with vfResets := d.flt.vfResets.filter (fun f => f != fn) } } : Dev).raise 6 cUnitReset UnitId.hostIf.page (fn + 65536 * 3) d.deviceTime :=
  if_pos (by simpa using h)

theorem vfResetDone_not {d : Dev} {fn : Nat} (h : fn ∉ d.flt.vfResets) : d.vfResetDone fn = d := if_neg (by simpa using h)

/-- Settles O43: unit resets and the resets of virtual functions begin and complete. -/
theorem unitAndFunctionResets : Obligations.UnitAndFunctionResets := by
  intro s t r page fn c u o
  refine ⟨fun h hu => ⟨fun hbar => ?barred, fun hbar => ?begins⟩, fun x hleaf => beginReset_leaf x u hleaf, fun ho hu hpage hleaf => ?ends,
    fun ho => run_of_eq (f := (Dev.unitResetDone · page)) (unitResetDone_none ho),
    ⟨_, run_of_eq (f := (Dev.vfReset · fn)) rfl, vfReset_not, vfReset_disables⟩, fun h => run_of_eq (f := (Dev.vfResetDone · fn)) (vfResetDone_ends h),
    fun h => run_of_eq (f := (Dev.vfResetDone · fn)) (vfResetDone_not h)⟩
  case barred => rw [exec_unitReset h, unitReset_barred hu hbar]
  case begins => rw [exec_unitReset h, unitReset_begins hu hbar]
  case ends =>
    obtain ⟨y, hy, hfacts⟩ := unitResetDone_leaf ho hu hpage hleaf
    exact ⟨y, run_of_eq (f := (Dev.unitResetDone · page)) hy, hfacts⟩

end Sys2Proof.Machine
end

section
/-! PROOFS. Performance counters: counting, wraps, chains, samples and the writes of a counter window (R430 to R433, R442 to R444). -/

namespace Sys2Proof.Machine

/-- A row's answer, from what its body makes of the device it finds. -/
theorem run_of_due {s : State} {t : Nat} {d e : Dev} {f : Dev → Dev} (hd : s.dueAt t = d) (h : f d = e) : s.run t f = .next (s.endsWith t e) :=
  run_of_eq (hd ▸ h)

/-! ### Counting (R430, R431) -/

theorem windowUnit_unitOf {d : Dev} {p : Nat} {u : UnitId} (h : d.windowUnit p = some u) : unitOf p = some u := by
  unfold Dev.windowUnit at h
  cases hu : unitOf p with
  | none => simp [hu] at h
  | some v =>
    simp only [hu, Option.ite_none_right_eq_some, Option.some.injEq] at h
    rw [h.2]

section
variable {d : Dev} {p n k : Nat} {x : SampleItem}

/-- Occurrences that come with the command reach the counter unless the counters are frozen, the event is counted by the clock, the filter bars them, or a cycle cannot hold them. -/
theorem count_of_unit {u : UnitId} (hu : unitOf p = some u) :
    d.count p n k x = if d.reader.frozen || !timedEvents.contains ((d.cnt p).counter n).event || !((d.cnt p).counter n).passes ((d.jobs.get? x.job).map (·.ctx))
        || decide (2 ^ 48 + eventMax u.type ((d.cnt p).counter n).event ≤ ((d.cnt p).counter n).value + k) then d
      else d.addTo p n k x := by
  unfold Dev.count
  rw [hu]
  cases d.jobs.get? x.job <;> rfl

/-- The context whose job an item belongs to, as the row's `match` gives it. -/
theorem itemCtx_eq (c : Counter) (o : Option Job) : c.passes (match o with | some j => some j.ctx | none => none) = c.passes (o.map (·.ctx)) := by
  cases o <;> rfl

theorem timed_event_ne_zero {ev : Nat} (h : ev ∈ timedEvents) : ev ≠ 0 := by
  rintro rfl
  exact absurd h (by decide)

/-- What a counter needs to take `k` occurrences: a unit's page, an enabled counter that is not chained, an event whose occurrences come with the command, a filter that passes, no freeze, a unit that runs, and no more than a cycle holds. -/
def Dev.takesCount (d : Dev) (p n k : Nat) (x : SampleItem) (u : UnitId) : Prop :=
  d.windowUnit p = some u ∧ n < 8 ∧ ((d.cnt p).counter n).enabled = true ∧ (n % 2 = 1 → ((d.cnt p).counter n).chain = false) ∧ ((d.cnt p).counter n).event ∈ timedEvents
    ∧ ((d.cnt p).counter n).passes ((d.jobs.get? x.job).map (·.ctx)) = true ∧ d.reader.frozen = false ∧ (d.hdr p).countersRun = true ∧ 0 < k ∧ ((d.cnt p).counter n).value + k < 2 ^ 48 + eventMax u.type ((d.cnt p).counter n).event

/-- The row's conditions, whose filter names the item's context by a `match`. -/
theorem takesCount_of {u : UnitId} (h : d.windowUnit p = some u ∧ n < 8 ∧ ((d.cnt p).counter n).enabled = true ∧ (n % 2 = 1 → ((d.cnt p).counter n).chain = false) ∧ ((d.cnt p).counter n).event ∈ timedEvents
      ∧ ((d.cnt p).counter n).passes (match d.jobs.get? x.job with | some j => some j.ctx | none => none) = true ∧ d.reader.frozen = false ∧ (d.hdr p).countersRun = true ∧ 0 < k
      ∧ ((d.cnt p).counter n).value + k < 2 ^ 48 + eventMax u.type ((d.cnt p).counter n).event) : d.takesCount p n k x u := by
  rw [itemCtx_eq] at h
  exact h

theorem count_takes {u : UnitId} (h : d.takesCount p n k x u) :
    d.count p n k x = if ((d.cnt p).counter n).value + k < 2 ^ 48 then d.updCnt p (fun _ => (d.cnt p).set n { (d.cnt p).counter n with value := ((d.cnt p).counter n).value + k })
      else d.wrapped p n (((d.cnt p).counter n).value + k - 2 ^ 48) x := by
  obtain ⟨hu, hn, hen, hchain, hev, hpass, hfrozen, hrun, hk, hmax⟩ := h
  have hsolo : (n % 2 == 1 && ((d.cnt p).counter n).chain) = false := by
    by_cases hodd : n % 2 = 1
    · rw [hchain hodd, Bool.and_false]
    · simp [hodd]
  have hcounts : d.counts p n = true := by
    simp [Dev.counts, hu, hn, hen, hsolo, timed_event_ne_zero hev, hrun]
  rw [count_of_unit (windowUnit_unitOf hu), hfrozen, List.contains_iff_mem.mpr hev, hpass, decide_eq_false (Nat.not_le.mpr hmax)]
  have hgo : ¬ (k = 0 ∨ d.counts p n = false) := by
    rw [hcounts]
    simp
    omega
  simp only [Bool.not_true, Bool.or_self, Bool.false_eq_true, if_false]
  rw [Dev.addTo, if_neg hgo]
  rfl

theorem count_adds {u : UnitId} (h : d.takesCount p n k x u) (hlt : ((d.cnt p).counter n).value + k < 2 ^ 48) :
    d.count p n k x = d.updCnt p (fun _ => (d.cnt p).set n { (d.cnt p).counter n with value := ((d.cnt p).counter n).value + k }) := by
  rw [count_takes h, if_pos hlt]

theorem count_wraps {u : UnitId} (h : d.takesCount p n k x u) (hge : 2 ^ 48 ≤ ((d.cnt p).counter n).value + k) : d.count p n k x = d.wrapped p n (((d.cnt p).counter n).value + k - 2 ^ 48) x := by
  rw [count_takes h, if_neg (Nat.not_lt.mpr hge)]

theorem count_stays (h : d.windowUnit p = none ∨ 8 ≤ n ∨ ((d.cnt p).counter n).enabled = false ∨ (n % 2 = 1 ∧ ((d.cnt p).counter n).chain = true) ∨ ((d.cnt p).counter n).event ∉ timedEvents
    ∨ ((d.cnt p).counter n).passes ((d.jobs.get? x.job).map (·.ctx)) = false ∨ d.reader.frozen = true ∨ (d.hdr p).countersRun = false) : d.count p n k x = d := by
  cases hu : unitOf p with
  | none => simp only [Dev.count, hu]
  | some u =>
    rw [count_of_unit hu]
    split
    · rfl
    · rename_i hopen
      simp only [Bool.or_eq_true, Bool.not_eq_true', decide_eq_true_eq, not_or, Bool.not_eq_true, Bool.not_eq_false, List.contains_iff_mem] at hopen
      obtain ⟨⟨⟨hfrozen, hev⟩, hpass⟩, -⟩ := hopen
      have hcounts : d.counts p n = false := by
        rcases h with h | h | h | h | h | h | h | h
        · simp [Dev.counts, h]
        · simp [Dev.counts, Nat.not_lt.mpr h]
        · simp [Dev.counts, h]
        · simp [Dev.counts, h.1, h.2]
        · exact absurd hev h
        · simp [hpass] at h
        · simp [hfrozen] at h
        · simp [Dev.counts, h]
      rw [Dev.addTo, if_pos (Or.inr hcounts)]

/-! ### Wraps (R431) -/

section
variable {b : Nat}

section
variable (heven : n % 2 = 0) (hchain : ((d.cnt p).counter (n + 1)).chain = true)
include heven hchain

/-- A wrap into an enabled partner adds one to it. -/
theorem wrapped_chained (hen : ((d.cnt p).counter (n + 1)).enabled = true) (hroom : ((d.cnt p).counter (n + 1)).value + 1 < 2 ^ 48) :
    d.wrapped p n b x = d.updCnt p (fun _ => ((d.cnt p).set n { (d.cnt p).counter n with value := b % 2 ^ 48 }).set (n + 1)
      { (d.cnt p).counter (n + 1) with value := ((d.cnt p).counter (n + 1)).value + 1 }) := by
  unfold Dev.wrapped
  simp only [heven, hchain, hen, and_self, if_true, Nat.ne_of_lt hroom, if_false, Nat.mod_eq_of_lt hroom]
  rfl

/-- A partner that wraps in turn sets its own OVF bit. -/
theorem wrapped_chained_over (hen : ((d.cnt p).counter (n + 1)).enabled = true) (hfull : ((d.cnt p).counter (n + 1)).value + 1 = 2 ^ 48) :
    d.wrapped p n b x = d.updCnt p (fun _ => { ((d.cnt p).set n { (d.cnt p).counter n with value := b % 2 ^ 48 }).set (n + 1) { (d.cnt p).counter (n + 1) with value := 0 } with
      ovf := (d.cnt p).ovf ||| 2 ^ (n + 1) }) := by
  unfold Dev.wrapped
  simp only [heven, hchain, hen, and_self, if_true, hfull, Nat.mod_self]
  rfl

theorem wrapped_chained_off (hen : ((d.cnt p).counter (n + 1)).enabled = false) :
    d.wrapped p n b x = d.updCnt p (fun _ => (d.cnt p).set n { (d.cnt p).counter n with value := b % 2 ^ 48 }) := by
  unfold Dev.wrapped
  simp only [heven, hchain, hen, and_self, if_true, Bool.false_eq_true, if_false]

end

section
variable (hsolo : n % 2 = 1 ∨ ((d.cnt p).counter (n + 1)).chain = false)
include hsolo

theorem not_chained : ¬ (n % 2 = 0 ∧ ((d.cnt p).counter (n + 1)).chain = true) := by
  rintro ⟨heven, hchain⟩
  rcases hsolo with h | h
  · omega
  · rw [h] at hchain
    exact Bool.false_ne_true hchain

/-- A wrap for itself sets the counter's OVF bit. -/
theorem wrapped_over (hs : ((d.cnt p).counter n).sampling = false) :
    d.wrapped p n b x = d.updCnt p (fun _ => { (d.cnt p).set n { (d.cnt p).counter n with value := b % 2 ^ 48 } with ovf := (d.cnt p).ovf ||| 2 ^ n }) := by
  unfold Dev.wrapped
  rw [if_neg (not_chained hsolo)]
  simp only [hs, Bool.false_eq_true, if_false]
  rfl

/-- With SAMPLE a wrap takes the unit's one sample. -/
theorem wrapped_samples (hs : ((d.cnt p).counter n).sampling = true) (hnone : (d.cnt p).sample = none) :
    d.wrapped p n b x = d.updCnt p (fun _ => { (d.cnt p).set n { (d.cnt p).counter n with value := (2 ^ 48 - d.reader.period + b) % 2 ^ 48 } with
      ovf := (d.cnt p).ovf ||| 2 ^ n, sample := some (d.sampleWord p ((d.cnt p).counter n).event x) }) := by
  unfold Dev.wrapped
  rw [if_neg (not_chained hsolo)]
  simp only [hs, if_true, CntWin.set, hnone, Option.isSome_none, Bool.false_eq_true, if_false]

/-- A wrap with the unit's sample taken is counted lost. -/
theorem wrapped_loses (hs : ((d.cnt p).counter n).sampling = true) (hsome : (d.cnt p).sample.isSome = true) :
    d.wrapped p n b x = { d.updCnt p (fun _ => { (d.cnt p).set n { (d.cnt p).counter n with value := (2 ^ 48 - d.reader.period + b) % 2 ^ 48 } with ovf := (d.cnt p).ovf ||| 2 ^ n }) with
      reader := { d.reader with lost := satAdd 0xFFFFFFFF d.reader.lost 1 } } := by
  unfold Dev.wrapped
  rw [if_neg (not_chained hsolo)]
  simp only [hs, if_true, CntWin.set, hsome]
  rfl

end
end

/-! ### Samples (R442, R443) -/

/-- A sample whose item no longer waits enters the ring, or is lost where the ring is full. -/
theorem sampleEnd_stores {o : SampleOutcome} {word : Nat} (hs : (d.cnt p).sample = some word) (hw : d.sampleWaits p word = false) :
    d.sampleEnd p o = { d.updCnt p (fun _ => { d.cnt p with sample := none }) with
      reader := if d.reader.samples.length < 1024 then { d.reader with samples := d.reader.samples ++ [word + 2 ^ 384 * (match o with | .completed n => min n 0xFFFFFFFF | .discarded => 0xFFFFFFFF)] }
        else { d.reader with lost := satAdd 0xFFFFFFFF d.reader.lost 1 } } := by
  simp only [Dev.sampleEnd, hs, hw, Bool.false_eq_true, if_false, Dev.sampleStore]
  cases o <;> rfl

theorem sampleEnd_stays {o : SampleOutcome} {word : Nat} (h : (d.cnt p).sample = none ∨ ((d.cnt p).sample = some word ∧ d.sampleWaits p word = true)) : d.sampleEnd p o = d := by
  rcases h with h | ⟨hs, hw⟩
  · simp only [Dev.sampleEnd, h]
  · simp only [Dev.sampleEnd, hs, hw, if_true]

end

/-! ### Writes of a counter window (R432, R433) -/

section
variable {d : Dev} {p n data : Nat} {u : UnitId} (hu : d.windowUnit p = some u)
include hu

theorem selWrite_sets (hev : bits data 15 0 = 0 ∨ bits data 15 0 ∈ eventsOf u.type) (hsample : bit data 18 = true → canSample u.type = true)
    (hopen : (0x8000 ≤ bits data 15 0 ∨ bit data 18 = true) → d.sec.traceOpen = true) :
    d.selWrite p n data = d.updCnt p (fun _ => (d.cnt p).set n { (d.cnt p).counter n with sel := data &&& selMask n }) := by
  have hdefined : ¬ ((bits data 15 0 != 0 && !(eventsOf u.type).contains (bits data 15 0)) || (bit data 18 && !canSample u.type)) = true := by
    have hknown : (bits data 15 0 != 0 && !(eventsOf u.type).contains (bits data 15 0)) = false := by
      rcases hev with h | h
      · simp [h]
      · simp [h]
    have hsampled : (bit data 18 && !canSample u.type) = false := by
      cases hb : bit data 18
      · rfl
      · rw [hsample hb]
        rfl
    rw [hknown, hsampled]
    exact Bool.false_ne_true
  have hallowed : ¬ ((decide (0x8000 ≤ bits data 15 0) || bit data 18) && !d.sec.traceOpen) = true := by
    simp only [Bool.and_eq_true, Bool.or_eq_true, decide_eq_true_eq, Bool.not_eq_true', not_and]
    intro hext
    rw [hopen hext]
    exact Bool.false_ne_true.symm
  unfold Dev.selWrite
  rw [hu]
  dsimp only
  rw [if_neg hdefined, if_neg hallowed]
  rfl

theorem selWrite_undefined (hne : bits data 15 0 ≠ 0) (hev : bits data 15 0 ∉ eventsOf u.type) : d.selWrite p n data = d.refuse 0 p (0xF00 + 4 * n) 4 data cOutOfRange := by
  simp [Dev.selWrite, hu, hne, hev]

theorem selWrite_closed (hev : bits data 15 0 ∈ eventsOf u.type) (hsample : bit data 18 = false) (hext : 0x8000 ≤ bits data 15 0) (hclosed : d.sec.traceOpen = false) :
    d.selWrite p n data = d.refuse 0 p (0xF00 + 4 * n) 4 data cIllegal := by
  simp [Dev.selWrite, hu, hev, hsample, hext, hclosed]

theorem cntHi_takes : d.cntHi p n data = d.updCnt p (fun _ => (d.cnt p).set n
    { (d.cnt p).counter n with value := ((d.cnt p).counter n).lo.getD (((d.cnt p).counter n).value % 2 ^ 32) + 2 ^ 32 * (data % 2 ^ 16), lo := none }) := by
  unfold Dev.cntHi
  rw [hu]
  rfl

end

/-! ### The rows -/

section
variable {s : State} {t p n data : Nat} {d : Dev} (hd : s.dueAt t = d)
include hd

theorem exec_cntSelWrite (hm : d.modState ≠ .reset) (hn : n < 8) (hdata : data < 2 ^ 32) : exec (.cntSelWrite t 0 p n data) s = .next (s.endsWith t (d.selWrite p n data)) := by
  refine run_of_due (f := fun d => if 0 = 0 ∧ n < 8 ∧ d.modState ≠ .reset then d.selWrite p n (data % 2 ^ 32) else d) hd ?_
  rw [if_pos ⟨rfl, hn, hm⟩, Nat.mod_eq_of_lt hdata]

theorem exec_cntHiWrite (hm : d.modState ≠ .reset) (hn : n < 8) : exec (.cntHiWrite t 0 p n data) s = .next (s.endsWith t (d.cntHi p n data)) :=
  run_of_due (f := fun d => if 0 = 0 ∧ n < 8 ∧ d.modState ≠ .reset then d.cntHi p n data else d) hd (if_pos ⟨rfl, hn, hm⟩)

theorem exec_samplePop (h : d.hostOpen .counter = true) : exec (.samplePop t 0 data) s = .next (s.endsWith t (d.samplePop data)) :=
  run_of_due (f := fun d => if 0 = 0 ∧ d.hostOpen .counter = true then d.samplePop data else d) hd (if_pos ⟨rfl, h⟩)

/-- A virtual function reaches no counter window and no sample. -/
theorem exec_counters_virtual {fn : Nat} (hfn : fn ≠ 0) :
    exec (.cntSelWrite t fn p n data) s = .next (s.endsWith t d) ∧ exec (.cntHiWrite t fn p n data) s = .next (s.endsWith t d) ∧ exec (.samplePop t fn data) s = .next (s.endsWith t d) :=
  ⟨run_of_due (f := fun d => if fn = 0 ∧ n < 8 ∧ d.modState ≠ .reset then d.selWrite p n (data % 2 ^ 32) else d) hd (if_neg fun h => hfn h.1),
    run_of_due (f := fun d => if fn = 0 ∧ n < 8 ∧ d.modState ≠ .reset then d.cntHi p n data else d) hd (if_neg fun h => hfn h.1),
    run_of_due (f := fun d => if fn = 0 ∧ d.hostOpen .counter = true then d.samplePop data else d) hd (if_neg fun h => hfn h.1)⟩

theorem exec_counterWrap {k : Nat} {x : SampleItem} {e : Dev} (h : d.count p n k x = e) : exec (.counterWrap t p n k x) s = .next (s.endsWith t e) :=
  run_of_due (f := (Dev.count · p n k x)) hd h

theorem exec_wraps {k : Nat} {x : SampleItem} {u : UnitId} {e : Dev} (h : d.takesCount p n k x u) (hge : 2 ^ 48 ≤ ((d.cnt p).counter n).value + k)
    (he : d.wrapped p n (((d.cnt p).counter n).value + k - 2 ^ 48) x = e) : exec (.counterWrap t p n k x) s = .next (s.endsWith t e) :=
  exec_counterWrap hd ((count_wraps h hge).trans he)

theorem exec_sampleRecordWrite {o : SampleOutcome} {e : Dev} (h : d.sampleEnd p o = e) : exec (.sampleRecordWrite t p o) s = .next (s.endsWith t e) :=
  run_of_due (f := (Dev.sampleEnd · p o)) hd h

end

theorem samplePop_draining {d : Dev} {data : Nat} (h : d.reader.drain.isSome = true) : d.samplePop data = d.refuse 0 UnitId.counter.page 0x054 4 data cIllegal :=
  if_pos h

theorem samplePop_removes {d : Dev} {data : Nat} (h : d.reader.drain = none) :
    d.samplePop data = if bit data 0 then { d with reader := { d.reader with samples := d.reader.samples.drop 1 } } else d := by
  rw [Dev.samplePop, h]
  rfl

/-- Settles O48: a counter that may count adds what comes, and wraps into its partner, its OVF bit or a sample. -/
theorem countersCountAndSample : Obligations.CountersCountAndSample := by
  intro s t p n k fn data x o word u
  generalize hd : s.dueAt t = d
  refine ⟨fun hc hlt => exec_counterWrap hd (count_adds (takesCount_of hc) hlt), fun hc hge => ⟨?chained, ?chainedOver, ?partnerOff, ?single, ?sampled⟩, ?stays,
    fun hs hw => exec_sampleRecordWrite hd (sampleEnd_stores hs hw), fun h => exec_sampleRecordWrite hd (sampleEnd_stays h), ?window, fun hfn => exec_counters_virtual hd hfn,
    fun hopen hdrain => (exec_samplePop hd hopen).trans (by rw [samplePop_draining hdrain]), fun hopen hdrain => (exec_samplePop hd hopen).trans (by rw [samplePop_removes hdrain])⟩
  case chained => exact fun heven hchain hen hroom => exec_wraps hd (takesCount_of hc) hge (wrapped_chained heven hchain hen hroom)
  case chainedOver => exact fun heven hchain hen hfull => exec_wraps hd (takesCount_of hc) hge (wrapped_chained_over heven hchain hen hfull)
  case partnerOff => exact fun heven hchain hen => exec_wraps hd (takesCount_of hc) hge (wrapped_chained_off heven hchain hen)
  case single => exact fun hsolo hs => exec_wraps hd (takesCount_of hc) hge (wrapped_over hsolo hs)
  case sampled =>
    exact fun hsolo hs => ⟨fun hnone => exec_wraps hd (takesCount_of hc) hge (wrapped_samples hsolo hs hnone), fun hsome => exec_wraps hd (takesCount_of hc) hge (wrapped_loses hsolo hs hsome)⟩
  case stays =>
    intro h
    refine exec_counterWrap hd (count_stays ?_)
    exact h.imp_right (Or.imp_right (Or.imp_right (Or.imp_right (Or.imp_right (Or.imp_left fun hp => (itemCtx_eq _ _).symm.trans hp)))))
  case window =>
    intro hu hm hn hdata
    refine ⟨fun hev hsample hopen => ?_, fun hne hev => ?_, fun hev hsample hext hclosed => ?_, ?_⟩
    · rw [exec_cntSelWrite hd hm hn hdata, selWrite_sets hu hev hsample hopen]
    · rw [exec_cntSelWrite hd hm hn hdata, selWrite_undefined hu hne hev]
    · rw [exec_cntSelWrite hd hm hn hdata, selWrite_closed hu hev hsample hext hclosed]
    · rw [exec_cntHiWrite hd hm hn, cntHi_takes hu]

end Sys2Proof.Machine
end

section
/-! PROOFS. COUNTER_FREEZE, what happens at S, the snapshot and drain written out, and bandwidth windows (R437 to R441). -/

namespace Sys2Proof.Machine

/-! ### COUNTER_FREEZE (R437, R438, R440) -/

section
variable {d : Dev} {c : Cmd} {code : Nat}

/-- What a COUNTER_FREEZE that passes its checks carries. -/
theorem cfCheck_passes (h : d.cfCheck c = none) :
    cfAddr c % 64 = 0 ∧ (2 ≤ cfOp c → cfAddr c ≠ 0 ∧ 64 ≤ cfBytes c) ∧ (cfOp c = 2 → d.reader.captured = none ∧ ∀ x ∈ d.reader.ops, x.op ≠ 2) := by
  unfold Dev.cfCheck at h
  dsimp only at h
  split at h
  · exact absurd h (by simp)
  · rename_i hformat
    split at h
    · exact absurd h (by simp)
    · rename_i hrange
      split at h
      · exact absurd h (by simp)
      · rename_i hbusy
        refine ⟨by omega, fun hop => by omega, fun hop => ?_⟩
        have hfree : d.reader.snapshotBusy = false := by
          simpa [hop] using hbusy
        simpa [Reader.snapshotBusy] using hfree

theorem counterFreeze_fails (h : d.cfCheck c = some code) : d.counterFreeze c = d.answer c code 0 0 := by
  simp only [Dev.counterFreeze, h]

/-- A FREEZE, UNFREEZE or SNAPSHOT is answered PENDING with S and waits for it. -/
theorem counterFreeze_waits (h : d.cfCheck c = none) (hop : cfOp c < 3) :
    d.counterFreeze c = { d.answerPending c (max (cfTime c) (d.now + 2000)) 0 with
      reader := { (d.answerPending c (max (cfTime c) (d.now + 2000)) 0).reader with
        ops := (d.answerPending c (max (cfTime c) (d.now + 2000)) 0).reader.ops ++ [{ cmd := { c with interim := true }, op := cfOp c, s := max (cfTime c) (d.now + 2000) }] } } := by
  simp only [Dev.counterFreeze, h, if_neg (Nat.ne_of_lt hop)]
  rfl

/-- A SAMPLE_DRAIN copies at once where host writes go on. -/
theorem counterFreeze_drains (h : d.cfCheck c = none) (hop : cfOp c = 3) (hstop : d.hostStopped = false) : d.counterFreeze c = d.sampleCopy c := by
  simp only [Dev.counterFreeze, h, if_pos hop, Dev.sampleDrain, hstop, Bool.false_eq_true, if_false]

theorem counterFreeze_holds (h : d.cfCheck c = none) (hop : cfOp c = 3) (hstop : d.hostStopped = true) :
    d.counterFreeze c = { d.awaitRecord c with reader := { d.reader with drain := some { c with interim := true } } } := by
  simp only [Dev.counterFreeze, h, if_pos hop, Dev.sampleDrain, hstop, if_true]

/-! ### What is written out (R438 to R440) -/

theorem freezeAtS_finishes {o : FreezeOp} {os : List FreezeOp} (h : d.reader.applied = o :: os) :
    d.freezeAtS = ({ d with reader := { d.reader with applied := os } } : Dev).finishCmd o.cmd cOk 0 0 := by
  simp only [Dev.freezeAtS, h]

theorem freezeAtS_none (h : d.reader.applied = []) : d.freezeAtS = d := by
  simp only [Dev.freezeAtS, h]

theorem drainOut_none (h : d.reader.drain = none) : d.drainOut = d := by
  simp only [Dev.drainOut, h]

/-- A capture is written with its header and as many records as fit. -/
theorem snapshotOut_writes {o : FreezeOp} {recs : List Nat} (hdrain : d.reader.drain = none) (hcap : d.reader.captured = some (o, recs)) (hstop : d.hostStopped = false) (hdump : d.modState ≠ .dumping) :
    d.snapshotOut = ({ d.writeHost (cfAddr o.cmd) (leBytes 8 o.s ++ leBytes 4 recs.length ++ leBytes 4 (min recs.length ((cfBytes o.cmd - 64) / 128)) ++ leBytes 48 0
        ++ (recs.take (min recs.length ((cfBytes o.cmd - 64) / 128))).flatMap (leBytes 128)) with
      reader := { d.reader with captured := none } } : Dev).finishCmd o.cmd cOk 0 (min recs.length ((cfBytes o.cmd - 64) / 128) + 2 ^ 32 * recs.length) := by
  have hgo : (d.hostStopped || d.modState == .dumping) = false := by
    rw [hstop, beq_false_of_ne hdump]
    rfl
  unfold Dev.snapshotOut
  simp only [drainOut_none hdrain, hcap, hgo, Bool.false_eq_true, if_false]
  rfl

/-- A drain that waited is copied out, and with no capture nothing else is. -/
theorem snapshotOut_drains {q : Cmd} (hdrain : d.reader.drain = some q) (hstop : d.hostStopped = false) (hdump : d.modState ≠ .dumping)
    (hcap : (({ d with reader := { d.reader with drain := none } } : Dev).sampleCopy q).reader.captured = none) : d.snapshotOut = ({ d with reader := { d.reader with drain := none } } : Dev).sampleCopy q := by
  have hgo : (d.hostStopped || d.modState == .dumping) = false := by
    rw [hstop, beq_false_of_ne hdump]
    rfl
  have hout : d.drainOut = ({ d with reader := { d.reader with drain := none } } : Dev).sampleCopy q := by
    simp only [Dev.drainOut, hdrain, hgo, Bool.false_eq_true, if_false]
  unfold Dev.snapshotOut
  simp only [hout, hcap]

/-- Nothing is written where host writes are stopped, in DUMPING, or with nothing to write. -/
theorem snapshotOut_stays (h : d.hostStopped = true ∨ d.modState = .dumping ∨ (d.reader.drain = none ∧ d.reader.captured = none)) : d.snapshotOut = d := by
  have hnone (hdrain : d.reader.drain = none) (hcap : d.reader.captured = none) : d.snapshotOut = d := by
    unfold Dev.snapshotOut
    simp only [drainOut_none hdrain, hcap]
  have hshut (hno : (d.hostStopped || d.modState == .dumping) = true) : d.snapshotOut = d := by
    have hdrain : d.drainOut = d := by
      unfold Dev.drainOut
      cases d.reader.drain <;> simp only [hno, if_true]
    unfold Dev.snapshotOut
    rw [hdrain]
    cases hcap : d.reader.captured <;> simp only [hcap, hno, if_true]
  rcases h with h | h | ⟨hdrain, hcap⟩
  · exact hshut (by rw [h, Bool.true_or])
  · exact hshut (by rw [h]; exact Bool.or_true _)
  · exact hnone hdrain hcap

/-! ### Bandwidth windows (R441) -/

/-- A window that has ended since the last one stored puts its counts on the page. -/
theorem bwEnd_stores {counts : List (Nat × Nat)} (hnew : ∀ x, d.reader.bwEnd = some x → x + 1 < d.deviceTime / d.reader.bwWindow * d.reader.bwWindow)
    (hwhole : d.reader.bwFrom + d.reader.bwWindow ≤ d.deviceTime / d.reader.bwWindow * d.reader.bwWindow) :
    d.bwEnd counts = { d with reader := { d.reader with
      bwEnd := some (d.deviceTime / d.reader.bwWindow * d.reader.bwWindow - 1), traffic := [], bwCounts := (upFrom 0 128).map (fun i => (i, d.reader.portBytes (counts.getD i (0, 0)) i)) } } := by
  unfold Dev.bwEnd
  cases hend : d.reader.bwEnd with
  | none => simp only [hend, decide_eq_true hwhole, Bool.and_self, if_true]
  | some x => simp only [hend, decide_eq_true hwhole, decide_eq_true (hnew x hend), Bool.and_self, if_true]

theorem bwEnd_early {counts : List (Nat × Nat)} (h : d.deviceTime / d.reader.bwWindow * d.reader.bwWindow < d.reader.bwFrom + d.reader.bwWindow) : d.bwEnd counts = d := by
  unfold Dev.bwEnd
  simp only [decide_eq_false (Nat.not_le.mpr h), Bool.and_false, Bool.false_eq_true, if_false]

section
variable {data : Nat} (hdata : data < 2 ^ 30)
include hdata

theorem bwField_eq : bits (data % 2 ^ 32) 29 0 = data := by
  have : data % 2 ^ 32 = data := Nat.mod_eq_of_lt (by omega)
  rw [this]
  simpa [bits] using hdata

theorem bwWrite_sets (hlo : 1000 ≤ data) (hhi : data ≤ 1000000000) :
    d.bwWrite (data % 2 ^ 32) = { d with reader := { d.reader with bwWindow := data, bwFrom := (d.deviceTime / data + 1) * data, bwEnd := none, bwCounts := [], traffic := [] } } := by
  unfold Dev.bwWrite
  rw [bwField_eq hdata]
  exact if_pos ⟨hlo, hhi⟩

theorem bwWrite_refused (h : data < 1000 ∨ 1000000000 < data) : d.bwWrite (data % 2 ^ 32) = d.refuse 0 UnitId.counter.page 0x05C 4 data cOutOfRange := by
  unfold Dev.bwWrite
  rw [bwField_eq hdata]
  dsimp only
  rw [if_neg (by omega), Nat.mod_eq_of_lt (by omega)]

end
end

/-! ### The rows -/

section
variable {s : State} {t r : Nat} {c : Cmd} {d e : Dev} (hd : s.dueAt t = d)
include hd

/-- Each row of COUNTER_FREEZE answers its own operation with the family's step 8. -/
theorem exec_counterFreeze {op : Nat} (h : d.admits r c specCounterFreeze none) (hop : cfOp c = op) :
    s.run t (fun d => d.ringCmd r (fun _ => specCounterFreeze) (fun c => cfOp c == op) (fun _ => none) Dev.counterFreeze) = .next (s.endsRing t r ((d.taken r c specCounterFreeze none).counterFreeze c)) := by
  subst hd
  exact run_ringCmd_of_form (cond := fun _ _ => none) h (beq_iff_eq.mpr hop)

/-- All four rows' answers at once. -/
theorem exec_counterFreezes (h : d.admits r c specCounterFreeze none) (he : (d.taken r c specCounterFreeze none).counterFreeze c = e) :
    (cfOp c = 0 → exec (.counterFreezeFreeze t r) s = .next (s.endsRing t r e)) ∧ (cfOp c = 1 → exec (.counterFreezeUnfreeze t r) s = .next (s.endsRing t r e))
      ∧ (cfOp c = 2 → exec (.counterFreezeSnapshot t r) s = .next (s.endsRing t r e)) ∧ (cfOp c = 3 → exec (.counterFreezeSampleDrain t r) s = .next (s.endsRing t r e)) := by
  subst he
  exact ⟨exec_counterFreeze hd h, exec_counterFreeze hd h, exec_counterFreeze hd h, exec_counterFreeze hd h⟩

theorem exec_counterFreezeAtS (h : d.freezeAtS = e) : exec (.counterFreezeAtS t) s = .next (s.endsWith t e) := run_of_due (f := Dev.freezeAtS) hd h

theorem exec_snapshotWriteOut (h : d.snapshotOut = e) : exec (.snapshotWriteOut t) s = .next (s.endsWith t e) := run_of_due (f := Dev.snapshotOut) hd h

theorem exec_bwWindowEnd {counts : List (Nat × Nat)} (hup : d.readerUp = true) (h : d.bwEnd counts = e) : exec (.bwWindowEnd t counts) s = .next (s.endsWith t e) :=
  run_of_due (f := fun d => if d.readerUp then d.bwEnd counts else d) hd ((if_pos hup).trans h)

theorem exec_bwWindowWrite {data : Nat} (hopen : d.hostOpen .counter = true) (h : d.bwWrite (data % 2 ^ 32) = e) : exec (.bwWindowWrite t 0 data) s = .next (s.endsWith t e) :=
  run_of_due (f := fun d => if 0 = 0 ∧ d.hostOpen .counter = true then d.bwWrite (data % 2 ^ 32) else d) hd ((if_pos ⟨rfl, hopen⟩).trans h)

theorem exec_bwWindowWrite_virtual {fn data : Nat} (hfn : fn ≠ 0) : exec (.bwWindowWrite t fn data) s = .next (s.endsWith t d) :=
  run_of_due (f := fun d => if fn = 0 ∧ d.hostOpen .counter = true then d.bwWrite (data % 2 ^ 32) else d) hd (if_neg fun h => hfn h.1)

end

/-- No operation whose S the clock has reached still waits. -/
theorem dueAt_waiting (s : State) (t : Nat) : ∀ x ∈ (s.dueAt t).reader.ops, (s.dueAt t).now < x.s := by
  rw [dueAt_reader, State.dueAt_now]
  exact elapseOps_waiting _ _ (s.clockAt t) (Nat.le_refl _)

/-- Settles O49: the checks of COUNTER_FREEZE in order, the clock's own effect at S, and what is then written out. -/
theorem freezesSnapshotsAndWindows : Obligations.FreezesSnapshotsAndWindows := by
  intro s t r data fn c q o os recs counts code
  have hwait := dueAt_waiting s t
  have hone := dueAt_one s t o
  generalize hd : s.dueAt t = d at hwait hone
  refine ⟨fun h => ⟨?fails, ?waits, ?drains, ?held⟩, cfCheck_passes, hwait, hone, fun h => exec_counterFreezeAtS hd (freezeAtS_finishes h), fun h => exec_counterFreezeAtS hd (freezeAtS_none h),
    fun hdrain hcap hstop hdump => exec_snapshotWriteOut hd (snapshotOut_writes hdrain hcap hstop hdump), fun hdrain hstop hdump hcap => exec_snapshotWriteOut hd (snapshotOut_drains hdrain hstop hdump hcap),
    fun h => exec_snapshotWriteOut hd (snapshotOut_stays h), fun hup => ⟨fun hnew hwhole => exec_bwWindowEnd hd hup (bwEnd_stores hnew hwhole), fun h => exec_bwWindowEnd hd hup (bwEnd_early h)⟩,
    fun hopen hdata => ⟨fun hlo hhi => exec_bwWindowWrite hd hopen (bwWrite_sets hdata hlo hhi), fun h => exec_bwWindowWrite hd hopen (bwWrite_refused hdata h)⟩, exec_bwWindowWrite_virtual hd⟩
  case fails => exact fun hcode => exec_counterFreezes hd h (counterFreeze_fails hcode)
  case waits => exact fun hpass hop => exec_counterFreezes hd h (counterFreeze_waits hpass hop)
  case drains => exact fun hpass hop hstop => exec_counterFreezes hd h (counterFreeze_drains hpass hop hstop)
  case held => exact fun hpass hop hstop => exec_counterFreezes hd h (counterFreeze_holds hpass hop hstop)

end Sys2Proof.Machine
end

section
/-! PROOFS. The host link and the ports: training, identity frames, replays, retrains, loss of signal and PORT_CONTROL (R448 to R453, R482). -/

namespace Sys2Proof.Machine

section
variable {d : Dev} {p q : Nat}

/-! ### The host link (R448) -/

theorem pcieRetrain_lower {gen width : Nat} {flit : Bool} (h : d.modState ≠ .reset ∧ 3 ≤ gen ∧ gen ≤ 6 ∧ (width = 4 ∨ width = 8 ∨ width = 16) ∧ (gen < d.hostIf.gen ∨ width < d.hostIf.width)) :
    d.pcieRetrain gen width flit = ({ d with hostIf := { d.hostIf with gen, width, flit, retrains := satAdd 0xFFFFFFFF d.hostIf.retrains 1 } } : Dev).raise 1 0x305 UnitId.hostIf.page (gen + 16 * width) d.deviceTime := by
  obtain ⟨hstate, hlo, hhi, hwidth, hlower⟩ := h
  unfold Dev.pcieRetrain
  dsimp only
  rw [if_neg]
  rintro (h | h | h | h)
  · exact hstate h
  · exact h ⟨hlo, hhi⟩
  · exact h hwidth
  · exact h hlower

theorem pcieRetrain_stays {gen width : Nat} {flit : Bool} (h : ¬ (d.modState ≠ .reset ∧ 3 ≤ gen ∧ gen ≤ 6 ∧ (width = 4 ∨ width = 8 ∨ width = 16) ∧ (gen < d.hostIf.gen ∨ width < d.hostIf.width))) :
    d.pcieRetrain gen width flit = d := by
  unfold Dev.pcieRetrain
  dsimp only
  rw [if_pos]
  tauto

/-! ### Training (R449) -/

section
variable {gen : Nat} {half : Bool}

/-- A port that may not train stays as it is. -/
theorem trained_stays (h : (d.portLive p && d.mayTrain && (d.port p).enable && d.modState != .snowpack) = false) : d.trained p gen half = d := by
  have hno : (!d.portLive p || !d.mayTrain || !(d.port p).enable || d.modState == .snowpack) = true := by
    have hnot : (!(d.portLive p && d.mayTrain && (d.port p).enable && d.modState != .snowpack)) = true := by
      rw [h]
      rfl
    simpa [bne, Bool.not_and] using hnot
  unfold Dev.trained
  dsimp only
  rw [if_pos hno]

section
variable (hready : (d.portLive p && d.mayTrain && (d.port p).enable && d.modState != .snowpack) = true) (htraining : (d.port p).pstate = .training)
include hready htraining

/-- A port in TRAINING that may train ends its training by the kind of port and the generation reached. -/
theorem trained_training : d.trained p gen half = if isEth p then (d.retrainOver p).updPort p (fun g => { g with pstate := .up, half })
    else if gen = 0 then d.updPort p (fun g => { g with gen2Fails := g.gen2Fails + 1 })
    else if gen = 1 ∨ (gen = 2 ∧ (d.port p).gen2En ∧ (d.port p).gen2Fails < 3) then d.updPort p (fun g => { g with pstate := .discovery, gen, half, gen2Fails := 0, sent := some (d.identityFrame p) })
    else d := by
  simp only [Bool.and_eq_true] at hready
  obtain ⟨⟨⟨hlive, hmay⟩, hen⟩, hstate⟩ := hready
  have hgo : (d.modState == .snowpack) = false := by
    simpa [bne] using hstate
  unfold Dev.trained
  simp only [hlive, hmay, hen, hgo, htraining, Bool.not_true, Bool.or_self, Bool.false_eq_true, if_false, reduceCtorEq, bne_self_eq_false]

theorem trained_eth (heth : isEth p = true) : d.trained p gen half = (d.retrainOver p).updPort p (fun g => { g with pstate := .up, half }) := by
  rw [trained_training hready htraining, if_pos heth]

theorem trained_fails (hsholo : isEth p = false) (hgen : gen = 0) : d.trained p gen half = d.updPort p (fun g => { g with gen2Fails := g.gen2Fails + 1 }) := by
  rw [trained_training hready htraining, if_neg (Bool.eq_false_iff.mp hsholo), if_pos hgen]

theorem trained_discovers (hsholo : isEth p = false) (hgen : gen = 1 ∨ (gen = 2 ∧ (d.port p).gen2En = true ∧ (d.port p).gen2Fails < 3)) :
    d.trained p gen half = d.updPort p (fun g => { g with pstate := .discovery, gen, half, gen2Fails := 0, sent := some (d.identityFrame p) }) := by
  rw [trained_training hready htraining, if_neg (Bool.eq_false_iff.mp hsholo), if_neg (by omega), if_pos hgen]

theorem trained_barred (hsholo : isEth p = false) (hgen : gen = 2) (hbar : (d.port p).gen2En = false ∨ 3 ≤ (d.port p).gen2Fails) : d.trained p gen half = d := by
  rw [trained_training hready htraining, if_neg (Bool.eq_false_iff.mp hsholo), if_neg (by omega), if_neg]
  rintro (h | ⟨-, hen, hfails⟩)
  · omega
  · rcases hbar with h | h
    · exact Bool.false_ne_true (h.symm.trans hen)
    · omega

end
end

/-! ### Detaching a partner (R451, R452) -/

/-- What of a port is neither its transfer ring nor its peer table. -/
def Port.link (g : Port) : Port := { g with xq := {}, peers := [] }

/-- A detach takes the partner, its retrain and its low-power mark from the port, and leaves the rest of the link. -/
theorem detachPort_link (d : Dev) (p code : Nat) : ((d.detachPort p code).port p).link = { (d.port p).link with partner := none, retrainAt := none, partnerLow := false } := by
  rw [port_detach_keeps Port.link (fun _ _ => rfl) (fun _ _ => rfl) d p code p, port_updPort_self]
  rfl

theorem detachPort_jobs (d : Dev) (p code : Nat) : (d.detachPort p code).jobs = d.jobs := by
  obtain ⟨-, -, hjobs, -⟩ := detachPort_same d p code
  exact hjobs

theorem detachPort_modState (d : Dev) (p code : Nat) : (d.detachPort p code).modState = d.modState := (detachPort_same d p code).1

theorem retrainTimeout_none (h : (d.port p).retrainAt = none) : d.retrainTimeout p = d := by
  simp only [Dev.retrainTimeout, h]

theorem retrainTimeout_some {t0 : Nat} (h : (d.port p).retrainAt = some t0) : d.retrainTimeout p = if t0 + 10000000 ≤ d.now then d.detachPort p cPartnerLost else d := by
  simp only [Dev.retrainTimeout, h]

/-- A retrain 10 ms old has lost its partner, and nothing of the work. -/
theorem retrainTimeout_detaches {t0 : Nat} (h : (d.port p).retrainAt = some t0) (hdue : t0 + 10000000 ≤ d.now) :
    ((d.retrainTimeout p).port p).partner = none ∧ ((d.retrainTimeout p).port p).retrainAt = none ∧ (d.retrainTimeout p).jobs = d.jobs ∧ (d.retrainTimeout p).modState = d.modState := by
  rw [retrainTimeout_some h, if_pos hdue]
  have hlink := detachPort_link d p cPartnerLost
  exact ⟨congrArg Port.partner hlink, congrArg Port.retrainAt hlink, detachPort_jobs d p _, detachPort_modState d p _⟩

/-! ### Identity frames (R450) -/

theorem endRetrain_sec (d : Dev) (p : Nat) : (d.endRetrain p).sec = d.sec := by
  unfold Dev.endRetrain
  split
  · rfl
  · obtain ⟨-, -, -, -, -, -, -, hsec⟩ := linkSame_raise (d.updPort p (fun g => { g with retrainAt := none, maxDelay := max g.maxDelay (d.now - _) })) 5 4 (portUnit p).page (p + 256 * 0) ((d.now - _) % 2 ^ 64)
    exact hsec

theorem detachPort_sec (d : Dev) (p code : Nat) : (d.detachPort p code).sec = d.sec := by
  obtain ⟨-, -, -, -, -, -, -, hsec⟩ := detachPort_same d p code
  exact hsec

/-- The partner's identity frame in DISCOVERY makes the port UP with it, or LOOPBACK for the module's own. -/
theorem identified_discovery {x : Identity} (hlive : d.portLive p = true) (hsholo : isEth p = false) (hstate : (d.port p).pstate = .discovery) :
    ((d.identified p x).port p).partner = some x ∧ ((d.identified p x).port p).pstate = (if x.deviceId = d.sec.deviceId then .loopback else .up)
      ∧ (x.deviceId ≠ d.sec.deviceId → ((d.identified p x).port p).lastId = some x.deviceId ∧ ((d.identified p x).port p).retrainAt = none) := by
  have key : ∀ e : Dev, e.sec = d.sec → ∀ y : Dev, (if x.deviceId = e.sec.deviceId then e.updPort p (fun g => { g with pstate := .loopback, partner := some x }) else e.enterUp p x) = y →
      (y.port p).partner = some x ∧ (y.port p).pstate = (if x.deviceId = d.sec.deviceId then .loopback else .up) ∧ (x.deviceId ≠ d.sec.deviceId → (y.port p).lastId = some x.deviceId ∧ (y.port p).retrainAt = none) := by
    rintro e hsec y rfl
    rw [hsec]
    by_cases hown : x.deviceId = d.sec.deviceId
    · rw [if_pos hown, if_pos hown, port_updPort_self]
      exact ⟨rfl, rfl, fun h => absurd hown h⟩
    · rw [if_neg hown, if_neg hown, (enterUp_port e p x).1]
      exact ⟨rfl, rfl, fun _ => ⟨rfl, rfl⟩⟩
  have hgo : ((d.port p).pstate != .discovery || isEth p || !d.portLive p) = false := by
    rw [hstate, hsholo, hlive]
    rfl
  refine key (if (match (d.port p).retrainAt, (d.port p).partner with
      | some t0, some y => y.deviceId == x.deviceId && decide (d.now ≤ t0 + 10000000)
      | _, _ => false) = true then d.endRetrain p else d.detachPort p cPartnerLost) ?_ _ ?_
  · rw [apply_ite Dev.sec, endRetrain_sec, detachPort_sec, ite_self]
  · unfold Dev.identified
    exact (if_neg (Bool.eq_false_iff.mp hgo)).symm

theorem identified_stays {x : Identity} (h : d.portLive p = false ∨ isEth p = true ∨ (d.port p).pstate ≠ .discovery) : d.identified p x = d := by
  unfold Dev.identified
  dsimp only
  rw [if_pos]
  rcases h with h | h | h
  · rw [h]
    exact Bool.or_true _
  · rw [h, Bool.or_true, Bool.true_or]
  · rw [bne_iff_ne.mpr h, Bool.true_or, Bool.true_or]

/-! ### Replays and retrains (R451) -/

theorem flitReplay_up {delay : Nat} (hup : (d.port p).pstate = .up) (hsholo : isEth p = false) :
    d.flitReplay p delay = d.updPort p (fun g => { g with
      replays := satAdd 0xFFFFFFFF g.replays 1
      maxDelay := max g.maxDelay (min delay (if g.gen = 2 then 400 else 800))
      replayTimes := (g.replayTimes.filter (fun x => decide (d.now < x + 1000000))) ++ [d.now] }) := by
  unfold Dev.flitReplay
  simp only [hup, hsholo, decide_true, Bool.not_false, Bool.and_self, if_true]

theorem flitReplay_stays {delay : Nat} (h : (d.port p).pstate ≠ .up ∨ isEth p = true) : d.flitReplay p delay = d := by
  unfold Dev.flitReplay
  rcases h with h | h <;> simp [h]

/-- A port whose retrain has just begun. -/
def Dev.retrains (d e : Dev) (p : Nat) : Prop :=
  e.port p = { d.port p with pstate := .training, retrainAt := some d.now, retrains := satAdd 0xFFFFFFFF (d.port p).retrains 1, replayTimes := [] }

theorem startRetrain_retrains (d : Dev) (p : Nat) : d.retrains (d.startRetrain p) p := port_updPort_self d p _

theorem startRetrain_port_ne (d : Dev) (h : p ≠ q) : (d.startRetrain p).port q = d.port q := port_updPort_ne d _ h

theorem replayLimit_eq (d : Dev) (p : Nat) :
    d.replayLimit p = if (d.port p).pstate = .up ∧ 64 < ((d.port p).replayTimes.filter (fun k => decide (d.now < k + 1000000))).length then d.startRetrain p else d := by
  unfold Dev.replayLimit
  simp only [Bool.and_eq_true, decide_eq_true_eq]

theorem signalLoss_up (h : (d.port p).pstate = .up) : d.signalLoss p = d.startRetrain p := by
  simp only [Dev.signalLoss, h]

/-- The loss of a port's signal changes that port alone. -/
theorem signalLoss_form (d : Dev) (p : Nat) : d.signalLoss p = d ∨ ∃ f, d.signalLoss p = d.updPort p f := by
  unfold Dev.signalLoss
  split
  · exact Or.inr ⟨_, rfl⟩
  · exact Or.inr ⟨_, rfl⟩
  · exact Or.inr ⟨_, rfl⟩
  · exact Or.inl rfl

theorem signalLoss_port_ne (d : Dev) (h : p ≠ q) : (d.signalLoss p).port q = d.port q := by
  rcases signalLoss_form d p with hd | ⟨f, hd⟩
  · rw [hd]
  · rw [hd, port_updPort_ne d f h]

theorem signalLoss_keeps (d : Dev) (p : Nat) : (d.signalLoss p).now = d.now ∧ (d.signalLoss p).pins = d.pins := by
  rcases signalLoss_form d p with hd | ⟨f, hd⟩
  · rw [hd]
    exact ⟨rfl, rfl⟩
  · rw [hd]
    exact ⟨rfl, rfl⟩

theorem signalLosses_keep (l : List Nat) (d : Dev) : (l.foldl (fun d p => d.signalLoss p) d).pins = d.pins ∧ (l.foldl (fun d p => d.signalLoss p) d).now = d.now := by
  induction l generalizing d with
  | nil => exact ⟨rfl, rfl⟩
  | cons p l ih =>
    obtain ⟨hpins, hnow⟩ := ih (d.signalLoss p)
    exact ⟨hpins.trans (signalLoss_keeps d p).2, hnow.trans (signalLoss_keeps d p).1⟩

theorem signalLosses_port_other (l : List Nat) (d : Dev) (h : q ∉ l) : (l.foldl (fun d p => d.signalLoss p) d).port q = d.port q := by
  induction l generalizing d with
  | nil => rfl
  | cons p l ih =>
    exact (ih (d.signalLoss p) (List.not_mem_of_not_mem_cons h)).trans (signalLoss_port_ne d (List.ne_of_not_mem_cons h).symm)

/-- Of distinct ports that lose their signal, each that is UP retrains. -/
theorem signalLosses_retrain {l : List Nat} (hl : l.Nodup) (d : Dev) (hq : q ∈ l) (hup : (d.port q).pstate = .up) : d.retrains (l.foldl (fun d p => d.signalLoss p) d) q := by
  induction l generalizing d with
  | nil => exact absurd hq List.not_mem_nil
  | cons p l ih =>
    obtain ⟨hp, hnodup⟩ := List.nodup_cons.mp hl
    rcases List.mem_cons.mp hq with rfl | hq
    · rw [Dev.retrains, List.foldl_cons, signalLosses_port_other l _ hp, signalLoss_up hup]
      exact startRetrain_retrains d q
    · have hne : p ≠ q := fun h => hp (h ▸ hq)
      have hport := signalLoss_port_ne d hne
      have := ih hnodup (d.signalLoss p) hq (by rw [hport]; exact hup)
      rw [Dev.retrains, hport, (signalLoss_keeps d p).1] at this
      exact this

/-- LINK_REFCLK is lost: the pin, and 10 µs without signal at every port (R482). -/
def Dev.refclkLost (d : Dev) : Dev := (upFrom 0 portCount).foldl (fun d p => d.signalLoss p) { d with pins := { d.pins with linkRef := false } }

theorem refclkLost_pin (d : Dev) : d.refclkLost.pins.linkRef = false := by
  rw [Dev.refclkLost, (signalLosses_keep _ _).1]

theorem refclkLost_retrains (hq : q < portCount) (hup : (d.port q).pstate = .up) : d.retrains d.refclkLost q := by
  have hmem : q ∈ upFrom 0 portCount := (mem_upFrom portCount 0 q).mpr ⟨Nat.zero_le _, by omega⟩
  exact signalLosses_retrain (by decide) { d with pins := { d.pins with linkRef := false } } hmem hup

/-- A partner's low-power idle takes an UP Sholo port with it (R453). -/
def Dev.partnerSleeps (d : Dev) (p : Nat) : Dev :=
  if (d.port p).pstate = .up ∧ isEth p = false then d.updPort p (fun g => { g with pstate := .lowPower, partnerLow := true }) else d

/-! ### PORT_CONTROL (R452) -/

theorem portLive_of_open (hopen : d.hostOpen (portUnit p) = true) (hp : p < portCount) : d.portLive p = true := by
  rw [Dev.hostOpen, Bool.and_eq_true] at hopen
  rw [Dev.portLive, decide_eq_true hp, hopen.2]
  rfl

section
variable {data : Nat} (hopen : d.hostOpen (portUnit p) = true) (hp : p < portCount)
include hopen hp

/-- ENABLE 1 starts the training of a disabled port. -/
theorem portControl_enables (hen : bit data 0 = true) (hdump : d.modState ≠ .dumping) :
    (d.portControl p data).port p = { d.port p with gen2En := bit data 1, enable := true, pstate := if (d.port p).pstate = .disabled then .training else (d.port p).pstate } := by
  unfold Dev.portControl
  simp only [portLive_of_open hopen hp, hen, Bool.not_true, Bool.false_eq_true, if_false, port_updPort_self]
  have hgo : ((d.port p).pstate = .disabled ∧ (d.updPort p (fun g => { g with gen2En := bit data 1 })).modState ≠ .dumping) = ((d.port p).pstate = .disabled) := by
    exact propext ⟨And.left, fun h => ⟨h, hdump⟩⟩
  simp only [hgo]

theorem portControl_disables_eq (hen : bit data 0 = false) : d.portControl p data = (d.updPort p (fun g => { g with gen2En := bit data 1 })).disablePort p := by
  unfold Dev.portControl
  simp only [portLive_of_open hopen hp, hen, Bool.not_true, Bool.not_false, Bool.false_eq_true, if_false, if_true]

/-- ENABLE 0 detaches the partner at once, and takes nothing of the work. -/
theorem portControl_disables (hen : bit data 0 = false) :
    ((d.portControl p data).port p).pstate = .disabled ∧ ((d.portControl p data).port p).enable = false ∧ ((d.portControl p data).port p).gen = 0 ∧ ((d.portControl p data).port p).partner = none
      ∧ ((d.portControl p data).port p).gen2En = bit data 1 ∧ (d.portControl p data).jobs = d.jobs ∧ (d.portControl p data).modState = d.modState := by
  rw [portControl_disables_eq hopen hp hen]
  unfold Dev.disablePort
  have hlink := detachPort_link (d.updPort p (fun g => { g with gen2En := bit data 1 })) p cLinkDown
  rw [port_updPort_self] at hlink
  dsimp only
  rw [port_updPort_self]
  exact ⟨rfl, rfl, rfl, congrArg Port.partner hlink, congrArg Port.gen2En hlink, detachPort_jobs _ p _, detachPort_modState _ p _⟩

end
end

/-! ### The rows -/

section
variable {s : State} {t p : Nat} {d e : Dev} (hd : s.dueAt t = d)
include hd

theorem exec_pcieLinkRetrain {gen width : Nat} {flit : Bool} (h : d.pcieRetrain gen width flit = e) : exec (.pcieLinkRetrain t gen width flit) s = .next (s.endsWith t e) :=
  run_of_due (f := (Dev.pcieRetrain · gen width flit)) hd h

theorem exec_sholoTrainingComplete {gen : Nat} {half : Bool} (h : d.trained p gen half = e) : exec (.sholoTrainingComplete t p gen half) s = .next (s.endsWith t e) :=
  run_of_due (f := (Dev.trained · p gen half)) hd h

theorem exec_identityFrame {x : Identity} (h : d.identified p x = e) : exec (.identityFrame t p x) s = .next (s.endsWith t e) := run_of_due (f := (Dev.identified · p x)) hd h

theorem exec_flitCrcFail {delay : Nat} (h : d.flitReplay p delay = e) : exec (.flitCrcFail t p delay) s = .next (s.endsWith t e) := run_of_due (f := (Dev.flitReplay · p delay)) hd h

theorem exec_replayLimitRetrain (h : d.replayLimit p = e) : exec (.replayLimitRetrain t p) s = .next (s.endsWith t e) := run_of_due (f := (Dev.replayLimit · p)) hd h

theorem exec_signalLoss (h : d.signalLoss p = e) : exec (.signalLoss t p) s = .next (s.endsWith t e) := run_of_due (f := (Dev.signalLoss · p)) hd h

theorem exec_retrainTimeout (h : d.retrainTimeout p = e) : exec (.retrainTimeout t p) s = .next (s.endsWith t e) := run_of_due (f := (Dev.retrainTimeout · p)) hd h

theorem exec_partnerLowPower (h : d.partnerSleeps p = e) : exec (.partnerLowPower t p) s = .next (s.endsWith t e) := run_of_due (f := (Dev.partnerSleeps · p)) hd h

theorem exec_portEnableWrite {data : Nat} (hopen : d.hostOpen (portUnit p) = true) : exec (.portEnableWrite t p data) s = .next (s.endsWith t (d.portControl p data)) :=
  run_of_due (f := fun d => if d.hostOpen (portUnit p) then d.portControl p data else d) hd (if_pos hopen)

theorem exec_portEnableWrite_shut {data : Nat} (hopen : d.hostOpen (portUnit p) = false) : exec (.portEnableWrite t p data) s = .next (s.endsWith t d) :=
  run_of_due (f := fun d => if d.hostOpen (portUnit p) then d.portControl p data else d) hd (if_neg (Bool.eq_false_iff.mp hopen))

end

/-- Settles O45: what each event of a link makes of its port, and the port alone. -/
theorem linksTrainAndPartnersAttach : Obligations.LinksTrainAndPartnersAttach := by
  intro s t p gen width delay data half flit x
  generalize hd : s.dueAt t = d
  refine ⟨?host, fun hready htraining => ⟨?eth, ?failed, ?discovers, ?barred⟩, fun h => exec_sholoTrainingComplete hd (trained_stays h), ?identity, fun h => exec_identityFrame hd (identified_stays h),
    ?replay, fun h => exec_flitCrcFail hd (flitReplay_stays h), ?limit, ?lost, fun h => exec_retrainTimeout hd (retrainTimeout_none h), ?timeout, ?sleeps,
    ⟨_, run_of_due (f := Dev.refclkLost) hd rfl, refclkLost_pin d, fun q hq hup => refclkLost_retrains hq hup⟩, run_of_due (f := fun d => { d with pins := { d.pins with linkRef := true } }) hd rfl, ?control,
    exec_portEnableWrite_shut hd⟩
  case host =>
    split
    · rename_i h
      exact exec_pcieLinkRetrain hd (pcieRetrain_lower h)
    · rename_i h
      exact exec_pcieLinkRetrain hd (pcieRetrain_stays h)
  case eth =>
    intro heth
    refine ⟨_, exec_sholoTrainingComplete hd (trained_eth hready htraining heth), ?_⟩
    rw [port_updPort_self]
    exact ⟨rfl, rfl⟩
  case failed => exact fun hsholo hgen => ⟨_, exec_sholoTrainingComplete hd (trained_fails hready htraining hsholo hgen), port_updPort_self d p _⟩
  case discovers => exact fun hsholo hgen => ⟨_, exec_sholoTrainingComplete hd (trained_discovers hready htraining hsholo hgen), port_updPort_self d p _⟩
  case barred => exact fun hsholo hgen hbar => exec_sholoTrainingComplete hd (trained_barred hready htraining hsholo hgen hbar)
  case identity => exact fun hlive hsholo hstate => ⟨_, exec_identityFrame hd rfl, identified_discovery hlive hsholo hstate⟩
  case replay =>
    intro hup hsholo
    refine ⟨_, exec_flitCrcFail hd (flitReplay_up hup hsholo), ?_⟩
    rw [port_updPort_self]
    exact ⟨rfl, rfl, hup, rfl, rfl⟩
  case limit =>
    split
    · rename_i h
      exact ⟨_, exec_replayLimitRetrain hd ((replayLimit_eq d p).trans (if_pos h)), startRetrain_retrains d p, fun q hq => startRetrain_port_ne d hq⟩
    · rename_i h
      exact exec_replayLimitRetrain hd ((replayLimit_eq d p).trans (if_neg h))
  case lost => exact fun hup => ⟨_, exec_signalLoss hd (signalLoss_up hup), startRetrain_retrains d p, fun q hq => startRetrain_port_ne d hq⟩
  case timeout =>
    exact fun t0 h => ⟨fun hearly => exec_retrainTimeout hd ((retrainTimeout_some h).trans (if_neg (Nat.not_le.mpr hearly))), fun hdue => ⟨_, exec_retrainTimeout hd rfl, retrainTimeout_detaches h hdue⟩⟩
  case sleeps =>
    split
    · rename_i h
      exact ⟨_, exec_partnerLowPower hd (if_pos h), port_updPort_self d p _⟩
    · rename_i h
      exact exec_partnerLowPower hd (if_neg h)
  case control =>
    exact fun hopen hp => ⟨fun hen hdump => ⟨_, exec_portEnableWrite hd hopen, portControl_enables hopen hp hen hdump⟩, fun hen => ⟨_, exec_portEnableWrite hd hopen, portControl_disables hopen hp hen⟩⟩

end Sys2Proof.Machine
end

section
/-! PROOFS. Transfer rings and transfers: enabling, doorbells, the fetch and its checks, arrivals and ends (R454 to R458, R460). -/

namespace Sys2Proof.Machine

section
variable {d : Dev} {p : Nat}

/-! ### A port's ring and window registers (R454, R460) -/

section
variable {data : Nat} (hlive : d.portLive p = true)
include hlive

theorem xqControl_enables (hen : bit data 0 = true) (hdrained : (d.port p).xq.drained = true) :
    d.xqControl p data = d.updXq p (fun g => { g with enable := true, sqTail := 0, sqHead := 0, cqTail := 0, cqHead := 0, phase := true, doomed := [] }) := by
  simp only [Dev.xqControl, hlive, hen, hdrained, Bool.not_true, Bool.false_eq_true, if_false, if_true]

theorem xqControl_refused (hen : bit data 0 = true) (hdrained : (d.port p).xq.drained = false) : d.xqControl p data = d.refuse 0 (portUnit p).page 0x074 4 data cIllegal := by
  simp only [Dev.xqControl, hlive, hen, hdrained, Bool.not_true, Bool.false_eq_true, if_false, if_true]

theorem xqControl_disables (hen : bit data 0 = false) : d.xqControl p data = d.updXq p (fun g => { g with enable := false, halted := false, doomed := [] }) := by
  simp only [Dev.xqControl, hlive, hen, Bool.not_true, Bool.false_eq_true, if_false]

theorem xqTail_sets (hen : (d.port p).xq.enable = true) (hin : data % 65536 < 2 ^ (d.port p).xq.log2Sq) : d.xqTail p data = d.updXq p (fun g => { g with sqTail := data % 65536 }) := by
  simp only [Dev.xqTail, hlive, hen, Nat.not_le.mpr hin, Bool.not_true, Bool.false_eq_true, if_false]

theorem xqTail_halts (hen : (d.port p).xq.enable = true) (hout : 2 ^ (d.port p).xq.log2Sq ≤ data % 65536) : d.xqTail p data = d.updXq p (fun g => { g with halted := true }) := by
  simp only [Dev.xqTail, hlive, hen, hout, Bool.not_true, Bool.false_eq_true, if_false, if_true]

theorem xqTail_refused (hen : (d.port p).xq.enable = false) : d.xqTail p data = d.refuse 0 (portUnit p).page 0x08C 4 data cIllegal := by
  simp only [Dev.xqTail, hlive, hen, Bool.not_true, Bool.not_false, Bool.false_eq_true, if_false, if_true]

theorem rxwControl_sets (h : bits data 14 8 = (d.port p).rxwCtx ∨ ((d.port p).rxwEnable = false ∧ (d.port p).inbound = [])) :
    d.rxwControl p data = d.updPort p (fun g => { g with rxwEnable := bit data 0, rxwCtx := bits data 14 8 }) := by
  have hgo : ¬ (bits data 14 8 ≠ (d.port p).rxwCtx ∧ ((d.port p).rxwEnable = true ∨ ¬ (d.port p).inbound.isEmpty = true)) := by
    rintro ⟨hctx, hbusy⟩
    rcases h with h | ⟨hen, hin⟩
    · exact hctx h
    · simp [hen, hin] at hbusy
  simp only [Dev.rxwControl, hlive, hgo, Bool.not_true, Bool.false_eq_true, if_false]

/-- A write that changes CTX while the window is open or busy is ignored whole. -/
theorem rxwControl_ignored (hctx : bits data 14 8 ≠ (d.port p).rxwCtx) (hbusy : (d.port p).rxwEnable = true ∨ (d.port p).inbound ≠ []) : d.rxwControl p data = d := by
  have hshut : bits data 14 8 ≠ (d.port p).rxwCtx ∧ ((d.port p).rxwEnable = true ∨ ¬ (d.port p).inbound.isEmpty = true) := ⟨hctx, hbusy.imp_right fun h he => h (List.isEmpty_iff.mp he)⟩
  unfold Dev.rxwControl
  simp only [hlive, Bool.not_true, Bool.false_eq_true, if_false]
  exact if_pos hshut

end

/-! ### The fetch and its checks (R457, R458, Table 19-6) -/

/-- What a port's ring needs to have its next descriptor taken, and not to find it lost already. -/
def Dev.fetches (d : Dev) (p : Nat) : Prop :=
  d.portLive p = true ∧ (d.port p).xq.enable = true ∧ (d.port p).xq.halted = false ∧ (d.port p).xq.sqHead ≠ (d.port p).xq.sqTail ∧ (d.port p).xq.cqFull = false ∧ d.hostStopped = false ∧ d.modState ≠ .reset
    ∧ (d.port p).xq.active.length < 4 ∧ (d.port p).xq.doomed.get? (d.port p).xq.sqHead = none

/-- The next descriptor is taken where it is of the row's kind: the head moves on, and it starts or ends with the first code of its checks. -/
theorem xferFetch_takes {mine : Xfer → Bool} (h : d.fetches p) (hm : mine (d.xferAt p (d.port p).xq.sqHead) = true) :
    d.xferFetch p mine = (d.updXq p (fun g => { g with
      sqHead := (g.sqHead + 1) % 2 ^ g.log2Sq, doomed := g.doomed.del (d.port p).xq.sqHead
      xfers := g.xfers ++ [{ d.xferAt p (d.port p).xq.sqHead with fin := d.xferCheck p (d.xferAt p (d.port p).xq.sqHead) }] })).xqWrite p := by
  obtain ⟨hlive, hen, hhalted, hhead, hfull, hstop, hstate, hactive, hdoomed⟩ := h
  unfold Dev.xferFetch
  simp only [hlive, hen, hhalted, beq_false_of_ne hhead, hfull, hstop, beq_false_of_ne hstate, decide_eq_false (Nat.not_le.mpr hactive), hm, hdoomed, Bool.not_true, Bool.or_self, Bool.false_eq_true, if_false]
  rfl

theorem xferFetch_other {mine : Xfer → Bool} (hm : mine (d.xferAt p (d.port p).xq.sqHead) = false) : d.xferFetch p mine = d := by
  unfold Dev.xferFetch
  simp only [hm, Bool.not_false, Bool.or_true, if_true]

variable {x : Xfer}

/-- A descriptor whose fields are of the form of Table 19-4. -/
def Dev.formedXfer (d : Dev) (p : Nat) (x : Xfer) : Bool :=
  (x.word &&& xferMask) == x.word && (x.xop == 1 || x.xop == 2) && x.addr % 64 == 0 && x.off % 64 == 0 && decide (64 ≤ x.len) && decide (x.len ≤ 2 ^ 30) && x.len % 64 == 0
    && (x.remotePost || x.remoteSync == 0) && (x.localPost || x.localSync == 0) && (if isEth p then ((d.port p).peers.getD x.peer {}).valid else x.peer == 0)

theorem formedXfer_fields (h : d.formedXfer p x = true) : x.word &&& xferMask = x.word ∧ (x.xop = 1 ∨ x.xop = 2) ∧ x.addr % 64 = 0 ∧ x.len % 64 = 0 ∧ 64 ≤ x.len ∧ x.len ≤ 2 ^ 30 := by
  simp only [Dev.formedXfer, Bool.and_eq_true, Bool.or_eq_true, beq_iff_eq, decide_eq_true_eq] at h
  obtain ⟨⟨⟨⟨⟨⟨⟨⟨⟨hword, hxop⟩, haddr⟩, -⟩, hlo⟩, hhi⟩, hlen⟩, -⟩, -⟩, -⟩ := h
  exact ⟨hword, hxop, haddr, hlen, hlo, hhi⟩

/-- The local checks begin with the form. -/
theorem xferCheck_of_unformed (h : d.formedXfer p x = false) : d.xferCheck p x = some cBadFormat := by
  have hno : (!d.formedXfer p x) = true := by
    rw [h]
    rfl
  exact if_pos hno

/-- A descriptor of the form goes on to the context's, the regions' and the link's checks. -/
theorem xferCheck_of_formed (h : d.formedXfer p x = true) : d.xferCheck p x =
    if !decide ((d.port p).xferCtx < 64) || (d.ctx (d.port p).xferCtx).cstate == .free || (x.localPost && (d.sync x.localSync).owner != (d.port p).xferCtx) then some cIllegal
    else if !d.inRegions x.addr x.len (fun r => r.owner == (d.port p).xferCtx && !(x.xop == 2 && r.readOnly)) then some cOutOfRange
    else if ((d.port p).pstate != .up && !(d.port p).retraining d.now) || (isEth p && !((d.port p).peers.getD x.peer {}).verified) then some cLinkDown
    else none := by
  have hgo : ¬ (!d.formedXfer p x) = true := by
    rw [h]
    exact Bool.false_ne_true
  exact if_neg hgo

theorem xferCheck_unformed (h : (x.xop ≠ 1 ∧ x.xop ≠ 2) ∨ x.word &&& xferMask ≠ x.word ∨ x.len < 64 ∨ 2 ^ 30 < x.len) : d.xferCheck p x = some cBadFormat := by
  refine xferCheck_of_unformed (Bool.eq_false_iff.mpr fun hformed => ?_)
  obtain ⟨hword, hxop, -, -, hlo, hhi⟩ := formedXfer_fields hformed
  omega

/-- What a descriptor that passes every local check carries. -/
theorem xferCheck_passes (h : d.xferCheck p x = none) :
    (x.xop = 1 ∨ x.xop = 2) ∧ x.addr % 64 = 0 ∧ x.len % 64 = 0 ∧ 64 ≤ x.len ∧ x.len ≤ 2 ^ 30 ∧ (d.port p).xferCtx < 64 ∧ (d.ctx (d.port p).xferCtx).cstate ≠ .free
      ∧ ((d.port p).pstate = .up ∨ (d.port p).retraining d.now = true) := by
  have hformed : d.formedXfer p x = true := by
    by_contra hno
    rw [xferCheck_of_unformed (Bool.eq_false_iff.mpr hno)] at h
    exact absurd h (by simp)
  obtain ⟨-, hxop, haddr, hlen, hlo, hhi⟩ := formedXfer_fields hformed
  rw [xferCheck_of_formed hformed] at h
  split at h
  · exact absurd h (by simp)
  rename_i hctx
  split at h
  · exact absurd h (by simp)
  split at h
  · exact absurd h (by simp)
  rename_i hlink
  simp only [Bool.or_eq_true, Bool.not_eq_true', decide_eq_false_iff_not, not_or, Classical.not_not, beq_iff_eq] at hctx
  simp only [Bool.or_eq_true, Bool.and_eq_true, Bool.not_eq_true', not_or, not_and, bne_iff_ne, Bool.not_eq_false] at hlink
  obtain ⟨⟨hbound, hfree⟩, -⟩ := hctx
  refine ⟨hxop, haddr, hlen, hlo, hhi, hbound, hfree, ?_⟩
  by_cases hup : (d.port p).pstate = .up
  · exact Or.inl hup
  · exact Or.inr (hlink.1 hup)

/-! ### Transfers that arrive (R456, R457) -/

section
variable {y : Incoming}

theorem incoming_dead (h : d.portLive p = false) : d.incoming p y = d := by
  simp only [Dev.incoming, h, Bool.not_false, if_true]

variable (hlive : d.portLive p = true)
include hlive

theorem incoming_loopback (h : (d.port p).pstate = .loopback) : d.incoming p y = d.updPort p (fun g => { g with answer := cPartnerRefused }) := by
  simp only [Dev.incoming, hlive, h, Bool.not_true, Bool.false_eq_true, if_false, if_true]

section
variable (hup : (d.port p).pstate = .up)
include hup

theorem incoming_closed (hopen : (d.port p).rxwEnable = false) : d.incoming p y = d.updPort p (fun g => { g with answer := cWindowClosed }) := by
  simp only [Dev.incoming, hlive, hup, hopen, Bool.not_true, Bool.not_false, Bool.false_eq_true, reduceCtorEq, bne_self_eq_false, if_false, if_true]

theorem incoming_outside (hopen : (d.port p).rxwEnable = true) (hout : d.inWindow (d.port p) y.write y.off y.len y.post = false) :
    d.incoming p y = d.updPort p (fun g => { g with answer := cRemoteRange }) := by
  simp only [Dev.incoming, hlive, hup, hopen, hout, Bool.not_true, Bool.not_false, Bool.false_eq_true, reduceCtorEq, bne_self_eq_false, if_false, if_true]

theorem incoming_carried (hopen : (d.port p).rxwEnable = true) (hin : d.inWindow (d.port p) y.write y.off y.len y.post = true) :
    d.incoming p y = d.updPort p (fun g => { g with
      inbound := g.inbound ++ [({ id := g.nextInbound, write := y.write, off := y.off, len := y.len, post := y.post } : Inbound)]
      nextInbound := g.nextInbound + 1
      answer := cOk }) := by
  simp only [Dev.incoming, hlive, hup, hopen, hin, Bool.not_true, Bool.false_eq_true, reduceCtorEq, bne_self_eq_false, if_false]

end
end

/-! ### How transfers end (R458) -/

/-- A port's started transfer at an index ends with a code, and what can be written of its ring's completions is. -/
def Dev.endsXfer (d : Dev) (p index code : Nat) : Dev :=
  (d.updXq p (fun g => { g with xfers := g.xfers.map (fun (y : Xfer) => if y.index = index ∧ y.fin.isNone then { y with fin := some code } else y) })).xqWrite p

section
variable {index code : Nat} {bytes : List Byte} (hfind : (d.port p).xq.active.find? (fun y => y.index == index) = some x)
include hfind

theorem xferEnd_eq : d.xferEnd p index code bytes = (let e := if code == cOk && x.xop == 2 then d.storeDev x.addr bytes else d
    (if code == cOk && x.localPost then e.syncPost x.localSync 1 else e).endsXfer p index code) := by
  unfold Dev.xferEnd
  rw [hfind]
  rfl

theorem xferEnd_fails (hcode : code ≠ cOk) : d.xferEnd p index code bytes = d.endsXfer p index code := by
  simp only [xferEnd_eq hfind, beq_false_of_ne hcode, Bool.false_and, Bool.false_eq_true, if_false]

/-- The transfer's end where its port is UP: a post that an FS8 is asked for is refused, a READ's bytes come whole. -/
theorem xferDone_up (hup : (d.port p).pstate = .up) : d.xferDone p index bytes =
    if (((d.port p).partner.map (·.fs8)).getD false || (((((d.port p).peers.getD x.peer {}).ident.map (·.fs8)).getD false) && isEth p)) && x.remotePost then d.xferEnd p index cPartnerRefused []
    else if x.xop = 2 ∧ bytes.length ≠ x.len then d else d.xferEnd p index cOk bytes := by
  unfold Dev.xferDone
  rw [hfind]
  simp only [hup, bne_self_eq_false, Bool.false_eq_true, if_false]

/-- An FS8 refuses a post. -/
theorem xferDone_fs8 (hup : (d.port p).pstate = .up) (hfs8 : (d.port p).partner.map (·.fs8) = some true) (hpost : x.remotePost = true) : d.xferDone p index bytes = d.endsXfer p index cPartnerRefused := by
  rw [xferDone_up hfind hup, hfs8, hpost, Option.getD_some, Bool.true_or, Bool.and_true, if_pos rfl, xferEnd_fails hfind (by decide)]

section
variable (hup : (d.port p).pstate = .up) (hsholo : isEth p = false) (hfs16 : (d.port p).partner.map (·.fs8) = some false)
include hup hsholo hfs16

theorem xferDone_fs16 (hwhole : x.xop = 2 → bytes.length = x.len) : d.xferDone p index bytes = d.xferEnd p index cOk bytes := by
  rw [xferDone_up hfind hup, hfs16, hsholo, Option.getD_some, Bool.and_false, Bool.or_self, Bool.false_and, if_neg Bool.false_ne_true, if_neg]
  rintro ⟨hread, hlen⟩
  exact hlen (hwhole hread)

theorem xferDone_write (hxop : x.xop = 1) (hpost : x.localPost = false) : d.xferDone p index bytes = d.endsXfer p index cOk := by
  rw [xferDone_fs16 hfind hup hsholo hfs16 (by omega), xferEnd_eq hfind, hxop, hpost]
  rfl

/-- A READ done stores its bytes and applies its local post. -/
theorem xferDone_read (hxop : x.xop = 2) (hlen : bytes.length = x.len) (hpost : x.localPost = true) :
    d.xferDone p index bytes = ((d.storeDev x.addr bytes).syncPost x.localSync 1).endsXfer p index cOk := by
  rw [xferDone_fs16 hfind hup hsholo hfs16 (fun _ => hlen), xferEnd_eq hfind, hxop, hpost]
  rfl

end
end

/-- An arriving WRITE without a post stores its bytes in the window. -/
theorem inboundEnd_write {index : Nat} {w : Inbound} {bytes : List Byte} (hfind : (d.port p).inbound.find? (fun y => y.id == index) = some w) (hup : (d.port p).pstate = .up) (hwrite : w.write = true)
    (hlen : bytes.length = w.len) (hin : d.inWindow (d.port p) true w.off w.len w.post = true) (hpost : w.post = none) :
    d.inboundEnd p index bytes = ((d.updPort p (fun g => { g with inbound := g.inbound.filter (fun y => y.id != index) })).storeDev ((d.port p).windowBase + w.off) bytes).updPort p (fun g => { g with answer := cOk }) := by
  have hin' : (d.updPort p (fun g => { g with inbound := g.inbound.filter (fun y => y.id != index) })).inWindow (d.port p) true w.off w.len none = true := hpost ▸ hin
  unfold Dev.inboundEnd
  simp only [hfind, hup, hwrite, hlen, hpost, bne_self_eq_false, Bool.and_false, Bool.or_self, Bool.false_eq_true, if_false, if_true]
  rw [if_pos hin']

end

/-! ### The rows -/

/-- TRANSFER_COMPLETE by its result (R458); the partner's refusals are the three codes of Table 19-7. -/
def Dev.transferEnds (d : Dev) (p index : Nat) (result : TransferEnd) : Dev :=
  match result with
  | .done bytes => d.xferDone p index bytes
  | .refused code => if code = cPartnerRefused ∨ code = cWindowClosed ∨ code = cRemoteRange then d.xferEnd p index code [] else d
  | .arrived bytes => d.inboundEnd p index bytes

section
variable {s : State} {t p : Nat} {d e : Dev} (hd : s.dueAt t = d)
include hd

theorem exec_xqControlEnable {data : Nat} (hopen : d.hostOpen (portUnit p) = true) (h : d.xqControl p data = e) : exec (.xqControlEnable t p data) s = .next (s.endsWith t e) :=
  run_of_due (f := fun d => if d.hostOpen (portUnit p) then d.xqControl p data else d) hd ((if_pos hopen).trans h)

theorem exec_xqControlEnable_shut {data : Nat} (hopen : d.hostOpen (portUnit p) = false) : exec (.xqControlEnable t p data) s = .next (s.endsWith t d) :=
  run_of_due (f := fun d => if d.hostOpen (portUnit p) then d.xqControl p data else d) hd (if_neg (Bool.eq_false_iff.mp hopen))

theorem exec_xqTailDoorbell {value : Nat} {host : List Host.Cell} (hopen : d.hostOpen (portUnit p) = true) (h : ({ d with hostMem := memWriteCells d.hostMem host } : Dev).xqTail p value = e) :
    exec (.xqTailDoorbell t p value host) s = .next (s.endsWith t e) :=
  run_of_due (f := fun d => if ({ d with hostMem := memWriteCells d.hostMem host } : Dev).hostOpen (portUnit p) then ({ d with hostMem := memWriteCells d.hostMem host } : Dev).xqTail p value
    else { d with hostMem := memWriteCells d.hostMem host }) hd ((if_pos hopen).trans h)

theorem exec_rxwEnableWrite {data : Nat} (hopen : d.hostOpen (portUnit p) = true) (h : d.rxwControl p data = e) : exec (.rxwEnableWrite t p data) s = .next (s.endsWith t e) :=
  run_of_due (f := fun d => if d.hostOpen (portUnit p) then d.rxwControl p data else d) hd ((if_pos hopen).trans h)

theorem exec_rxwEnableWrite_shut {data : Nat} (hopen : d.hostOpen (portUnit p) = false) : exec (.rxwEnableWrite t p data) s = .next (s.endsWith t d) :=
  run_of_due (f := fun d => if d.hostOpen (portUnit p) then d.rxwControl p data else d) hd (if_neg (Bool.eq_false_iff.mp hopen))

theorem exec_transferWrite (h : d.xferFetch p (fun x => x.xop != 2) = e) : exec (.transferWrite t p) s = .next (s.endsWith t e) :=
  run_of_due (f := (Dev.xferFetch · p (fun x => x.xop != 2))) hd h

theorem exec_transferRead (h : d.xferFetch p (fun x => x.xop != 1) = e) : exec (.transferRead t p) s = .next (s.endsWith t e) :=
  run_of_due (f := (Dev.xferFetch · p (fun x => x.xop != 1))) hd h

theorem exec_incomingTransfer {x : Incoming} (h : d.incoming p x = e) : exec (.incomingTransfer t p x) s = .next (s.endsWith t e) := run_of_due (f := (Dev.incoming · p x)) hd h

theorem exec_transferComplete {index : Nat} {result : TransferEnd} (h : d.transferEnds p index result = e) : exec (.transferComplete t p index result) s = .next (s.endsWith t e) :=
  run_of_due (f := (Dev.transferEnds · p index result)) hd h

end

/-- Settles O46: the ring's and the window's registers, the fetch with its checks, and the end of each transfer. -/
theorem transfersStartAndEnd : Obligations.TransfersStartAndEnd := by
  intro s t p data value index host x z w bytes code
  generalize hd : s.dueAt t = d
  refine ⟨?registers, fun hopen => ⟨exec_xqControlEnable_shut hd hopen, exec_rxwEnableWrite_shut hd hopen⟩, ?fetch, xferCheck_unformed, xferCheck_passes, ?incoming,
    fun h => exec_incomingTransfer hd (incoming_dead h), ?complete, ?arrived⟩
  case registers =>
    intro hp hopen
    have hlive := portLive_of_open hopen hp
    exact ⟨fun hen hdrained => exec_xqControlEnable hd hopen (xqControl_enables hlive hen hdrained), fun hen hdrained => exec_xqControlEnable hd hopen (xqControl_refused hlive hen hdrained),
      fun hen => exec_xqControlEnable hd hopen (xqControl_disables hlive hen), fun hen hin => exec_xqTailDoorbell hd hopen (xqTail_sets hlive hen hin),
      fun hen hout => exec_xqTailDoorbell hd hopen (xqTail_halts hlive hen hout), fun hen => exec_xqTailDoorbell hd hopen (xqTail_refused hlive hen),
      fun h => exec_rxwEnableWrite hd hopen (rxwControl_sets hlive h), fun hctx hbusy => exec_rxwEnableWrite hd hopen (rxwControl_ignored hlive hctx hbusy)⟩
  case fetch =>
    intro hlive hen hhalted hhead hfull hstop hstate hactive hdoomed
    have hfetch : d.fetches p := ⟨hlive, hen, hhalted, hhead, hfull, hstop, hstate, hactive, hdoomed⟩
    exact ⟨fun hxop => exec_transferWrite hd (xferFetch_takes hfetch (bne_iff_ne.mpr hxop)), fun hxop => exec_transferRead hd (xferFetch_takes hfetch (bne_iff_ne.mpr hxop)),
      fun hxop => exec_transferWrite hd (xferFetch_other (bne_eq_false_iff_eq.mpr hxop)), fun hxop => exec_transferRead hd (xferFetch_other (bne_eq_false_iff_eq.mpr hxop))⟩
  case incoming =>
    exact fun hlive => ⟨fun h => exec_incomingTransfer hd (incoming_loopback hlive h), fun hup hopen => exec_incomingTransfer hd (incoming_closed hlive hup hopen),
      fun hup hopen hout => exec_incomingTransfer hd (incoming_outside hlive hup hopen hout), fun hup hopen hin => exec_incomingTransfer hd (incoming_carried hlive hup hopen hin)⟩
  case complete =>
    intro hfind
    refine ⟨fun hcode => ?_, fun hup hfs8 hpost => exec_transferComplete hd (xferDone_fs8 hfind hup hfs8 hpost), fun hup hsholo hfs16 hxop hpost => exec_transferComplete hd (xferDone_write hfind hup hsholo hfs16 hxop hpost),
      fun hup hsholo hfs16 hxop hlen hpost => exec_transferComplete hd (xferDone_read hfind hup hsholo hfs16 hxop hlen hpost)⟩
    refine exec_transferComplete hd ((if_pos hcode).trans (xferEnd_fails hfind ?_))
    rcases hcode with rfl | rfl | rfl <;> decide
  case arrived => exact fun hfind hup hwrite hlen hin hpost => exec_transferComplete hd (inboundEnd_write hfind hup hwrite hlen hin hpost)

end Sys2Proof.Machine
end

section
/-! PROOFS. Ethernet ports: datagrams, peers that become VERIFIED, and resends (R461, R462). -/

namespace Sys2Proof.Machine

section
variable {d : Dev} {p k : Nat} {x : Datagram} {y : Peer}

/-! ### Datagrams (R461) -/

/-- A partner's record changes the tree of the physical function's view once (R38, R452). -/
theorem partnerRecord_tree (d : Dev) (p peer code id : Nat) : ((d.partnerRecord p peer code id).view 0).treeGeneration = ((d.view 0).treeGeneration + 1) % 2 ^ 32 := by
  obtain ⟨q, hq⟩ := raiseFor_form d 0 5 code (portUnit p).page (p + 256 * peer) (id % 2 ^ 64)
  have hraise : d.class5 p peer code id = { d with attnqs := q } := hq
  rw [Dev.partnerRecord, hraise]
  simp [Dev.treeChanged, Dev.bumpTree, Dev.view]

theorem ethDatagram_sholo (h : isEth p = false) : d.ethDatagram p x = d := by
  simp only [Dev.ethDatagram, h, Bool.not_false, Bool.true_or, if_true]

section
variable (heth : isEth p = true) (hlive : d.portLive p = true) (hup : (d.port p).pstate = .up)
include heth hlive hup

theorem ethDatagram_unknown (hfind : (d.port p).peers.find? (fun (e : Nat × Peer) => e.2.valid && e.2.addr == x.addr) = none) :
    d.ethDatagram p x = d.updPort p (fun g => { g with dropped := satAdd 0xFFFFFFFF g.dropped 1 }) := by
  simp only [Dev.ethDatagram, heth, hlive, hup, hfind, Bool.not_true, bne_self_eq_false, Bool.or_self, Bool.false_eq_true, if_false]

section
variable (hfind : (d.port p).peers.find? (fun (e : Nat × Peer) => e.2.valid && e.2.addr == x.addr) = some (k, y))
include hfind

theorem ethDatagram_ack {numbers : List Nat} (hkind : x.kind = .ack numbers) :
    d.ethDatagram p x = d.updPort p (fun g => { g with peers := g.peers.put k { y with resends := y.resends.filter (fun e => !numbers.contains e.1) } }) := by
  simp only [Dev.ethDatagram, heth, hlive, hup, hfind, hkind, Bool.not_true, bne_self_eq_false, Bool.or_self, Bool.false_eq_true, if_false]

/-- A peer's identity frame: the transfers of another module under its name are lost, the peer is VERIFIED, and its record is raised unless it was VERIFIED as this module. -/
theorem ethDatagram_identity {i : Identity} (hkind : x.kind = .identity i) : ∃ e lost known code, e = (if y.verified && lost then d.loseXfers p cPartnerLost (fun z => z.peer == k) else d)
    ∧ d.ethDatagram p x = (let v := e.updPort p (fun g => { g with peers := g.peers.put k { y with verified := true, ident := some i, lastId := some i.deviceId }, sent := some (e.identityFrame p) })
      if y.verified && known then v else v.partnerRecord p k code i.deviceId) := by
  unfold Dev.ethDatagram
  simp only [heth, hlive, hup, hfind, hkind, Bool.not_true, bne_self_eq_false, Bool.or_self, Bool.false_eq_true, if_false]
  exact ⟨_, _, _, _, rfl, rfl⟩

/-- The peer that sent an identity frame is VERIFIED, and the tree has changed where it was not before. -/
theorem ethDatagram_verifies {i : Identity} (hkind : x.kind = .identity i) :
    (d.ethDatagram p x).jobs = d.jobs ∧ (d.ethDatagram p x).modState = d.modState
      ∧ ((d.ethDatagram p x).port p).peers.get? k = some { y with verified := true, ident := some i, lastId := some i.deviceId }
      ∧ (y.verified = false → ((d.ethDatagram p x).view 0).treeGeneration = ((d.view 0).treeGeneration + 1) % 2 ^ 32) := by
  obtain ⟨e, lost, known, code, he, heq⟩ := ethDatagram_identity heth hlive hup hfind hkind
  rw [heq]
  have hsame : d.linkSame e := by
    rw [he]
    split
    · exact linkSame_loseXfers d p _ _
    · exact linkSame_refl d
  have hkept : d.linkSame (e.updPort p (fun g => { g with peers := g.peers.put k { y with verified := true, ident := some i, lastId := some i.deviceId }, sent := some (e.identityFrame p) })) :=
    linkSame_trans hsame (linkSame_updPort e p _)
  have hpeer : ((e.updPort p (fun g => { g with peers := g.peers.put k { y with verified := true, ident := some i, lastId := some i.deviceId }, sent := some (e.identityFrame p) })).port p).peers.get? k
      = some { y with verified := true, ident := some i, lastId := some i.deviceId } := by
    rw [port_updPort_self]
    exact get?_put_self _ _ _
  have hview : y.verified = false → (e.updPort p (fun g => { g with peers := g.peers.put k { y with verified := true, ident := some i, lastId := some i.deviceId }, sent := some (e.identityFrame p) })).view 0 = d.view 0 := by
    intro hv
    rw [he, hv]
    rfl
  generalize e.updPort p _ = v at hkept hpeer hview
  dsimp only
  by_cases hknown : (y.verified && known) = true
  · rw [if_pos hknown]
    obtain ⟨hstate, -, hjobs, -⟩ := hkept
    refine ⟨hjobs, hstate, hpeer, fun hv => ?_⟩
    rw [hv] at hknown
    exact absurd hknown Bool.false_ne_true
  · rw [if_neg hknown]
    obtain ⟨hstate, -, hjobs, -⟩ := linkSame_trans hkept (linkSame_partnerRecord v p k code i.deviceId)
    refine ⟨hjobs, hstate, ?_, fun hv => ?_⟩
    · rw [port_partnerRecord]
      exact hpeer
    · rw [partnerRecord_tree, hview hv]

end
end

/-! ### Resends (R462) -/

section
variable {number delay : Nat}

theorem ethResend_sholo (h : isEth p = false) : d.ethResend p k number delay = d := by
  simp only [Dev.ethResend, h, Bool.not_false, Bool.true_or, if_true]

variable (heth : isEth p = true) (hlive : d.portLive p = true) (hverified : ((d.port p).peers.getD k {}).verified = true)
include heth hlive hverified

theorem ethResend_counts (hlt : ((d.port p).peers.getD k {}).resends.getD number 0 < 8) :
    d.ethResend p k number delay = d.updPort p (fun g => { g with
      peers := g.peers.put k { (d.port p).peers.getD k {} with resends := ((d.port p).peers.getD k {}).resends.put number (((d.port p).peers.getD k {}).resends.getD number 0 + 1) }
      retransmits := satAdd 0xFFFFFFFF g.retransmits 1
      replays := satAdd 0xFFFFFFFF g.replays 1
      maxDelay := max g.maxDelay delay }) := by
  simp only [Dev.ethResend, heth, hlive, hverified, hlt, Bool.not_true, Bool.or_self, Bool.false_eq_true, if_false, if_true]

theorem ethResend_gives_up (hge : 8 ≤ ((d.port p).peers.getD k {}).resends.getD number 0) :
    d.ethResend p k number delay = (d.dropPeer p k ((d.port p).peers.getD k {})).loseXfers p cPeerUnreachable (fun z => z.peer == k) := by
  simp only [Dev.ethResend, heth, hlive, hverified, Nat.not_lt.mpr hge, Bool.not_true, Bool.or_self, Bool.false_eq_true, if_false]

end

theorem linkSame_dropPeer (d : Dev) (p k : Nat) (y : Peer) : d.linkSame (d.dropPeer p k y) := linkSame_trans (linkSame_updPort d p _) (linkSame_partnerRecord _ p k 2 _)

/-- A peer given up is no longer VERIFIED, and the loss of its transfers takes nothing of the work. -/
theorem dropPeer_loseXfers (d : Dev) (p k code : Nat) (y : Peer) (sel : Xfer → Bool) :
    (((d.dropPeer p k y).loseXfers p code sel).port p).peers.get? k = some { y with verified := false, ident := none, resends := [] }
      ∧ ((d.dropPeer p k y).loseXfers p code sel).jobs = d.jobs ∧ ((d.dropPeer p k y).loseXfers p code sel).modState = d.modState := by
  obtain ⟨hstate, -, hjobs, -⟩ := linkSame_trans (linkSame_dropPeer d p k y) (linkSame_loseXfers _ p code sel)
  refine ⟨?_, hjobs, hstate⟩
  rw [port_loseXfers_keeps Port.peers (fun _ _ => rfl)]
  unfold Dev.dropPeer
  dsimp only
  rw [port_partnerRecord, port_updPort_self]
  exact get?_put_self _ _ _

end

/-! ### The rows -/

section
variable {s : State} {t p : Nat} {d e : Dev} (hd : s.dueAt t = d)
include hd

theorem exec_ethDatagram {x : Datagram} (h : d.ethDatagram p x = e) : exec (.ethDatagram t p x) s = .next (s.endsWith t e) := run_of_due (f := (Dev.ethDatagram · p x)) hd h

theorem exec_ethResendTimeout {k number delay : Nat} (h : d.ethResend p k number delay = e) : exec (.ethResendTimeout t p k ⟨number, delay⟩) s = .next (s.endsWith t e) :=
  run_of_due (f := (Dev.ethResend · p k number delay)) hd h

end

/-- Settles O47: what each datagram makes of its peer, and the eight resends. -/
theorem ethernetPeersAndResends : Obligations.EthernetPeersAndResends := by
  intro s t p k number delay numbers x y i
  generalize hd : s.dueAt t = d
  refine ⟨fun heth hlive => ⟨fun hup hfind => exec_ethDatagram hd (ethDatagram_unknown heth hlive hup hfind), fun hup hfind => ⟨?ack, ?identity⟩, ?counts, ?givesUp⟩,
    fun h => ⟨exec_ethDatagram hd (ethDatagram_sholo h), exec_ethResendTimeout hd (ethResend_sholo h)⟩⟩
  case ack => exact fun hkind => exec_ethDatagram hd (ethDatagram_ack heth hlive hup hfind hkind)
  case identity => exact fun hkind => ⟨_, exec_ethDatagram hd rfl, ethDatagram_verifies heth hlive hup hfind hkind⟩
  case counts =>
    intro hverified hlt
    refine ⟨_, exec_ethResendTimeout hd (ethResend_counts heth hlive hverified hlt), ?_, ?_, ?_, fun q hq => port_updPort_ne d _ hq⟩
    · rw [port_updPort_self]
      exact get?_put_self _ _ _
    · rw [port_updPort_self]
    · rw [port_updPort_self]
  case givesUp =>
    intro hverified hge
    obtain ⟨hpeer, hjobs, hstate⟩ := dropPeer_loseXfers d p k cPeerUnreachable ((d.port p).peers.getD k {}) (fun z => z.peer == k)
    exact ⟨_, exec_ethResendTimeout hd (ethResend_gives_up heth hlive hverified hge), hpeer, rfl, hjobs, hstate⟩

end Sys2Proof.Machine
end

section
/-! PROOFS. The stages of a bring-up, its waits, training, self-tests and failures (R469 to R477). -/

namespace Sys2Proof.Machine

/-- What every step of a fold keeps, the fold keeps. -/
theorem foldl_keeps {α β : Type} (φ : Dev → β) (f : Dev → α → Dev) (hf : ∀ d a, φ (f d a) = φ d) (l : List α) (d : Dev) : φ (l.foldl f d) = φ d := by
  induction l generalizing d with
  | nil => rfl
  | cons a l ih => exact (ih (f d a)).trans (hf d a)

/-! ### Where a bring-up stands -/

/-- The module state, the stage and the failure of a bring-up. -/
def Dev.bootPlace (d : Dev) : ModState × Nat × Nat := (d.modState, d.boot.stage, d.boot.failReason)

/-- A module in BOOT at a stage without a failure. -/
def Dev.bootsAt (d : Dev) (n : Nat) : Prop := d.modState = .boot ∧ d.boot.stage = n ∧ d.boot.failReason = 0

/-- A bring-up that has failed at a stage, for a reason. -/
def Dev.bootFailed (d : Dev) (n reason : Nat) : Prop := d.modState = .boot ∧ d.boot.stage = n ∧ d.boot.failReason = reason ∧ d.boot.hold = false ∧ d.boot.smuWait = false

section
variable {d e : Dev} {n : Nat}

theorem inStage_iff : d.inStage n = true ↔ d.bootsAt n := by
  simp only [Dev.inStage, Dev.bootsAt, Bool.and_eq_true, beq_iff_eq]
  tauto

theorem inStage_ne {m : Nat} (h : d.inStage n = true) (hne : m ≠ n) : d.inStage m = false := by
  obtain ⟨-, hstage, -⟩ := inStage_iff.mp h
  refine Bool.eq_false_iff.mpr fun hm => hne ?_
  obtain ⟨-, hstage', -⟩ := inStage_iff.mp hm
  exact hstage'.symm.trans hstage

theorem bootsAt_of_place (h : e.bootPlace = d.bootPlace) (hd : d.bootsAt n) : e.bootsAt n := by
  obtain ⟨hstate, hstage, hfail⟩ := hd
  simp only [Dev.bootPlace, Prod.mk.injEq] at h
  exact ⟨h.1.trans hstate, h.2.1.trans hstage, h.2.2.trans hfail⟩

/-- The next stage is entered from a bring-up that has not failed. -/
theorem enterStage_bootsAt {m : Nat} (h : d.bootsAt m) (n : Nat) : (d.enterStage n).bootsAt n := ⟨h.1, rfl, h.2.2⟩

theorem bootFail_fails {reason : Nat} (h : d.bootsAt n) : (d.bootFail reason).bootFailed n reason := by
  obtain ⟨q, hq⟩ := raiseFor_form (d.updBoot (fun b => { b with failReason := reason, hold := false, smuWait := false })) 0 15 cDeviceFatal 0 (reason + 16 * d.boot.stage + 2 ^ 31) d.deviceTime
  have hform : d.bootFail reason = { d.updBoot (fun b => { b with failReason := reason, hold := false, smuWait := false }) with attnqs := q } := hq
  rw [hform]
  exact ⟨h.1, h.2.1, rfl, rfl, rfl⟩

/-- HOLD's conditions move no bring-up from its place. -/
theorem trackHold_place (d : Dev) : d.trackHold.bootPlace = d.bootPlace := by
  unfold Dev.trackHold
  dsimp only
  split
  · split <;> rfl
  · split
    · split
      · rfl
      · split <;> rfl
    · rfl

/-! ### The stage in progress (R469) -/

section
variable {x : StageResult}

theorem stageEnd_0 (h : d.inStage 0 = true) : d.stageEnd x = d.enterStage 1 := if_pos h

theorem stageEnd_1 (h : d.inStage 1 = true) :
    d.stageEnd x = if bit (d.bootImage 0 (bit x.badRun 0) (bit x.badOther 0)).boot.images 0 then ((d.bootImage 0 (bit x.badRun 0) (bit x.badOther 0)).updSec Security.completePairs).enterStage 2
      else (d.bootImage 0 (bit x.badRun 0) (bit x.badOther 0)).bootFail 1 := by
  simp only [Dev.stageEnd, h, inStage_ne h (m := 0) (by decide), Bool.false_eq_true, if_false, if_true]

theorem stageEnd_2 (h : d.inStage 2 = true) : d.stageEnd x = d.stageFirmware x.badRun x.badOther := by
  simp only [Dev.stageEnd, h, inStage_ne h (m := 0) (by decide), inStage_ne h (m := 1) (by decide), Bool.false_eq_true, if_false, if_true]

theorem stageEnd_3 (h : d.inStage 3 = true) : d.stageEnd x = d.stagePower := by
  simp only [Dev.stageEnd, h, inStage_ne h (m := 0) (by decide), inStage_ne h (m := 1) (by decide), inStage_ne h (m := 2) (by decide), Bool.false_eq_true, if_false, if_true]

theorem stageEnd_4 (h : d.inStage 4 = true) : d.stageEnd x = d.stageClusters x.clusters := by
  simp only [Dev.stageEnd, h, inStage_ne h (m := 0) (by decide), inStage_ne h (m := 1) (by decide), inStage_ne h (m := 2) (by decide), inStage_ne h (m := 3) (by decide), Bool.false_eq_true, if_false, if_true]

theorem stageEnd_5 (h : d.inStage 5 = true) : d.stageEnd x = if !d.stacksDone then d else if bit d.boot.stacksFailed 0 then d.bootFail 4 else d.enterStage 6 := by
  simp only [Dev.stageEnd, h, inStage_ne h (m := 0) (by decide), inStage_ne h (m := 1) (by decide), inStage_ne h (m := 2) (by decide), inStage_ne h (m := 3) (by decide), inStage_ne h (m := 4) (by decide),
    Bool.false_eq_true, if_false, if_true]

theorem stageEnd_6 (h : d.inStage 6 = true) : d.stageEnd x = if d.slotsDone then ((upFrom 0 4).foldl (fun d c => d.chainTest x.chainFailed c) d).enterStage 7 else d := by
  simp only [Dev.stageEnd, h, inStage_ne h (m := 0) (by decide), inStage_ne h (m := 1) (by decide), inStage_ne h (m := 2) (by decide), inStage_ne h (m := 3) (by decide), inStage_ne h (m := 4) (by decide),
    inStage_ne h (m := 5) (by decide), Bool.false_eq_true, if_false, if_true]

theorem stageEnd_7 (h : d.inStage 7 = true) : d.stageEnd x = d.stageFinal := by
  simp only [Dev.stageEnd, h, inStage_ne h (m := 0) (by decide), inStage_ne h (m := 1) (by decide), inStage_ne h (m := 2) (by decide), inStage_ne h (m := 3) (by decide), inStage_ne h (m := 4) (by decide),
    inStage_ne h (m := 5) (by decide), inStage_ne h (m := 6) (by decide), Bool.false_eq_true, if_false, if_true]

/-- With no stage in progress nothing ends. -/
theorem stageEnd_none (h : d.modState ≠ .boot ∨ d.boot.failReason ≠ 0 ∨ 8 ≤ d.boot.stage) : d.stageEnd x = d := by
  have hno : ∀ n, n < 8 → d.inStage n = false := by
    intro n hn
    refine Bool.eq_false_iff.mpr fun hin => ?_
    obtain ⟨hstate, hstage, hfail⟩ := inStage_iff.mp hin
    rcases h with h | h | h
    · exact h hstate
    · exact h hfail
    · omega
  simp only [Dev.stageEnd, hno 0, hno 1, hno 2, hno 3, hno 4, hno 5, hno 6, hno 7, Nat.reduceLT, Bool.false_eq_true, if_false]

/-! ### The images (stages 1 and 2; R376) -/

/-- Whether a processor has an image in the boot flash that it may start from. -/
def Dev.starts (d : Dev) (x : StageResult) (p : Nat) : Bool :=
  (!bit x.badRun p && d.bootable p (d.proc p).image) || (d.proc p).other.any (fun y => !bit x.badOther p && d.bootable p y)

theorem stage1_ends (h : d.inStage 1 = true) (hstart : d.starts x 0 = true) : (d.stageEnd x).bootsAt 2 ∧ (d.stageEnd x).sec = d.sec.completePairs := by
  obtain ⟨pr, im, hform, -, hbit, -⟩ := bootImage_form d 0 (bit x.badRun 0) (bit x.badOther 0)
  have hat := inStage_iff.mp h
  rw [stageEnd_1 h, hform, if_pos (hbit.trans hstart)]
  exact ⟨⟨hat.1, rfl, hat.2.2⟩, rfl⟩

theorem stage1_fails (h : d.inStage 1 = true) (hstart : d.starts x 0 = false) : (d.stageEnd x).bootFailed 1 1 := by
  obtain ⟨pr, im, hform, -, hbit, -⟩ := bootImage_form d 0 (bit x.badRun 0) (bit x.badOther 0)
  have hat := inStage_iff.mp h
  rw [stageEnd_1 h, hform, if_neg (Bool.eq_false_iff.mp (hbit.trans hstart))]
  exact bootFail_fails ⟨hat.1, hat.2.1, hat.2.2⟩

theorem countRestart_place (d : Dev) (p : Nat) : (d.countRestart p).bootPlace = d.bootPlace := by
  unfold Dev.countRestart
  dsimp only
  split <;> rfl

theorem stageFirmware_warm {a b : Nat} (h : d.bootsAt 2) (hwarm : d.boot.warm = true) : (d.stageFirmware a b).bootsAt 3 := by
  rw [Dev.stageFirmware, if_pos hwarm]
  have hcount := bootsAt_of_place (foldl_keeps Dev.bootPlace Dev.countRestart countRestart_place (upFrom 0 7) d) h
  exact bootsAt_of_place (trackHold_place _) (enterStage_bootsAt hcount 3)

/-- A cold stage 2 is decided by the images of the power core and the scheduler core. -/
theorem stageFirmware_cold (h : d.bootsAt 2) (hcold : d.boot.warm = false) :
    ((d.starts x 1 && d.starts x 2) = true → (d.stageFirmware x.badRun x.badOther).bootsAt 3) ∧ ((d.starts x 1 && d.starts x 2) = false → (d.stageFirmware x.badRun x.badOther).bootFailed 2 2) := by
  obtain ⟨pr, im, hform, hbits⟩ := bootImages_form (fun p => bit x.badRun p) (fun p => bit x.badOther p) (upFrom 1 6) d (by decide)
  have himages : (bit im 1 && bit im 2) = (d.starts x 1 && d.starts x 2) := congrArg₂ and (hbits 1 (by decide)) (hbits 2 (by decide))
  have hat : ({ d with procs := pr, boot := { d.boot with images := im } } : Dev).bootsAt 2 := h
  rw [Dev.stageFirmware, if_neg (Bool.eq_false_iff.mp hcold), hform]
  dsimp only
  rw [himages]
  refine ⟨fun hstart => ?_, fun hstart => ?_⟩
  · rw [if_pos hstart]
    exact bootsAt_of_place (trackHold_place _) (enterStage_bootsAt hat 3)
  · rw [if_neg (Bool.eq_false_iff.mp hstart)]
    exact bootFail_fails hat

/-! ### Power and clusters (stages 3 and 4; R471, R475) -/

theorem startPorts_keeps (d : Dev) : d.startPorts.bootPlace = d.bootPlace ∧ d.startPorts.boot = d.boot ∧ d.startPorts.pins = d.pins := by
  have hkept : (d.startPorts.bootPlace, d.startPorts.boot, d.startPorts.pins) = (d.bootPlace, d.boot, d.pins) := by
    unfold Dev.startPorts
    refine foldl_keeps (fun d : Dev => (d.bootPlace, d.boot, d.pins)) _ (fun e p => ?_) _ d
    rfl
  simpa only [Prod.mk.injEq] using hkept

theorem stagePower_ends (h : d.bootsAt 3) (hgo : (d.boot.hold || (d.boot.enables && d.pwr.smuSeq.isNone && !d.pwr.smuAbsent)) = false) :
    d.stagePower.bootsAt 4 ∧ d.stagePower.boot.railsOff = false ∧ d.stagePower.pins.thermTrip = false := by
  rw [Dev.stagePower, if_neg (Bool.eq_false_iff.mp hgo)]
  dsimp only
  obtain ⟨hplace, hboot, hpins⟩ := startPorts_keeps (({ d with pins := { d.pins with thermTrip := false } } : Dev).updBoot (fun b => { b with smuWait := false, railsOff := false, tripped := false }) |>.enterStage 4)
  rw [hboot, hpins]
  exact ⟨bootsAt_of_place hplace ⟨h.1, rfl, h.2.2⟩, rfl, rfl⟩

theorem stagePower_waits (hwait : (d.boot.hold || (d.boot.enables && d.pwr.smuSeq.isNone && !d.pwr.smuAbsent)) = true) : d.stagePower = d := if_pos hwait

theorem failStacks_keeps (d : Dev) (up : Nat) : (d.failStacks up).bootPlace = d.bootPlace ∧ (d.failStacks up).boot.clustersUp = d.boot.clustersUp := by
  have hkept : (fun d : Dev => (d.bootPlace, d.boot.clustersUp)) (d.failStacks up) = (d.bootPlace, d.boot.clustersUp) := by
    refine foldl_keeps (fun d : Dev => (d.bootPlace, d.boot.clustersUp)) _ (fun e h => ?_) _ d
    dsimp only
    split <;> rfl
  simpa only [Prod.mk.injEq] using hkept

theorem stageClusters_ends {c : Nat} (h : d.bootsAt 4) (hup : bit (c &&& (d.boot.images >>> 3) &&& 15) 0 = true) :
    (d.stageClusters c).bootsAt 5 ∧ (d.stageClusters c).boot.clustersUp = c &&& (d.boot.images >>> 3) &&& 15 := by
  unfold Dev.stageClusters
  dsimp only
  rw [if_pos hup]
  obtain ⟨hplace, hclusters⟩ := failStacks_keeps (d.updBoot (fun b => { b with clustersUp := c &&& (d.boot.images >>> 3) &&& 15 })) (c &&& (d.boot.images >>> 3) &&& 15)
  have hat : (d.updBoot (fun b => { b with clustersUp := c &&& (d.boot.images >>> 3) &&& 15 })).bootsAt 4 := h
  exact ⟨enterStage_bootsAt (bootsAt_of_place hplace hat) 5, hclusters⟩

theorem stageClusters_fails {c : Nat} (h : d.bootsAt 4) (hup : bit (c &&& (d.boot.images >>> 3) &&& 15) 0 = false) : (d.stageClusters c).bootFailed 4 5 := by
  unfold Dev.stageClusters
  dsimp only
  rw [if_neg (Bool.eq_false_iff.mp hup)]
  have hat : (d.updBoot (fun b => { b with clustersUp := c &&& (d.boot.images >>> 3) &&& 15 })).bootsAt 4 := h
  exact bootFail_fails hat

/-! ### Stacks and slots (stages 5 and 6; R473, R474) -/

theorem stage5_waits (h : d.inStage 5 = true) (hwait : d.stacksDone = false) : d.stageEnd x = d := by
  rw [stageEnd_5 h, hwait]
  rfl

theorem stage5_fails (h : d.inStage 5 = true) (hdone : d.stacksDone = true) (hfail : bit d.boot.stacksFailed 0 = true) : (d.stageEnd x).bootFailed 5 4 := by
  rw [stageEnd_5 h, hdone, hfail]
  exact bootFail_fails (inStage_iff.mp h)

theorem stage5_ends (h : d.inStage 5 = true) (hdone : d.stacksDone = true) (hgood : bit d.boot.stacksFailed 0 = false) : (d.stageEnd x).bootsAt 6 := by
  rw [stageEnd_5 h, hdone, hgood]
  exact enterStage_bootsAt (inStage_iff.mp h) 6

theorem bootRetire_place (d : Dev) (s : Nat) : (d.bootRetire s).bootPlace = d.bootPlace := by
  unfold Dev.bootRetire
  split <;> rfl

theorem chainRun_place (d : Dev) (differs c : Nat) : (d.chainRun differs c).bootPlace = d.bootPlace := by
  unfold Dev.chainRun
  split
  · exact bootRetire_place d _
  · rfl

theorem stage6_ends (h : d.inStage 6 = true) (hdone : d.slotsDone = true) : (d.stageEnd x).bootsAt 7 := by
  rw [stageEnd_6 h, if_pos hdone]
  have hchains := foldl_keeps Dev.bootPlace (fun d c => d.chainTest x.chainFailed c) (fun e c => (chainRun_place _ _ c).trans (chainRun_place e _ c)) (upFrom 0 4) d
  exact enterStage_bootsAt (bootsAt_of_place hchains (inStage_iff.mp h)) 7

theorem stage6_waits (h : d.inStage 6 = true) (hwait : d.slotsDone = false) : d.stageEnd x = d := by
  rw [stageEnd_6 h, if_neg (Bool.eq_false_iff.mp hwait)]

/-! ### The final geometry (stage 7; R18, R475, R479) -/

theorem bootSubstituted_keeps (d : Dev) (slot n : Nat) : (d.bootSubstituted slot n).bootPlace = d.bootPlace ∧ (d.bootSubstituted slot n).boot = d.boot ∧ (d.bootSubstituted slot n).geom = d.geom := by
  unfold Dev.bootSubstituted
  dsimp only
  obtain ⟨q, hq⟩ := raiseFor_form d 0 1 0x306 UnitId.geom.page (slot + 2 ^ 8 * spareSlot (slot / 5) + 2 ^ 16 * n) 0
  have hraise : d.raise 1 0x306 UnitId.geom.page (slot + 2 ^ 8 * spareSlot (slot / 5) + 2 ^ 16 * n) 0 = { d with attnqs := q } := hq
  rw [hraise]
  obtain ⟨c, l, q', hlog⟩ := logRec_form ({ d with attnqs := q } : Dev).takeFree.2 0 lvInfo (({ d with attnqs := q } : Dev).takeFree.1 % 65536) 0 slot
  rw [hlog]
  exact ⟨rfl, rfl, rfl⟩

/-- The substitutions made in this bring-up are recorded, and nothing else of it changes. -/
theorem substitutions_keep (slots : List Nat) (w : Dev) :
    (fun d : Dev => (d.bootPlace, d.boot, d.geom)) ((upFrom 0 20).foldl (fun (d : Dev) s =>
      if bit d.boot.retiredNow s && s != spareSlot (s / 5) && slots.contains (spareSlot (s / 5)) then d.bootSubstituted s (slots.idxOf (spareSlot (s / 5))) else d) w) = (w.bootPlace, w.boot, w.geom) := by
  refine foldl_keeps (fun d : Dev => (d.bootPlace, d.boot, d.geom)) _ (fun e s => ?_) _ w
  split
  · obtain ⟨hplace, hboot, hgeom⟩ := bootSubstituted_keeps e s (slots.idxOf (spareSlot (s / 5)))
    rw [hplace, hboot, hgeom]
  · rfl

/-- The geometry page holds the slots in service, and the boot record their number. -/
theorem writeGeometry_keeps (d : Dev) : d.writeGeometry.bootPlace = d.bootPlace ∧ d.writeGeometry.geom.slots = d.finalSlots ∧ d.writeGeometry.boot.logicalCores = d.finalSlots.length := by
  have hkept := substitutions_keep d.finalSlots (({ d with
    geom := { d.geom with slots := d.finalSlots, spareIn := (upFrom 0 4).foldl (fun m c => if d.finalSlots.contains (spareSlot c) then setBit m c else m) 0, offline := 0 } } : Dev).updBoot
      (fun b => { b with logicalCores := d.finalSlots.length }))
  simp only [Prod.mk.injEq] at hkept
  obtain ⟨hplace, hboot, hgeom⟩ := hkept
  exact ⟨hplace, congrArg Geometry.slots hgeom, congrArg Boot.logicalCores hboot⟩

theorem stageFinal_fails (h : d.bootsAt 7) (hnone : d.finalSlots = []) : d.stageFinal.bootFailed 7 6 := by
  obtain ⟨hplace, hslots, -⟩ := writeGeometry_keeps d
  have hcores : d.writeGeometry.nCores = 0 := by
    rw [Dev.nCores, hslots, hnone]
    rfl
  rw [Dev.stageFinal, if_pos hcores]
  exact bootFail_fails (bootsAt_of_place hplace h)

theorem class14_keeps (d : Dev) : d.class14.modState = d.modState ∧ d.class14.boot = d.boot ∧ d.class14.geom = d.geom := by
  unfold Dev.class14
  split
  · exact ⟨rfl, rfl, rfl⟩
  · rename_i x _
    obtain ⟨q, hq⟩ := raiseFor_form d 0 14 cDeviceFatal UnitId.sec.page (x.cause + 256 * b2n x.minimal + 65536 * x.laterFatals) x.time
    have hraise : d.raise 14 cDeviceFatal UnitId.sec.page (x.cause + 256 * b2n x.minimal + 65536 * x.laterFatals) x.time = { d with attnqs := q } := hq
    rw [hraise]
    exact ⟨rfl, rfl, rfl⟩

/-- A bring-up that ends with cores is READY. -/
theorem stageFinal_ends (h : d.bootsAt 7) (hsome : d.finalSlots ≠ []) :
    d.stageFinal.modState = .ready ∧ d.stageFinal.boot.stage = 8 ∧ d.stageFinal.boot.failReason = 0 ∧ d.stageFinal.geom.slots = d.finalSlots ∧ d.stageFinal.boot.logicalCores = d.finalSlots.length := by
  obtain ⟨hplace, hslots, hcount⟩ := writeGeometry_keeps d
  obtain ⟨-, -, hfail⟩ := bootsAt_of_place hplace h
  have hcores : d.writeGeometry.nCores ≠ 0 := by
    rw [Dev.nCores, hslots]
    exact fun h0 => hsome (List.length_eq_zero_iff.mp h0)
  rw [Dev.stageFinal, if_neg hcores]
  obtain ⟨hstate, hboot, hgeom⟩ := class14_keeps ((d.writeGeometry.enterStage 8).move .ready).treeChanged
  have hboot' : ((d.writeGeometry.enterStage 8).move .ready).treeChanged.boot = (d.writeGeometry.enterStage 8).boot := move_boot _ _
  have hgeom' : ((d.writeGeometry.enterStage 8).move .ready).treeChanged.geom = d.writeGeometry.geom := move_geom _ _
  rw [hstate, hboot, hgeom, hboot', hgeom']
  exact ⟨rfl, rfl, hfail, hslots, hcount⟩

end

/-! ### Waits and their bounds (R470, R471, R477) -/

/-- INPUT_POWER_TIMEOUT: a hold of more than 10 s for the input power fails. -/
def Dev.inputTimeout (d : Dev) : Dev := if d.inStage 3 && d.boot.hold && !d.pins.vin48 && decide (d.boot.holdSince + 10000000000 < d.sincePower) then d.bootFail 3 else d

/-- SMU_WAIT_TIMEOUT: after 100 ms without a valid reading the SMU counts as absent. -/
def Dev.smuTimeout (d : Dev) : Dev :=
  if d.inStage 3 && d.boot.smuWait && d.pwr.smuSeq.isNone && !d.pwr.smuAbsent && decide (d.boot.smuWaitSince + 100000000 ≤ d.sincePower) then
    (d.updPwr (fun p => { p with smuAbsent := true, feedValid := false })).class2 0x004 0 d.pwr.lastValid
  else d

/-- BRINGUP_TIMEOUT: the bring-up's bound is past. -/
def Dev.bringTimeout (d : Dev) : Dev := if d.modState == .boot && d.boot.failReason == 0 && decide (d.boot.bound < d.bootCounted) then d.bootFail 7 else d

theorem inputTimeout_acts (d : Dev) : if d.inStage 3 && d.boot.hold && !d.pins.vin48 && decide (d.boot.holdSince + 10000000000 < d.sincePower) then d.inputTimeout.bootFailed 3 3 else d.inputTimeout = d := by
  unfold Dev.inputTimeout
  split
  · rename_i h
    simp only [Bool.and_eq_true] at h
    obtain ⟨⟨⟨hstage, -⟩, -⟩, -⟩ := h
    exact bootFail_fails (inStage_iff.mp hstage)
  · rfl

theorem smuTimeout_acts (d : Dev) : if d.inStage 3 && d.boot.smuWait && d.pwr.smuSeq.isNone && !d.pwr.smuAbsent && decide (d.boot.smuWaitSince + 100000000 ≤ d.sincePower)
    then d.smuTimeout.pwr.smuAbsent = true ∧ d.smuTimeout.boot = d.boot ∧ d.smuTimeout.modState = .boot else d.smuTimeout = d := by
  unfold Dev.smuTimeout
  split
  · rename_i h
    simp only [Bool.and_eq_true] at h
    obtain ⟨⟨⟨⟨hstage, -⟩, -⟩, -⟩, -⟩ := h
    obtain ⟨q, hq⟩ := raiseFor_form (d.updPwr (fun p => { p with smuAbsent := true, feedValid := false })) 0 2 0x004 UnitId.pwr.page 0 d.pwr.lastValid
    have hclass : (d.updPwr (fun p => { p with smuAbsent := true, feedValid := false })).class2 0x004 0 d.pwr.lastValid = { d.updPwr (fun p => { p with smuAbsent := true, feedValid := false }) with attnqs := q } := hq
    obtain ⟨-, habsent, -⟩ := updPwr_window d (fun p => { p with smuAbsent := true, feedValid := false })
    rw [hclass]
    exact ⟨habsent, rfl, (inStage_iff.mp hstage).1⟩
  · rfl

theorem bringTimeout_acts (d : Dev) : if d.modState == .boot && d.boot.failReason == 0 && decide ((if d.boot.warm then 5000000000 else 12000000000) < d.bootCounted)
    then d.bringTimeout.bootFailed d.boot.stage 7 else d.bringTimeout = d := by
  change if d.modState == .boot && d.boot.failReason == 0 && decide (d.boot.bound < d.bootCounted) then d.bringTimeout.bootFailed d.boot.stage 7 else d.bringTimeout = d
  unfold Dev.bringTimeout
  split
  · rename_i h
    simp only [Bool.and_eq_true, beq_iff_eq] at h
    obtain ⟨⟨hstate, hfail⟩, -⟩ := h
    exact bootFail_fails ⟨hstate, rfl, hfail⟩
  · rfl

/-! ### Training, self-tests and the input power (R471, R473, R474) -/

/-- A training attempt of a stack that trains: the third that fails leaves it FAILED. -/
theorem trainStack_acts (d : Dev) (k : Nat) (pass : Bool) : if d.inStage 5 && decide (k < 32) && (d.drams.getD k {}).hstate == .training then
      ((d.trainStack k pass).drams.getD k {}).attempts = (d.drams.getD k {}).attempts + 1
        ∧ ((d.trainStack k pass).drams.getD k {}).hstate = (if pass then .active else if (d.drams.getD k {}).attempts + 1 < 3 then .training else .failed)
        ∧ (d.trainStack k pass).boot.stacksFailed = (if pass || decide ((d.drams.getD k {}).attempts + 1 < 3) then d.boot.stacksFailed else setBit d.boot.stacksFailed k)
        ∧ ∀ h, k ≠ h → (d.trainStack k pass).drams.getD h {} = d.drams.getD h {}
    else d.trainStack k pass = d := by
  split
  · rename_i h
    simp only [Bool.and_eq_true, beq_iff_eq] at h
    obtain ⟨⟨hstage, hk⟩, htraining⟩ := h
    unfold Dev.trainStack
    simp only [hstage, hk, htraining, Bool.not_true, bne_self_eq_false, Bool.or_self, Bool.false_eq_true, if_false]
    cases pass
    case true => exact ⟨by simp, by simp, by simp, fun h hne => getD_put_ne _ _ _ hne⟩
    case false =>
      by_cases hmore : (d.drams.getD k {}).attempts + 1 < 3
      · simp only [hmore, if_true, Bool.false_eq_true, if_false]
        exact ⟨by simp, by simp, by simp, fun h hne => getD_put_ne _ _ _ hne⟩
      · simp only [hmore, Bool.false_eq_true, if_false]
        exact ⟨by simp [Dev.updBoot], by simp [Dev.updBoot], by simp [Dev.updBoot], fun h hne => getD_put_ne _ _ _ hne⟩
  · rename_i h
    unfold Dev.trainStack
    refine if_pos ?_
    have hnot : (!(d.inStage 5 && decide (k < 32) && (d.drams.getD k {}).hstate == .training)) = true := by
      rw [Bool.not_eq_true']
      exact Bool.eq_false_iff.mpr h
    simpa [bne, Bool.not_and] using hnot

theorem testSlot_acts (d : Dev) (s : Nat) (pass : Bool) :
    if d.inStage 6 && decide (s < 20) && bit d.boot.clustersUp (s / 5) && !bit d.boot.tested s && (upFrom (s / 5 * 5) (s % 5)).all (fun x => bit d.boot.tested x) then
      (d.testSlot s pass).boot.tested = setBit d.boot.tested s ∧ (d.testSlot s pass).geom.retired = (if pass || bit d.geom.retired s then d.geom.retired else setBit d.geom.retired s)
    else d.testSlot s pass = d := by
  unfold Dev.testSlot
  split
  · cases pass
    case true => exact ⟨rfl, rfl⟩
    case false =>
      simp only [Bool.false_eq_true, if_false, Bool.false_or]
      unfold Dev.bootRetire
      show _ ∧ _
      by_cases hretired : bit d.geom.retired s = true
      · have hr : bit (d.updBoot (fun b => { b with tested := setBit b.tested s })).geom.retired s = true := hretired
        rw [if_pos hr, if_pos hretired]
        exact ⟨rfl, rfl⟩
      · have hr : ¬ bit (d.updBoot (fun b => { b with tested := setBit b.tested s })).geom.retired s = true := hretired
        rw [if_neg hr, if_neg hretired]
        exact ⟨rfl, rfl⟩
  · rfl

/-- The input power is back (R471). -/
def Dev.inputBack (d : Dev) : Dev := ({ d with pins := { d.pins with vin48 := true } } : Dev).trackHold

theorem trackHold_pins (d : Dev) : d.trackHold.pins = d.pins := by
  unfold Dev.trackHold
  dsimp only
  split
  · split <;> rfl
  · split
    · split
      · rfl
      · split <;> rfl
    · rfl

/-- Where nothing holds stage 3, it waits for the SMU. -/
theorem trackHold_releases (hhold : d.mustHold = false) (hen : d.boot.enables = true) : d.trackHold.boot.hold = false ∧ d.trackHold.boot.smuWait = true := by
  unfold Dev.trackHold
  simp only [hhold, hen, Bool.false_eq_true, if_false, if_true]
  split
  · exact ⟨rfl, rfl⟩
  · rename_i hno
    split
    · rename_i hwait
      exact ⟨Bool.eq_false_iff.mpr hno, hwait⟩
    · exact ⟨Bool.eq_false_iff.mpr hno, rfl⟩

theorem inputBack_acts (d : Dev) : d.inputBack.pins = { d.pins with vin48 := true } ∧ d.inputBack.modState = d.modState ∧ d.inputBack.boot.stage = d.boot.stage
    ∧ (d.boot.enables = true → d.pwr.junctions = [] → d.pwr.hubTemp < 85 → d.inputBack.boot.hold = false ∧ d.inputBack.boot.smuWait = true) := by
  have hplace := trackHold_place { d with pins := { d.pins with vin48 := true } }
  simp only [Dev.bootPlace, Prod.mk.injEq] at hplace
  obtain ⟨hstate, hstage, -⟩ := hplace
  refine ⟨trackHold_pins _, hstate, hstage, fun hen hcool htemp => trackHold_releases ?_ hen⟩
  simp [Dev.mustHold, hcool, Nat.not_le.mpr htemp]

end

/-- Settles O44: stage by stage, what the end of each needs and where it leads. -/
theorem bringUpStages : Obligations.BringUpStages := by
  intro s t stack slot pass x
  generalize hd : s.dueAt t = d
  have ends {P : Dev → Prop} (h : P (d.stageEnd x)) : ∃ y : Dev, exec (.bringupStageEnd t x) s = .next (s.endsWith t y) ∧ P y := ⟨_, run_of_due (f := (Dev.stageEnd · x)) hd rfl, h⟩
  refine ⟨fun h => ends ?stage0, fun h => ⟨fun hstart => ends (stage1_ends h hstart), fun hstart => ends (stage1_fails h hstart)⟩, fun h => ⟨fun hstart => ends ?stage2, fun hcold hstart => ends ?stage2Fails⟩,
    fun h => ⟨fun hgo => ends ?stage3, fun hwait => ends ((stageEnd_3 h).trans (stagePower_waits hwait))⟩, fun h => ⟨fun hup => ends ?stage4, fun hup => ends ?stage4Fails⟩,
    fun h => ⟨fun hwait => ends (stage5_waits h hwait), fun hdone => ⟨fun hfail => ends (stage5_fails h hdone hfail), fun hgood => ends (stage5_ends h hdone hgood)⟩⟩,
    fun h => ⟨fun hwait => ends (stage6_waits h hwait), fun hdone => ends (stage6_ends h hdone)⟩, fun h => ⟨fun hnone => ends ?stage7Fails, fun hsome => ends ?stage7⟩, fun h => ends (stageEnd_none h),
    ⟨_, run_of_due (f := Dev.inputTimeout) hd rfl, inputTimeout_acts d⟩, ⟨_, run_of_due (f := Dev.smuTimeout) hd rfl, smuTimeout_acts d⟩, ⟨_, run_of_due (f := Dev.bringTimeout) hd rfl, bringTimeout_acts d⟩,
    ⟨_, run_of_due (f := (Dev.trainStack · stack pass)) hd rfl, trainStack_acts d stack pass⟩, ⟨_, run_of_due (f := (Dev.testSlot · slot pass)) hd rfl, testSlot_acts d slot pass⟩,
    ⟨_, run_of_due (f := Dev.inputBack) hd rfl, inputBack_acts d⟩⟩
  case stage0 =>
    rw [stageEnd_0 h]
    exact enterStage_bootsAt (inStage_iff.mp h) 1
  case stage2 =>
    rw [stageEnd_2 h]
    rcases hwarm : d.boot.warm
    · obtain ⟨h1, h2⟩ := hstart.resolve_left (Bool.eq_false_iff.mp hwarm)
      exact (stageFirmware_cold (inStage_iff.mp h) hwarm).1 (Bool.and_eq_true_iff.mpr ⟨h1, h2⟩)
    · exact stageFirmware_warm (inStage_iff.mp h) hwarm
  case stage2Fails =>
    rw [stageEnd_2 h]
    exact (stageFirmware_cold (inStage_iff.mp h) hcold).2 hstart
  case stage3 =>
    rw [stageEnd_3 h]
    exact stagePower_ends (inStage_iff.mp h) hgo
  case stage4 =>
    rw [stageEnd_4 h]
    exact stageClusters_ends (inStage_iff.mp h) hup
  case stage4Fails =>
    rw [stageEnd_4 h]
    exact stageClusters_fails (inStage_iff.mp h) hup
  case stage7Fails =>
    rw [stageEnd_7 h]
    exact stageFinal_fails (inStage_iff.mp h) hnone
  case stage7 =>
    rw [stageEnd_7 h]
    exact stageFinal_ends (inStage_iff.mp h) hsome

end Sys2Proof.Machine
end
